-- ==== Sys2Proof/Word.lean ====
section
/-! DEFINITION. The data words of Fenrel-36 and the names of its halves and lanes (R4, R12, R19, R42). -/

namespace Sys2Proof

/-- A cell: 36 bits, bit 35 most significant (R42). -/
abbrev Cell := BitVec 36

/-- A 24-bit address of data space (cells) or instruction space (code words) (R62, R63). -/
abbrev Addr := BitVec 24

/-- A 16-bit I/O address (R66). -/
abbrev IoAddr := BitVec 16

/-- A 32-bit unit of the host port (R19). -/
abbrev HostWord := BitVec 32

/-- An octet of a packing, a card or a charter (R43). -/
abbrev Octet := BitVec 8

/-- The two halves of the block (R4). -/
inductive HalfId where
  | h0 | h1
deriving DecidableEq, Repr, Inhabited

/-- The three lanes of a half (R4). -/
inductive Lane where
  | a | b | c
deriving DecidableEq, Repr, Inhabited

/-- A cell of data space or a return-stack entry, with its hidden tag (R47). -/
structure TCell where
  val : Cell
  tag : Bool
deriving DecidableEq, Repr, Inhabited

/-- The half that is not `h`. -/
def HalfId.other : HalfId → HalfId
  | .h0 => .h1
  | .h1 => .h0

/-- The number of a half, 0 or 1 (R4). -/
def HalfId.toNat : HalfId → Nat
  | .h0 => 0
  | .h1 => 1

/-- An untagged cell (R48). -/
def TCell.plain (v : Cell) : TCell := ⟨v, false⟩

/-- The zero cell with its tag clear, which the scrub of R314 and an erased line (R320) leave. -/
def TCell.zero : TCell := ⟨0, false⟩

end Sys2Proof
end

