-- ==== Sys2Proof/Syntax.lean ====
section
/-! DEFINITION. The commands of Fenrel-36: one constructor for every row of the opcode table, with the operands that
the row takes from outside the state. `h` is the half that executes or is acted on; `w` is the half whose running
context makes a register write. What a sensor, a card, a flash, a supply or a lane upset does reaches the block as
an operand. -/

namespace Sys2Proof

/-- What a memory read met on its way back (R315, R322): SRAM or NVM. -/
inductive ReadOutcome where
  /-- No error. -/
  | clean
  /-- An error the line's code corrected: a single-bit SRAM error, or up to two bits of an NVM line. -/
  | corrected
  /-- A double-bit SRAM error, or an NVM line that fails to decode. -/
  | failed
deriving DecidableEq, Repr

/-- What one lane's account of a window differs by from the fault-free account (R246, R250): all zero in a lane that
no disturbance reached. -/
structure LaneReport where
  sig : BitVec 64
  chk : BitVec 8
deriving DecidableEq, Repr

/-- A verdict of one teller, or of the three together (R250-R252). -/
inductive Verdict where
  /-- Every in-service lane agrees. -/
  | unanimous
  /-- Two lanes agree and the named one dissents or has no signature. -/
  | dissent (l : Lane)
  /-- No two lanes agree. -/
  | noMajority
  /-- Only the named lane has a signature. -/
  | single (l : Lane)
  /-- No lane has a signature. -/
  | none
deriving DecidableEq, Repr

/-- The inputs of a verdict (R250): the lanes' reports (none: no signature reached the tellers within 64 cycles), and
for each teller a wrong verdict that a defect makes it give. -/
structure VerdictInput where
  a : Option LaneReport
  b : Option LaneReport
  c : Option LaneReport
  tellerA : Option Verdict
  tellerB : Option Verdict
  tellerC : Option Verdict
deriving DecidableEq, Repr

/-- What takes a half to READING-ROOM at once (R38): the compare path or the commons port is lost. -/
inductive PathLoss where
  | compare | commonsPort
deriving DecidableEq, Repr

/-- The requests of the running lanes for one read (R28): equal, or with a minority of one of three lanes, a following or
the leading one; or differing with no majority. -/
inductive LaneRequests where
  | same | follower | leader | split
deriving DecidableEq, Repr

/-- What comes back for an outstanding read (R28, R225): how the lanes asked for it, and how it read. -/
structure ReadReturn where
  lanes : LaneRequests
  outcome : ReadOutcome
deriving DecidableEq, Repr

/-- The half of an IN and, for an exchange, the time-base units between its samples (R268). -/
structure Sampling where
  half : HalfId
  d1 : Nat
  d2 : Nat
deriving DecidableEq, Repr

/-- The half of an instruction that reads cells before it retires (R117, R136, R137, R149), and the outcomes of those of its
reads, by number, that meet an error (R315, R322).
DESIGN CHOICE: log 104. -/
structure Fetching where
  half : HalfId
  errs : List (Nat × ReadOutcome)
deriving DecidableEq, Repr

/-- The half whose store buffer drains, and what the line read of a one-cell store meets (R312, R316). -/
structure Draining where
  half : HalfId
  outcome : ReadOutcome
deriving DecidableEq, Repr

/-- The cycles that have passed before a grant (R337), how a read that it serves reads (R315, R322), and whether a line that
the NVM patrol corrected had two bits wrong (R340). -/
structure GrantInput where
  cycles : Nat
  outcome : ReadOutcome
  twoBits : Bool
deriving DecidableEq, Repr

/-- The inputs of a frame tick (R33): the lane cycles that the current entry of each half has used since they were
last accounted (R385), the die temperature of each half in degrees Celsius (R389) and the time-base units passed. -/
structure TickInput where
  used0 : Nat
  used1 : Nat
  temp0 : Int
  temp1 : Int
  dt : Nat
deriving DecidableEq, Repr

/-- One beat of a host transaction (R430, R431): the byte address at which the transaction starts, the index of the
beat, and the signals of the beat. -/
structure HostBeat where
  write : Bool
  start : BitVec 16
  beat : BitVec 3
  burst : BitVec 2
  data : HostWord
  strobe : BitVec 4
  iid : Octet
deriving DecidableEq, Repr

/-- One line's frame of a folio data block (R462). -/
structure LineFrame where
  tag : BitVec 4
  octets : List Octet
  crc : BitVec 16
  stop : Bool
deriving DecidableEq, Repr

/-- What the charter port reads of one slot, and what the signature checks over it give (R485, R490, R492). -/
structure SlotInput where
  /-- The flash answered. -/
  responds : Bool
  /-- The fast and the quad read of the header return the same data. -/
  quadAgrees : Bool
  /-- The cells of the slot, in order (R486). -/
  cells : List Cell
  /-- The ML-DSA-65 signature verifies in half 0 and in half 1. -/
  mldsa0 : Bool
  mldsa1 : Bool
  /-- The ECDSA P-256 signature verifies in half 0 and in half 1. -/
  ecdsa0 : Bool
  ecdsa1 : Bool
deriving DecidableEq, Repr

/-- The inputs of charter verification: both slots, and whether an armed unlock response verifies (R559).
DEDUCED: log 70. -/
structure CharterInput where
  slot0 : SlotInput
  slot1 : SlotInput
  unlockOk : Bool
deriving DecidableEq, Repr

/-- How the flash ends a charter update (R501). -/
inductive FlashResult where
  | compareOk | mismatch | noResponse
deriving DecidableEq, Repr

/-- The commands: one constructor for each row of the opcode table. DESIGN CHOICE: log 3. -/
inductive Instr where
  /-- NOP (R102). Does nothing and retires as one slot. -/
  | nop (h : HalfId)
  /-- DUP (R102). Duplicates the top cell of the operand stack. -/
  | dup (h : HalfId)
  /-- DROP (R102). Removes the top cell of the operand stack. -/
  | drop (h : HalfId)
  /-- SWAP (R102). Exchanges the top two cells of the operand stack. -/
  | swap (h : HalfId)
  /-- OVER (R102). Pushes a copy of the second cell of the operand stack. -/
  | over (h : HalfId)
  /-- ROT (R102). Rotates the third cell of the operand stack to the top. -/
  | rot (h : HalfId)
  /-- NIP (R102). Removes the second cell of the operand stack. -/
  | nip (h : HalfId)
  /-- TUCK (R102). Copies the top cell beneath the second cell. -/
  | tuck (h : HalfId)
  /-- ADD (R104). Adds two cells modulo 2^36 and updates C and V, possibly raising ARITH. -/
  | add (h : HalfId)
  /-- SUB (R104). Subtracts two cells modulo 2^36 and updates C and V. -/
  | sub (h : HalfId)
  /-- AND (R102). Bitwise AND of two cells. -/
  | and (h : HalfId)
  /-- OR (R102). Bitwise OR of two cells. -/
  | or (h : HalfId)
  /-- XOR (R102). Bitwise XOR of two cells. -/
  | xor (h : HalfId)
  /-- NOT (R102). Bitwise complement of the top cell. -/
  | not (h : HalfId)
  /-- NEG (R104). Negates the top cell and updates C and V. -/
  | neg (h : HalfId)
  /-- ADDC (R104). Adds two cells and the carry, updating C and V. -/
  | addc (h : HalfId)
  /-- SHL (R109). Shifts a cell left by n mod 36, filling with zeros. -/
  | shl (h : HalfId)
  /-- SHR (R109). Shifts a cell right by n mod 36, filling with zeros. -/
  | shr (h : HalfId)
  /-- SAR (R109). Shifts a cell right arithmetically by n mod 36. -/
  | sar (h : HalfId)
  /-- ROL (R109). Rotates a cell left by n mod 36. -/
  | rol (h : HalfId)
  /-- EQ (R110). Pushes all-ones when two cells are equal, else zero. -/
  | eq (h : HalfId)
  /-- LT (R110). Signed less-than comparison of two cells. -/
  | lt (h : HalfId)
  /-- ULT (R110). Unsigned less-than comparison of two cells. -/
  | ult (h : HalfId)
  /-- ZEQ (R110). Pushes all-ones when the top cell is zero. -/
  | zeq (h : HalfId)
  /-- MUL (R111). Forms the unsigned 72-bit product, pushing lo then hi, in 4 stalling cycles. -/
  | mul (h : HalfId)
  /-- DIVM (R112). Signed division truncating toward zero, pushing remainder and quotient. -/
  | divm (h : HalfId)
  /-- UDIVM (R112). Unsigned division pushing remainder and quotient. -/
  | udivm (h : HalfId)
  /-- PK12 (R45). Packs three 12-bit fields into one cell. -/
  | pk12 (h : HalfId)
  /-- UP12 (R45). Unpacks a cell into its three 12-bit fields. -/
  | up12 (h : HalfId)
  /-- OGET (R44). Extracts octet n of a cell. -/
  | oget (h : HalfId)
  /-- OPUT (R44). Replaces octet n of a cell. -/
  | oput (h : HalfId)
  /-- TOR (R103). Moves the top cell to the return stack as an untagged entry. -/
  | tor (h : HalfId)
  /-- FROMR (R103). Moves the top return entry to the operand stack, faulting on a tagged entry. -/
  | fromr (h : HalfId)
  /-- LDN (R114). Loads one cell through Cn after the capability checks, forwarding from the store buffer. -/
  | ldn (h : HalfId) (n : BitVec 2)
  /-- STN (R114). Retires one cell store through Cn into the store buffer, closing the window if it would exceed 8 entries. -/
  | stn (h : HalfId) (n : BitVec 2)
  /-- CLD (R117). Loads a tagged capability pair through C0 into Cn. -/
  | cld (h : Fetching)
  /-- CST (R118). Stores Cn as a tagged pair through C0 subject to the GL rule. -/
  | cst (h : HalfId)
  /-- CNAR (R57). Narrows Cn in place by offset, length and permission mask. -/
  | cnar (h : HalfId)
  /-- CGET (R60). Pushes one field of a capability register. -/
  | cget (h : HalfId)
  /-- IN (R121). Issues one I/O read through C3 on agreement of two lanes and logs the value. -/
  | inp (h : Sampling)
  /-- OUT (R122). Retires an I/O write through C3 into the store buffer and closes the window. -/
  | outp (h : HalfId)
  /-- IFETCH (R120). Reads a code word through PCC as an untagged cell. -/
  | ifetch (h : HalfId)
  /-- JMP (R83). Transfers to an absolute code-word address after the target check. -/
  | jmp (h : HalfId) (slot1 : BitVec 6) (target : Addr)
  /-- BZ (R83). Pops a condition and branches by displacement when it is zero. -/
  | bz (h : HalfId) (field : BitVec 30)
  /-- BNZ (R83). Pops a condition and branches by displacement when it is nonzero. -/
  | bnz (h : HalfId) (field : BitVec 30)
  /-- CALL (R125). Pushes the masked registers and a return entry and transfers to the target. -/
  | call (h : HalfId) (mask : BitVec 6) (target : Addr)
  /-- CALLI (R81). Pops a target, pushes masked registers and a return entry, and transfers. -/
  | calli (h : HalfId) (mask : BitVec 6)
  /-- RET (R126). Pops the return entry and saved registers and resumes at the recorded slot. -/
  | ret (h : HalfId)
  /-- LIT (R83). Pushes the sign-extended field, or the next code word as LIT36. -/
  | lit (h : HalfId) (field : Cell)
  /-- LITH (R83). Shifts the top cell left and appends the unsigned field. -/
  | lith (h : HalfId) (field : BitVec 30)
  /-- REP (R77). Pops a count and repeats the next slot's instruction, interruptibly. -/
  | rep (h : HalfId) (target : BitVec 6)
  /-- REPU (R77). Repeats a target by a slot count without interruption. -/
  | repu (h : HalfId) (count : BitVec 6) (target : BitVec 6)
  /-- LOOP (R170). Pops a count and sets up a hardware loop level in a privileged context. -/
  | loop (h : HalfId) (len : BitVec 6)
  /-- WAIT (R129). Pops timeout and eventmask, tests the end conditions and, if none holds, closes the window and waits. -/
  | wait (h : HalfId)
  /-- WAIT_END (R131). A waiting WAIT ends on its first condition, pushes its status and retires as the first slot of a new window. -/
  | waitEnd (h : HalfId) (timeUp : Bool)
  /-- TRAP (R89). Pushes the trap number and raises a TRAP fault. -/
  | trap (h : HalfId) (n : BitVec 6)
  /-- ILL (R72, R86). Raises an ILLEGAL fault; a reserved selector of RK (true) or EXT (false) does the same. -/
  | ill (h : HalfId) (sel : Option (Bool × BitVec 6))
  /-- CLZ (R135). Pushes the count of leading zeros of a cell. -/
  | clz (h : HalfId)
  /-- POPC (R135). Pushes the count of set bits of a cell. -/
  | popc (h : HalfId)
  /-- XCH (R135). Exchanges the top cell with X. -/
  | xch (h : HalfId)
  /-- XGET (R135). Pushes X. -/
  | xget (h : HalfId)
  /-- XPUT (R135). Pops into X. -/
  | xput (h : HalfId)
  /-- SPILLD (R136). Spills up to 8 oldest operand cells to SPD. -/
  | spilld (h : HalfId)
  /-- FILLD (R136). Fills operand cells back from SPD. -/
  | filld (h : Fetching)
  /-- SPILLT (R137). Spills 8 oldest return entries to SPT, losing the context on failure. -/
  | spillt (h : HalfId)
  /-- FILLT (R137). Fills 8 return entries back from SPT with their tags. -/
  | fillt (h : Fetching)
  /-- DEPTH (R138). Pushes the operand-stack depth. -/
  | depth (h : HalfId)
  /-- RDEPTH (R138). Pushes the return-stack depth. -/
  | rdepth (h : HalfId)
  /-- GETST (R139). Pushes the status cell and clears V. -/
  | getst (h : HalfId)
  /-- SETST (R139). Writes the writable status bits from the popped cell. -/
  | setst (h : HalfId)
  /-- RETI (R140). Pops an exception frame, restores status and resumes, unwinding borrow links and entering held faults. -/
  | reti (h : HalfId) (evCycles : Nat)
  /-- YIELD (R141). Ends the current schedule entry, releases any lease and closes the window. -/
  | yield (h : HalfId) (used : Nat)
  /-- FENCE (R142). Closes the window and stalls until voted and drained, then delivers a pending mint and rereads handler heads. -/
  | fence (h : HalfId)
  /-- LEASE (R143). Requests an energy lease of a class and pushes the grant status. -/
  | lease (h : HalfId)
  /-- UNLEASE (R143). Returns the unused part of the held lease. -/
  | unlease (h : HalfId)
  /-- TENANT (R144). Pushes the running tenant ID. -/
  | tenant (h : HalfId)
  /-- TIMEL (R144). Pushes the low cell of the time base and latches the high cell. -/
  | timel (h : HalfId) (dt : Nat)
  /-- TIMEH (R144). Pushes the latched high cell of the time base. -/
  | timeh (h : HalfId)
  /-- FLEETCHK (R145). Tests a fleet member against the revocation bitmap. -/
  | fleetchk (h : HalfId)
  /-- SEAL (R146). Converts Cn into a sealed capability. -/
  | seal (h : HalfId)
  /-- UNSEAL (R146). Converts a sealed capability back to data or instruction space. -/
  | unseal (h : HalfId)
  /-- CINV (R216). Invokes a sealed entry, or returns through a return capability. -/
  | cinv (h : HalfId)
  /-- CREVOKE (R148). Advances a tenant's generation, via its home half, and closes the window. -/
  | crevoke (h : HalfId)
  /-- CTXLD (R176). Checks and loads a context image into a bank of the half. -/
  | ctxld (h : Fetching)
  /-- CTXSV (R594). Checks and writes a bank's image to memory in groups of 8 cells. -/
  | ctxsv (h : HalfId)
  /-- SYNC (R351). Waits until a ticket ends or an entry is due, then pushes its status. -/
  | sync (h : HalfId)
  /-- STAT (R351). Pushes the status of a reckoner ticket. -/
  | stat (h : HalfId)
  /-- SAVE (R355). Queues writing the reckoner image to memory and zeroising the registers. -/
  | save (h : HalfId)
  /-- LOAD (R366). Queues reading a reckoner image into the wide registers. -/
  | load (h : HalfId)
  /-- CLEAR (R355). Queues zeroising W0-W7. -/
  | clear (h : HalfId)
  /-- WLD (R355). Queues loading memory cells into a wide register. -/
  | wld (h : HalfId)
  /-- WST (R355). Queues storing a wide register to memory. -/
  | wst (h : HalfId)
  /-- WMOV (R355). Queues copying one wide register to another. -/
  | wmov (h : HalfId)
  /-- MMUL (R355). Queues a Montgomery modular multiply. -/
  | mmul (h : HalfId)
  /-- MEXP (R355). Queues a sliced modular exponentiation. -/
  | mexp (h : HalfId)
  /-- NTT (R355). Queues a forward number-theoretic transform. -/
  | ntt (h : HalfId)
  /-- INTT (R355). Queues an inverse number-theoretic transform. -/
  | intt (h : HalfId)
  /-- PMUL (R355). Queues a pointwise polynomial multiply. -/
  | pmul (h : HalfId)
  /-- AESKS (R355). Queues an AES key schedule. -/
  | aesks (h : HalfId)
  /-- AESBLK (R355). Queues one AES block encryption or decryption. -/
  | aesblk (h : HalfId)
  /-- GCMENC (R356). Queues AES-GCM encryption from a parameter block. -/
  | gcmenc (h : HalfId)
  /-- GCMDEC (R356). Queues AES-GCM decryption and tag check. -/
  | gcmdec (h : HalfId)
  /-- KECCAK (R355). Queues a Keccak-f[1600] permutation. -/
  | keccak (h : HalfId)
  /-- SHA2 (R356). Queues a SHA-256 or SHA-384 hash step. -/
  | sha2 (h : HalfId)
  /-- SHA3 (R356). Queues a SHA3-256 hash step. -/
  | sha3 (h : HalfId)
  /-- SHAKE (R356). Queues a SHAKE128 or SHAKE256 step. -/
  | shake (h : HalfId)
  /-- ECSIGN (R356). Queues an ECDSA signature. -/
  | ecsign (h : HalfId)
  /-- ECVER (R356). Queues an ECDSA verification. -/
  | ecver (h : HalfId)
  /-- EDSIGN (R356). Queues an Ed25519 signature. -/
  | edsign (h : HalfId)
  /-- EDVER (R356). Queues an Ed25519 verification. -/
  | edver (h : HalfId)
  /-- X25519 (R356). Queues an X25519 scalar multiplication. -/
  | x25519 (h : HalfId)
  /-- ECKEY (R518). Queues an elliptic-curve key pair generation, optionally into a vault slot. -/
  | eckey (h : HalfId)
  /-- RSAPRIV (R356). Queues a sliced RSA CRT secret-key operation. -/
  | rsapriv (h : HalfId)
  /-- RSAPUB (R356). Queues an RSA public-key operation. -/
  | rsapub (h : HalfId)
  /-- KEMGEN (R356). Queues ML-KEM key generation. -/
  | kemgen (h : HalfId)
  /-- KEMENC (R356). Queues ML-KEM encapsulation. -/
  | kemenc (h : HalfId)
  /-- KEMDEC (R356). Queues ML-KEM decapsulation. -/
  | kemdec (h : HalfId)
  /-- DSAGEN (R356). Queues ML-DSA key generation. -/
  | dsagen (h : HalfId)
  /-- DSASIGN (R361). Queues a sliced ML-DSA signature. -/
  | dsasign (h : HalfId)
  /-- DSAVER (R356). Queues an ML-DSA verification. -/
  | dsaver (h : HalfId)
  /-- COMMAND_START (R359). The head reckoner command starts once its predecessor ends and, if heavy, its lease is granted, checking ownership and memory. -/
  | commandStart (h : HalfId) (bad : Bool)
  /-- SLICE_END (R361). A slice of a sliced command ends, is charged and the next slice requests its lease. -/
  | sliceEnd (h : HalfId)
  /-- COMMAND_FINISH (R362). A reckoner command finishes or fails, placing its writes in the memory queue. -/
  | commandFinish (h : HalfId) (checkFails : Bool)
  /-- ARITH_ENTRY (R107). A pending ARITH is taken at its boundary up to six slots after the offending instruction. -/
  | arithEntry (h : HalfId)
  /-- EVENT_ENTRY (R414). At a boundary the best takeable request enters its context's EVENT handler, borrowing the half if needed. -/
  | eventEntry (h : HalfId)
  /-- READ_DATA_RETURN (R225). Data of an outstanding memory read returns, or voids the read with an imprecise BUS fault. -/
  | readDataReturn (h : HalfId) (r : ReadReturn)
  /-- MEMORY_GRANT (R336). The arbitration hierarchy grants a waiting request to a bank under its levels and the age rule. -/
  | memoryGrant (h : HalfId) (bank : BitVec 4) (cycles : GrantInput)
  /-- STORE_DRAIN (R200). The next store-buffer entry of an agreed window is accepted by its target and freed. -/
  | storeDrain (h : Draining)
  /-- REGISTER_WRITE (R122). A write to a register without a row of its own takes effect when accepted. -/
  | registerWrite (h : HalfId) (a : IoAddr) (x0 x1 : Cell)
  /-- WINDOW_TIMER_EXPIRY (R243). The 4 micros window timer expires and the window closes at the next boundary. -/
  | windowTimerExpiry (h : HalfId)
  /-- WINDOW_SLOT_LIMIT (R189). The 2,048th retired slot closes the window. -/
  | windowSlotLimit (h : HalfId)
  /-- INPUT_LOG_LIMIT (R267). The 64th input-log entry of a window closes it. -/
  | inputLogLimit (h : HalfId)
  /-- TELLER_VERDICT (R250). The tellers give a verdict on the oldest closed window: drain, bookmark, dissent, rollback or READING-ROOM. -/
  | tellerVerdict (h : HalfId) (v : VerdictInput)
  /-- ROLLBACK_RESTART (R256). After reset and bookmark restore, the lanes restart the re-executed window. -/
  | rollbackRestart (h : HalfId)
  /-- REEXECUTION_LIMIT (R257). The re-execution limit expires and closes the re-executed window. -/
  | reexecutionLimit (h : HalfId)
  /-- RESYNC_COPY_COMPLETE (R261). The bank copy into a dissenting lane completes and a join close is forced. -/
  | resyncCopyComplete (h : HalfId) (l : Lane)
  /-- RESYNC_JOIN (R261). At the forced close the joining lane restarts and the half returns to TALLIED. -/
  | resyncJoin (h : HalfId) (l : Lane)
  /-- AUDIT_START (R278). A lane leaves service at a close and starts 4 ms of BIST. -/
  | auditStart (h : HalfId)
  /-- AUDIT_COMPLETE (R278). BIST ends; a passing lane rejoins by resync, a failing lane is fenced. -/
  | auditComplete (h : HalfId) (l : Lane) (pass : Bool)
  /-- AUDIT_COUNTDOWN_EXPIRY (R277). The rotation countdown reaches 0 and a rotation audit becomes due. -/
  | auditCountdownExpiry (h : HalfId)
  /-- BUCKET_DRAIN (R272). Every 4,096 frames each nonzero lane bucket loses 1. -/
  | bucketDrain (h : HalfId)
  /-- SLOW_COUNT_DRAIN (R274). Every 65,536 frames the slow count falls by 1. -/
  | slowCountDrain (h : HalfId)
  /-- COMPARATOR_INJECTION (R270). The eight injection cases run through the tellers and the result is applied. -/
  | comparatorInjection (h : HalfId) (cases : BitVec 8)
  /-- TLY_INJECT (R271). A write of go requests comparator injection at the next close. -/
  | tlyInject (w h : HalfId)
  /-- TLY_AUDIT_NOW (R280). A write of now requests an audit of the next lane. -/
  | tlyAuditNow (w h : HalfId)
  /-- TLY_FENCE (R284). A write of a fence bit fences a lane at the next close as a failed audit. -/
  | tlyFence (w h : HalfId) (lanes : BitVec 3)
  /-- READING_ROOM_ENTRY (R38). Loss of a second signature or of the commons port puts the half in READING-ROOM at once. -/
  | readingRoomEntry (h : HalfId) (loss : PathLoss)
  /-- PLL_LOCK (R481). The PLL locks; at the next close the lanes switch to 600 MHz. -/
  | pllLock
  /-- PLL_HOLDOVER (R583). The PLL loses lock or REF_CLK stops and the PLL holds its control value, reported as a VCORE glitch. -/
  | pllHoldover
  /-- FRAME_TICK (R33). A frame tick closes the window, installs accepted tables, reloads energy, grants standing leases and starts the schedule. -/
  | frameTick (t : TickInput)
  /-- FSYNC_EDGE (R371). An external frame-sync edge is ignored, counted early or taken as a tick. -/
  | fsyncEdge (since : Nat) (t : TickInput)
  /-- BUDGET_EXPIRY (R386). An entry's cycle budget reaches 0 and BUDGET-OVERRUN is raised in the context. -/
  | budgetExpiry (h : HalfId)
  /-- EVENT_ACCOUNT_EXHAUSTED (R387). The frame's event account reaches 0, ev_over is set and the scheduler source raised. -/
  | eventAccountExhausted (h : HalfId)
  /-- COMMIT (R380). A write of SCH_CTRL.commit starts admission of the shadow table. -/
  | commit (w h : HalfId)
  /-- CAP_WRITE (R380). A write of GOV_BUDGET with a new cap starts an admission check. -/
  | capWrite (w h : HalfId) (v : Cell)
  /-- ADMISSION_DONE (R380). An admission check ends accepted or refused in SCH_STAT. -/
  | admissionDone (h : HalfId)
  /-- LEASE_GRANT (R392). A standing lease or program request is granted as soon as it fits. -/
  | leaseGrant (h : HalfId)
  /-- VFIELD_CROSSING (R394). VFIELD crosses the sag threshold; a short excursion counts a dip. -/
  | vfieldCrossing (level : BitVec 8) (ns : Nat)
  /-- SAG_START (R395). VFIELD stays low 2 micros, NVM grants are withdrawn and the frame is disturbed. -/
  | sagStart (h : HalfId)
  /-- SAG_END (R394). VFIELD stays above threshold plus 0.2 V for 2 micros and the sag ends. -/
  | sagEnd (h : HalfId)
  /-- EXTERNAL_EDGE (R420). A counted edge on an external input reaches its coalescer, possibly setting pending. -/
  | externalEdge (n : BitVec 7) (level : Bool) (dt : Nat)
  /-- COALESCER_TIME_EXPIRY (R418). A coalescer's time threshold passes and it fires. -/
  | coalescerTimeExpiry (s : BitVec 8) (dt : Nat)
  /-- COMPARE_TIMER_FIRE (R423). The time base reaches a compare value and its source fires. -/
  | compareTimerFire (n : BitVec 2) (dt : Nat)
  /-- EVC_SETPEND (R408). Writing 1 to a SETPEND bit sets a source pending. -/
  | evcSetpend (w : HalfId) (k : BitVec 3) (bits : BitVec 32)
  /-- EVC_CLRPEND (R408). Writing 1 to a CLRPEND bit clears pending and sets active. -/
  | evcClrpend (w : HalfId) (k : BitVec 3) (bits : BitVec 32)
  /-- EVC_DONE (R408). Writing a source number clears its active bit or counts a miss. -/
  | evcDone (w : HalfId) (s : BitVec 8)
  /-- EVC_ROUTE (R407). Writing a route sends a source to a new global context. -/
  | evcRoute (w : HalfId) (s : BitVec 8) (ctx : BitVec 6)
  /-- EVC_COAL (R419). Writing coalescer thresholds may fire the coalescer in the next cycle. -/
  | evcCoal (w : HalfId) (s : BitVec 8) (v : Cell)
  /-- EVC_TCMP (R423). Writing a compare value arms or disarms a timer. -/
  | evcTcmp (w : HalfId) (n : BitVec 2) (lo hi : Cell)
  /-- EB_SET (R452). A host write sets granted external sources pending through the event bridge. -/
  | ebSet (k : BitVec 2) (bits : BitVec 32)
  /-- HOST_BEAT (R431). A host port beat is taken and completes OKAY or with an error. -/
  | hostBeat (b : HostBeat)
  /-- IN_POST (R441). A host write posts the staging cells as an inbound entry. -/
  | inPost (c : BitVec 6) (iid : Octet)
  /-- HCH_RX_RESET (R447). Host receiver reset of the outbound direction flags queued entries stale. -/
  | hchRxReset (c : BitVec 6)
  /-- HCH_TX_RESET (R447). Host sender reset of the inbound direction advances its epoch and stops the timer. -/
  | hchTxReset (c : BitVec 6)
  /-- CLR_COLL (R438). A host write clears coll_in. -/
  | clrColl (c : BitVec 6)
  /-- HCH_POP (R442). A host write removes the outbound head entry. -/
  | hchPop (c : BitVec 6)
  /-- HCH_ACK (R444). The host's ack write completes the block sender's ack or is discarded as orphan. -/
  | hchAck (c : BitVec 6) (v : HostWord)
  /-- MBX_POST (R441). A block write posts staging cells as an outbound entry. -/
  | mbxPost (w : HalfId) (c : BitVec 6)
  /-- MBX_POP (R442). A block read returns the inbound head's stamp and removes it. -/
  | mbxPop (w : HalfId) (c : BitVec 6)
  /-- MBX_ACK (R444). The block's ack write completes the host's ack or is discarded as orphan. -/
  | mbxAck (w : HalfId) (c : BitVec 6) (code : BitVec 12)
  /-- MBX_RX_RESET (R447). Block receiver reset flags queued inbound entries stale and advances the receive epoch. -/
  | mbxRxReset (w : HalfId) (c : BitVec 6)
  /-- MBX_TX_RESET (R447). Block sender reset advances the outbound sender epoch and stops the timer. -/
  | mbxTxReset (w : HalfId) (c : BitVec 6)
  /-- MBX_RING (R451). A block write sets bits of DB_SW. -/
  | mbxRing (w : HalfId) (bits : BitVec 32)
  /-- ACK_TIMEOUT (R445). At the tmo-th tick without an ack the controller completes it with TIMEOUT. -/
  | ackTimeout (c : BitVec 6) (inbound : Bool)
  /-- ACK_DELAYED_EFFECT (R548). A receiver ack delayed by PRT_ACK takes effect and is tested. -/
  | ackDelayedEffect (c : BitVec 6) (inbound : Bool)
  /-- HOST_RESET (R435). A permitted HP_CTL.reset write requests a block reset. -/
  | hostReset
  /-- HOST_KEEP (R435). A permitted HP_CTL.keep write requests KEEP entry. -/
  | hostKeep
  /-- ISO_REQ_RISE (R433). A rise of ISO_REQ detaches the block and requests KEEP. -/
  | isoReqRise
  /-- ISO_REQ_FALL (R434). A fall of ISO_REQ is a host attach wake cause. -/
  | isoReqFall
  /-- KEEP_REQUEST (R509). A write of KEP_CTRL.keep requests KEEP entry. -/
  | keepRequest (w : HalfId)
  /-- KEEP_ENTRY (R41). Once all halves close and programs end, the block enters or emulates KEEP and isolates. -/
  | keepEntry
  /-- KEEP_LATCH_EDGE (R421). A keep latch catches an input edge in KEEP and may wake the block. -/
  | keepLatchEdge (n : BitVec 7)
  /-- RTC_ALARM (R510). The RTC reaches the alarm value and wakes the block if enabled. -/
  | rtcAlarm
  /-- RTC_TICK (R506). The RTC advances by one tick. -/
  | rtcTick
  /-- WITNESS_HEARTBEAT (R304). A half toggles its witness heartbeat line every 8 micros. -/
  | witnessHeartbeat (h : HalfId)
  /-- KEP_RTCSET (R506). A write sets the RTC. -/
  | kepRtcset (w : HalfId) (lo hi : Cell)
  /-- RESET_RELEASE (R481). Block or half reset is released and bring-up starts. -/
  | resetRelease
  /-- CHARTER_VERIFIED (R492). Both charter signatures are checked and the slot accepted or rejected. -/
  | charterVerified (c : CharterInput)
  /-- CHARTER_INSTALL (R495). The charter's values are installed and the half enters EARLY. `p0` and `p1` are what the
  routine of R498 finds of the warden images of half 0 and half 1 (R496). -/
  | charterInstall (p0 p1 : Bool)
  /-- BLOCK_RESET (R480). A write of CHT_CTL.block_reset starts a block reset. -/
  | blockReset (w : HalfId)
  /-- HALF_RESET (R480). A write of a CHT_CTL.half_reset bit resets one half. -/
  | halfReset (w h : HalfId)
  /-- CHT_TST (R499). A warden write sets a tenant's image state. -/
  | chtTst (w : HalfId) (v : Cell)
  /-- CHARTER_UPDATE (R500). A write of CHT_UGO.go starts or refuses a charter update. -/
  | charterUpdate (w : HalfId)
  /-- FLASH_STATUS_POLL (R501). Every 10 micros the update engine polls the flash status. -/
  | flashStatusPoll (busy : Bool)
  /-- CHARTER_UPDATE_DONE (R501). The update ends done or failed and source 198 is raised. -/
  | charterUpdateDone (r : FlashResult)
  /-- CONTEXT_RESET (R154). A write of MEM_CTXRST.go resets a local context at a forced close. -/
  | contextReset (w : HalfId) (ctx : BitVec 5)
  /-- MINT (R214). A write of MEM_MINTGO.go refuses or makes a mint pending. -/
  | mint (w : HalfId) (n : BitVec 2)
  /-- KC_FLUSH (R340). A write of kc_flush empties the key cache. -/
  | kcFlush (w h : HalfId)
  /-- NVSYNC_FLUSH (R326). A write of MEM_NVSYNC.flush makes every merge-buffer entry due. -/
  | nvsyncFlush (w h : HalfId)
  /-- HOLD_EXPIRY (R326). A merge-buffer entry's hold time passes and it becomes due. -/
  | holdExpiry (h : HalfId) (i : BitVec 3)
  /-- LINE_PROGRAM_COMPLETE (R327). An NVM line program completes, frees its entry and notifies line buffers. -/
  | lineProgramComplete (h : HalfId) (verified : Bool) (again : Bool)
  /-- IMAGE_SWAP (R332). A write of MEM_IMGk.swap is refused or programs the new side. -/
  | imageSwap (w h : HalfId) (k : BitVec 4)
  /-- SRAM_PATROL (R317). A bank's patrol reads and corrects one SRAM line every 512 cycles. -/
  | sramPatrol (h : HalfId) (bank : BitVec 2) (r : ReadOutcome)
  /-- NVM_PATROL (R340). A bank's patrol reads one NVM line every 4,096 cycles and schedules refreshes. -/
  | nvmPatrol (h : HalfId) (bank : BitVec 3) (r : ReadOutcome) (twoBits : Bool)
  /-- MCT_INC (R334). A write of MCT_INCk assigns the counter's next value pending its program. -/
  | mctInc (w : HalfId) (k : Octet)
  /-- COMMONS_STORE_PROGRAM_COMPLETE (R334). A commons-store program completes, making a counter, fleet bit, slot or daybook entry durable. -/
  | commonsStoreProgramComplete
  /-- DBK_PUT (R538). A write of DBK_PUT makes one firmware daybook report. -/
  | dbkPut (w : HalfId) (x0 x1 : Cell)
  /-- RKN_OWN (R344). A write of RKN_OWN sets the reckoner owner at a forced close. -/
  | rknOwn (w h : HalfId) (v : Cell)
  /-- FLIT_RECEIVE (R288). A span flit is received, checked and applied once in sequence, or replay requested. -/
  | flitReceive (h : HalfId) (goodA goodB same : Bool)
  /-- SPAN_REPLAY (R288). The sender resends from its replay buffer 24 span cycles after a request. -/
  | spanReplay (h : HalfId)
  /-- SPAN_HEARTBEAT (R288). A heartbeat flit is sent on each path every 64 span cycles. -/
  | spanHeartbeat (h : HalfId) (pathB good : Bool)
  /-- PATH_HEARTBEAT_TIMEOUT (R289). No good heartbeat for 256 span cycles takes a path down. -/
  | pathHeartbeatTimeout (pathB : Bool)
  /-- PATH_DISABLE (R294). A write of a dis bit takes a span path out of service. -/
  | pathDisable (w h : HalfId) (v : Cell)
  /-- SPAN_RECOVERY_COMPLETE (R310). Recovery steps end and remote accesses resume with the span UP or DEGRADED. -/
  | spanRecoveryComplete
  /-- GENERATION_APPLY (R297). A generation update from the other half applies at a forced close. -/
  | generationApply (h : HalfId)
  /-- MIGRATION_START (R299). A write of SPN_MIGGO.go refuses or starts a migration. -/
  | migrationStart (w : HalfId)
  /-- MIGRATION_DONE (R299). The restamp of the image ends and SPN_MIGST reads done. -/
  | migrationDone (h : HalfId)
  /-- COMMAND (R456). A CRD_GO op 0 start sends a folio command. -/
  | command (w : HalfId) (n : BitVec 2)
  /-- READ (R459). A CRD_GO op 1 start reads folio blocks into staging. -/
  | read (w : HalfId) (n : BitVec 2)
  /-- WRITE (R459). A CRD_GO op 2 start writes folio blocks from memory. -/
  | write (w : HalfId) (n : BitVec 2)
  /-- TPDU (R467). A CRD_GO op 3 start runs a 7816 T=0 TPDU. -/
  | tpdu (w : HalfId) (n : BitVec 2)
  /-- RESET (R470). A CRD_GO op 4 start repeats card start-up. -/
  | reset (w : HalfId) (n : BitVec 2)
  /-- ABORT (R460). A write of CRD_GO.abort ends a running transfer with ABORTED. -/
  | abort (w : HalfId)
  /-- FOLIO_RESPONSE (R463). A folio short response is received and checked. -/
  | folioResponse (f : BitVec 24)
  /-- FOLIO_DATA_BLOCK (R462). A folio data block is received on all lines and checked. -/
  | folioDataBlock (lines : List LineFrame)
  /-- FOLIO_RECEIPT (R462). A WRITE block receipt is received and checked. -/
  | folioReceipt (f : BitVec 10)
  /-- FOLIO_TIMEOUT (R463). A folio response, data, receipt or busy limit expires. -/
  | folioTimeout
  /-- FOLIO_BUSY_RETRY (R463). A busy card's command is reissued after 1 ms. -/
  | folioBusyRetry
  /-- CARD_COMMIT_DONE (R460). A transfer's commit ends, the transfer is done and completion delivered. -/
  | cardCommitDone
  /-- CARD_DETECT (R470). CRD_DET holds a level for 1 ms; the card becomes present or gone. -/
  | cardDetect (level : Bool)
  /-- ATR (R465). A 7816 ATR is received and its parameters applied. -/
  | atr (octets : List Octet)
  /-- PPS_RESPONSE (R465). The card's PPS reply applies or rejects the pair. -/
  | ppsResponse (octets : List Octet)
  /-- CHARACTER_RECEIVE (R466). A 7816 character or procedure byte is received. -/
  | characterReceive (o : Octet) (parityOk : Bool)
  /-- WORK_WAITING_TIMEOUT (R467). The work waiting time expires and the transfer fails. -/
  | workWaitingTimeout
  /-- ACTIVATION_TIMEOUT (R464). No ATR arrives in time, or the 10 ms wait ends, and the card is deactivated or reactivated. -/
  | activationTimeout
  /-- CLOCK_STOP (R468). After 1,860 idle clocks the 7816 clock stops. -/
  | clockStop
  /-- TAMPER_TRIP (R513). A tamper sensor trips and its response is applied. -/
  | tamperTrip (sensor : BitVec 3)
  /-- MESH_CHECK (R512). The shield mesh pattern is checked. -/
  | meshCheck (differs : Bool)
  /-- SEED_READY (R521). The conditioner yields a 384-bit seed every 144 micros. -/
  | seedReady
  /-- RNG_STARTUP_DONE (R522). The RNG start-up tests end and the DRBG may be instantiated. -/
  | rngStartupDone (pass : Bool)
  /-- RNG_OUT (R523). A read of RNG_OUT takes 32 DRBG bits, generating or reseeding as needed. -/
  | rngOut (h : HalfId)
  /-- RNG_RAW (R524). A read of RNG_RAW pops one raw sample. -/
  | rngRaw (h : HalfId)
  /-- RAW_MODE_ENTER (R524). A write of raw = 1 enters raw-sample test mode. -/
  | rawModeEnter (w : HalfId) (src : BitVec 2)
  /-- RAW_MODE_EXIT (R524). A write of raw = 0 empties the FIFO and reruns start-up tests. -/
  | rawModeExit (w : HalfId)
  /-- ASSIGN (R519). VLT_GO op 0 sets a free slot's type and owner. -/
  | assign (w : HalfId) (slot : BitVec 10) (type : BitVec 4) (owner : BitVec 10)
  /-- ZEROISE (R519). VLT_GO op 1 erases a slot's key keeping its assignment. -/
  | zeroise (w : HalfId) (slot : BitVec 10)
  /-- RELEASE (R519). VLT_GO op 2 erases and frees a slot. -/
  | release (w : HalfId) (slot : BitVec 10)
  /-- IMPORT (R519). VLT_GO op 3 fills a slot from data space. -/
  | vltImport (w : HalfId) (slot : BitVec 10)
  /-- LOCK_THE_VAULT (R520). VLT_GO op 4 locks the key vault. -/
  | lockTheVault (w : HalfId)
  /-- FLT_REV (R527). A write of FLT_REV revokes a fleet member in the mirror and programs it. -/
  | fltRev (w : HalfId) (member : BitVec 14)
  /-- VFIELD_RISE (R505). VFIELD rises above 3.0 V after power-on detection and a cold reset follows. -/
  | vfieldRise
  /-- VFIELD_LOSS (R505). VFIELD stays below 2.5 V for 1 ms and the power-on detector trips. -/
  | vfieldLoss
  /-- VCORE_LOSS (R589). VCORE falls below 0.72 V and the main domain is isolated. -/
  | vcoreLoss
  /-- WAKE (R511). A wake cause raises WAKE_REQ and the block leaves KEEP. -/
  | wake
  /-- SCAN_UPDATE (R554). A DBG_SCAN op starts at Update-DR and completes or is refused. -/
  | scanUpdate (scan : BitVec 56)
  /-- CHAL_REQ (R557). A write of chal_req draws a new 256-bit challenge. -/
  | chalReq
  /-- UNLOCK (R559). A write of unlock arms verification at the next block reset. -/
  | unlock
  /-- RELOCK (R560). A write of relock erases secrets and locks at the next block reset. -/
  | relock
  /-- HALT (R563). A write of halt stops selected halves at the next agreed close. -/
  | halt (halves : BitVec 2)
  /-- RESUME (R564). A write of resume returns halted halves to their modes. -/
  | resume (halves : BitVec 2)
  /-- STEP (R564). A write of step resumes and halts again after n slots. -/
  | step (halves : BitVec 2) (n : BitVec 11)
  /-- BREAKPOINT_MATCH (R565). A breakpoint matches a slot at D and halts or raises DEBUG. -/
  | breakpointMatch (h : HalfId) (k : BitVec 3)
  /-- FEED (R566). A code word written to DBG_FEED executes as one voted window. -/
  | feed (word : Cell)
  /-- DBG_MADDR (R568). A write of go starts one debug data-space access. -/
  | dbgMaddr (v : Cell) (r : ReadOutcome)
  /-- DBG_MPOST (R569). A write of go posts debug staging cells to an inbound queue. -/
  | dbgMpost (c : BitVec 6)
  /-- DBG_TRRD (R573). A read pops one cell of the oldest trace packet. -/
  | dbgTrrd
  /-- STIM (R571). A write to a stimulus port forms a trace packet. -/
  | stim (w : HalfId) (port : BitVec 5) (data : Cell)
  /-- FUSE_FRAME (R592). A 40-bit fuse frame is shifted in naming a row to program. -/
  | fuseFrame (f : BitVec 40)
  /-- FUSE_PROGRAM (R592). The row is programmed 10 micros after the frame. -/
  | fuseProgram
  /-- COMPARE_PATH_RESTORED (R38). The compare path or the commons port of a half in READING-ROOM returns, and comparator injection runs before the half leaves READING-ROOM. -/
  | comparePathRestored (h : HalfId) (loss : PathLoss) (cases : BitVec 8)
  /-- HOLDOVER_EXIT (R583). The PLL leaves holdover without a glitch once it has held lock for 100 micros. -/
  | holdoverExit
  /-- VCORE_RISE (R589). VCORE rises into its operating range, vcore_ok sets and the 50 micros wait toward attach or reset release begins. -/
  | vcoreRise
  /-- TRACE_PACKET_SENT (R573). A trace packet finishes leaving on the off-block trace port over 18 TRC_CLK cycles and leaves the buffer. -/
  | tracePacketSent
  /-- HEALTH_TEST_FAILURE (R522). A repetition-count or adaptive-proportion test fails, discarding the seed accumulation, counting, raising source 199 and possibly excluding a source or entering RNG fault. -/
  | healthTestFailure (stream : BitVec 2) (adaptive : Bool)
  /-- RAW_SAMPLE (R524). In raw-sample test mode a raw sample enters the FIFO, setting overrun when full and raising source 199 at 32 entries. -/
  | rawSample (bits : BitVec 32)
  /-- COMMAND_LINE_RELEASE (R462). A busy folio card releases the command line high, letting the port send its next block or command. -/
  | commandLineRelease
  /-- PPS_TIMEOUT (R465). No PPS reply arrives within 9,600 etu, and the card is deactivated, reactivated and run at Fi = 372, Di = 1. -/
  | ppsTimeout
  /-- CHARACTER_ERROR_SIGNAL (R466). The card signals a parity error on a character the port sent, and the port repeats it up to 4 times or fails with PARITY. -/
  | characterErrorSignal
  /-- FOLIO_WAKE_UP_ANSWER (R470). A powered folio card pulls DAT0 low after the 32-clock wake-up, and the port goes on to RESET and NEGOTIATE. -/
  | folioWakeUpAnswer
deriving DecidableEq, Repr

end Sys2Proof
end

