-- ==== Sys2Proof/Decode.lean ====
section
/-! DEFINITION. The decoder of table words. No row of the opcode table gives bits: a command reaches the block from
outside with its operands, and no word spells one. -/

namespace Sys2Proof

/-- The command that a word of `nbits` bits spells by the opcode table: none, since no row has bits.
DESIGN CHOICE: log 4. -/
def decodeTableWord (_nbits _w : Nat) : Option Instr := none

end Sys2Proof
end

