-- ==== Sys2Proof/Machine/Bits.lean ====
section
/-! DEFINITION. Bit fields, packings, saturating counts and the two card CRCs (R12, R43, R45, R461, R462). -/

namespace Sys2Proof.Machine

/-- Bit `n` of a cell or register. -/
def bit {w : Nat} (c : BitVec w) (n : Nat) : Bool := c.getLsbD n

/-- The field of `len` bits whose lowest bit is `lo` (R12). -/
def fld {w : Nat} (c : BitVec w) (lo len : Nat) : BitVec len := c.extractLsb' lo len

/-- A cell whose field at `lo` is `x`, all other bits zero. -/
def atBits {k : Nat} (x : BitVec k) (lo : Nat) : Cell := (x.setWidth 36) <<< lo

/-- A cell whose bit `n` is `b`, all other bits zero. -/
def atBit (b : Bool) (n : Nat) : Cell := if b then (1 : Cell) <<< n else 0

/-- A host word whose field at `lo` is `x`, all other bits zero. -/
def hAt {k : Nat} (x : BitVec k) (lo : Nat) : HostWord := (x.setWidth 32) <<< lo

/-- A host word whose bit `n` is `b`, all other bits zero. -/
def hBit (b : Bool) (n : Nat) : HostWord := if b then (1 : HostWord) <<< n else 0

/-- A natural number as a cell, modulo 2^36. -/
def cellOf (n : Nat) : Cell := BitVec.ofNat 36 n

/-- All-ones for true and zero for false (R110). -/
def flagCell (b : Bool) : Cell := if b then BitVec.allOnes 36 else 0

/-- One more, saturating at all-ones (R424). -/
def satInc {w : Nat} (c : BitVec w) : BitVec w := if c = BitVec.allOnes w then c else c + 1

/-- The least significant `w` bits of a count, saturating at all-ones. -/
def satOf (w n : Nat) : BitVec w := if 2 ^ w ≤ n then BitVec.allOnes w else BitVec.ofNat w n

/-- The bit vector with bit `n` set to `b`. -/
def setBit {w : Nat} (c : BitVec w) (n : Nat) (b : Bool) : BitVec w :=
  if b then c ||| (1#w <<< n) else c &&& ~~~(1#w <<< n)

/-- Octet `n` of a cell in octet packing: octet 0 in bits [7:0] (R43). -/
def octetOf (c : Cell) (n : Nat) : Octet := c.extractLsb' (8 * n) 8

/-- A cell of four octets with zero guard bits (R43). -/
def cellOfOctets (o : List Octet) : Cell :=
  atBits (o.getD 0 0) 0 ||| atBits (o.getD 1 0) 8 ||| atBits (o.getD 2 0) 16 ||| atBits (o.getD 3 0) 24

/-- The four octets of each cell, in octet packing order (R43). -/
def octetsOfCells : List Cell → List Octet
  | [] => []
  | c :: t => octetOf c 0 :: octetOf c 1 :: octetOf c 2 :: octetOf c 3 :: octetsOfCells t

/-- `n` cells packing the octets of a list, in octet packing (R43). -/
def cellsOfOctets : Nat → List Octet → List Cell
  | 0, _ => []
  | n + 1, l => cellOfOctets (l.take 4) :: cellsOfOctets n (l.drop 4)

/-- The bits of a field, most significant first. -/
def bitsMsb {w : Nat} (c : BitVec w) : List Bool := (List.range w).map fun i => c.getLsbD (w - 1 - i)

/-- One step of CRC-7 with generator x^7 + x^3 + 1 (R461). -/
def crc7Step (c : BitVec 7) (b : Bool) : BitVec 7 :=
  if (bit c 6) != b then (c <<< 1) ^^^ 0b0001001 else c <<< 1

/-- CRC-7 of a bit string, preset to all ones (R461). -/
def crc7 (l : List Bool) : BitVec 7 := l.foldl crc7Step (BitVec.allOnes 7)

/-- One step of CRC-16 with generator x^16 + x^12 + x^5 + 1 (R462). -/
def crc16Step (c : BitVec 16) (b : Bool) : BitVec 16 :=
  if (bit c 15) != b then (c <<< 1) ^^^ 0x1021 else c <<< 1

/-- CRC-16 of a bit string, preset to all ones (R462). -/
def crc16 (l : List Bool) : BitVec 16 := l.foldl crc16Step (BitVec.allOnes 16)

/-- The number of ones of a list of bits. -/
def countTrue (l : List Bool) : Nat := (l.filter id).length

/-- The lowest number below `n` that satisfies a test. -/
def firstBelow (p : Nat → Bool) (n : Nat) : Option Nat := (List.range n).find? p

end Sys2Proof.Machine
end

