-- ==== Sys2Proof/Machine/Flags.lean ====
section
/-! DEFINITION. Carry, overflow, comparison, shift, division and bit counts (R104, R105, R109-R113, R135). -/

namespace Sys2Proof.Machine

/-- An exact signed result fits in a cell (R105). -/
def fitsSigned (i : Int) : Bool := decide (-34359738368 ≤ i) && decide (i < 34359738368)

/-- The carry as a cell. -/
def carryCell (c : Bool) : Cell := if c then 1 else 0

/-- The sum of two cells and a carry, modulo 2^36 (R42). -/
def addCells (a b : Cell) (c : Bool) : Cell := a + b + carryCell c

/-- Carry out of bit 35 of a sum (R104). -/
def addCarry (a b : Cell) (c : Bool) : Bool := decide (2 ^ 36 ≤ a.toNat + b.toNat + c.toNat)

/-- Signed overflow of a sum (R105). -/
def addOverflow (a b : Cell) (c : Bool) : Bool := !fitsSigned (a.toInt + b.toInt + c.toNat)

/-- The borrow of a difference (R104). -/
def subBorrow (a b : Cell) : Bool := decide (a.toNat < b.toNat)

/-- Signed overflow of a difference (R105). -/
def subOverflow (a b : Cell) : Bool := !fitsSigned (a.toInt - b.toInt)

/-- The least signed cell, 0o400000000000. -/
def minCell : Cell := 0o400000000000

/-- SHL (R109). -/
def shlCell (x n : Cell) : Cell := x <<< (n.toNat % 36)

/-- SHR (R109). -/
def shrCell (x n : Cell) : Cell := x >>> (n.toNat % 36)

/-- SAR (R109). -/
def sarCell (x n : Cell) : Cell := x.sshiftRight (n.toNat % 36)

/-- ROL (R109). -/
def rolCell (x n : Cell) : Cell := x.rotateLeft (n.toNat % 36)

/-- The 72-bit product of two cells (R111). -/
def mulWide (a b : Cell) : BitVec 72 := a.setWidth 72 * b.setWidth 72

/-- Remainder and quotient of DIVM, truncating toward zero; by zero, n and 0 (R112). -/
def divSigned (n d : Cell) : Cell × Cell := if d = 0 then (n, 0) else (n.srem d, n.sdiv d)

/-- DIVM overflows on the least cell by -1 (R105). -/
def divOverflow (n d : Cell) : Bool := n == minCell && d == BitVec.allOnes 36

/-- Remainder and quotient of UDIVM; by zero, n and 0 (R112). -/
def divUnsigned (n d : Cell) : Cell × Cell := if d = 0 then (n, 0) else (n % d, n / d)

/-- The number of leading zeros of a cell, 36 for zero (R135). -/
def clzCell (x : Cell) : Nat := ((List.range 36).find? fun i => x.getLsbD (35 - i)).getD 36

/-- The number of set bits of a cell (R135). -/
def popCell (x : Cell) : Nat := countTrue ((List.range 36).map fun i => x.getLsbD i)

end Sys2Proof.Machine
end

