-- ==== Sys2Proof/Machine/Sparse.lean ====
section
/-! DEFINITION. Sparse tables in one canonical form: keys strictly rising, and no entry equal to what an unlisted key
reads as. Memory, register banks and every numbered register file of the block are such tables. -/

namespace Sys2Proof.Machine

/-- A table by number: the listed entries, all others holding the table's default. -/
abbrev Sparse (α : Type) := List (Nat × α)

/-- What entry `i` of the table reads as, `d` where it is not listed. DEDUCED: log 11. -/
def sget {α : Type} (d : α) : Sparse α → Nat → α
  | [], _ => d
  | (k, v) :: t, i => if i = k then v else sget d t i

/-- The table without entry `i`. -/
def sdel {α : Type} (t : Sparse α) (i : Nat) : Sparse α := t.filter fun e => e.1 != i

/-- The table with an entry put before the first of a greater key. -/
def sins {α : Type} : Sparse α → Nat → α → Sparse α
  | [], i, x => [(i, x)]
  | e :: t, i, x => if i < e.1 then (i, x) :: e :: t else e :: sins t i x

/-- The table with entry `i` set to `x`; setting the default removes the entry, so equal tables are equal data. -/
def sput {α : Type} [DecidableEq α] (d : α) (t : Sparse α) (i : Nat) (x : α) : Sparse α :=
  if x = d then sdel t i else sins (sdel t i) i x

/-- The canonical form, with every key at least `lo`. -/
def swfFrom {α : Type} [DecidableEq α] (d : α) : Nat → Sparse α → Bool
  | _, [] => true
  | lo, (k, v) :: t => decide (lo ≤ k) && decide (v ≠ d) && swfFrom d (k + 1) t

/-- The canonical form of a table. -/
def swf {α : Type} [DecidableEq α] (d : α) (t : Sparse α) : Bool := swfFrom d 0 t

end Sys2Proof.Machine
end

