-- ==== Sys2Proof/Machine/State.lean ====
section
/-! DEFINITION. The state of the block: every register, queue, buffer, counter, mode and pin the spec gives it, as
plain data, and its value right after the first power-on. -/

namespace Sys2Proof.Machine

/-! ## Faults and refusals -/

/-- Why the machine stops with a fault. The block has no such stop: everything the spec calls a fault is entered in a
context and is a next state. -/
inductive Fault where
deriving DecidableEq, Repr

/-- Why a command has no meaning. -/
inductive Refusal where
  /-- Raised by the dispatcher for a command whose meaning has not been written; safe. -/
  | notModelled (mnemonic : String)
deriving DecidableEq, Repr

/-! ## Capabilities, positions and banks (R51, R150) -/

/-- A capability register: its tag and the fields of its two cells (R51). -/
structure Cap where
  tag : Bool
  space : BitVec 2
  tenant : BitVec 10
  base : Addr
  gen : BitVec 4
  perm : BitVec 8
  len : Addr
deriving DecidableEq, Repr

/-- An untagged register holding zero (R150). -/
def Cap.zero : Cap := ⟨false, 0, 0, 0, 0, 0, 0⟩

/-- A position of the code: code-word address and slot (R163). -/
structure Pos where
  addr : Addr
  slot : BitVec 3
deriving DecidableEq, Repr

/-- The four registers of one hardware-loop level (R170). -/
structure LoopReg where
  ls : Cell
  le : Cell
  lc : Cell
  ldp : Cell
deriving DecidableEq, Repr

/-- A loop level after context reset (R150). -/
def LoopReg.zero : LoopReg := ⟨0, 0, 0, 0⟩

/-- The register bank of one context (R150). Stacks are listed top first. The status cell is kept without RKO, which
is derived (R343). `heldRec` keeps what the record of a held ARITH will say: position, zero divisor, imprecise; and
`heldEntry` the schedule entry of a held BUDGET-OVERRUN (R160). -/
structure Bank where
  ds : List Cell
  rs : List TCell
  rv : List TCell
  c0 : Cap
  c1 : Cap
  c2 : Cap
  c3 : Cap
  pcc : Cap
  spd : Cap
  spt : Cap
  x : Cell
  status : Cell
  htb : Cell
  resume : Pos
  valid : Bool
  lost : Bool
  stopped : Bool
  vtrap : Bool
  tilmer : Bool
  heldArith : Bool
  heldBudget : Bool
  heldRec : Option (Pos × Bool × Bool)
  heldEntry : Option (BitVec 7)
  tenant : BitVec 10
  sd : Cell
  st : Cell
  latch : Cell
  repActive : Bool
  repLeft : BitVec 24
  loop0 : LoopReg
  loop1 : LoopReg
  loop2 : LoopReg
  levels : Nat
deriving DecidableEq, Repr

/-- A bank after context reset (R150, R153). -/
def Bank.reset : Bank :=
  { ds := [], rs := [], rv := [], c0 := Cap.zero, c1 := Cap.zero, c2 := Cap.zero, c3 := Cap.zero, pcc := Cap.zero,
    spd := Cap.zero, spt := Cap.zero, x := 0, status := 0, htb := 0, resume := ⟨0, 0⟩, valid := false, lost := false,
    stopped := false, vtrap := false, tilmer := false, heldArith := false, heldBudget := false,
    heldRec := none, heldEntry := none, tenant := 0, sd := 0,
    st := 0, latch := 0, repActive := false, repLeft := 0, loop0 := LoopReg.zero, loop1 := LoopReg.zero,
    loop2 := LoopReg.zero, levels := 0 }

/-- A register of two cells: a fault record (R227) or another two-cell value. -/
structure Pair where
  c0 : Cell
  c1 : Cell
deriving DecidableEq, Repr

/-- The handler-head entry of a context (R204): the 16 handler targets (none: absent, R221) and the first code word of
its EVENT handler. -/
structure Heads where
  targets : List (Option Addr)
  eventWord : Option Cell
deriving DecidableEq, Repr

/-- An entry that has never been read: every handler absent. -/
def Heads.absent : Heads := ⟨[], none⟩

/-- A link of the return chain (R416): the context that was running, or none, the borrowing context and its return
depth before the frame was pushed. -/
structure BorrowLink where
  prev : Option (BitVec 5)
  ctx : BitVec 5
  depth : Nat
deriving DecidableEq, Repr

/-! ## The store buffer, the input log and the windows (R194, R242, R255, R263) -/

/-- Who made a write: what a store-buffer entry keeps of its writer (R200, R301). -/
structure Writer where
  half : HalfId
  ctx : BitVec 5
  tenant : BitVec 10
  gen : BitVec 4
  warden : Bool
deriving DecidableEq, Repr

/-- A copy of a capability register with the result of step 2 of R55 for it (R352, R455). -/
structure CapSnap where
  cap : Cap
  genOk : Bool
deriving DecidableEq, Repr

/-- How an entry is linked to its partner (R194). -/
inductive LinkKind where
  | single | first | second
deriving DecidableEq, Repr

/-- What a store-buffer entry writes: a data-space cell under a tenant's key, an I/O register, or a generation that CREVOKE
advances, or asks the tenant's home half to advance (R194, R297). -/
inductive Target where
  | data (addr : Addr) (tenant : BitVec 10)
  | io (addr : IoAddr)
  | gen (tenant : BitVec 10) (gen : BitVec 4)
  | genAsk (tenant : BitVec 10)
deriving DecidableEq, Repr

/-- A store-buffer entry (R194), with its check bits. -/
structure SbEntry where
  target : Target
  data : Cell
  tag : Bool
  win : Cell
  isSealed : Bool
  link : LinkKind
  agreed : Bool
  writer : Writer
  snap : Option CapSnap
  chk : Octet
deriving DecidableEq, Repr

/-- The kinds of logged input (R263). -/
inductive LogKind where
  | io | wait | sync | stat | rk | lease | unlease | timel | fleetchk | event | switch | mint | tick
deriving DecidableEq, Repr

/-- An entry of the input log: the window and the retirement position, the request that produced it and the value
(R263), with the instruction's position (R206). A switch of the running context is logged as the scheduler's answer; a tick with v1 = 1 has already acted on the
governor and the scheduler (R245). -/
structure LogEntry where
  win : Cell
  pos : Nat
  kind : LogKind
  req : Cell
  ctx : BitVec 5
  at_ : Pos
  isolated : Bool
  v0 : Cell
  v1 : Cell
deriving DecidableEq, Repr

/-- A waiting WAIT or SYNC, after its window closed (R129, R245, R351). -/
structure Waiting where
  isSync : Bool
  mask : Cell
  timeout : Cell
  tickSeen : Bool
deriving DecidableEq, Repr

/-- A detected ARITH not yet taken (R107, R203): the offending position, whether the divisor was zero, and the slots
and groups retired since. DEDUCED: log 18. -/
structure PendArith where
  at_ : Pos
  divZero : Bool
  slots : Nat
  groups : Nat
deriving DecidableEq, Repr

/-- The pairing classes (R102, R187). -/
inductive PairClass where
  | l | a | aStar | aLong | m | b | s | x
deriving DecidableEq, Repr

/-- The first slot of an issue group that a second may join (R187): its class, the cells on top that it has loaded, and the
capability register that it has loaded. -/
structure Group where
  cls : PairClass
  loads : Nat
  cap : Option (BitVec 2)
deriving DecidableEq, Repr

/-- A signature item not yet folded into the signature: its value, and the operand-stack place of the outstanding load
whose data stands in it (R247). -/
structure SigItem where
  value : BitVec 64
  place : Option Nat
deriving DecidableEq, Repr

/-- The state before a load whose data is outstanding, to which an entry that abandons it returns (R205, R206):
the context's bank, the pending ARITH, the open group, and the window's counts, signature, store entries and log. -/
structure Ckpt where
  ctx : BitVec 5
  bank : Bank
  arith : Option PendArith
  groupOpen : Option Group
  dbgSkip : Bool
  repu : Bool
  slots : Nat
  sig : BitVec 64
  items : List SigItem
  stores : Nat
  group : Bool
  logged : Nat
  replayPos : Nat
deriving DecidableEq, Repr

/-- A memory read whose data has not returned (R191, R225; `cut`: a span that went DOWN voided it, R306; `void`: its data
has failed, and BUS is due): the operand-stack place (counted from the oldest cell,
spilled ones included) it will fill, its address and key, whether the hierarchy has granted it, the data it then found or that it
failed, its number when it crosses the span, and what a fault record would say of it: position, register, info.
DESIGN CHOICE: log 23. -/
structure OutRead where
  place : Nat
  addr : Addr
  tenant : BitVec 10
  granted : Bool
  data : TCell
  failed : Bool
  cut : Bool
  void : Bool
  remote : Option Nat
  at_ : Pos
  reg : BitVec 3
  info : BitVec 24
deriving DecidableEq, Repr

/-- A fed code word under way (R566, R567): the context whose bank it runs in, the word, whether it runs with W = 1 and
what W was, the context's resume position and repeat register, the next slot, and the two cells of DBG_FEEDST once it has
ended. DEDUCED: log 86. -/
structure Fed where
  ctx : BitVec 5
  word : Cell
  warden : Bool
  wasW : Bool
  home : Pos
  rep : Bool × BitVec 24
  slot : Nat
  result : Option Pair
deriving DecidableEq, Repr

/-- What the bookmark of a close holds, together with every bank of the half, so that a rollback leaves no trace in
any bank (R255, R258). -/
structure Snapshot where
  banks : Sparse Bank
  frec : Sparse Pair
  running : Option (BitVec 5)
  chain : List BorrowLink
  esc : Pair
  escSrc : Cell
  escAt : Option (Bool × Nat)
  reads : List OutRead
  arith : Option PendArith
  repu : Bool
  dbgFrames : List (BitVec 5 × Bool × Nat)
  dbgSkip : Bool
  fed : Option Fed
deriving DecidableEq, Repr

/-- A change of another context's bank that takes effect when its window agrees (R258): a bank that CTXLD loads, the loss
of a context with its record, or the stop of an escalated one. -/
inductive WinAct where
  | load (k : BitVec 5) (b : Bank)
  | lose (k : BitVec 5) (r : Pair)
  | stop (k : BitVec 5)
deriving DecidableEq, Repr

/-- A closed window that awaits its verdict (R248): its number and size, the lanes in service in it, the fault-free signature, the bookmark of its
close, whether the close was forced with no majority (R28), and the lanes whose signature or check bits PRT inverts
(R548). DESIGN CHOICE: log 33. -/
structure ClosedWin where
  num : Cell
  slots : Nat
  lanes : List Lane
  sig : BitVec 64
  forced : Bool
  mark : Snapshot
  prtLanes : BitVec 3
  prtChk : Bool
  prtNoCharge : Bool
deriving DecidableEq, Repr

/-- What of a mint is pending (R214): the copied descriptor, its target register and context. -/
structure MintPend where
  cap : Cap
  n : BitVec 2
  ctx : BitVec 5
deriving DecidableEq, Repr

/-- The execution state of a half: its mode, contexts, faults and mint (R37, R150, R213, R226). `repu` marks an
unfinished REPU, inside which nothing is entered (R168); `revoking` the tenant whose new generation a CREVOKE waits for
(R297); `rstPend` context resets that wait for the verdicts on the
windows before those named (R154), `escAt` the reserve or return depth beneath the ESCALATED frame (R235), `dbgFrames` the DEBUG
frames that stand, with the reserve or return depth beneath them, and `dbgSkip` that no breakpoint matches the next slot
(R565), `ckpt` the states before the outstanding loads, oldest first, `kept` the logged answers of abandoned instructions
(R206), and `flevelEff` the levels of the window in progress (R232). -/
structure Exec where
  mode : BitVec 3
  modeBefore : BitVec 3
  doze : Bool
  onPll : Bool
  running : Option (BitVec 5)
  banks : Sparse Bank
  heads : Sparse Heads
  chain : List BorrowLink
  waiting : Option Waiting
  fencing : Bool
  revoking : Option (BitVec 10)
  arith : Option PendArith
  groupOpen : Option Group
  reads : List OutRead
  frec : Sparse Pair
  flevel : Pair
  esc : Pair
  escSrc : Cell
  escAt : Option (Bool × Nat)
  mint : Pair
  mintN : BitVec 2
  mintPend : Option MintPend
  mintSt : Cell
  rstCtx : BitVec 5
  rstPend : List (BitVec 5 × Cell)
  repu : Bool
  dbgFrames : List (BitVec 5 × Bool × Nat)
  dbgSkip : Bool
  fed : Option Fed
  ckpt : List Ckpt
  kept : List LogEntry
  flevelEff : Pair
deriving DecidableEq, Repr

/-- A tick that arrived while inputs were held (R259), with the sources that were pending then. -/
structure HeldTick where
  tick : TickInput
  before : BitVec 256
deriving DecidableEq, Repr

/-- The line buffer and fill register of the lanes, as code-word line numbers with their stale marks (R183, R185). -/
structure LineBuf where
  line : Option Nat
  lineStale : Bool
  fill : Option Nat
  fillStale : Bool
deriving DecidableEq, Repr

/-- The windows of a half (R240-R267). `mark` is the bookmark, `redo` the size of the window that the lanes, held in
reset, will re-execute, `replay` the slots left to the logged close of the
re-executed window, `replayPos` the slots retired since the bookmark, `held` the ticks that arrived since (R259),
`prtOnce` a close that PRT_CLOSE.once forces (R548). `items` are the signature items from the first that lacks its data;
`ticks` the logged ticks whose window has not agreed, with the window after it, none until the re-execution meets them (R33, R34);
`acts` what takes effect when the windows before the one it names have agreed (R258); `closeDue` a close forced at the next boundary (R243); `taken` that
a trigger of a rank above debug halt has fallen on the close the half stands at (R40). -/
structure Windows where
  num : Cell
  slots : Nat
  sig : BitVec 64
  stores : Nat
  group : Bool
  logged : Nat
  rollbacks : BitVec 12
  resyncs : BitVec 12
  closed : List ClosedWin
  mark : Option Snapshot
  sb : List SbEntry
  log : List LogEntry
  rolling : Bool
  redo : Option Nat
  replay : Option Nat
  replayLog : List LogEntry
  replayPos : Nat
  held : List HeldTick
  prtCloses : Nat
  prtOnce : Bool
  items : List SigItem
  ticks : List (Option Cell × TickInput)
  acts : List (Cell × WinAct)
  closeDue : Bool
  taken : Bool
deriving DecidableEq, Repr

/-- What a lane is doing (R261, R278): in service; held in reset and copied to, the copy complete or not; in audit; or
out of service. -/
inductive LaneWork where
  | inService | copying | copied | audit | out
deriving DecidableEq, Repr

/-- One lane's work and staggers: as programmed and as in force (R240, R241). -/
structure LaneState where
  work : LaneWork
  stagReg : BitVec 3
  stag : BitVec 3
deriving DecidableEq, Repr

/-- What made an audit due (R537 class 6). -/
inductive AuditTrigger where
  | rotation | bucket | request | bringup
deriving DecidableEq, Repr

/-- The tally's control state of a half (R270-R285). The buckets, fence marks, lifetime totals, slow count and attack
total live in the half's tally record in the keep domain, their one home (R275). `drain` and `slowDrain` count frames to
the next drains, whose due marks the drains consume. -/
structure Tally where
  la : LaneState
  lb : LaneState
  lc : LaneState
  cmpLost : Bool
  portLost : Bool
  failedInject : Bool
  injGo : Bool
  injState : BitVec 2
  injCases : BitVec 8
  injOk : Bool
  drain : BitVec 12
  drainDue : Bool
  slowDrain : Nat
  slowDue : Bool
  burstHist : List Nat
  burstBit : Bool
  slowBit : Bool
  taken : BitVec 2
  slowThr : Octet
  attResp : BitVec 2
  auditEn : Bool
  auditNow : Bool
  auditNext : BitVec 2
  auditLast : BitVec 2
  auditPass : Bool
  period : BitVec 22
  countdown : BitVec 22
  audits : List (Lane × AuditTrigger)
  auditTrig : Option AuditTrigger
  fenceReq : BitVec 3
deriving DecidableEq, Repr

/-! ## Memory of a half (R312-R342) -/

/-- A programmed NVM line (R319): its tenant, its version and its eight cells; `broken` marks a line that fails its
integrity check on every read (R329). A line not listed is erased (R320). -/
structure NvmLine where
  tenant : BitVec 10
  version : BitVec 20
  cells : List TCell
  broken : Bool
deriving DecidableEq, Repr

/-- A merge-buffer entry (R325): logical line, tenant, the eight cells, which of them have been written since
allocation, and its progress: due (with its number in the order of becoming due), granted, programming; `stood` once its request has stood (R392). `img` names the
image pair whose side the program writes (R332). -/
structure MergeEntry where
  line : Nat
  tenant : BitVec 10
  cells : List TCell
  written : Octet
  due : Option Nat
  granted : Bool
  prog : Bool
  stood : Bool
  img : Option (BitVec 4)
deriving DecidableEq, Repr

/-- A write that waits for a merge-buffer entry (R326), with its cells by their index in the line, or a refresh, which writes
none (R340); `lane` marks the lane drain, which has one place (R335). DEDUCED: log 41. -/
structure AllocWait where
  line : Nat
  tenant : BitVec 10
  cells : List (Nat × TCell)
  lane : Bool
deriving DecidableEq, Repr

/-- An A/B image pair (R331). `prog` is set once the new side's metadata program has completed. -/
structure ImgPair where
  swap : Bool
  side : Bool
  err : Bool
  len : BitVec 16
  a : BitVec 17
  b : BitVec 17
  prog : Bool
deriving DecidableEq, Repr

/-- A pair never written (R331). -/
def ImgPair.zero : ImgPair := ⟨false, false, false, 0, 0, 0, false⟩

/-- The sources whose requests wait in the arbitration hierarchy (R335). -/
inductive ArbSource where
  | laneRead | reckoner | span | patrol
deriving DecidableEq, Repr

/-- What a waiting request does when it is granted. -/
inductive ArbWork where
  /-- The oldest lane read not yet granted. -/
  | laneRead
  /-- The released writes of the reckoner, or writes of the far half. -/
  | writes (ws : List (Addr × BitVec 10 × TCell))
  /-- A remote read, to be answered over the span under its number. -/
  | remoteRead (addr : Addr) (tenant : BitVec 10) (id : Nat)
  /-- The patrol's read of the bank's next line (R317, R340). -/
  | patrol
deriving DecidableEq, Repr

/-- A request waiting in a half's hierarchy (R335-R337): its source, bank (0-3 SRAM, 4-11 NVM), the global context it
is credited to, its age in cycles since it took its place, what it does, and whether the port has passed it on to its bank. -/
structure ArbReq where
  source : ArbSource
  bank : BitVec 4
  ctx : BitVec 6
  age : Nat
  work : ArbWork
  atBank : Bool
deriving DecidableEq, Repr

/-- The MEM unit of a half (R314, R325-R342). `bad` lists the SRAM lines left uncorrectable (R315, R316); `keys` numbers the
draw of the two SRAM keys in force (R314). DESIGN CHOICE: log 43. -/
structure MemUnit where
  hold : Octet
  patrolEn : Bool
  kcFlush : Bool
  merge : List MergeEntry
  allocs : List AllocWait
  keyCache : List (BitVec 10)
  due : Cell
  done : Cell
  sramCor : BitVec 12
  sramUnc : BitVec 12
  nvmCor : BitVec 12
  nvmInt : BitVec 12
  lastErr : Addr
  bad : List Nat
  spares : List Nat
  locked : BitVec 12
  lockedLines : List Nat
  remapped : List (Nat × Nat)
  wear : Sparse Nat
  pselOvf : BitVec 4
  psel : BitVec 24
  perf0 : Cell
  perf1 : Cell
  perf2 : Cell
  perf3 : Cell
  imgs : Sparse ImgPair
  patrolS : Sparse Nat
  patrolN : Sparse Nat
  arb : List ArbReq
  lastServed : BitVec 6
  keys : Nat
deriving DecidableEq, Repr

/-! ## The reckoner (R343-R370) -/

/-- The state of a queued command (R350). -/
inductive RkState where
  | queued | deferred | running | finished | done | failed
deriving DecidableEq, Repr

/-- The stamp of a command or transfer (R301). -/
structure Stamp where
  tenant : BitVec 10
  gen : BitVec 4
  ctx : BitVec 6
deriving DecidableEq, Repr

/-- A lease: its class and the charges made against it (R391). -/
structure Lease where
  cls : BitVec 4
  used : Nat
deriving DecidableEq, Repr

/-- A queued reckoner command (R349): selector, ticket number, operands (first pushed first), snapshots of C0-C3, stamp,
the schedule entry it was issued under, its state, whether its first slice has begun, slices finished, lease, whether it
asks for one (a light command: whether it was issued under one), restarts, the window in which it finished, the memory
writes, register values and ownership it has produced, the vault slot it will fill, whether it names a vault key, the
keys it holds to its end, whether its result fails its check (R364), the energy beyond its table figure, its code and result. -/
structure RkCmd where
  sel : BitVec 6
  seq : BitVec 12
  ops : List Cell
  snaps : List CapSnap
  stamp : Stamp
  entry : Option (BitVec 7)
  state : RkState
  begun : Bool
  slices : Nat
  lease : Option Lease
  leaseWanted : Bool
  restarts : Nat
  fin : Cell
  writes : List (Addr × BitVec 10 × Cell)
  regs : List (Nat × List Cell)
  own : Option (Bool × BitVec 10)
  fill : Option (BitVec 10 × BitVec 4)
  vault : Bool
  keys : List (List Octet)
  wrong : Bool
  extra : Nat
  code : BitVec 6
  result : BitVec 24
deriving DecidableEq, Repr

/-- A held status entry (R350). -/
structure RkStatus where
  sel : BitVec 6
  seq : BitVec 12
  stamp : Stamp
  state : BitVec 3
  code : BitVec 6
  result : BitVec 24
deriving DecidableEq, Repr

/-- A half's reckoner (R343-R370). `wide` holds cell i of Ww at 128 w + i; `ownNext` the owner that applies at the next close
(R344). -/
structure Reckoner where
  ownValid : Bool
  ownCtx : BitVec 5
  ownNext : Option (Bool × BitVec 5)
  held : Bool
  tenant : BitVec 10
  wide : Sparse Cell
  queue : List RkCmd
  seq : BitVec 12
  status : List RkStatus
  latch : Bool
  restarts : BitVec 18
  selfchk : BitVec 18
  refused : BitVec 18
  failed : BitVec 18
deriving DecidableEq, Repr

/-! ## The scheduler and the governor (R371-R403) -/

/-- A schedule entry (R375). -/
structure SchEntry where
  valid : Bool
  essential : Bool
  prio : BitVec 3
  ctx : BitVec 5
  tenant : BitVec 10
  decl : BitVec 16
  lstart : Bool
  scls : BitVec 4
  budget : BitVec 24
  allow : BitVec 16
deriving DecidableEq, Repr

/-- An absent entry. -/
def SchEntry.zero : SchEntry := ⟨false, false, 0, 0, 0, 0, false, 0, 0, 0⟩

/-- A schedule table with its frame reservations (R374). -/
structure SchTable where
  entries : Sparse SchEntry
  evReserve : BitVec 24
  sysAllow : BitVec 16
deriving DecidableEq, Repr

/-- What an admission check examines (R380): the shadow as the commit found it, or a new cap. -/
inductive AdmKind where
  | table (t : SchTable)
  | cap (v : Octet)
deriving DecidableEq, Repr

/-- A half's scheduler (R374-R401). `late` holds a commit or cap write that came with a tick (R396). -/
structure Sched where
  active : SchTable
  shadow : SchTable
  checking : Option AdmKind
  accepted : Option AdmKind
  en : Bool
  sel : BitVec 7
  adm : BitVec 2
  code : BitVec 4
  bad : BitVec 7
  cur : Option (BitVec 7)
  left : Nat
  waitCtx : Bool
  expired : Bool
  starved : Bool
  disturbed : Bool
  evOver : Bool
  overruns : BitVec 12
  cuts : BitVec 12
  skips : BitVec 12
  evLeft : Nat
  started : List (BitVec 7)
  allowLeft : Sparse Int
  frame : Cell
deriving DecidableEq, Repr

/-- A half's governor (R387-R403). -/
structure Gov where
  sagThr : Octet
  cap : Octet
  run : BitVec 9
  runEarly : BitVec 9
  standing : BitVec 9
  sag : Bool
  nvmHold : Bool
  temp : Octet
  remaining : Int
  tfac : BitVec 10
  beff : Nat
  sysLeft : Int
  leases : Sparse (Option Lease)
  leaseEntry : Sparse (Option (BitVec 7))
  sags : BitVec 12
  dips : BitVec 12
  revoked : BitVec 12
  deferred : BitVec 12
  refused : BitVec 12
  throttled : BitVec 12
  costs : Sparse Nat
  ticked : Bool
deriving DecidableEq, Repr

/-! ## The span (R286-R311) -/

/-- Why a tenant's generation is to change at a forced close (R297, R299): the home half's new value, its answer to a request,
a request to the home half, or the first and the second commit step of a migration. -/
inductive GenKind where
  | update | answer | request | migrate | ack
deriving DecidableEq, Repr

/-- What a flit carries (R288, R290, R291, R297, R299). -/
inductive Flit where
  | read (addr : Addr) (tenant : BitVec 10) (id : Nat)
  | reply (id : Nat) (v : TCell) (bad : Bool)
  | write (ws : List (Addr × BitVec 10 × TCell))
  | ioWrite (addr : IoAddr) (x0 x1 : Cell) (two : Bool) (w : Writer) (snap : Option CapSnap)
  | lineNotice (line : Nat)
  | genUpdate (tenant : BitVec 10) (gen : BitVec 4)
  | genAnswer (tenant : BitVec 10) (gen : BitVec 4)
  | genRequest (tenant : BitVec 10)
  | migrate (tenant : BitVec 10) (gen : BitVec 4)
  | migrateAck (tenant : BitVec 10) (gen : BitVec 4)
deriving DecidableEq, Repr

/-- A half's home map and generation table, or their copy in the commons store (R287). `taken` marks the tenants whose home
the half took by the first commit step of a migration (R299, R310). DEDUCED: log 49. -/
structure TenantTables where
  gen : Sparse (BitVec 4)
  home : Sparse Bool
  taken : List (BitVec 10)
deriving DecidableEq, Repr

/-- A path of the span as one half sees it (R289): up, disabled, good heartbeats while training, the CRC failures of the last
4,096 cycles by the heartbeats since. -/
structure PathState where
  up : Bool
  dis : Bool
  good : Nat
  fails : List Nat
  crc : BitVec 18
  downs : BitVec 9
deriving DecidableEq, Repr

/-- A half's migration engine (R298, R299). -/
structure Migration where
  c0 : Cell
  c1 : Cell
  state : BitVec 2
  code : BitVec 6
  gen : BitVec 4
  tenant : BitVec 10
  old : BitVec 4
  acked : Bool
deriving DecidableEq, Repr

/-- A half's span endpoint (R288-R311). `state` is coded as in SPN_STAT; `out` holds the flits not yet applied by the
far half, oldest first; `genSent` the generation at the head of the store buffer that has been sent and is not accepted; `watch` the RTC ticks since the
span went DOWN, while the witness has not reported (R305). -/
structure SpanEnd where
  state : BitVec 2
  pa : PathState
  pb : PathState
  crcLim : Octet
  retries : BitVec 18
  replay : Bool
  peer : BitVec 2
  peerMode : BitVec 3
  peerFrame : BitVec 12
  out : List Flit
  nextId : Nat
  applyGen : List (BitVec 10 × BitVec 4 × GenKind)
  mig : Migration
  ringTable : Addr
  ringWritten : BitVec 18
  ringLost : BitVec 18
  tables : TenantTables
  store : TenantTables
  changed : List (BitVec 10)
  genSent : Option (BitVec 10 × BitVec 4)
  peerState : BitVec 2
  watch : Option Nat
deriving DecidableEq, Repr

/-! ## The daybook of a half and its DRBG (R523, R535-R546) -/

/-- A daybook entry: four cells (R535). -/
structure DbkEntry where
  d0 : Cell
  d1 : Cell
  d2 : Cell
  d3 : Cell
deriving DecidableEq, Repr

/-- The coalesced state of a class (R541). -/
structure DbkCoal where
  count : Cell
  first : DbkEntry
  latest : DbkEntry
deriving DecidableEq, Repr

/-- A half's daybook queue (R539-R546). -/
structure DbkQueue where
  queue : List DbkEntry
  sagFirst : Option DbkEntry
  overflow : Bool
  coal : Sparse (Option DbkCoal)
  counts : Sparse Cell
  commits : Nat
  granted : Bool
  rsel : BitVec 12
deriving DecidableEq, Repr

/-- A half's DRBG (R523): instantiated, calls since the last reseed, and the 32-bit words left of the latest call made
for RNG_OUT. -/
structure Drbg where
  ready : Bool
  calls : Nat
  kept : Nat
deriving DecidableEq, Repr

/-- The bring-up of a half (R480, R481): its reset released; it takes the half-start path; its charter verified and
accepted; bring-up ended without a start; comparator injection passed; a half reset that waits for a close. -/
structure BringUp where
  released : Bool
  halfStart : Bool
  verified : Bool
  stuck : Bool
  injected : Bool
  resetReq : Bool
deriving DecidableEq, Repr

/-- One half. -/
structure Half where
  ex : Exec
  line : LineBuf
  win : Windows
  tal : Tally
  mem : MemUnit
  rkn : Reckoner
  sch : Sched
  gov : Gov
  spn : SpanEnd
  dbk : DbkQueue
  rng : Drbg
  up : BringUp
deriving DecidableEq, Repr

/-! ## Events (R404-R429) -/

/-- A coalescer (R418, R429): thresholds, edges held and the time base at the first of them. -/
structure Coal where
  cthr : Octet
  tthr : BitVec 16
  held : Octet
  since : BitVec 72
deriving DecidableEq, Repr

/-- The reset setting: fires on each edge (R419). -/
def Coal.reset : Coal := ⟨1, 0, 0, 0⟩

/-- A compare timer (R423). -/
structure Tcmp where
  val : BitVec 72
  armed : Bool
deriving DecidableEq, Repr

/-- A compare timer at reset: all-ones, disarmed (R429). -/
def Tcmp.reset : Tcmp := ⟨BitVec.allOnes 72, false⟩

/-- The stamp of the last wake (R422). -/
structure WakeStamp where
  valid : Bool
  cause : BitVec 3
  input : Octet
  rtc : Cell
deriving DecidableEq, Repr

/-- The event controller (R404-R429). Bit s of a bit vector stands for source s. `level` holds the synchronised levels
of the external inputs. -/
structure Evc where
  pend : BitVec 256
  act : BitVec 256
  en : BitVec 256
  route : Sparse (BitVec 6)
  pri : Sparse Octet
  coal : Sparse Coal
  split : BitVec 2
  done : Octet
  doneMiss : Cell
  missOvf : Bool
  timeBase : BitVec 72
  tcmp : Sparse Tcmp
  wake : WakeStamp
  level : BitVec 128
deriving DecidableEq, Repr

/-! ## Mailboxes and the host port (R430-R453) -/

/-- An entry: eight cells and the stamp, whose bits [35:32] are zero (R436). -/
structure MbxEntry where
  cells : List Cell
  stamp : HostWord
deriving DecidableEq, Repr

/-- One direction of a channel (R436, R444, R445): its queue, head first; the counters and epochs; the last-taken
record; the sender's ack register; and the ack timer: frame ticks counted since the post, with that post's seq. -/
structure MbxDir where
  queue : List MbxEntry
  seq : Octet
  sendEpoch : Octet
  recvEpoch : Octet
  takenSeq : Octet
  takenEpoch : Octet
  ack : HostWord
  timer : Option (Nat × Octet)
deriving DecidableEq, Repr

/-- A direction after main-domain power-up (R436). DEDUCED: log 10. -/
def MbxDir.zero : MbxDir := ⟨[], 0, 0, 0, 0, 0, 0, none⟩

/-- Eight zero cells: a staging area after a block reset (R437). -/
def zeroCells : List Cell := [0, 0, 0, 0, 0, 0, 0, 0]

/-- A mailbox channel (R436-R440): `inp` runs from host to block, `outp` from block to host. -/
structure Channel where
  en : Bool
  tmo : Octet
  owner : BitVec 10
  iid : Octet
  imask : Octet
  inp : MbxDir
  outp : MbxDir
  hostStage : List Cell
  blockStage : List Cell
  collIn : Bool
  collOut : Bool
  dropped : Octet
  ackOrphan : Octet
  collisions : Octet
  timeouts : Octet
deriving DecidableEq, Repr

/-- A channel after main-domain power-up (R436, R440). -/
def Channel.zero : Channel :=
  { en := false, tmo := 255, owner := 0, iid := 0, imask := 0, inp := MbxDir.zero, outp := MbxDir.zero,
    hostStage := zeroCells, blockStage := zeroCells, collIn := false, collOut := false, dropped := 0,
    ackOrphan := 0, collisions := 0, timeouts := 0 }

/-- A receiver ack that PRT_ACK delays (R548): its channel, direction, origin and code. -/
structure DelayedAck where
  chan : BitVec 6
  inbound : Bool
  origin : BitVec 2
  code : BitVec 12
deriving DecidableEq, Repr

/-- The mailboxes, doorbells and the event bridge (R436-R452). `cross` holds MBX_CROSS of each global context, none
while no CROSS is latched. Interrupt mask j of line n is `masks` entry 8 n + j. `detached` is set from the detach rule
of R447 until the next attach's block reset. DEDUCED: log 63. -/
structure Mbx where
  chans : Sparse Channel
  cross : Sparse (Option (BitVec 6))
  grants : BitVec 128
  hostReset : Bool
  hostKeep : Bool
  dbOut : BitVec 64
  dbAck : BitVec 64
  dbSw : HostWord
  masks : Sparse HostWord
  delayed : List DelayedAck
  detached : Bool
deriving DecidableEq, Repr

/-- The error kinds of the host port (R432). -/
inductive HostErr where
  | okay | decode | absent | refused
deriving DecidableEq, Repr

/-- The response to the latest beat (R430). -/
structure HostResp where
  data : HostWord
  err : HostErr
deriving DecidableEq, Repr

/-- The host port (R430-R435): the handshake's levels, a detach in progress, READY, the lost flag and the latest
response. DESIGN CHOICE: log 7. -/
structure HostPort where
  isoReq : Bool
  isoAck : Bool
  detach : Bool
  ready : Bool
  lost : Bool
  resp : HostResp
deriving DecidableEq, Repr

/-! ## The card port (R454-R478) -/

/-- The settings of CRD_CFG that a start-up takes up (R474). -/
structure CrdCfg where
  proto : BitVec 2
  detPol : Bool
  maxClk : BitVec 2
  maxW4 : Bool
  clkstop : Bool
  classB : Bool
  classC : Bool
deriving DecidableEq, Repr

/-- CRD_CFG at reset without a charter value (R474). -/
def CrdCfg.reset : CrdCfg := ⟨0, true, 3, true, true, true, true⟩

/-- What the port is waiting for. -/
inductive CrdPhase where
  /-- Nothing. -/
  | idle
  /-- The answer to the wake-up (R470 step 1). -/
  | wakeUp
  /-- The response to RESET (R470 step 1). -/
  | resetResp
  /-- The response to NEGOTIATE; `again` when it offers one line at 400 kHz (R470 step 3). -/
  | negotiateResp (again : Bool)
  /-- The response to the transfer's command (R461, R463). -/
  | commandResp
  /-- The 1 ms to the next issue of the command to a busy card (R463). -/
  | busyWait (back : CrdPhase)
  /-- A data block of a READ (R462). -/
  | dataBlock
  /-- The receipt of a WRITE block (R462). -/
  | receipt
  /-- The command line to go high (R462). -/
  | lineBusy
  /-- The end of a commit (R459). -/
  | commit
  /-- The ATR, at class B when `b` is set (R464). -/
  | atr (b : Bool)
  /-- The 10 ms between deactivation and activation at class B (R464). -/
  | reactivate
  /-- The answer to a PPS (R465). -/
  | pps
  /-- A procedure byte of a TPDU (R467). -/
  | procedure
  /-- Data octets from the card, all that remain or one (R467). -/
  | rxData (one : Bool)
  /-- SW2, after the given SW1 (R467). -/
  | sw2 (sw1 : Octet)
deriving DecidableEq, Repr

/-- The running transfer (R455-R459): its operation, copied capability and stamp, memory offset, command, length in
octets, TPDU direction and P3, and the staged octets. -/
structure CrdXfer where
  op : BitVec 3
  snap : CapSnap
  stamp : Stamp
  off : Addr
  cmd : HostWord
  len : Nat
  dir : Bool
  p3 : Octet
  staging : List Octet
deriving DecidableEq, Repr

/-- CRD_XST (R477). -/
structure CrdXst where
  state : BitVec 3
  code : BitVec 6
  blocks : BitVec 4
  seq : BitVec 12
  count : BitVec 12
  index : Octet
  rstat : BitVec 16
deriving DecidableEq, Repr

/-- CRD_XST after a block reset. -/
def CrdXst.zero : CrdXst := ⟨0, 0, 0, 0, 0, 0, 0⟩

/-- The 7816 parameters in force (R465): extra guard time, work waiting integer, clock-stop indicator, the PPS pair
that was asked for, whether a PPS is left out after a failed one, and the convention. -/
structure IsoPars where
  guard : Octet
  wi : Octet
  clockX : BitVec 2
  ppsPair : Octet
  noPps : Bool
  inverse : Bool
deriving DecidableEq, Repr

/-- The defaults of R465. -/
def IsoPars.reset : IsoPars := ⟨0, 10, 0, 0x11, false, false⟩

/-- The card port (R454-R478). `cfg` is CRD_CFG, `act` the settings in effect. `tries` counts the retries of the
current command and `blkTries` of the current block, `chars` the repetitions of the current character, `fresh` marks the
first command after a NEGOTIATE that changed the setting, and `held` are redirected completions of issuers in HALT
(R460). -/
structure Crd where
  en : Bool
  cfg : CrdCfg
  act : CrdCfg
  detect : Bool
  card : BitVec 2
  w4 : Bool
  clk : BitVec 3
  cls : BitVec 2
  stopped : Bool
  fidi : Octet
  detCnt : Octet
  cmd0 : HostWord
  dir : Bool
  p3 : Octet
  off : Addr
  len : BitVec 12
  op : BitVec 3
  n : BitVec 2
  xst : CrdXst
  nextSeq : BitVec 12
  retries : BitVec 9
  crc : BitVec 9
  timeouts : BitVec 9
  parity : BitVec 9
  busyIgn : Cell
  atr : List Octet
  phase : CrdPhase
  xfer : Option CrdXfer
  tries : Nat
  blkTries : Nat
  chars : Nat
  fresh : Bool
  pars : IsoPars
  held : List (Stamp × Cell × Pair)
deriving DecidableEq, Repr

/-! ## The charter port (R479-R504) -/

/-- A running charter update (R501): the step of R501 it is at, the operations of that step still to end, and the
image's length in octets. -/
structure ChtUpd where
  step : Nat
  left : Nat
  len : Nat
deriving DecidableEq, Repr

/-- Which kind of reset is in progress or ran last (R537 class 1). -/
inductive ResetKind where
  | cold | block | half | tamper | wake
deriving DecidableEq, Repr

/-- The charter port and buffer (R486-R504). `kind` is the reset that the current bring-up follows, `imgs` the
image state of each tenant (R497), and `seen` what charter verification read, until a charter is installed. -/
structure Cht where
  buf : Sparse Cell
  slot : BitVec 2
  quad : Bool
  fault : Bool
  ver : Cell
  rej0 : BitVec 4
  rej1 : BitVec 4
  bsel : BitVec 14
  tstTenant : BitVec 10
  imgs : Sparse (BitVec 2)
  updN : BitVec 2
  updOff : Addr
  updLen : BitVec 17
  upd : Option ChtUpd
  ustState : BitVec 3
  ustCode : BitVec 6
  digest : BitVec 256
  kind : ResetKind
  installed : Bool
  seen : Option CharterInput
deriving DecidableEq, Repr

/-! ## The commons store and the units that own it (R21, R333, R516, R527, R539) -/

/-- The state of a vault slot (R533). -/
inductive SlotState where
  | free | assigned | filled | identity
deriving DecidableEq, Repr

/-- A vault slot's key material (R516-R518): none, octets imported from data space
or that a generation command drew, or a key the block was made with. DEDUCED: log 56. -/
inductive VltKey where
  | empty
  | octets (l : List Octet)
  | identity
deriving DecidableEq, Repr

/-- A vault slot record (R516). -/
structure VltSlot where
  state : SlotState
  type : BitVec 4
  owner : BitVec 10
  key : VltKey
deriving DecidableEq, Repr

/-- A free slot. -/
def VltSlot.zero : VltSlot := ⟨.free, 0, 0, .empty⟩

/-- What a commons-store program writes (R334, R493, R518, R519, R527, R539). -/
inductive StoreOp where
  /-- A counter's next value, for the context that incremented it. -/
  | counter (k : Octet) (value : Cell) (ctx : BitVec 6)
  /-- A fleet member's revocation bit, for the contexts that asked for it. -/
  | fleet (member : BitVec 14) (ctxs : List (BitVec 6))
  /-- A vault slot's record, for the context that wrote VLT_GO. -/
  | slot (i : BitVec 10) (r : VltSlot) (ctx : Option (BitVec 6))
  /-- The head entry of a half's daybook queue. -/
  | daybook (h : HalfId) (e : DbkEntry)
  /-- A half's sag entry (R395). -/
  | sag (h : HalfId) (e : DbkEntry)
  /-- The charter rollback counter. -/
  | rollback (v : Cell)
deriving DecidableEq, Repr

/-- A queued commons-store program: the half whose governor grants it, whether its grant has been given or is not
needed, whether it is in flight, and whether its request has stood (R392). -/
structure StoreProg where
  op : StoreOp
  half : HalfId
  exempt : Bool
  granted : Bool
  started : Bool
  stood : Bool
deriving DecidableEq, Repr

/-- A monotonic-counter result of a global context (R333). -/
structure MctRes where
  value : Cell
  state : BitVec 2
  counter : Octet
deriving DecidableEq, Repr

/-- The monotonic counters (R333, R334): durable values and each context's result. Values assigned and not yet durable
stand in the queue of commons-store programs. -/
structure Mct where
  val : Sparse Cell
  res : Sparse MctRes
deriving DecidableEq, Repr

/-- A revocation result of a global context (R534). -/
structure FltRes where
  state : BitVec 2
  member : BitVec 14
deriving DecidableEq, Repr

/-- The fleet index (R525-R534): cell 0 and the version, the key references, the stored bitmap and its mirror. -/
structure Flt where
  head : Cell
  version : Cell
  keys : Sparse Cell
  stored : Sparse HostWord
  mirror : Sparse HostWord
  member : BitVec 14
  res : Sparse FltRes
deriving DecidableEq, Repr

/-- A vault result of a global context (R533). -/
structure VltRes where
  state : BitVec 2
  code : BitVec 6
  slot : BitVec 10
deriving DecidableEq, Repr

/-- The key vault interface (R515-R533). -/
structure Vault where
  locked : Bool
  roots : Bool
  slots : Sparse VltSlot
  op : BitVec 3
  type : BitVec 4
  owner : BitVec 10
  slot : BitVec 10
  impN : BitVec 2
  impOff : Addr
  res : Sparse VltRes
deriving DecidableEq, Repr

/-- A raw sample (R524, R532). -/
structure RawSample where
  src : BitVec 2
  overrun : Bool
  bits : BitVec 32
deriving DecidableEq, Repr

/-- The random number generator (R521-R532): `fails` counts the consecutive failing windows of ring, latch, thermal and
combined stream; `retried` is set once the start-up tests have been repeated; `seed` is a seed that no DRBG has yet
needed; `resumes` that raw mode has ended and output waits for the first seed after it (R524). -/
structure Rng where
  state : BitVec 2
  srcFail : BitVec 3
  raw : Bool
  rawSrc : BitVec 2
  reseedInt : BitVec 20
  fifo : List RawSample
  overrun : Bool
  rct : BitVec 12
  apt : BitVec 12
  starts : BitVec 12
  fails : List Nat
  retried : Bool
  seed : Bool
  resumes : Bool
deriving DecidableEq, Repr

/-- The daybook's common part (R535-R546): ring, head, commits, losses, DBK_PUT, and the class and frame of the latest
committed entry (R453). `keepLost` is the number lost at a KEEP entry or a loss of VCORE, until it is recorded. -/
structure DbkRing where
  ring : Sparse DbkEntry
  head : BitVec 12
  wrapped : Bool
  commits : Cell
  lost : Cell
  tenantPut : Bool
  put : Pair
  lastClass : BitVec 6
  lastFrame : BitVec 16
  keepLost : Option (Cell × Cell)
deriving DecidableEq, Repr

/-- An empty daybook entry. -/
def DbkEntry.zero : DbkEntry := ⟨0, 0, 0, 0⟩

/-- The perturbation-test controls (R548, R552), each as its register reads. -/
structure Prt where
  stall : Cell
  lat : Cell
  ack : Cell
  span : Cell
  close : Cell
  sig : Cell
deriving DecidableEq, Repr

/-! ## Debug and trace (R553-R576) -/

/-- The lock state (R556). -/
inductive LockState where
  | locked | armed | open_ | relock
deriving DecidableEq, Repr

/-- A half under debug (R563, R564): a halt asked for, the slots that a step still runs, counted from the last agreed
close, and a resume that waits for the fed word under way. -/
structure DbgHalf where
  halt : Bool
  stepLeft : Option Nat
  resume : Bool
deriving DecidableEq, Repr

/-- The debug unit (R553-R576). -/
structure Dbg where
  lock : LockState
  attach : Bool
  halves : BitVec 2
  n : BitVec 11
  ctx : Cell
  feed : Cell
  feedSt : Pair
  chalValid : Bool
  chal : BitVec 256
  resp : Sparse Cell
  rsel : BitVec 10
  bp : Sparse Cell
  maddr : Cell
  mdat : Cell
  mst : Cell
  mstg : Sparse Cell
  mpost : BitVec 6
  trcEn : Bool
  trcPort : Bool
  trcWrap : Bool
  dropped : BitVec 12
  gap : Cell
  seq : BitVec 13
  buf : List (List Cell)
  taken : Nat
  scanAddr : IoAddr
  scanSt : BitVec 2
  scanData : Cell
  fails : BitVec 12
  unlocks : BitVec 16
  d0 : DbgHalf
  d1 : DbgHalf
  emulated : Bool
deriving DecidableEq, Repr

/-! ## The keep domain (R505-R531) -/

/-- What a tally record holds of a lane (R272, R275): its bucket, fence mark and lifetime mismatches. -/
structure LaneRec where
  bucket : Nat
  fenced : Bool
  life : BitVec 12
deriving DecidableEq, Repr

/-- A lane's record after a cold reset (R479). -/
def LaneRec.zero : LaneRec := ⟨0, false, 0⟩

/-- A half's tally record (R275): its lanes, slow count and attacks. -/
structure TallyRec where
  a : LaneRec
  b : LaneRec
  c : LaneRec
  slow : Nat
  attacks : BitVec 16
deriving DecidableEq, Repr

/-- A tally record after a cold reset (R479). -/
def TallyRec.zero : TallyRec := ⟨LaneRec.zero, LaneRec.zero, LaneRec.zero, 0, 0⟩

/-- The witness's view of a half (R304): the line's level, its toggle latch, the ticks the latch has stayed clear, and
what it has judged: none until its first judgement. -/
structure WitHalf where
  line : Bool
  latch : Bool
  clear : Nat
  present : Option Bool
deriving DecidableEq, Repr

/-- A witness record (R305, R531). -/
structure WitRec where
  valid : Bool
  isOpen : Bool
  kind : BitVec 2
  start : BitVec 48
  stop : BitVec 48
deriving DecidableEq, Repr

/-- The record of a lock or erase (R531 KEP_TREC). -/
structure TampRec where
  valid : Bool
  cause : BitVec 3
  resp : BitVec 2
  rtc : BitVec 48
deriving DecidableEq, Repr

/-- The keep domain (R505-R531). `keepReq` is a KEEP request not yet entered, `inKeep` the block isolated in KEEP,
`causes` the wake causes that have arisen by code, `erase` a tamper erase that the next bring-up follows, and
`wakeInput`, `wakeRtc` the stamp to be made. The sensors whose reports wait for the next wake are in `held`, with the RTC
and the response of each trip. DESIGN CHOICE: log 89. -/
structure Keep where
  rtc : BitVec 48
  rtcSet : BitVec 48
  rtcOvf : Bool
  alarm : BitVec 48
  alarmWake : Bool
  tamperWake : Bool
  wen : BitVec 128
  resp : BitVec 10
  tripped : BitVec 5
  reports : BitVec 12
  trec : TampRec
  wit : WitRec
  w0 : WitHalf
  w1 : WitHalf
  parts : BitVec 12
  rec0 : TallyRec
  rec1 : TallyRec
  latches : BitVec 128
  sense : Sparse (BitVec 2)
  causes : BitVec 5
  wakeInput : Octet
  wakeRtc : Cell
  wakeReq : Bool
  keepReq : Bool
  inKeep : Bool
  erase : Bool
  held : List (BitVec 3 × BitVec 2 × BitVec 48)
  vfield : Octet
  vfieldOn : Bool
  vcoreOk : Bool
deriving DecidableEq, Repr

/-! ## Clocks, pins and fuses (R371, R580-R592) -/

/-- The frame tick generator (R371): source, period, counts, missed ticks in a row and fallback. -/
structure TickGen where
  ext : Bool
  fallback : Bool
  early : BitVec 10
  missed : BitVec 10
  period : BitVec 14
  inRow : Nat
deriving DecidableEq, Repr

/-- The boundary (R95, R580-R592): the tie-off inputs as sampled, the PLL's state, the fuse rows, the fuse frame that is
being programmed and the level of FUSE_VPP. DEDUCED: log 88. -/
structure Boundary where
  tieCard : Bool
  tieSc7816 : Bool
  tieFsync : Bool
  tieTrace : Bool
  evin : Octet
  pllLocked : Bool
  holdover : Bool
  fuses : Sparse (BitVec 32)
  loaded : Sparse (BitVec 32)
  frame : Option (BitVec 40)
  vpp : Bool
deriving DecidableEq, Repr

/-! ## The block -/

/-- A message in parts: the command it began under, its variant, and its IV, additional data and text so far (R356). -/
structure Message where
  sel : BitVec 6
  variant : Bool
  iv : List Octet
  aad : List Octet
  text : List Octet
deriving DecidableEq, Repr

/-- The state of the block. `ram` holds the SRAM of both halves and the retained cells by data address, `nvm` the
programmed lines of both halves by global logical line number, `free` the number of free values drawn, `messages` what
the state cells of multi-part messages stand for, by the number of their draw; waiting commands stand in `pending`, oldest
first. DESIGN CHOICE: log 2, 5, 91. DEDUCED: log 11. -/
structure State where
  h0 : Half
  h1 : Half
  evc : Evc
  mbx : Mbx
  host : HostPort
  crd : Crd
  cht : Cht
  rollback : Cell
  store : List StoreProg
  mct : Mct
  flt : Flt
  vlt : Vault
  rng : Rng
  dbk : DbkRing
  prt : Prt
  dbg : Dbg
  keep : Keep
  tick : TickGen
  bnd : Boundary
  ram : Sparse TCell
  nvm : Sparse (Option NvmLine)
  free : Nat
  messages : List (Nat × Message)
  pending : List Instr
deriving DecidableEq, Repr

/-! ## Reset values -/

/-- The execution state of a half held in reset (R37, R150, R213, R226). DESIGN CHOICE: log 9. -/
def Exec.reset : Exec :=
  { mode := 0, modeBefore := 0, doze := false, onPll := false, running := none, banks := [], heads := [], chain := [],
    waiting := none, fencing := false, revoking := none, arith := none, groupOpen := none, reads := [], frec := [],
    flevel := ⟨0o777777777777, 0o7700⟩, esc := ⟨0, 0⟩, escSrc := 0, escAt := none, mint := ⟨0, 0⟩, mintN := 0, mintPend := none,
    mintSt := 0, rstCtx := 0, rstPend := [], repu := false, dbgFrames := [], dbgSkip := false, fed := none, ckpt := [], kept := [],
    flevelEff := ⟨0o777777777777, 0o7700⟩ }

/-- The windows of a half at half reset (R249). DESIGN CHOICE: log 9. -/
def Windows.reset : Windows :=
  { num := 0, slots := 0, sig := 0, stores := 0, group := false, logged := 0, rollbacks := 0, resyncs := 0,
    closed := [], mark := none, sb := [], log := [], rolling := false, redo := none, replay := none, replayLog := [], replayPos := 0, held := [],
    prtCloses := 0, prtOnce := false, items := [], ticks := [], acts := [], closeDue := false, taken := false }

/-- The tally of a half at half reset without charter values (R240, R271, R276, R280, R284). DESIGN CHOICE: log 9. -/
def Tally.reset : Tally :=
  { la := ⟨.out, 0, 0⟩, lb := ⟨.out, 2, 2⟩, lc := ⟨.out, 4, 4⟩, cmpLost := false, portLost := false,
    failedInject := false, injGo := false, injState := 0, injCases := 0, injOk := false, drain := 4095,
    drainDue := false, slowDrain := 65536, slowDue := false, burstHist := [], burstBit := false, slowBit := false,
    taken := 0, slowThr := 16, attResp := 0, auditEn := true, auditNow := false, auditNext := 0, auditLast := 0,
    auditPass := false, period := 3600000, countdown := 1200000, audits := [], auditTrig := none, fenceReq := 0 }

/-- The MEM unit of a half as shipped (R318, R331, R340-R342): `spares` lists the free spares of each bank.
DESIGN CHOICE: log 6. -/
def MemUnit.reset : MemUnit :=
  { hold := 64, patrolEn := true, kcFlush := false, merge := [], allocs := [], keyCache := [], due := 0, done := 0,
    sramCor := 0, sramUnc := 0, nvmCor := 0, nvmInt := 0, lastErr := 0, bad := [], spares := [64, 64, 64, 64, 64, 64, 64, 64],
    locked := 0, lockedLines := [], remapped := [], wear := [], pselOvf := 0, psel := 0, perf0 := 0, perf1 := 0,
    perf2 := 0, perf3 := 0, imgs := [], patrolS := [], patrolN := [], arb := [], lastServed := 0,
    keys := 0 }

/-- The reckoner of a half at half reset (R367, R370). DEDUCED: log 10. -/
def Reckoner.reset : Reckoner :=
  { ownValid := false, ownCtx := 0, ownNext := none, held := false, tenant := 0, wide := [], queue := [], seq := 0,
    status := [], latch := false, restarts := 0, selfchk := 0, refused := 0, failed := 0 }

/-- A schedule table without entries. DESIGN CHOICE: log 8. -/
def SchTable.zero : SchTable := ⟨[], 0, 0⟩

/-- The scheduler of a half at half reset without charter values (R398-R401). DESIGN CHOICE: log 8. -/
def Sched.reset : Sched :=
  { active := SchTable.zero, shadow := SchTable.zero, checking := none, accepted := none, en := true, sel := 0,
    adm := 0, code := 0, bad := 0, cur := none, left := 0, waitCtx := false, expired := false, starved := false,
    disturbed := false, evOver := false, overruns := 0, cuts := 0, skips := 0, evLeft := 0, started := [],
    allowLeft := [], frame := 0 }

/-- The ceilings of R390 without charter values. -/
def costsReset : Sparse Nat := [(0, 5), (1, 20), (2, 50), (3, 100), (4, 200), (5, 500), (6, 11), (7, 11)]

/-- The governor of a half at half reset without charter values (R402, R403). -/
def Gov.reset : Gov :=
  { sagThr := 42, cap := 125, run := 104, runEarly := 88, standing := 60, sag := false, nvmHold := false, temp := 0,
    remaining := 0, tfac := 1000, beff := 0, sysLeft := 0, leases := [], leaseEntry := [], sags := 0, dips := 0,
    revoked := 0, deferred := 0, refused := 0, throttled := 0, costs := costsReset, ticked := false }

/-- A path that is down (R289). -/
def PathState.reset : PathState := ⟨false, false, 0, [], 0, 0⟩

/-- The span endpoint of a half at cold reset (R293-R302). DESIGN CHOICE: log 6. -/
def SpanEnd.reset : SpanEnd :=
  { state := 2, pa := PathState.reset, pb := PathState.reset, crcLim := 16, retries := 0, replay := false, peer := 0,
    peerMode := 0, peerFrame := 0, out := [], nextId := 0, applyGen := [],
    mig := ⟨0, 0, 0, 0, 0, 0, 0, false⟩, ringTable := 0, ringWritten := 0, ringLost := 0, tables := ⟨[], [], []⟩,
    store := ⟨[], [], []⟩, changed := [], genSent := none, peerState := 0, watch := none }

/-- An empty daybook queue (R543). -/
def DbkQueue.reset : DbkQueue :=
  { queue := [], sagFirst := none, overflow := false, coal := [], counts := [], commits := 0, granted := false,
    rsel := 0 }

/-- A half whose reset has not been released. DESIGN CHOICE: log 9. -/
def BringUp.reset : BringUp := ⟨false, false, false, false, false, false⟩

/-- A half held in reset. -/
def Half.reset : Half :=
  { ex := Exec.reset, line := ⟨none, false, none, false⟩, win := Windows.reset, tal := Tally.reset,
    mem := MemUnit.reset, rkn := Reckoner.reset, sch := Sched.reset, gov := Gov.reset, spn := SpanEnd.reset,
    dbk := DbkQueue.reset, rng := ⟨false, 0, 0⟩, up := BringUp.reset }

/-- The routes of the sources marked with half 1, which a reset without charter value sends to global context 32
(R405, R407). -/
def routesReset : Sparse (BitVec 6) :=
  [(201, 32), (203, 32), (205, 32), (207, 32), (209, 32), (211, 32), (213, 32), (215, 32), (217, 32), (219, 32),
   (221, 32), (225, 32), (227, 32), (229, 32), (231, 32), (239, 32)]

/-- The event controller at block reset without charter values (R426-R429). DESIGN CHOICE: log 7. -/
def Evc.reset : Evc :=
  { pend := 0, act := 0, en := 0, route := routesReset, pri := [], coal := [], split := 3, done := 0, doneMiss := 0,
    missOvf := false, timeBase := 0, tcmp := [], wake := ⟨false, 0, 0, 0⟩, level := 0 }

/-- The mailboxes after main-domain power-up (R436-R452); the next block reset finds nothing to do (R447).
DESIGN CHOICE: log 9. -/
def Mbx.reset : Mbx :=
  { chans := [], cross := [], grants := 0, hostReset := false, hostKeep := false, dbOut := 0, dbAck := 0, dbSw := 0,
    masks := [], delayed := [], detached := true }

/-- The card port at block reset without charter values (R474-R478). DESIGN CHOICE: log 7, 9. DEDUCED: log 10. -/
def Crd.reset : Crd :=
  { en := false, cfg := CrdCfg.reset, act := CrdCfg.reset, detect := false, card := 0, w4 := false, clk := 0, cls := 0,
    stopped := false, fidi := 0, detCnt := 0, cmd0 := 0, dir := false, p3 := 0, off := 0, len := 0, op := 0, n := 0,
    xst := CrdXst.zero, nextSeq := 0, retries := 0, crc := 0, timeouts := 0, parity := 0, busyIgn := 0, atr := [],
    phase := .idle, xfer := none, tries := 0, blkTries := 0, chars := 0, fresh := false, pars := IsoPars.reset,
    held := [] }

/-- The charter port at block reset, before a charter is read (R504). DESIGN CHOICE: log 8. -/
def Cht.reset : Cht :=
  { buf := [], slot := 0, quad := false, fault := false, ver := 0, rej0 := 0, rej1 := 0, bsel := 0, tstTenant := 0,
    imgs := [], updN := 0, updOff := 0, updLen := 0, upd := none, ustState := 0, ustCode := 0, digest := 0,
    kind := .cold, installed := false, seen := none }

/-- The vault as shipped: roots valid, and the two identity slots filled (R515-R517). DESIGN CHOICE: log 6. -/
def Vault.reset : Vault :=
  { locked := false, roots := true, slots := [(0, ⟨.identity, 7, 0, .identity⟩), (1, ⟨.identity, 1, 0, .identity⟩)], op := 0, type := 0, owner := 0, slot := 0, impN := 0, impOff := 0,
    res := [] }

/-- The random number generator at block reset (R532). -/
def Rng.reset : Rng :=
  { state := 0, srcFail := 0, raw := false, rawSrc := 3, reseedInt := 4096, fifo := [], overrun := false, rct := 0,
    apt := 0, starts := 0, fails := [0, 0, 0, 0], retried := false, seed := false, resumes := false }

/-- The daybook ring as shipped (R535, R546). DESIGN CHOICE: log 6. -/
def DbkRing.reset : DbkRing :=
  { ring := [], head := 0, wrapped := false, commits := 0, lost := 0, tenantPut := false, put := ⟨0, 0⟩,
    lastClass := 0, lastFrame := 0, keepLost := none }

/-- The perturbation controls at block reset (R552). -/
def Prt.reset : Prt := ⟨0, 0, 0, 0, 0, 0o004000000001⟩

/-- A half without debug action. DESIGN CHOICE: log 9. -/
def DbgHalf.reset : DbgHalf := ⟨false, none, false⟩

/-- The debug unit as shipped (R556, R576). DESIGN CHOICE: log 6. DEDUCED: log 10. -/
def Dbg.reset : Dbg :=
  { lock := .locked, attach := false, halves := 0, n := 1, ctx := 0, feed := 0, feedSt := ⟨0, 0⟩, chalValid := false,
    chal := 0, resp := [], rsel := 0, bp := [], maddr := 0, mdat := 0, mst := 0, mstg := [], mpost := 0,
    trcEn := false, trcPort := false, trcWrap := false, dropped := 0, gap := 0, seq := 0, buf := [], taken := 0,
    scanAddr := 0, scanSt := 0, scanData := 0, fails := 0, unlocks := 0, d0 := DbgHalf.reset, d1 := DbgHalf.reset,
    emulated := false }

/-- The keep domain after a cold reset (R530, R531); VCORE is absent and VFIELD stands at 12 V. DESIGN CHOICE: log 7. -/
def Keep.reset : Keep :=
  { rtc := 0, rtcSet := 0, rtcOvf := false, alarm := BitVec.allOnes 48, alarmWake := false, tamperWake := true,
    wen := 0, resp := 0b0000001010, tripped := 0, reports := 0, trec := ⟨false, 0, 0, 0⟩, wit := ⟨false, false, 0, 0, 0⟩,
    w0 := ⟨false, false, 0, none⟩, w1 := ⟨false, false, 0, none⟩, parts := 0, rec0 := TallyRec.zero,
    rec1 := TallyRec.zero, latches := 0, sense := [], causes := 0, wakeInput := 0, wakeRtc := 0, wakeReq := false,
    keepReq := false, inKeep := false, erase := false, held := [], vfield := 120, vfieldOn := true, vcoreOk := false }

/-- The tick generator without charter values (R371, R401). DESIGN CHOICE: log 8. -/
def TickGen.reset : TickGen := ⟨false, false, 0, 0, 1000, 0⟩

/-- The boundary: every optional unit connected, 128 event inputs, blank fuses with FUSE_VPP at 1.8 V, as in manufacture
(R580, R592). DESIGN CHOICE: log 7. -/
def Boundary.reset : Boundary :=
  { tieCard := true, tieSc7816 := true, tieFsync := true, tieTrace := true, evin := 128, pllLocked := false,
    holdover := false, fuses := [], loaded := [], frame := none, vpp := true }

/-- The block right after a cold reset (R479, R589): isolated with ISO_ACK high, both halves held in reset, memory
with nothing listed, no command waiting. DESIGN CHOICE: log 6. -/
def State.reset : State :=
  { h0 := Half.reset, h1 := Half.reset, evc := Evc.reset, mbx := Mbx.reset,
    host := ⟨false, true, false, false, true, ⟨0, .okay⟩⟩, crd := Crd.reset, cht := Cht.reset, rollback := 0,
    store := [], mct := ⟨[], []⟩, flt := ⟨0, 0, [], [], [], 0, []⟩, vlt := Vault.reset, rng := Rng.reset,
    dbk := DbkRing.reset, prt := Prt.reset, dbg := Dbg.reset, keep := Keep.reset, tick := TickGen.reset,
    bnd := Boundary.reset, ram := [], nvm := [], free := 0, messages := [], pending := [] }

end Sys2Proof.Machine
end

