-- ==== Sys2Proof/Machine/Ops.lean ====
section
/-! DEFINITION. The named operations over the state: halves, banks, positions, the tally record, channels, and the writer
of a register write. -/

namespace Sys2Proof.Machine

/-! ## Halves -/

/-- A half of the block. -/
def State.half (s : State) : HalfId → Half
  | .h0 => s.h0
  | .h1 => s.h1

/-- The block with a half replaced. -/
def State.setHalf (s : State) : HalfId → Half → State
  | .h0, x => { s with h0 := x }
  | .h1, x => { s with h1 := x }

/-- The block with a half changed. -/
def State.onHalf (s : State) (h : HalfId) (f : Half → Half) : State := s.setHalf h (f (s.half h))

/-- The execution state of a half. -/
def State.ex (s : State) (h : HalfId) : Exec := (s.half h).ex

/-- The block with a half's execution state changed. -/
def State.onEx (s : State) (h : HalfId) (f : Exec → Exec) : State := s.onHalf h fun x => { x with ex := f x.ex }

/-- The block with a half's windows changed. -/
def State.onWin (s : State) (h : HalfId) (f : Windows → Windows) : State := s.onHalf h fun x => { x with win := f x.win }

/-- The block with a half's tally changed. -/
def State.onTal (s : State) (h : HalfId) (f : Tally → Tally) : State := s.onHalf h fun x => { x with tal := f x.tal }

/-- The block with a half's MEM unit changed. -/
def State.onMem (s : State) (h : HalfId) (f : MemUnit → MemUnit) : State := s.onHalf h fun x => { x with mem := f x.mem }

/-- The block with a half's reckoner changed. -/
def State.onRkn (s : State) (h : HalfId) (f : Reckoner → Reckoner) : State :=
  s.onHalf h fun x => { x with rkn := f x.rkn }

/-- The block with a half's scheduler changed. -/
def State.onSch (s : State) (h : HalfId) (f : Sched → Sched) : State := s.onHalf h fun x => { x with sch := f x.sch }

/-- The block with a half's governor changed. -/
def State.onGov (s : State) (h : HalfId) (f : Gov → Gov) : State := s.onHalf h fun x => { x with gov := f x.gov }

/-- The block with a half's span endpoint changed. -/
def State.onSpn (s : State) (h : HalfId) (f : SpanEnd → SpanEnd) : State := s.onHalf h fun x => { x with spn := f x.spn }

/-- The block with a half's daybook queue changed. -/
def State.onDbk (s : State) (h : HalfId) (f : DbkQueue → DbkQueue) : State := s.onHalf h fun x => { x with dbk := f x.dbk }

/-- The block with a half's bring-up changed. -/
def State.onUp (s : State) (h : HalfId) (f : BringUp → BringUp) : State := s.onHalf h fun x => { x with up := f x.up }

/-- The mode of a half (R37). -/
def State.mode (s : State) (h : HalfId) : BitVec 3 := (s.ex h).mode

/-- The mode codes of R37. -/
def mOff : BitVec 3 := 0
/-- EARLY (R37). -/
def mEarly : BitVec 3 := 1
/-- TALLIED (R37). -/
def mTallied : BitVec 3 := 2
/-- PAIRED (R37). -/
def mPaired : BitVec 3 := 3
/-- READING-ROOM (R37). -/
def mReading : BitVec 3 := 4
/-- HALT (R37). -/
def mHalt : BitVec 3 := 5
/-- KEEP (R37). -/
def mKeep : BitVec 3 := 7

/-- A half runs instructions in these modes (R5, R37). -/
def runningMode (m : BitVec 3) : Bool := m == mEarly || m == mTallied || m == mPaired || m == mReading

/-- The half is in a running mode. -/
def State.running (s : State) (h : HalfId) : Bool := runningMode (s.mode h)

/-- The mode that votes and lanes go by: in HALT or emulated KEEP, the mode before it. -/
def State.runMode (s : State) (h : HalfId) : BitVec 3 :=
  if s.mode h = mHalt ∨ s.mode h = mKeep then (s.ex h).modeBefore else s.mode h

/-- NVM writes, counter increments and the like are refused in EARLY and READING-ROOM (R6, R7). DEDUCED: log 31. -/
def State.lockedMode (s : State) (h : HalfId) : Bool := s.runMode h == mEarly || s.runMode h == mReading

/-! ## Banks -/

/-- The bank of a local context (R150). -/
def Half.bank (x : Half) (k : BitVec 5) : Bank := sget Bank.reset x.ex.banks k.toNat

/-- The bank of a local context of a half. -/
def State.bank (s : State) (h : HalfId) (k : BitVec 5) : Bank := (s.half h).bank k

/-- The block with a bank replaced. -/
def State.setBank (s : State) (h : HalfId) (k : BitVec 5) (b : Bank) : State :=
  s.onEx h fun e => { e with banks := sput Bank.reset e.banks k.toNat b }

/-- The block with a bank changed. -/
def State.onBank (s : State) (h : HalfId) (k : BitVec 5) (f : Bank → Bank) : State := s.setBank h k (f (s.bank h k))

/-- The bank of the running context, with its number. -/
def State.runBank (s : State) (h : HalfId) : Option (BitVec 5 × Bank) :=
  match (s.ex h).running with
  | none => none
  | some k => some (k, s.bank h k)

/-- The global number of a local context: half and number (R4). -/
def gctx (h : HalfId) (k : BitVec 5) : BitVec 6 := BitVec.ofNat 6 (32 * h.toNat + k.toNat)

/-- The half of a global context. -/
def gHalf (g : BitVec 6) : HalfId := if g.toNat < 32 then .h0 else .h1

/-- The local number of a global context. -/
def gLocal (g : BitVec 6) : BitVec 5 := g.extractLsb' 0 5

/-! ## Status cells (R151) -/

/-- The W bit: warden mode. -/
def stW (c : Cell) : Bool := bit c 35
/-- The C bit: carry. -/
def stC (c : Cell) : Bool := bit c 34
/-- The V bit: overflow. -/
def stV (c : Cell) : Bool := bit c 33
/-- The IE bit: events enabled. -/
def stIE (c : Cell) : Bool := bit c 32
/-- The MASK field. -/
def stMask (c : Cell) : BitVec 3 := fld c 29 3
/-- The PREC bit: precise faults. -/
def stPrec (c : Cell) : Bool := bit c 28

/-- A status cell with C and V replaced. -/
def withCV (c : Cell) (cy v : Bool) : Cell := setBit (setBit c 34 cy) 33 v

/-- A status cell with MASK replaced. -/
def withMask (c : Cell) (m : BitVec 3) : Cell := (c &&& ~~~(atBits (7 : BitVec 3) 29)) ||| atBits m 29

/-! ## The tenants' tables (R287) -/

/-- The generations that CREVOKEs of a half have given a tenant and whose windows have not agreed (R148). -/
def pendingGens (w : Windows) (t : BitVec 10) : List (BitVec 4) :=
  w.sb.filterMap fun e => match e.target with
    | .gen u g => if u = t ∧ e.agreed = false then some g else none
    | _ => none

/-- The current generation of a tenant in a half: its table, or the CREVOKE of a window that has closed and not agreed. -/
def State.genOf (s : State) (h : HalfId) (t : BitVec 10) : BitVec 4 :=
  ((pendingGens (s.half h).win t).getLast?).getD (sget 0 (s.half h).spn.tables.gen t.toNat)

/-- The home half of a tenant in a half's home map; tenant 0 is at home in each half (R489). -/
def State.homeOf (s : State) (h : HalfId) (t : BitVec 10) : HalfId :=
  if t = 0 then h else if sget false (s.half h).spn.tables.home t.toNat then .h1 else .h0

/-- A half's table and its copy in the commons store, with a tenant's generation set (R287). -/
def SpanEnd.setGen (p : SpanEnd) (t : BitVec 10) (g : BitVec 4) : SpanEnd :=
  { p with tables := { p.tables with gen := sput 0 p.tables.gen t.toNat g },
           store := { p.store with gen := sput 0 p.store.gen t.toNat g } }

/-- The half has taken a tenant's home by the first commit step of a migration (R299). -/
def TenantTables.takes (x : TenantTables) (t : BitVec 10) : TenantTables := { x with taken := t :: x.taken.erase t }

/-- The half lets the tenant go: it starts a migration of its own (R299). -/
def TenantTables.untaken (x : TenantTables) (t : BitVec 10) : TenantTables := { x with taken := x.taken.filter fun u => u != t }

/-- A half's home map and its copy in the commons store, with a tenant's home set (R287). -/
def SpanEnd.setHome (p : SpanEnd) (t : BitVec 10) (h : HalfId) : SpanEnd :=
  { p with tables := { p.tables with home := sput false p.tables.home t.toNat (h == .h1) },
           store := { p.store with home := sput false p.store.home t.toNat (h == .h1) } }

/-! ## The tally record and the lanes (R240, R275) -/

/-- A half's tally record in the keep domain. -/
def State.trec (s : State) : HalfId → TallyRec
  | .h0 => s.keep.rec0
  | .h1 => s.keep.rec1

/-- The block with a half's tally record changed. -/
def State.onTrec (s : State) (h : HalfId) (f : TallyRec → TallyRec) : State :=
  match h with
  | .h0 => { s with keep := { s.keep with rec0 := f s.keep.rec0 } }
  | .h1 => { s with keep := { s.keep with rec1 := f s.keep.rec1 } }

/-- A lane's part of a tally record. -/
def TallyRec.lane (r : TallyRec) : Lane → LaneRec
  | .a => r.a
  | .b => r.b
  | .c => r.c

/-- A tally record with a lane's part changed. -/
def TallyRec.onLane (r : TallyRec) (l : Lane) (f : LaneRec → LaneRec) : TallyRec :=
  match l with
  | .a => { r with a := f r.a }
  | .b => { r with b := f r.b }
  | .c => { r with c := f r.c }

/-- A lane of a tally. -/
def Tally.lane (t : Tally) : Lane → LaneState
  | .a => t.la
  | .b => t.lb
  | .c => t.lc

/-- A tally with a lane changed. -/
def Tally.onLane (t : Tally) (l : Lane) (f : LaneState → LaneState) : Tally :=
  match l with
  | .a => { t with la := f t.la }
  | .b => { t with lb := f t.lb }
  | .c => { t with lc := f t.lc }

/-- The number of a lane, 0-2. -/
def laneNo : Lane → BitVec 2
  | .a => 0
  | .b => 1
  | .c => 2

/-- The lane of a number; 3 stands for C. -/
def laneOf (n : BitVec 2) : Lane := if n = 0 then .a else if n = 1 then .b else .c

/-- The lanes in letter order. -/
def lanes : List Lane := [.a, .b, .c]

/-- The lanes that contribute signatures, in letter order (R285). -/
def Tally.inService (t : Tally) : List Lane := lanes.filter fun l => (t.lane l).work == .inService

/-- Three bits, lane A highest (R285). -/
def laneBits (p : Lane → Bool) : BitVec 3 :=
  (if p .a then 4 else 0) ||| (if p .b then 2 else 0) ||| (if p .c then 1 else 0)

/-! ## Writers (R200, R301, R455) -/

/-- The writer that the running context of a half is: none while no context runs. -/
def State.writer (s : State) (h : HalfId) : Option Writer :=
  match s.runBank h with
  | none => none
  | some (k, b) => some ⟨h, k, b.tenant, s.genOf h b.tenant, stW b.status⟩

/-- Capability register Cn of a bank. -/
def Bank.cap (b : Bank) (n : BitVec 2) : Cap :=
  if n = 0 then b.c0 else if n = 1 then b.c1 else if n = 2 then b.c2 else b.c3

/-- A bank with capability register Cn replaced. -/
def Bank.setCap (b : Bank) (n : BitVec 2) (c : Cap) : Bank :=
  if n = 0 then { b with c0 := c } else if n = 1 then { b with c1 := c }
  else if n = 2 then { b with c2 := c } else { b with c3 := c }

/-- A copy of a capability with whether its generation passes step 2 of R55: steps 0 and 1 go first, and an untagged copy
or one of another space is not examined further (R55, R352, R455, R500, R519). -/
def State.snapCap (s : State) (h : HalfId) (c : Cap) : CapSnap :=
  ⟨c, !c.tag || c.space != 0 || c.gen == s.genOf h c.tenant⟩

/-! ## Free values -/

/-- The block after one more free value has been drawn. DESIGN CHOICE: log 5. -/
def State.draw (s : State) : State := { s with free := s.free + 1 }

/-- The half is held in reset: its reset has not been released (R35). -/
def State.heldInReset (s : State) (h : HalfId) : Bool := !(s.half h).up.released

end Sys2Proof.Machine
end

