-- ==== Sys2Proof/Machine/Report.lean ====
section
/-! DEFINITION. Raising event sources through the coalescers (R404-R409, R418, R424) and reporting to the daybook
(R535-R544). -/

namespace Sys2Proof.Machine

/-! ## Sources -/

/-- A source that can become pending: not reserved, and connected when it is an external input (R406). -/
def sourceExists (evin : Octet) (src : Nat) : Bool :=
  (decide (evin.toNat ≤ src ∧ src < 128) || src == 223 || decide (240 ≤ src)) == false

/-- A source marked with a half in R405. -/
def sourceMarked (src : Nat) : Bool :=
  (decide (200 ≤ src) && decide (src ≤ 221)) || (decide (224 ≤ src) && decide (src ≤ 231)) || src == 238 || src == 239

/-- The half that a marked source belongs to (R405). -/
def sourceHalf (src : Nat) : HalfId := if src % 2 = 0 then .h0 else .h1

/-- The pending bit of a source set, where the source exists (R406, R408). -/
def setPending (s : State) (src : Nat) : State :=
  if sourceExists s.bnd.evin src then { s with evc := { s.evc with pend := setBit s.evc.pend src true } } else s

/-- The coalescer of a source holds what makes it fire (R418): the count, or the time since the first held edge. -/
def coalDue (c : Coal) (now : BitVec 72) : Bool :=
  decide (c.cthr ≤ c.held) ||
    (c.tthr != 0 && c.held != 0 && decide (600 * c.tthr.toNat ≤ (now - c.since).toNat))

/-- A coalescer that has fired: nothing held (R418). -/
def coalFire (s : State) (src : Nat) : State :=
  let c := sget Coal.reset s.evc.coal src
  setPending { s with evc := { s.evc with coal := sput Coal.reset s.evc.coal src { c with held := 0, since := 0 } } } src

/-- An edge of a source: counted by its coalescer, which fires when it is due; sources 224 and above fire on every edge
(R408, R418). DEDUCED: log 61. -/
def raiseSource (s : State) (src : Nat) : State :=
  if !sourceExists s.bnd.evin src then s
  else if 224 ≤ src then setPending s src
  else
    let c := sget Coal.reset s.evc.coal src
    let c' := { c with held := satInc c.held, since := if c.held = 0 then s.evc.timeBase else c.since }
    let s' := { s with evc := { s.evc with coal := sput Coal.reset s.evc.coal src c' } }
    if coalDue c' s.evc.timeBase then coalFire s' src else s'

/-- A source marked with the half, whose number for half 0 is `base` (R405). -/
def raiseHalf (s : State) (h : HalfId) (base : Nat) : State := raiseSource s (base + h.toNat)

/-- A commons counter has wrapped: source 222 (R424). -/
def commonsOverflow (s : State) : State := raiseSource s 222

/-! ## The daybook -/

/-- The units of R535. -/
inductive DbkUnit where
  | tly | mem | spn | rkn | sch | gov | evc | mbx | crd | cht | kep | rng | vlt | flt | prt | firmware
deriving DecidableEq, Repr

/-- The unit code of R535. -/
def unitCode : DbkUnit → BitVec 4
  | .tly => 0 | .mem => 1 | .spn => 2 | .rkn => 3 | .sch => 4 | .gov => 5 | .evc => 6 | .mbx => 7
  | .crd => 8 | .cht => 9 | .kep => 10 | .rng => 11 | .vlt => 12 | .flt => 13 | .prt => 14 | .firmware => 15

/-- The origin code of a half-local report (R535). -/
def originOf : HalfId → BitVec 2
  | .h0 => 1
  | .h1 => 2

/-- Cell 1 of an entry (R535). -/
def dbkHead (summary : Bool) (cls : BitVec 5) (origin : BitVec 2) (unit : BitVec 4) (ctx : Option (BitVec 5))
    (lane : Option Lane) (retained : Bool) : Cell :=
  atBit summary 35 ||| atBits cls 30 ||| atBits origin 28 ||| atBits unit 24 |||
  (match ctx with
   | none => 0
   | some k => atBit true 23 ||| atBits k 18) |||
  (match lane with
   | none => atBits (3 : BitVec 2) 16
   | some l => atBits (laneNo l) 16) |||
  atBit retained 15

/-- The class of an entry's cell 1 (R535). -/
def dbkClass (e : DbkEntry) : BitVec 5 := fld e.d1 30 5

/-- An entry marked as a retained copy (R542). -/
def dbkRetained (e : DbkEntry) : DbkEntry := { e with d1 := setBit e.d1 15 true }

/-- An entry marked as a summary (R542). -/
def dbkSummary (e : DbkEntry) (frame c2 c3 : Cell) : DbkEntry := ⟨frame, setBit e.d1 35 true, c2, c3⟩

/-- The coalesced state of a class after one more report (R541). DEDUCED: log 80. -/
def coalesce (o : Option DbkCoal) (e : DbkEntry) : DbkCoal :=
  match o with
  | none => ⟨1, e, e⟩
  | some c => ⟨satInc c.count, c.first, e⟩

/-- A report reaches a half's queue: queued, or coalesced from the moment it finds 64 places full until overflow ends
(R541). -/
def DbkQueue.take (q : DbkQueue) (e : DbkEntry) : DbkQueue :=
  let k := (dbkClass e).toNat
  let q := { q with counts := sput 0 q.counts k (satInc (sget 0 q.counts k)) }
  if q.overflow || decide (64 ≤ q.queue.length) then
    { q with overflow := true, coal := sput none q.coal k (some (coalesce (sget none q.coal k) e)) }
  else { q with queue := q.queue ++ [e] }

/-- The report is not queued when it arrives (R541). -/
def DbkQueue.loses (q : DbkQueue) : Bool := q.overflow || decide (64 ≤ q.queue.length)

/-- `n` more reports lost (R541, R543): DBK_LOST is a counter of R424. -/
def dbkLose (s : State) (n : Nat) : State :=
  let t := s.dbk.lost.toNat + n
  let s' := { s with dbk := { s.dbk with lost := cellOf t } }
  if 2 ^ 36 ≤ t then commonsOverflow s' else s'

/-- A commons-store program is a commit of the half's daybook queue. -/
def StoreOp.commits (o : StoreOp) (h : HalfId) : Bool :=
  match o with
  | .daybook k _ => k == h
  | _ => false

/-- A program that may not start now: a commit of a half in HALT (R540). DEDUCED: log 58. -/
def StoreProg.held (s : State) (p : StoreProg) : Bool :=
  (p.op.commits .h0 && s.mode .h0 == mHalt) || (p.op.commits .h1 && s.mode .h1 == mHalt)

/-- The list with its oldest program that is not held marked as started, where that program has its grant or needs
none (R334). DEDUCED: log 58. -/
def startOldest (s : State) : List StoreProg → List StoreProg
  | [] => []
  | p :: t =>
    if p.held s then p :: startOldest s t
    else if p.exempt || p.granted then { p with started := true } :: t else p :: t

/-- One program is in flight at a time; the oldest starts when it may (R334). DEDUCED: log 58. -/
def storePump (s : State) : State :=
  if s.store.any fun p => p.started then s else { s with store := startOldest s s.store }

/-- A commons-store program joins the queue, behind all others (R334). -/
def storeAdd (s : State) (p : StoreProg) : State := storePump { s with store := s.store ++ [p] }

/-- A commit of the half's daybook is waiting or in flight. -/
def dbkCommitting (s : State) (h : HalfId) : Bool := s.store.any fun p => p.op.commits h

/-- The next entry of a half's queue asks for its commit: at most 8 in a frame, one at a time, none in HALT; before the
half's first tick it needs no grant, and counts from its start (R539, R540, R544). DEDUCED: log 58. -/
def dbkKick (s : State) (h : HalfId) : State :=
  let x := s.half h
  if decide (8 ≤ x.dbk.commits) || dbkCommitting s h || x.ex.mode == mHalt then s
  else
    match x.dbk.queue with
    | [] => s
    | e :: _ =>
      let s := storeAdd s ⟨.daybook h e, h, !x.gov.ticked, false, false, false⟩
      if x.gov.ticked then s else s.onDbk h fun q => { q with commits := q.commits + 1 }

/-- A report reaches a half's queue (R536, R541). DEDUCED: log 80. -/
def dbkTake (s : State) (h : HalfId) (e : DbkEntry) : State :=
  let lost := (s.half h).dbk.loses
  let s := s.onDbk h fun q => q.take e
  dbkKick (if lost then dbkLose s 1 else s) h

/-- A report of a half-local unit (R536). -/
def reportHalf (s : State) (h : HalfId) (u : DbkUnit) (cls : BitVec 5) (ctx : Option (BitVec 5)) (lane : Option Lane)
    (c2 c3 : Cell) : State :=
  dbkTake s h ⟨(s.half h).sch.frame, dbkHead false cls (originOf h) (unitCode u) ctx lane false, c2, c3⟩

/-- The queue of a commons report: half 0, or half 1 while half 0 is held in reset (R536). DEDUCED: log 73. -/
def commonsQueue (s : State) : HalfId := if s.heldInReset .h0 then .h1 else .h0

/-- A report of a commons or keep-domain unit (R536). -/
def reportCommons (s : State) (u : DbkUnit) (cls : BitVec 5) (c2 c3 : Cell) : State :=
  let h := commonsQueue s
  dbkTake s h ⟨(s.half h).sch.frame, dbkHead false cls 0 (unitCode u) none none false, c2, c3⟩

/-- The entries that an emission queues for a class (R542). -/
def emission (frame : Cell) (c : DbkCoal) : List DbkEntry :=
  let gap := satOf 18 ((c.latest.d0 - c.first.d0).toNat)
  dbkRetained c.first :: (if 2 ≤ c.count.toNat then [dbkRetained c.latest] else []) ++
    [dbkSummary c.latest frame c.count (atBits gap 18)]

/-- The lowest-numbered class that holds coalesced state (R542). -/
def DbkQueue.firstCoal (q : DbkQueue) : Option (Nat × DbkCoal) :=
  match q.coal with
  | (k, some c) :: _ => some (k, c)
  | _ => none

/-- Emissions while the queue has 3 or more free places; overflow ends when no class holds coalesced state (R542). -/
def DbkQueue.emit (frame : Cell) : Nat → DbkQueue → DbkQueue
  | 0, q => q
  | n + 1, q =>
    match q.firstCoal with
    | none => { q with overflow := false }
    | some (k, c) =>
      if 61 < q.queue.length then q
      else DbkQueue.emit frame n
        { q with queue := q.queue ++ emission frame c, coal := sput none q.coal k none }

/-- The emissions that a freed place makes due (R542). -/
def dbkEmit (s : State) (h : HalfId) : State :=
  s.onDbk h fun q => if q.overflow then q.emit (s.half h).sch.frame 33 else q

/-- A commit of the half's daybook is in flight. -/
def dbkInFlight (s : State) (h : HalfId) : Bool := s.store.any fun p => p.op.commits h && p.started

/-- A half's queue, coalesced state and counts discarded, each entry lost but the one in flight (R543). -/
def dbkDiscard (s : State) (h : HalfId) : State :=
  let n := (s.half h).dbk.queue.length - (if dbkInFlight s h then 1 else 0)
  let s := storePump { s with store := s.store.filter fun p => !(p.op.commits h && !p.started) }
  dbkLose (s.onDbk h fun q => { q with queue := [], overflow := false, coal := [], counts := [], commits := 0 }) n

end Sys2Proof.Machine
end

