-- ==== Sys2Proof/Machine/Events.lean ====
section
/-! DEFINITION. The event controller: levels, the EVC registers, external inputs, compare timers and coalescers
(R404-R429). -/

namespace Sys2Proof.Machine

/-! ## Levels (R412) -/

/-- The priority field of a source. -/
def prioOf (s : State) (src : Nat) : BitVec 6 := fld (sget 0 s.evc.pri src) 0 6

/-- The sense field of a source (R420). -/
def senseOf (s : State) (src : Nat) : BitVec 2 := fld (sget 0 s.evc.pri src) 6 2

/-- The level of a priority with g group bits (R412). -/
def levelFor (g : BitVec 2) (p : BitVec 6) : Nat := p.toNat / 2 ^ (6 - g.toNat) * 2 ^ (3 - g.toNat)

/-- The sub-priority with g group bits (R412). -/
def subFor (g : BitVec 2) (p : BitVec 6) : Nat := p.toNat % 2 ^ (6 - g.toNat)

/-- The level of a source. -/
def levelOf (s : State) (src : Nat) : Nat := levelFor s.evc.split (prioOf s src)

/-- The sub-priority of a source. -/
def subOf (s : State) (src : Nat) : Nat := subFor s.evc.split (prioOf s src)

/-- The context a source is routed to (R407). -/
def routeOf (s : State) (src : Nat) : BitVec 6 := sget 0 s.evc.route src

/-- The sources whose bits are set, ascending. -/
def sourcesIn (v : BitVec 256) : List Nat := (List.range 256).filter fun i => bit v i

/-- A source comes before another: higher level, then higher sub-priority, then lower number (R428). -/
def sourceBefore (s : State) (a b : Nat) : Bool :=
  if levelOf s a ≠ levelOf s b then decide (levelOf s b < levelOf s a)
  else if subOf s a ≠ subOf s b then decide (subOf s b < subOf s a) else decide (a < b)

/-- The first of a list under an order. -/
def bestOf (before : Nat → Nat → Bool) : List Nat → Option Nat
  | [] => none
  | a :: t =>
    match bestOf before t with
    | none => some a
    | some b => if before b a then some b else some a

/-- The sources pending, enabled and routed to a context (R428). -/
def myPending (s : State) (g : BitVec 6) : List Nat :=
  (sourcesIn (s.evc.pend &&& s.evc.en)).filter fun src => routeOf s src == g

/-- EVC_MYPEND for a context (R428). -/
def evcMypend (s : State) (g : BitVec 6) : Cell :=
  let l := myPending s g
  match bestOf (sourceBefore s) l with
  | none => 0
  | some b =>
    atBit true 35 ||| atBits (BitVec.ofNat 3 (levelOf s b)) 32 |||
      atBits (l.foldl (fun m src => m ||| (1#8 <<< levelOf s src)) 0) 24 ||| atBits (satOf 8 l.length) 16 |||
      atBits (BitVec.ofNat 8 b) 0

/-! ## Register bits seen by a context (R410, R426) -/

/-- The bits of vector index k of a 256-bit register. -/
def vecBits (v : BitVec 256) (k : Nat) : BitVec 32 := v.extractLsb' (32 * k) 32

/-- A 256-bit register with the bits of index k combined. -/
def vecOr (v : BitVec 256) (k : Nat) (b : BitVec 32) : BitVec 256 := v ||| (b.setWidth 256 <<< (32 * k))

/-- A 256-bit register with bits of index k cleared. -/
def vecClear (v : BitVec 256) (k : Nat) (b : BitVec 32) : BitVec 256 := v &&& ~~~(b.setWidth 256 <<< (32 * k))

/-- A mask of 32 bits from a test of their numbers. -/
def mask32 (p : Nat → Bool) : BitVec 32 := (List.range 32).foldl (fun m i => if p i then m ||| (1#32 <<< i) else m) 0

/-- The sources of index k that a context may see and act on: all in warden mode, its own in tenant mode (R410). -/
def evcVisible (s : State) (warden : Bool) (g : BitVec 6) (k : Nat) : BitVec 32 :=
  if warden then BitVec.allOnes 32 else mask32 fun i => routeOf s (32 * k + i) == g

/-- The sources of index k that exist (R406). -/
def evcExisting (s : State) (k : Nat) : BitVec 32 := mask32 fun i => sourceExists s.bnd.evin (32 * k + i)

/-! ## Writes -/

/-- SETPEND bits (R408): set pending directly, leaving the coalescers as they are. -/
def evcSet (s : State) (k : Nat) (b : BitVec 32) : State :=
  { s with evc := { s.evc with pend := vecOr s.evc.pend k (b &&& evcExisting s k) } }

/-- CLRPEND bits (R408): a pending source becomes active. -/
def evcClr (s : State) (k : Nat) (b : BitVec 32) : State :=
  let b := b &&& vecBits s.evc.pend k
  { s with evc := { s.evc with pend := vecClear s.evc.pend k b, act := vecOr s.evc.act k b } }

/-- A DONE that found no active source counts a miss, a counter of R424 (R408, R427). -/
def evcMiss (s : State) : State :=
  let t := s.evc.doneMiss + 1
  if t = 0 then commonsOverflow { s with evc := { s.evc with doneMiss := t, missOvf := true } }
  else { s with evc := { s.evc with doneMiss := t } }

/-- A write of EVC_DONE (R408, R410). -/
def evcDoneWrite (s : State) (warden : Bool) (g : BitVec 6) (src : BitVec 8) : State :=
  let n := src.toNat
  let s := { s with evc := { s.evc with done := src } }
  if (warden || routeOf s n == g) && bit s.evc.act n then
    { s with evc := { s.evc with act := setBit s.evc.act n false } }
  else evcMiss s

/-- A write of EVC_ROUTE: ignored when it sends a marked source to the other half (R407). -/
def evcRouteWrite (s : State) (src : Nat) (g : BitVec 6) : State :=
  if sourceMarked src && gHalf g != sourceHalf src then s
  else { s with evc := { s.evc with route := sput 0 s.evc.route src g } }

/-- A write of EVC_PRI: a sense of 0b11 stores 0b00, and sources 128-255 have none (R420). -/
def evcPriWrite (s : State) (src : Nat) (c : Cell) : State :=
  let sense := if src < 128 ∧ fld c 6 2 ≠ 3 then fld c 6 2 else 0
  { s with evc := { s.evc with pri := sput 0 s.evc.pri src (sense ++ fld c 0 6) } }

/-- A write of EVC_COAL: the new thresholds apply, and a coalescer that already holds enough fires (R419). -/
def evcCoalWrite (s : State) (src : Nat) (c : Cell) : State :=
  if 224 ≤ src then s
  else
    let q := sget Coal.reset s.evc.coal src
    let q' := { q with cthr := if fld c 24 8 = 0 then 1 else fld c 24 8, tthr := fld c 8 16 }
    let s' := { s with evc := { s.evc with coal := sput Coal.reset s.evc.coal src q' } }
    if q'.held ≠ 0 ∧ coalDue q' s.evc.timeBase then coalFire s' src else s'

/-- A write of EVC_TCMP: arms the timer, all-ones disarms it (R423). -/
def evcTcmpWrite (s : State) (n : Nat) (lo hi : Cell) : State :=
  let v : BitVec 72 := hi ++ lo
  { s with evc := { s.evc with tcmp := sput Tcmp.reset s.evc.tcmp n ⟨v, v != BitVec.allOnes 72⟩ } }

/-- A write at offset `o` of the EVC by a context (R411, R425). -/
def evcWrite (s : State) (w : Writer) (o : Nat) (x0 x1 : Cell) : State :=
  let g := gctx w.half w.ctx
  if o < 0o10 then s
  else if o < 0o20 then evcSet s (o - 0o10) (fld x0 0 32 &&& evcVisible s w.warden g (o - 0o10))
  else if o < 0o30 then evcClr s (o - 0o20) (fld x0 0 32 &&& evcVisible s w.warden g (o - 0o20))
  else if o < 0o40 then
    let k := o - 0o30
    let b := fld x0 0 32 &&& evcExisting s k
    { s with evc := { s.evc with en := vecOr (vecClear s.evc.en k (BitVec.allOnes 32)) k b } }
  else if o = 0o50 then { s with evc := { s.evc with split := if fld x0 0 2 = 0 then 1 else fld x0 0 2 } }
  else if o = 0o51 then evcDoneWrite s w.warden g (fld x0 0 8)
  else if o = 0o52 then { s with evc := { s.evc with doneMiss := x0 } }
  else if o = 0o54 then { s with evc := { s.evc with timeBase := x1 ++ x0 } }
  else if o = 0o56 then if bit x0 35 then { s with evc := { s.evc with wake := ⟨false, 0, 0, 0⟩ } } else s
  else if 0o60 ≤ o ∧ o < 0o70 then evcTcmpWrite s ((o - 0o60) / 2) x0 x1
  else if o = 0o70 then if bit x0 0 then { s with evc := { s.evc with missOvf := false } } else s
  else if 0o400 ≤ o ∧ o < 0o1000 then evcRouteWrite s (o - 0o400) (fld x0 0 6)
  else if 0o1000 ≤ o ∧ o < 0o1400 then evcPriWrite s (o - 0o1000) x0
  else if 0o1400 ≤ o ∧ o < 0o2000 then evcCoalWrite s (o - 0o1400) x0
  else s

/-! ## Reads -/

/-- EVC_WAKE cell 0 (R422). -/
def wakeCell (w : WakeStamp) : Cell := atBit w.valid 35 ||| atBits w.cause 32 ||| atBits w.input 0

/-- The registers of the EVC as a context reads them (R410, R425-R429); an address no register occupies reads none. -/
def evcRead (s : State) (warden : Bool) (g : BitVec 6) (o : Nat) : Option (Cell × Cell) :=
  let vis (v : BitVec 256) (k : Nat) : Option (Cell × Cell) :=
    some (atBits (vecBits v k &&& evcVisible s warden g k) 0, 0)
  if o < 0o10 then vis s.evc.pend o
  else if o < 0o20 then vis s.evc.pend (o - 0o10)
  else if o < 0o30 then vis s.evc.pend (o - 0o20)
  else if o < 0o40 then some (atBits (vecBits s.evc.en (o - 0o30)) 0, 0)
  else if o < 0o50 then vis s.evc.act (o - 0o40)
  else if o = 0o50 then some (atBits s.evc.split 0, 0)
  else if o = 0o51 then some (atBits s.evc.done 0, 0)
  else if o = 0o52 then some (s.evc.doneMiss, 0)
  else if o = 0o53 then some (evcMypend s g, 0)
  else if o = 0o54 then some (fld s.evc.timeBase 0 36, fld s.evc.timeBase 36 36)
  else if o = 0o56 then some (wakeCell s.evc.wake, s.evc.wake.rtc)
  else if 0o60 ≤ o ∧ o < 0o70 then
    let t := sget Tcmp.reset s.evc.tcmp ((o - 0o60) / 2)
    some (fld t.val 0 36, fld t.val 36 36)
  else if o = 0o70 then some (atBit s.evc.missOvf 0, 0)
  else if 0o400 ≤ o ∧ o < 0o1000 then some (atBits (routeOf s (o - 0o400)) 0, 0)
  else if 0o1000 ≤ o ∧ o < 0o1400 then some (atBits (sget 0 s.evc.pri (o - 0o1000)) 0, 0)
  else if 0o1400 ≤ o ∧ o < 0o2000 then
    let c := sget Coal.reset s.evc.coal (o - 0o1400)
    some (atBits c.cthr 24 ||| atBits c.tthr 8 ||| atBits c.held 0, 0)
  else none

/-! ## Time (R423) -/

/-- The time base after `dt` of its units. -/
def advance (s : State) (dt : Nat) : State :=
  { s with evc := { s.evc with timeBase := s.evc.timeBase + BitVec.ofNat 72 dt } }

/-- The main domain is isolated or unpowered: its inputs are ignored (R579). An emulated KEEP raises ISO_ACK and leaves the
inputs as they are (R421, R562). -/
def State.isolated (s : State) : Bool :=
  s.keep.inKeep || !s.keep.vcoreOk || !s.keep.vfieldOn || (s.host.isoAck && !s.dbg.emulated)

/-- An edge is one that a sense selects (R420). -/
def senseTakes (sense : BitVec 2) (rising : Bool) : Bool :=
  if sense = 0 then rising else if sense = 1 then !rising else true

/-- EXTERNAL_EDGE: input n takes a level; a change that its sense selects is one edge of source n (R420).
DEDUCED: log 62. -/
def execExternalEdge (n : BitVec 7) (level : Bool) (dt : Nat) (s : State) :
    Host.Outcome State Fault Refusal :=
  let s := advance s dt
  if s.isolated then .next s
  else
    let was := bit s.evc.level n.toNat
    let s := { s with evc := { s.evc with level := setBit s.evc.level n.toNat level } }
    .next (if was != level && senseTakes (senseOf s n.toNat) level then raiseSource s n.toNat else s)

/-- COALESCER_TIME_EXPIRY: a coalescer whose held time has reached its threshold fires (R418). -/
def execCoalescerTimeExpiry (src : BitVec 8) (dt : Nat) (s : State) : Host.Outcome State Fault Refusal :=
  let s := advance s dt
  let c := sget Coal.reset s.evc.coal src.toNat
  .next (if src.toNat < 224 ∧ c.held ≠ 0 ∧ coalDue c s.evc.timeBase then coalFire s src.toNat else s)

/-- COMPARE_TIMER_FIRE: an armed timer whose value the time base has reached fires once (R423). -/
def execCompareTimerFire (n : BitVec 2) (dt : Nat) (s : State) : Host.Outcome State Fault Refusal :=
  let s := advance s dt
  let t := sget Tcmp.reset s.evc.tcmp n.toNat
  .next (if t.armed && decide (t.val ≤ s.evc.timeBase) then
    raiseSource { s with evc := { s.evc with tcmp := sput Tcmp.reset s.evc.tcmp n.toNat { t with armed := false } } }
      (192 + n.toNat)
  else s)

end Sys2Proof.Machine
end

