-- ==== Sys2Proof/Machine/IoMap.lean ====
section
/-! DEFINITION. Which I/O addresses hold a register, how wide it is and which are warden-only (R23, R66 and the register
lists of the units). -/

namespace Sys2Proof.Machine

/-- A run of registers: first address, addresses taken, two cells each, warden-only, with an isolated read (R264). -/
structure IoRun where
  first : Nat
  count : Nat
  two : Bool
  warden : Bool
  effect : Bool
deriving DecidableEq, Repr

/-- One-cell registers. -/
def one (first count : Nat) (warden : Bool) : IoRun := ⟨first, count, false, warden, false⟩

/-- Two-cell registers, by the addresses they take. -/
def two (first count : Nat) (warden : Bool) : IoRun := ⟨first, count, true, warden, false⟩

/-- FEAT and the EVC (R94-R97, R425). -/
def runsEvc : List IoRun :=
  [one 0o0 4 false, one 0o010000 24 false, one 0o010030 8 true, one 0o010040 8 false, one 0o010050 1 true,
   one 0o010051 1 false, one 0o010052 1 true, one 0o010053 1 false, two 0o010054 4 true, two 0o010060 8 true,
   one 0o010070 1 true, one 0o010400 256 true, one 0o011000 256 true, one 0o011400 256 true]

/-- The common part of the MBX and the CRD (R439, R473). -/
def runsMbx : List IoRun :=
  [one 0o024000 2 false, one 0o024004 4 true, one 0o024010 1 true,
   one 0o030000 1 true, one 0o030001 1 false, two 0o030002 4 false, one 0o030006 1 false, two 0o030010 2 false,
   one 0o030012 1 false, one 0o030020 9 false, one 0o030031 1 false]

/-- A channel's registers by offset (R439). -/
def runsChan : List IoRun :=
  [one 0 9 false, ⟨0o11, 1, false, false, true⟩, one 0o12 2 false, two 0o14 2 true, one 0o16 1 false,
   two 0o20 8 false, one 0o30 1 false]

/-- CHT, KEP, RNG, VLT, FLT and MCT (R333, R503, R529). -/
def runsKep : List IoRun :=
  [one 0o040000 3 false, one 0o040003 4 true, two 0o040010 2 false, one 0o040012 2 false, one 0o040020 8 false,
   one 0o050000 1 true, one 0o050001 1 false, two 0o050002 2 false, two 0o050004 8 true, two 0o050014 4 false,
   one 0o050020 4 true, ⟨0o051000, 1, false, false, true⟩, one 0o051001 1 false, one 0o051002 1 true,
   ⟨0o051003, 1, false, true, true⟩, one 0o051004 1 false, one 0o052000 1 false, one 0o052002 1 false,
   two 0o052004 2 false, one 0o052006 1 true, two 0o052100 2 false, one 0o052102 8 false, one 0o052112 2 true,
   one 0o053000 1024 false, one 0o055000 512 false, one 0o056000 512 false, two 0o057000 2 false]

/-- DBK, PRT and what firmware reaches of DBG (R545, R552, R555). -/
def runsDbg : List IoRun :=
  [one 0o060000 1 true, one 0o060001 1 false, two 0o060002 2 false, one 0o060004 1 false, two 0o060006 2 false,
   one 0o060010 5 true, one 0o060020 32 false, one 0o060060 1 false, one 0o064000 1 false, one 0o064001 6 true,
   one 0o070000 1 false, one 0o070070 1 true, one 0o070071 1 false, one 0o071000 32 false]

/-- The half-local units (R226, R283, R292, R339, R370, R397). -/
def runsHalf : List IoRun :=
  [one 0o100000 1 true, one 0o100001 1 false, two 0o100002 2 false, one 0o100004 2 true, two 0o100006 2 false,
   two 0o100010 4 true,
   one 0o110000 2 true, two 0o110002 2 true, one 0o110004 1 true, two 0o110006 2 true, two 0o110010 6 false,
   one 0o110100 1 true, two 0o110102 2 false, one 0o110104 1 false, two 0o110106 6 false, one 0o110120 16 false,
   one 0o120000 1 true, one 0o120001 1 false, two 0o120002 2 false,
   one 0o130000 1 true, one 0o130001 2 false, two 0o130004 6 false, one 0o130012 1 false, one 0o130014 4 false,
   two 0o130100 32 true, two 0o133600 68 true, one 0o133704 2 true, two 0o133706 2 true, one 0o133710 2 true,
   two 0o133776 2 false,
   one 0o134000 1 false, one 0o134001 1 true, two 0o134002 2 false, two 0o134004 2 true, one 0o134006 2 true,
   two 0o134010 2 true, one 0o134100 32 false, one 0o134200 128 true]

/-- The run that holds an address. -/
def findRun (l : List IoRun) (a : Nat) : Option IoRun := l.find? fun r => decide (r.first ≤ a ∧ a < r.first + r.count)

/-- The register at an I/O address; the other half's units stand 0o040000 above one's own (R24). -/
def ioRun (a : Nat) : Option IoRun :=
  if a < 0o020000 then findRun runsEvc a
  else if a < 0o024000 then findRun runsChan (a % 32)
  else if a < 0o040000 then findRun runsMbx a
  else if a < 0o060000 then findRun runsKep a
  else if a < 0o100000 then findRun runsDbg a
  else if a < 0o140000 then findRun runsHalf a
  else findRun runsHalf (a - 0o040000)

/-- The unit is one of the other half, reached over the span (R24). -/
def ioFar (a : Nat) : Bool := decide (0o140000 ≤ a)

/-- The address names a register of a two-cell run at its odd cell (R123). -/
def ioOdd (r : IoRun) (a : Nat) : Bool := r.two && decide (a % 2 = 1)

end Sys2Proof.Machine
end

