-- ==== Sys2Proof/Config.lean ====
section
/-! DEFINITION. The free values: what the spec leaves open, as constants without a body. Nothing can be proved of what
they are, so a claim holds whatever they are. -/

namespace Sys2Proof.Config

/-- A fresh value that the spec does not state, by the number of its draw. DESIGN CHOICE: log 5. -/
opaque freeCell : Nat → Cell

/-- Random bits that the noise sources or a DRBG yield, by the number of their draw (R521, R523, R557).
DESIGN CHOICE: log 5. -/
opaque randomBits : Nat → BitVec 256

/-- The code words of the boot ROM, which the spec does not give (R63, R496). DESIGN CHOICE: log 12. -/
opaque bootRom : Nat → Cell

/-- The check bits of a store-buffer entry, by its signature item (R194). DESIGN CHOICE: log 93. -/
opaque checkBits : BitVec 64 → BitVec 8

/-- The pad over bits [73:0] of an SRAM line, by half, draw of the keys and line (R314). DESIGN CHOICE: log 99. -/
opaque sramPad : Nat → Nat → Nat → BitVec 74

/-- The row within its bank that holds an SRAM line, by half, draw of the keys and line (R314). DESIGN CHOICE: log 99. -/
opaque sramRow : Nat → Nat → Nat → Fin 32768

/-- The SEC-DED check bits of an SRAM line, over its 74 scrambled bits and its line number (R315). DESIGN CHOICE: log 99. -/
opaque sramCheck : BitVec 74 → BitVec 17 → BitVec 9

/-- The check bits of an NVM line, over its other 380 bits (R319). DESIGN CHOICE: log 99. -/
opaque nvmCheck : BitVec 380 → BitVec 20

/-- The NVM root key, 32 octets of the key vault (R323). DESIGN CHOICE: log 99. -/
opaque nvmRoot : Fin 32 → BitVec 8

/-- The block of 16 octets that derives part of a tenant's keys, by tenant and index (R323). DESIGN CHOICE: log 99. -/
opaque keyBlock : Nat → Nat → Fin 16 → BitVec 8

/-- The polynomial hash of an NVM line over GF(2^64), by hash key, physical fields, version and encrypted bits (R322).
DESIGN CHOICE: log 99. -/
opaque lineHash : BitVec 64 → BitVec 128 → BitVec 296 → BitVec 64

end Sys2Proof.Config
end

