-- ==== Sys2Proof/Machine/Memory.lean ====
section
/-! DEFINITION. Data space, the two memories of a half and the NVM merge buffer (R48, R62-R65, R312-R332, R339-R342). -/

namespace Sys2Proof.Machine

/-! ## Regions (R62, R64, R312, R318) -/

/-- The regions of data space (R62). -/
inductive Region where
  | sram (h : HalfId)
  | retained
  | nvm (h : HalfId)
  | unmapped
deriving DecidableEq, Repr

/-- The region of a data-space address (R62). -/
def regionOf (a : Addr) : Region :=
  let n := a.toNat
  if n < 0o01000000 then .sram .h0
  else if n < 0o02000000 then .sram .h1
  else if n < 0o02002000 then .retained
  else if n < 0o04000000 then .unmapped
  else if n < 0o10000000 then .nvm .h0
  else if n < 0o14000000 then .nvm .h1
  else .unmapped

/-- The half whose memory an address lies in. -/
def Region.half? : Region → Option HalfId
  | .sram h => some h
  | .nvm h => some h
  | _ => none

/-- The address lies in NVM. -/
def Region.isNvm : Region → Bool
  | .nvm _ => true
  | _ => false

/-- The line number of an NVM address within its half: 0 to 131,071 (R318). -/
def nvmLine (a : Addr) : Nat := (a.toNat - 0o04000000) / 8 % 131072

/-- The first cell address of a line of a half (R318). -/
def nvmLineAddr (h : HalfId) (line : Nat) : Addr := BitVec.ofNat 24 (0o04000000 + 0o04000000 * h.toNat + 8 * line)

/-- The line of both halves' NVM that a half's line number names. -/
def nvmKey (h : HalfId) (line : Nat) : Nat := 131072 * h.toNat + line

/-- The bank of an NVM line (R318). -/
def nvmBank (line : Nat) : Nat := line / 16384

/-- The bank number in the hierarchy that an address is served by: 0-3 SRAM, 4-11 NVM (R312, R318). -/
def bankOf (a : Addr) : BitVec 4 :=
  match regionOf a with
  | .nvm _ => BitVec.ofNat 4 (4 + nvmBank (nvmLine a))
  | _ => BitVec.ofNat 4 (a.toNat / 2 % 4)

/-! ## Image pairs (R331, R332) -/

/-- Where a pair in force sends a line of its half. -/
def ImgPair.map (p : ImgPair) (line : Nat) : Nat :=
  let n := p.len.toNat
  let a := p.a.toNat
  let b := p.b.toNat
  if !p.side then line
  else if a ≤ line ∧ line < a + n then b + (line - a)
  else if b ≤ line ∧ line < b + n then a + (line - b)
  else line

/-- The line that holds what a logical line of a half reads as, through the exchanged pairs (R332). -/
def mapLine (m : MemUnit) (line : Nat) : Nat := m.imgs.foldl (fun l e => e.2.map l) line

/-- The stored line behind a half's logical line. -/
def storedLine (s : State) (h : HalfId) (line : Nat) : Option NvmLine :=
  sget none s.nvm (nvmKey h (mapLine (s.half h).mem line))

/-! ## Line buffers (R185) -/

/-- The line of an instruction address. -/
def codeLine (a : Addr) : Nat := a.toNat / 8

/-- Execution enters a line, and the next one is requested into the fill register, whose arrival the model takes as
immediate (R183). DEDUCED: log 21. -/
def LineBuf.enter (n : Nat) : LineBuf := ⟨some n, false, some (n + 1), false⟩

/-- Execution continues sequentially at an address: in its line, be it stale, or across into the next, whose fill register is
fetched again when it is stale (R183, R185). -/
def LineBuf.step (b : LineBuf) (a : Addr) : LineBuf := if b.line = some (codeLine a) then b else LineBuf.enter (codeLine a)

/-- A transfer to an address: a stale line is never used (R65, R185). -/
def LineBuf.transfer (b : LineBuf) (a : Addr) : LineBuf :=
  if b.line = some (codeLine a) ∧ b.lineStale = false then b else LineBuf.enter (codeLine a)

/-- The code word after that at an address is in the line buffer or in the fill register, not stale (R187). -/
def LineBuf.holds (b : LineBuf) (a : Addr) : Bool :=
  b.line == some (codeLine a) || (b.fill == some (codeLine a) && !b.fillStale)

/-- A line buffer or fill register that holds a line of NVM is marked stale; `line` is numbered over both halves. -/
def LineBuf.notice (b : LineBuf) (line : Nat) : LineBuf :=
  { b with lineStale := b.lineStale || b.line == some line, fillStale := b.fillStale || b.fill == some line }

/-- Every line buffer and fill register holding a line that a test selects is marked stale. -/
def LineBuf.staleIf (b : LineBuf) (p : Nat → Bool) : LineBuf :=
  { b with lineStale := b.lineStale || b.line.any p, fillStale := b.fillStale || b.fill.any p }

/-- The notice of a completed line program reaches a half (R185, R291). -/
def lineNotice (s : State) (h : HalfId) (line : Nat) : State := s.onHalf h fun x => { x with line := x.line.notice line }

/-! ## Counters of the MEM unit (R341, R342) -/

/-- The selection of performance counter n (R342). -/
def perfSel (m : MemUnit) (n : Nat) : BitVec 6 := m.psel.extractLsb' (6 * n) 6

/-- Performance counter n. -/
def perfVal (m : MemUnit) (n : Nat) : Cell :=
  if n = 0 then m.perf0 else if n = 1 then m.perf1 else if n = 2 then m.perf2 else m.perf3

/-- The MEM unit with performance counter n set. -/
def setPerf (m : MemUnit) (n : Nat) (v : Cell) : MemUnit :=
  if n = 0 then { m with perf0 := v } else if n = 1 then { m with perf1 := v }
  else if n = 2 then { m with perf2 := v } else { m with perf3 := v }

/-- Counter n counts an event when it selects it; a wrap sets its ovf bit and raises the overflow source (R342, R424). -/
def perfOne (code : BitVec 6) (h : HalfId) (s : State) (n : Nat) : State :=
  let m := (s.half h).mem
  if perfSel m n ≠ code then s
  else
    let v := perfVal m n + 1
    let s := s.onMem h fun m => setPerf m n v
    if v = 0 then raiseHalf (s.onMem h fun m => { m with pselOvf := setBit m.pselOvf n true }) h 218 else s

/-- One event of a code of R342. DESIGN CHOICE: log 45. -/
def perfCount (s : State) (h : HalfId) (code : BitVec 6) : State := [0, 1, 2, 3].foldl (perfOne code h) s

/-- The grant of one access to a memory is an event: of an SRAM line, or of a read of an NVM line (R342). -/
def perfAccess (s : State) (a : Addr) (reads : Bool) : State :=
  match regionOf a with
  | .sram h => perfCount s h 0o10
  | .nvm h => if reads then perfCount s h 0o11 else s
  | _ => s

/-- The cell is the first of its line (R312, R318). -/
def lineStart (a : Addr) : Bool := if (regionOf a).isNvm then a.toNat % 8 == 0 else a.toNat % 2 == 0

/-- Read number i of a run of cells is an access of its own, one for each line (R312, R318). -/
def perfRun (s : State) (a : Addr) (i : Nat) : State := if i = 0 || lineStart a then perfAccess s a true else s

/-! ## The key cache (R323) -/

/-- A half uses a tenant's keys: a miss derives them and replaces the least recently used of 64 (most recent first). -/
def keyUse (s : State) (h : HalfId) (t : BitVec 10) : State :=
  let k := (s.half h).mem.keyCache
  let s' := s.onMem h fun m => { m with keyCache := (t :: k.erase t).take 64 }
  if k.contains t then s' else perfCount s' h 0o13

/-! ## The merge buffer (R325-R328) -/

/-- The entry holds a line: the metadata programs of image pairs hold none (R325, R332). -/
def MergeEntry.isLine (e : MergeEntry) : Bool := e.img.isNone

/-- The entry is one of a line's. -/
def MergeEntry.isOf (e : MergeEntry) (line : Nat) : Bool := e.isLine && e.line == line

/-- The youngest entry for a line. -/
def youngest (m : MemUnit) (line : Nat) : Option MergeEntry := (m.merge.filter fun e => e.isOf line).getLast?

/-- The entries that are due or programming (R326). -/
def dueCount (m : MemUnit) : Nat := (m.merge.filter fun e => e.due.isSome && e.isLine).length

/-- The number after those of the entries already due. -/
def nextDue (l : List MergeEntry) : Nat := l.foldl (fun n e => max n (e.due.getD 0 + 1)) 0

/-- Entry i becomes due and counts once (R326, R328). -/
def makeDue (m : MemUnit) (i : Nat) : MemUnit :=
  match m.merge[i]? with
  | none => m
  | some e =>
    if e.due.isSome then m
    else { m with merge := m.merge.set i { e with due := some (nextDue m.merge) }, due := m.due + 1 }

/-- Every entry becomes due, oldest first (R326). -/
def makeAllDue (m : MemUnit) : MemUnit := (List.range m.merge.length).foldl makeDue m

/-- The index of the oldest entry not yet due. -/
def oldestNotDue (m : MemUnit) : Option Nat := m.merge.findIdx? fun e => e.due.isNone

/-- The place in the list of the line entry of number i (R325). -/
def nthLine (m : MemUnit) (i : Nat) : Option Nat :=
  ((List.range m.merge.length).filter fun j => (m.merge[j]?).any MergeEntry.isLine)[i]?

/-- The zero line. -/
def zeroLine : List TCell := List.replicate 8 TCell.zero

/-- An entry with a cell written; all eight written makes it due (R325, R326). -/
def MergeEntry.write (e : MergeEntry) (i : Nat) (c : TCell) : MergeEntry :=
  { e with cells := e.cells.set i c, written := setBit e.written i true }

/-- Entry i takes a cell (R325, R326). -/
def mergeInto (m : MemUnit) (i : Nat) (cell : Nat) (c : TCell) : MemUnit :=
  match m.merge[i]? with
  | none => m
  | some e =>
    let e' := e.write cell c
    let m := { m with merge := m.merge.set i e' }
    if e'.written = BitVec.allOnes 8 then makeDue m i else m

/-- The index of the youngest entry for a line. -/
def youngestIdx (m : MemUnit) (line : Nat) : Option Nat :=
  (List.range m.merge.length).reverse.find? fun i =>
    match m.merge[i]? with
    | none => false
    | some e => e.isOf line

/-- Entry i exists and passes a test. -/
def entryTest (m : MemUnit) (i : Nat) (p : MergeEntry → Bool) : Bool :=
  match m.merge[i]? with
  | none => false
  | some e => p e

/-- An entry that a tenant's write may merge into (R325). DEDUCED: log 41. -/
def MergeEntry.joins (e : MergeEntry) (t : BitVec 10) : Bool := e.tenant == t && !e.prog

/-- The entries in use (R340): the metadata programs of image pairs take none. -/
def mergeUsed (m : MemUnit) : Nat := (m.merge.filter MergeEntry.isLine).length

/-- A bank in which a line program runs (R336). -/
def bankProgramming (m : MemUnit) (bank : Nat) : Bool :=
  m.merge.any fun e => e.prog && (if e.isLine then nvmBank (mapLine m e.line) else 0) == bank

/-- The line has no entry and its bank is programming: what needs the array waits (R328). -/
def lineWaits (m : MemUnit) (line : Nat) : Bool := (youngest m line).isNone && bankProgramming m (nvmBank (mapLine m line))

/-- A read of the half's memories that waits for the end of a line program (R328). -/
def readWaits (s : State) (a : Addr) : Bool :=
  match regionOf a with
  | .nvm h => lineWaits (s.half h).mem (nvmLine a)
  | _ => false

/-- What a new entry's unwritten cells hold, and whether another tenant's key or a damaged line made them zero
(R325, R328). -/
def mergeFill (s : State) (h : HalfId) (line : Nat) (t : BitVec 10) : List TCell × Option Bool :=
  match youngest (s.half h).mem line with
  | some e => if e.tenant = t then (e.cells, none) else (zeroLine, some true)
  | none =>
    match storedLine s h line with
    | none => (zeroLine, none)
    | some l => if l.tenant ≠ t then (zeroLine, some true) else if l.broken then (zeroLine, some false) else (l.cells, none)

/-- Entry i takes the cells of a write, each at its index; a refresh, which has none, makes it due (R325, R326, R340). -/
def mergeCells (m : MemUnit) (i : Nat) : List (Nat × TCell) → MemUnit
  | [] => makeDue m i
  | l => l.foldl (fun m c => mergeInto m i c.1 c.2) m

/-- An NVM integrity failure is counted and recorded at a line's first address (R322). -/
def nvmFail (s : State) (h : HalfId) (a : Addr) : State :=
  s.onMem h fun m => { m with nvmInt := satInc m.nvmInt, lastErr := nvmLineAddr h (nvmLine a) }

/-- A new entry for a line, filled, with a write merged; a fill that failed makes a MERGE report, and is counted where it was
a read of the array (R322, R325). -/
def mergeAllocate (s : State) (h : HalfId) (line : Nat) (t : BitVec 10) (l : List (Nat × TCell)) : State :=
  let f := mergeFill s h line t
  let e : MergeEntry := ⟨line, t, f.1, 0, none, false, false, false, none⟩
  let s := if f.2.isSome && (youngest (s.half h).mem line).isNone then nvmFail s h (nvmLineAddr h line) else s
  let s := keyUse s h t
  let s := s.onMem h fun m => mergeCells { m with merge := m.merge ++ [e] } m.merge.length l
  match f.2 with
  | none => s
  | some other => reportHalf s h .mem 16 none none (atBits (nvmLineAddr h line) 0) (atBit other 10 ||| atBits t 0)

/-- A write waits behind those already waiting; the two cells of one write wait as one. -/
def waitBehind (l : List AllocWait) (w : AllocWait) : List AllocWait :=
  match l.getLast? with
  | none => [w]
  | some v => if v.line = w.line ∧ v.tenant = w.tenant then l.dropLast ++ [{ v with cells := v.cells ++ w.cells }] else l ++ [w]

/-- An allocation that finds no free entry waits; as its wait begins it makes the oldest entry due when too few are (R326). -/
def mergeWait (m : MemUnit) (w : AllocWait) : MemUnit :=
  let n := m.allocs.length
  let m := { m with allocs := waitBehind m.allocs w }
  if n < m.allocs.length ∧ 8 ≤ mergeUsed m ∧ dueCount m < m.allocs.length then
    match oldestNotDue m with
    | none => m
    | some i => makeDue m i
  else m

/-- A new entry for the line can be allocated now: there is a free one, no write waits before it, and its fill does not wait
for a program (R325, R326, R328). -/
def mayAllocate (m : MemUnit) (line : Nat) : Bool := decide (mergeUsed m < 8) && m.allocs.isEmpty && !lineWaits m line

/-- A later write to a locked line is discarded, with a report and the memory source (R327, R405). -/
def lockedDiscard (s : State) (h : HalfId) (line : Nat) (t : BitVec 10) : State :=
  raiseHalf (reportHalf s h .mem 17 none none (atBits (nvmLineAddr h line) 0) (atBit true 10 ||| atBits t 0)) h 206

/-- The youngest entry of a line becomes due when it is another tenant's (R328). -/
def otherDue (s : State) (h : HalfId) (i : Nat) (t : BitVec 10) : State :=
  if entryTest (s.half h).mem i fun e => e.tenant != t then s.onMem h fun m => makeDue m i else s

/-- A write to NVM enters the merge buffer (R325, R327, R328): it merges into the youngest entry of its line and tenant
that has not started, or a new entry is allocated, and an entry of another tenant becomes due. DEDUCED: log 41. -/
def mergeWrite (s : State) (h : HalfId) (a : Addr) (t : BitVec 10) (c : TCell) : State :=
  let line := nvmLine a
  let m := (s.half h).mem
  let w := [(a.toNat % 8, c)]
  let new (s : State) : State :=
    if mayAllocate m line then mergeAllocate s h line t w else s.onMem h fun m => mergeWait m ⟨line, t, w, false⟩
  if m.lockedLines.contains line then lockedDiscard s h line t
  else
    match youngestIdx m line with
    | none => new s
    | some i => if entryTest m i fun e => e.joins t then s.onMem h fun m => mergeCells m i w else new (otherDue s h i t)

/-- The allocation that has waited longest takes a free entry, or joins an entry of its line (R326-R328). -/
def mergeAdmitOne (s : State) (h : HalfId) : State :=
  let m := (s.half h).mem
  match m.allocs with
  | [] => s
  | w :: rest =>
    let s' := s.onMem h fun m => { m with allocs := rest }
    let new (s' : State) : State :=
      if 8 ≤ mergeUsed m || lineWaits m w.line then s else mergeAllocate s' h w.line w.tenant w.cells
    if m.lockedLines.contains w.line then if w.cells.isEmpty then s' else lockedDiscard s' h w.line w.tenant
    else
      match youngestIdx m w.line with
      | none => new s'
      | some i =>
        if entryTest m i fun e => e.joins w.tenant then s'.onMem h fun m => mergeCells m i w.cells
        else new (otherDue s' h i w.tenant)

/-- The allocations that find a place, in order of arrival. DEDUCED: log 41. -/
def mergeAdmit (s : State) (h : HalfId) : Nat → State
  | 0 => s
  | n + 1 =>
    let s' := mergeAdmitOne s h
    if (s'.half h).mem.allocs.length = (s.half h).mem.allocs.length then s' else mergeAdmit s' h n

/-! ## Reads and writes at home -/

/-- What a read at home finds (R315, R322). -/
inductive ReadRes where
  | ok (c : TCell)
  | uncorrectable
  | integrity
deriving DecidableEq, Repr

/-- The first cell address of an SRAM line. -/
def sramLineAddr (a : Addr) : Addr := a &&& ~~~1#24

/-- An uncorrectable SRAM line is counted, recorded and left as found (R315). -/
def sramFail (s : State) (h : HalfId) (a : Addr) : State :=
  s.onMem h fun m => { m with sramUnc := satInc m.sramUnc, lastErr := sramLineAddr a,
                               bad := if m.bad.contains (a.toNat / 2) then m.bad else a.toNat / 2 :: m.bad }

/-- A read of SRAM with what its line's code met (R315). DESIGN CHOICE: log 43. -/
def sramRead (s : State) (h : HalfId) (a : Addr) (r : ReadOutcome) : State × ReadRes :=
  if (s.half h).mem.bad.contains (a.toNat / 2) || r == .failed then (sramFail s h a, .uncorrectable)
  else
    let s' := if r == .corrected then s.onMem h fun m => { m with sramCor := satInc m.sramCor } else s
    (s', .ok (sget TCell.zero s.ram a.toNat))

/-- A read of NVM under a tenant's key: from the youngest merge-buffer entry of the line, or from the array
(R320, R322, R325, R328). -/
def nvmRead (s : State) (h : HalfId) (a : Addr) (t : BitVec 10) (r : ReadOutcome) : State × ReadRes :=
  match youngest (s.half h).mem (nvmLine a) with
  | some e =>
    if e.tenant = t then (s, .ok (e.cells.getD (a.toNat % 8) TCell.zero)) else (nvmFail s h a, .integrity)
  | none =>
    let s := keyUse s h t
    let s := if r == .corrected then s.onMem h fun m => { m with nvmCor := satInc m.nvmCor } else s
    if r == .failed then (nvmFail s h a, .integrity)
    else
      match storedLine s h (nvmLine a) with
      | none => (s, .ok TCell.zero)
      | some l =>
        if l.broken || l.tenant != t then (nvmFail s h a, .integrity)
        else (s, .ok (l.cells.getD (a.toNat % 8) TCell.zero))

/-- A read at home. An unmapped address is never read. DEDUCED: log 11. -/
def homeRead (s : State) (a : Addr) (t : BitVec 10) (r : ReadOutcome) : State × ReadRes :=
  match regionOf a with
  | .sram h => sramRead s h a r
  | .retained => (s, .ok (sget TCell.zero s.ram a.toNat))
  | .nvm h => nvmRead s h a t r
  | .unmapped => (s, .ok TCell.zero)

/-- A cell of SRAM or of the retained cells takes a value. -/
def ramWrite (s : State) (a : Addr) (c : TCell) : State := { s with ram := sput TCell.zero s.ram a.toNat c }

/-- A store into an SRAM line: where the line was uncorrectable its other cell becomes zero, with a report (R316).
DESIGN CHOICE: log 43. Its line read counts nothing.
DESIGN CHOICE: log 100. -/
def sramWrite (s : State) (h : HalfId) (a : Addr) (c : TCell) : State :=
  if (s.half h).mem.bad.contains (a.toNat / 2) then
    let s := ramWrite (ramWrite s (a ^^^ 1#24) TCell.zero) a c
    let s := s.onMem h fun m => { m with bad := m.bad.erase (a.toNat / 2) }
    reportHalf s h .mem 15 none none (atBits (sramLineAddr a) 0) 0
  else ramWrite s a c

/-- A write at home, under a tenant's key where it is to NVM. -/
def homeWrite (s : State) (a : Addr) (t : BitVec 10) (c : TCell) : State :=
  match regionOf a with
  | .sram h => sramWrite s h a c
  | .retained => ramWrite s a c
  | .nvm h => mergeWrite s h a t c
  | .unmapped => s

/-- Writes at home, one by one. -/
def writeEach (s : State) : List (Addr × BitVec 10 × TCell) → State
  | [] => s
  | (a, t, c) :: l => writeEach (homeWrite s a t c) l

/-- The SRAM lines that a request writes whole (R49, R200). -/
def wholeLines (l : List (Addr × BitVec 10 × TCell)) : List Nat :=
  (l.filter fun w => l.any fun v => v.1 == w.1 ^^^ 1#24).map fun w => w.1.toNat / 2

/-- Lines that are written whole hold valid check bits from then on (R316). -/
def mendLines (s : State) (l : List Nat) : State :=
  let f (m : MemUnit) : MemUnit := { m with bad := m.bad.filter fun n => !l.contains n }
  (s.onMem .h0 f).onMem .h1 f

/-- What a one-cell store's line read meets: an uncorrectable line is found so (R316). -/
def meetLine (s : State) (a : Addr) (r : ReadOutcome) : State :=
  match regionOf a, r with
  | .sram h, .failed => s.onMem h fun m => { m with bad := a.toNat / 2 :: m.bad.erase (a.toNat / 2) }
  | _, _ => s

/-- The writes of one request at home, in order: a line written whole is not read first, and the line read of a one-cell
store meets what it meets (R49, R200, R312, R316). DEDUCED: log 43. -/
def homeWritesMeet (s : State) (l : List (Addr × BitVec 10 × TCell)) (r : ReadOutcome) : State :=
  let w := wholeLines l
  let s := if w.isEmpty then s else mendLines s w
  let s := match l with
    | [] => s
    | v :: t => (v :: t.filter fun x => lineStart x.1).foldl (fun s x => perfAccess s x.1 false)
                  (if w.isEmpty then meetLine s v.1 r else s)
  writeEach s l

/-- The writes of one request at home, in order. -/
def homeWrites (s : State) (l : List (Addr × BitVec 10 × TCell)) : State := homeWritesMeet s l .clean

/-- A read of `n` cells from an address, stopping at the first that fails. -/
def homeReads (s : State) (a : Addr) (t : BitVec 10) : Nat → State × Option (List TCell)
  | 0 => (s, some [])
  | n + 1 =>
    match homeRead s a t .clean with
    | (s, .ok c) =>
      match homeReads s (a + 1) t n with
      | (s, some l) => (s, some (c :: l))
      | (s, none) => (s, none)
    | (s, _) => (s, none)

/-- Untagged cells written from an address (R48). -/
def writesFrom (a : Addr) (t : BitVec 10) : List Cell → List (Addr × BitVec 10 × TCell)
  | [] => []
  | c :: l => (a, t, TCell.plain c) :: writesFrom (a + 1) t l

/-- The request is no write. -/
def ArbWork.reads : ArbWork → Bool
  | .writes _ => false
  | _ => true

/-! ## Waiting lane reads -/

/-- The oldest lane read of a bank that the half's own hierarchy has not granted. -/
def nextRead (e : Exec) (bank : BitVec 4) : Option OutRead :=
  e.reads.find? fun r => !r.granted && r.remote.isNone && bankOf r.addr == bank

/-! ## Line programs (R326, R327) -/

/-- The number of the oldest due entry. -/
def oldestDue (m : MemUnit) : Option Nat :=
  m.merge.foldl (fun o e => match o, e.due with
    | none, d => d
    | some n, some d => some (min n d)
    | some n, none => some n) none

/-- A read that waits in the hierarchy for an NVM line without an entry, in a bank (R328). -/
def ArbReq.waitsFor (s : State) (h : HalfId) (r : ArbReq) (bank : Nat) : Bool :=
  let m := (s.half h).mem
  let at_ (a : Addr) : Bool := (regionOf a).isNvm && (youngest m (nvmLine a)).isNone && nvmBank (mapLine m (nvmLine a)) == bank
  match r.work with
  | .remoteRead a _ _ => at_ a
  | .laneRead => match nextRead (s.ex h) r.bank with
    | some o => at_ o.addr
    | none => false
  | _ => false

/-- The bank of the oldest due entry: no program starts there while a read waits for it (R328). -/
def engineHolds (s : State) (h : HalfId) (e : MergeEntry) : Bool :=
  let m := (s.half h).mem
  e.isLine && m.arb.any fun r => r.waitsFor s h (nvmBank (mapLine m e.line))

/-- The oldest due entry starts its program once it is granted and no read waits for its bank, one at a time (R326, R328).
DEDUCED: log 44. -/
def nvmPump (s : State) (h : HalfId) : State :=
  let m := (s.half h).mem
  if m.merge.any fun e => e.prog then s
  else match oldestDue m with
    | none => s
    | some n => s.onMem h fun m => { m with
        merge := m.merge.map fun e => if e.due = some n ∧ e.granted ∧ !engineHolds s h e then { e with prog := true } else e }

/-- Free spares of a bank (R318). -/
def spareOf (m : MemUnit) (bank : Nat) : Nat := m.spares.getD bank 0

/-- The physical index of a line within its bank (R318). -/
def physOf (m : MemUnit) (line : Nat) : Nat :=
  match m.remapped.find? fun e => e.1 == line with
  | none => line % 16384
  | some e => e.2

/-- The wear count of a physical line (R318). -/
def wearOf (m : MemUnit) (bank phys : Nat) : Nat := sget 0 m.wear (16448 * bank + phys)

/-- A line moves to the bank's next spare (R327). -/
def remapLine (m : MemUnit) (line : Nat) : MemUnit :=
  let b := nvmBank line
  let n := spareOf m b
  { m with remapped := (line, 16448 - n) :: m.remapped.filter (fun e => e.1 != line), spares := m.spares.set b (n - 1) }

/-- A line is locked, with a report and the memory source (R327, R405). The lock stays with the logical line.
DESIGN CHOICE: log 97. -/
def lockLine (s : State) (h : HalfId) (line : Nat) (t : BitVec 10) : State :=
  let s := s.onMem h fun m => { m with locked := satInc m.locked, lockedLines := line :: m.lockedLines }
  raiseHalf (reportHalf s h .mem 17 none none (atBits (nvmLineAddr h line) 0) (atBits t 0)) h 206

/-- The programmed line (R327): version one above the physical line's last. DEDUCED: log 42. -/
def programLine (s : State) (h : HalfId) (e : MergeEntry) (fresh : Bool) : State :=
  let k := nvmKey h (mapLine (s.half h).mem e.line)
  let v : BitVec 20 := match sget none s.nvm k with
    | none => 1
    | some l => if fresh then 1 else l.version + 1
  { s with nvm := sput none s.nvm k (some ⟨e.tenant, v, e.cells, false⟩) }

/-- A physical line is worn by one program. -/
def wearLine (m : MemUnit) (line : Nat) : MemUnit :=
  let k := 16448 * nvmBank line + physOf m line
  { m with wear := sput 0 m.wear k (sget 0 m.wear k + 1) }

/-- A line of cells and tags that the spec does not state, from a number of a draw. -/
def freeLine (n : Nat) : List TCell :=
  (List.range 8).map fun i => ⟨Config.freeCell (n + i), bit (Config.freeCell (n + 8)) i⟩

/-- A line whose last program failed its verification is locked; what it then holds is not stated (R327).
DEDUCED: log 42. -/
def lockFailed (s : State) (h : HalfId) (e : MergeEntry) : State :=
  let s' := { s with free := s.free + 9 }
  lockLine (programLine s' h { e with cells := freeLine s.free } false) h e.line e.tenant

/-- The program of R327 for an entry: `verified` is the first verification, `again` the one after a remap. A retry on a spare
wears it and gives it the version 1; the lock is the logical line's. DESIGN CHOICE: log 96, 97. -/
def runProgram (s : State) (h : HalfId) (e : MergeEntry) (verified again : Bool) : State :=
  let s := keyUse s h e.tenant
  let line := mapLine (s.half h).mem e.line
  let b := nvmBank line
  let m := (s.half h).mem
  let worn := decide (1000000 ≤ wearOf m b (physOf m line)) && decide (0 < spareOf m b)
  let s := if worn then s.onMem h fun m => remapLine m line else s
  let m := (s.half h).mem
  if wearOf m b (physOf m line) = 1048575 then lockLine s h e.line e.tenant
  else
    let s := s.onMem h fun m => wearLine m line
    if verified then programLine s h e worn
    else if 0 < spareOf (s.half h).mem b then
      let s := s.onMem h fun m => wearLine (remapLine m line) line
      if again then programLine s h e true else lockFailed s h e
    else lockFailed s h e

/-- The side bit of a pair as its metadata program leaves it; the exchange follows at a tick (R332). -/
def metaProgram (m : MemUnit) (k : BitVec 4) : MemUnit :=
  { m with imgs := sput ImgPair.zero m.imgs k.toNat { sget ImgPair.zero m.imgs k.toNat with prog := true } }

/-- An entry is freed and its program counted; the next due entry may start (R326). -/
def programEnd (s : State) (h : HalfId) (e : MergeEntry) : State :=
  let s := s.onMem h fun m => { m with merge := m.merge.erase e, done := m.done + 1 }
  nvmPump (mergeAdmit (perfCount s h 0o14) h (s.half h).mem.allocs.length) h

end Sys2Proof.Machine
end

