-- ==== Sys2Proof/Machine/Caps.lean ====
section
/-! DEFINITION. Capabilities and the access checks (R47-R60, R91, R115, R210, R225-R229). -/

namespace Sys2Proof.Machine

/-! ## Faults (R222, R227, R229) -/

/-- What a fault record says of a fault, its position apart (R227). -/
structure FaultInfo where
  cause : BitVec 4
  status : BitVec 6
  reg : BitVec 3
  info : BitVec 24
  empty : Bool
deriving DecidableEq, Repr

/-- The causes (R222). -/
def cIllegal : BitVec 4 := 0
/-- MISALIGN (R222). -/
def cMisalign : BitVec 4 := 1
/-- BUS (R222). -/
def cBus : BitVec 4 := 2
/-- CAPABILITY (R222). -/
def cCapability : BitVec 4 := 3
/-- DSTACK-OVER (R222). -/
def cDstackOver : BitVec 4 := 4
/-- DSTACK-UNDER (R222). -/
def cDstackUnder : BitVec 4 := 5
/-- RSTACK-OVER (R222). -/
def cRstackOver : BitVec 4 := 6
/-- RSTACK-UNDER (R222). -/
def cRstackUnder : BitVec 4 := 7
/-- ARITH (R222). -/
def cArith : BitVec 4 := 8
/-- RECKONER-UNAVAILABLE (R222). -/
def cReckoner : BitVec 4 := 9
/-- BUDGET-OVERRUN (R222). -/
def cBudget : BitVec 4 := 10
/-- TRAP (R222). -/
def cTrap : BitVec 4 := 11
/-- EVENT (R222). -/
def cEvent : BitVec 4 := 12
/-- ESCALATED (R222). -/
def cEscalated : BitVec 4 := 13
/-- WARDEN-CALL (R222). -/
def cWardenCall : BitVec 4 := 14
/-- DEBUG (R222). -/
def cDebug : BitVec 4 := 15

/-- SPACE (R229). -/
def eSpace : BitVec 6 := 0o01
/-- GENERATION (R229). -/
def eGeneration : BitVec 6 := 0o02
/-- PERMISSION (R229). -/
def ePermission : BitVec 6 := 0o03
/-- ALIGN (R229). -/
def eAlign : BitVec 6 := 0o04
/-- BOUNDS (R229). -/
def eBounds : BitVec 6 := 0o05
/-- UNMAPPED (R229). -/
def eUnmapped : BitVec 6 := 0o06
/-- SPAN-DOWN (R229). -/
def eSpanDown : BitVec 6 := 0o07
/-- MODE-LOCKED (R229). -/
def eModeLocked : BitVec 6 := 0o10
/-- WARDEN-ONLY (R229). -/
def eWardenOnly : BitVec 6 := 0o11
/-- UNCORRECTABLE (R229). -/
def eUncorrectable : BitVec 6 := 0o12
/-- INTEGRITY (R229). -/
def eIntegrity : BitVec 6 := 0o13
/-- UNTAGGED (R229). -/
def eUntagged : BitVec 6 := 0o14
/-- GLOBAL (R229). -/
def eGlobal : BitVec 6 := 0o15
/-- SEALED (R229). -/
def eSealed : BitVec 6 := 0o16
/-- TAGGED-ENTRY (R229). -/
def eTaggedEntry : BitVec 6 := 0o17
/-- ENCODING (R229). -/
def eEncoding : BitVec 6 := 0o20
/-- OPERAND (R229). -/
def eOperand : BitVec 6 := 0o21
/-- DIVIDE-ZERO (R229). -/
def eDivideZero : BitVec 6 := 0o22
/-- OVERFLOW (R229). -/
def eOverflow : BitVec 6 := 0o23
/-- CROSSING (R229). -/
def eCrossing : BitVec 6 := 0o24
/-- BUSY (R229). -/
def eBusy : BitVec 6 := 0o25

/-- A fault that names no register. DEDUCED: log 19. -/
def faultOf (cause : BitVec 4) (status : BitVec 6) (info : BitVec 24) : FaultInfo := ⟨cause, status, 7, info, false⟩

/-- An ILLEGAL fault; its info is an opcode or selector (R228). DEDUCED: log 19. -/
def illegal (status : BitVec 6) (op : BitVec 6) : FaultInfo := faultOf cIllegal status (op.setWidth 24)

/-! ## The two cells of a capability (R51) -/

/-- The first cell of a capability. -/
def Cap.cell0 (c : Cap) : Cell := atBits c.space 34 ||| atBits c.tenant 24 ||| atBits c.base 0

/-- The second cell of a capability. -/
def Cap.cell1 (c : Cap) : Cell := atBits c.gen 32 ||| atBits c.perm 24 ||| atBits c.len 0

/-- The capability that two cells spell. -/
def capOf (tag : Bool) (x0 x1 : Cell) : Cap :=
  ⟨tag, fld x0 34 2, fld x0 24 10, fld x0 0 24, fld x1 32 4, fld x1 24 8, fld x1 0 24⟩

/-- The bits of the permission field (R53), within the 8-bit field. -/
def pLD : Nat := 7
/-- ST (R53). -/
def pST : Nat := 6
/-- X (R53). -/
def pX : Nat := 5
/-- CL (R53). -/
def pCL : Nat := 4
/-- CS (R53). -/
def pCS : Nat := 3
/-- GL (R53). -/
def pGL : Nat := 2
/-- SE (R53). -/
def pSE : Nat := 1
/-- WD (R53). -/
def pWD : Nat := 0

/-- Data space (R51). -/
def spData : BitVec 2 := 0
/-- Instruction space (R51). -/
def spInstr : BitVec 2 := 1
/-- I/O space (R51). -/
def spIo : BitVec 2 := 2
/-- Sealed (R51). -/
def spSealed : BitVec 2 := 3

/-- The capability grants a permission. -/
def Cap.has (c : Cap) (p : Nat) : Bool := bit c.perm p

/-! ## The checks of R55 -/

/-- An access through a capability register: the register's number in a fault record, the space and the permission it
needs, whether a wrong space is MISALIGN, and its width in cells (R54). -/
structure Access where
  reg : BitVec 3
  space : BitVec 2
  perm : Nat
  code : Bool
  width : Nat
deriving DecidableEq, Repr

/-- The effective address of an access (R55). -/
def effAddr (c : Cap) (off : Nat) : Nat := c.base.toNat + off

/-- The info of a fault through a capability (R228): the address, 16 bits of it in I/O space. -/
def addrInfo (c : Cap) (ea : Nat) : BitVec 24 :=
  if c.space = spIo then BitVec.ofNat 24 (ea % 65536) else BitVec.ofNat 24 ea

/-- Steps 0 to 5 of R55, with the given generation result and the given alignment failure. -/
def capStatus (c : Cap) (genOk : Bool) (a : Access) (off : Nat) (misaligned : Bool) : BitVec 6 :=
  if !c.tag then eUntagged
  else if c.space ≠ a.space then eSpace
  else if !genOk then eGeneration
  else if !c.has a.perm then ePermission
  else if misaligned then eAlign
  else if c.len.toNat < off + a.width then eBounds
  else 0

/-- The cause that a failed step of R55 gives. -/
def stepCause (code : Bool) (st : BitVec 6) : BitVec 4 :=
  if st = eUntagged ∨ st = eSpace then (if code then cMisalign else cCapability)
  else if st = eAlign then cMisalign
  else if st = eUnmapped ∨ st = eSpanDown ∨ st = eModeLocked ∨ st = eWardenOnly then cBus
  else cCapability

/-- The fault of a failed step of R55 for an access at an effective address. -/
def accessFault (c : Cap) (a : Access) (ea : Nat) (st : BitVec 6) : FaultInfo :=
  ⟨stepCause a.code st, st, a.reg, addrInfo c ea, false⟩

/-- The half's generation table has the capability's generation current (R55 step 2). -/
def State.genOk (s : State) (h : HalfId) (c : Cap) : Bool := c.gen == s.genOf h c.tenant

/-- Remote accesses travel: the span is UP or DEGRADED for the half (R289, R310). -/
def spanOpen (s : State) (h : HalfId) : Bool := decide ((s.half h).spn.state.toNat < 2)

/-- Step 6 of R55 in data space: 0 when the cell is mapped and reachable (R25, R62). -/
def dataMapped (s : State) (h : HalfId) (a : Nat) : BitVec 6 :=
  if 2 ^ 24 ≤ a then eUnmapped
  else match regionOf (BitVec.ofNat 24 a) with
    | .unmapped => eUnmapped
    | .retained => 0
    | .sram k => if k = h ∨ spanOpen s h then 0 else eSpanDown
    | .nvm k => if k = h ∨ spanOpen s h then 0 else eSpanDown

/-- Step 6 of R55 in instruction space (R25, R63). -/
def codeMapped (s : State) (h : HalfId) (a : Nat) : BitVec 6 :=
  if a < 0o04000000 then (if h = .h0 ∨ spanOpen s h then 0 else eSpanDown)
  else if a < 0o10000000 then (if h = .h1 ∨ spanOpen s h then 0 else eSpanDown)
  else if 0o77600000 ≤ a ∧ a < 2 ^ 24 then 0
  else eUnmapped

/-- Step 6 of R55 in I/O space (R25, R66). -/
def ioMapped (s : State) (h : HalfId) (a : Nat) : BitVec 6 :=
  if 2 ^ 16 ≤ a ∨ (ioRun a).isNone then eUnmapped
  else if ioFar a && !spanOpen s h then eSpanDown else 0

/-- All steps of R55 for a data-space access of `a.width` cells: the effective address, or the fault. -/
def checkData (s : State) (h : HalfId) (c : Cap) (a : Access) (off : Nat) (misaligned : Bool) :
    Except FaultInfo Addr :=
  let ea := effAddr c off
  let st := capStatus c (s.genOk h c) a off misaligned
  if st ≠ 0 then .error (accessFault c a ea st)
  else
    let m := dataMapped s h ea
    let m' := if a.width = 1 then m else if m ≠ 0 then m else dataMapped s h (ea + a.width - 1)
    if m' ≠ 0 then .error (accessFault c a ea m') else .ok (BitVec.ofNat 24 ea)

/-- All steps of R55 for a one-word instruction-space access through PCC. -/
def checkCode (s : State) (h : HalfId) (c : Cap) (a : Access) (off : Nat) : Except FaultInfo Addr :=
  let ea := effAddr c off
  let st := capStatus c (s.genOk h c) a off false
  if st ≠ 0 then .error (accessFault c a ea st)
  else
    let m := codeMapped s h ea
    if m ≠ 0 then .error (accessFault c a ea m) else .ok (BitVec.ofNat 24 ea)

/-- A fetch through PCC (R54). -/
def fetchAccess : Access := ⟨4, spInstr, pX, true, 1⟩

/-- The check of a transfer target or a sequential fetch through PCC (R91): none when it passes. A target below the
base is out of bounds. -/
def checkTarget (s : State) (h : HalfId) (pcc : Cap) (target : Nat) : Option FaultInfo :=
  if target < pcc.base.toNat then
    let st := capStatus pcc (s.genOk h pcc) fetchAccess 0 false
    let st := if st = 0 then eBounds else st
    some { accessFault pcc fetchAccess target st with info := BitVec.ofNat 24 target }
  else
    match checkCode s h pcc fetchAccess (target - pcc.base.toNat) with
    | .ok _ => none
    | .error f => some f

/-! ## Narrowing, sealing and reading (R57, R60, R119, R146) -/

/-- CNAR of a capability (R57, R119). -/
def narrow (n : BitVec 2) (c : Cap) (off len : Cell) (mask : Cell) : Except FaultInfo Cap :=
  let fault (st : BitVec 6) (info : BitVec 24) : FaultInfo := ⟨cCapability, st, n.setWidth 3, info, false⟩
  if !c.tag then .error (fault eUntagged 0)
  else if c.space = spSealed then .error (fault eSealed 0)
  else if c.len.toNat < off.toNat + len.toNat then .error (fault eBounds (satOf 24 (off.toNat + len.toNat)))
  else .ok { c with base := c.base + fld off 0 24, len := fld len 0 24, perm := c.perm &&& fld mask 24 8 }

/-- SEAL of a capability (R146). -/
def sealCap (n : BitVec 2) (c : Cap) (wd : Bool) : Except FaultInfo Cap :=
  let fault (st : BitVec 6) : FaultInfo := ⟨cCapability, st, n.setWidth 3, 0, false⟩
  if !c.tag then .error (fault eUntagged)
  else if c.space = spSealed then .error (fault eSealed)
  else if c.space = spIo then .error (fault eSpace)
  else if c.space = spInstr then
    if c.has pX then .ok { c with space := spSealed, perm := setBit (setBit c.perm pSE true) pWD wd }
    else .error (fault ePermission)
  else .ok { c with space := spSealed, perm := setBit (setBit (setBit c.perm pX false) pSE false) pWD false }

/-- UNSEAL of a capability (R146). -/
def unsealCap (n : BitVec 2) (c : Cap) : Except FaultInfo Cap :=
  let fault (st : BitVec 6) : FaultInfo := ⟨cCapability, st, n.setWidth 3, 0, false⟩
  if !c.tag then .error (fault eUntagged)
  else if c.space ≠ spSealed then .error (fault eSealed)
  else .ok { c with space := if c.has pX then spInstr else spData, perm := setBit (setBit c.perm pSE false) pWD false }

/-- The field of a capability that CGET returns (R60); none for a field it does not have. -/
def capField (s : State) (h : HalfId) (c : Cap) (field : Cell) : Option Cell :=
  if field = 0 then some (atBits c.base 0)
  else if field = 1 then some (atBits c.len 0)
  else if field = 2 then some (atBits c.perm 0)
  else if field = 3 then some (atBits c.tenant 0)
  else if field = 4 then some (atBits c.space 0)
  else if field = 5 then some (atBits c.gen 0)
  else if field = 6 then some (atBit (c.tag && s.genOk h c) 0)
  else none

/-- The GL rule (R56): the capability may be stored through another of the given tenant. -/
def globalOk (c : Cap) (tenant : BitVec 10) : Bool := c.has pGL || c.tenant == tenant

/-! ## Mode locks (R6, R7, R115) -/

/-- An I/O address in a range of the charter's section 8 (R488). -/
def actuating (s : State) (a : Nat) : Bool :=
  let off := (sget 0 s.cht.buf 24).toNat % 32768
  let n := min ((sget 0 s.cht.buf 25).toNat % 32768) 64
  off != 0 && (List.range n).any fun i =>
    let c := sget 0 s.cht.buf (off + i)
    decide ((fld c 0 16).toNat ≤ a ∧ a < (fld c 0 16).toNat + (fld c 16 16).toNat)

end Sys2Proof.Machine
end

