-- ==== Sys2Proof/Machine/Complete.lean ====
section
/-! DEFINITION. Completions delivered to contexts and completion rings, and the end of a reckoner command (R301-R303,
R350, R362). -/

namespace Sys2Proof.Machine

/-! ## Memory requests of units (R335) -/

/-- The half whose hierarchy serves a data address for a half. -/
def homeHalf (h : HalfId) (a : Addr) : HalfId := ((regionOf a).half?).getD h

/-- A write of a unit of half h to data space: a request in its own hierarchy, or a flit to the far half (R290, R335). A source
whose places are full holds its next request outside: what stands in the outbound queue beyond its 64 places waits there. -/
def unitWrite (h : HalfId) (g : BitVec 6) (s : State) (w : Addr × BitVec 10 × TCell) : State :=
  if homeHalf h w.1 = h then s.onMem h fun m => { m with arb := m.arb ++ [⟨.reckoner, bankOf w.1, g, 0, .writes [w], false⟩] }
  else s.onSpn h fun p => { p with out := p.out ++ [.write [w]] }

/-! ## The completion ring (R302, R303) -/

/-- A cell read by the ring writer; none when it is unmapped, across a DOWN span, or fails. -/
def ringRead (s : State) (h : HalfId) (a : Nat) (t : BitVec 10) : State × Option Cell :=
  if dataMapped s h a ≠ 0 then (s, none)
  else match homeRead (perfAccess s (BitVec.ofNat 24 a) true) (BitVec.ofNat 24 a) t .clean with
    | (s, .ok c) => (s, some c.val)
    | (s, _) => (s, none)

/-- A completion that could not be written (R302). DEDUCED: log 80. -/
def ringLose (s : State) (h : HalfId) : State := s.onSpn h fun p => { p with ringLost := satInc p.ringLost }

/-- Consecutive cells written by the ring writer. -/
def ringPut (s : State) (t : BitVec 10) (a : Nat) (l : List Cell) : State :=
  homeWrites s (writesFrom (BitVec.ofNat 24 a) t l)

/-- Every cell of a ring of `n` entries at `b` is mapped and reachable. -/
def ringMapped (s : State) (h : HalfId) (b n : Nat) : Bool :=
  dataMapped s h b == 0 && dataMapped s h (b + 3 + 4 * n) == 0

/-- `ring_write` of R303 for an entry of tenant t, by half h. -/
def completionRing (s : State) (h : HalfId) (t : BitVec 10) (e : List Cell) : State :=
  match ringRead s h ((s.half h).spn.ringTable.toNat + t.toNat) t with
  | (s, none) => ringLose s h
  | (s, some d) =>
    let n := (fld d 24 6).toNat
    let b := (fld d 0 24).toNat
    if n = 0 ∨ ringMapped s h b n = false then ringLose s h
    else match ringRead s h b t with
      | (s, none) => ringLose s h
      | (s, some wc) => match ringRead s h (b + 1) t with
        | (s, none) => ringLose s h
        | (s, some rc) =>
          let w := (fld wc 0 24)
          if n ≤ (w - fld rc 0 24).toNat then
            match ringRead s h (b + 2) t with
            | (s, none) => ringLose s h
            | (s, some drops) => ringPut s t (b + 2) [satInc drops]
          else
            let s := ringPut s t (b + 4 + 4 * (w.toNat % n)) e
            let s := ringPut s t b [atBits (w + 1) 0]
            raiseHalf (s.onSpn h fun p => { p with ringWritten := satInc p.ringWritten }) h 202

/-- Cell 0 of a ring entry (R303). -/
def ringHead (kind : BitVec 4) (st : Stamp) : Cell :=
  atBits kind 32 ||| atBits st.gen 28 ||| atBits st.tenant 10 ||| atBits st.ctx 0

/-- The stamped context still is what it was when the command was issued (R301). -/
def stampCurrent (s : State) (st : Stamp) : Bool :=
  let h := gHalf st.ctx
  let b := s.bank h (gLocal st.ctx)
  b.valid && b.tenant == st.tenant && s.genOf h st.tenant == st.gen

/-- A completion is delivered by raising its source, or goes to the tenant's ring (R301). -/
def deliver (s : State) (st : Stamp) (kind : BitVec 4) (id c2 c3 : Cell) (src : Nat) : State :=
  if stampCurrent s st then raiseSource s src
  else completionRing s (gHalf st.ctx) st.tenant [ringHead kind st, id, c2, c3]

/-! ## The end of a reckoner command (R350, R362) -/

/-- The ticket of an accepted command (R347). -/
def ticketOf (sel : BitVec 6) (ctx : BitVec 6) (seq : BitVec 12) : Cell :=
  atBits sel 24 ||| atBits (fld ctx 0 5) 18 ||| atBits seq 0

/-- A status cell (R350). -/
def statusCell (st : BitVec 3) (code : BitVec 6) (result : BitVec 24) : Cell :=
  atBits st 33 ||| atBits code 27 ||| atBits result 0

/-- The held status of a command changed. -/
def Reckoner.onStatus (r : Reckoner) (seq : BitVec 12) (f : RkStatus → RkStatus) : Reckoner :=
  { r with status := r.status.map fun e => if e.seq = seq then f e else e }

/-- The status code of a finished command once it completes: done, or failed when it has a code (R350).
DEDUCED: log 55. -/
def endState (c : RkCmd) : BitVec 3 := if c.code = 0 then 4 else 5

/-- The key that a completed generation command drew goes to its vault slot by a commons-store program (R518).
DEDUCED: log 56. -/
def fillSlot (s : State) (h : HalfId) (c : RkCmd) : State :=
  match c.fill with
  | none => s
  | some (i, ty) =>
    storeAdd s ⟨.slot i ⟨.filled, ty, c.stamp.tenant, .octets (c.keys.getD 0 [])⟩ none, h, false, false, false, false⟩

/-- A command that has not completed or failed. -/
def RkCmd.live (c : RkCmd) : Bool := !(c.state == .finished && c.code != 0)

/-- The reckoner loses a context as its owner, or as the one that is to become it (R344). -/
def Reckoner.disown (r : Reckoner) (k : BitVec 5) : Reckoner :=
  { r with ownValid := r.ownValid && r.ownCtx != k, ownNext := r.ownNext.filter fun o => o.2 != k }

/-- A finished command completes: its place is freed, its writes are released, its status set and its completion
delivered (R362). -/
def completeCmd (h : HalfId) (s : State) (c : RkCmd) : State :=
  let s := s.onRkn h fun r =>
    { (r.onStatus c.seq fun e => { e with state := endState c, code := c.code, result := c.result })
      with queue := r.queue.filter fun q => q.seq != c.seq }
  let s := if c.code = 0 then fillSlot ((c.writes.map fun (a, t, v) => (a, t, TCell.plain v)).foldl (unitWrite h c.stamp.ctx) s) h c
    else s
  deliver s c.stamp 1 (ticketOf c.sel c.stamp.ctx c.seq) (statusCell (endState c) c.code c.result) 0
    (200 + h.toNat)

/-- The commands that finished in a window or before it complete (R362). -/
def completeFinished (s : State) (h : HalfId) (num : Cell) : State :=
  ((s.half h).rkn.queue.filter fun c => c.state == .finished && decide (c.fin.toNat ≤ num.toNat)).foldl (completeCmd h) s

/-- No window is open: the half dozes, or its running context waits (R245, R362). -/
def noWindow (s : State) (h : HalfId) : Bool := (s.ex h).doze || (s.ex h).waiting.isSome

/-- What finishes now completes at once: no window is open, and the half is not halted (R245, R362). -/
def completesNow (s : State) (h : HalfId) : Bool := noWindow s h && s.mode h != mHalt

/-- A command has finished or failed: it completes at a close that agrees, or at once when no window is open (R362). -/
def cmdFinished (s : State) (h : HalfId) (c : RkCmd) : State :=
  let c := { c with state := .finished, fin := (s.half h).win.num }
  let s := s.onRkn h fun r => { r with queue := r.queue.map fun q => if q.seq = c.seq then c else q }
  if completesNow s h then completeCmd h s c else s

/-- Once no window is open, what finished in a window that held no slot completes at once (R244, R245, R362). -/
def completeIdle (s : State) (h : HalfId) : State :=
  let w := (s.half h).win
  if completesNow s h && w.slots == 0 && !w.group then
    ((s.half h).rkn.queue.filter fun c => c.state == .finished && c.fin == w.num).foldl (completeCmd h) s
  else s

end Sys2Proof.Machine
end

