-- ==== Sys2Proof/Machine/Operands.lean ====
section
/-! DEFINITION. Positions, the fields of long forms, and the entries of the return stack (R70-R90, R163, R166). -/

namespace Sys2Proof.Machine

/-! ## Positions -/

/-- Slot 0 of the code word after a position's (R74). -/
def nextWord (p : Pos) : Pos := ⟨p.addr + 1, 0⟩

/-- The position `n` slots on, in the next code word past slot 5 (R71, R81). -/
def slotsOn (p : Pos) (n : Nat) : Pos :=
  if p.slot.toNat + n ≤ 5 then ⟨p.addr, BitVec.ofNat 3 (p.slot.toNat + n)⟩ else nextWord p

/-- A form that needs `n` slots after its own may stand at the position (R74). -/
def roomFor (p : Pos) (n : Nat) : Bool := decide (p.slot.toNat + n ≤ 5)

/-! ## Fields of long forms (R82, R83) -/

/-- The width of the field of a long form at a position. -/
def fieldWidth (p : Pos) : Nat := 6 * (5 - p.slot.toNat)

/-- The field of a long form, of which the position leaves its width, unsigned. -/
def unsignedField (p : Pos) (f : BitVec 30) : Cell := (f.setWidth 36) &&& ((1 : Cell) <<< fieldWidth p) - 1

/-- The field of a long form, sign-extended to a cell. -/
def signedField (p : Pos) (f : BitVec 30) : Cell :=
  let sh := 36 - fieldWidth p
  ((f.setWidth 36) <<< sh).sshiftRight sh

/-- The field of LIT: sign-extended, or the whole next code word in slot 5 (R83). -/
def litField (p : Pos) (f : Cell) : Cell := if p.slot = 5 then f else signedField p (f.setWidth 30)

/-- The target of a branch with displacement `d` from a code word, as an integer (R83). -/
def branchTarget (p : Pos) (f : BitVec 30) : Int := p.addr.toNat + (signedField p f).toInt

/-! ## Return entries and frames (R163, R166) -/

/-- A return entry with its save mask. -/
def returnEntry (mask : BitVec 5) (p : Pos) : Cell := atBits mask 27 ||| atBits p.slot 24 ||| atBits p.addr 0

/-- The position entry of an exception frame. -/
def frameEntry (p : Pos) : Cell := atBit true 32 ||| atBits p.slot 24 ||| atBits p.addr 0

/-- The status entry of an exception frame: status bits [35:27] and the repeat state. -/
def statusEntry (st : Cell) (rep : Bool) (left : BitVec 24) : Cell :=
  atBits (fld st 27 9) 27 ||| (if rep then atBit true 24 ||| atBits left 0 else 0)

/-- The position that an entry records. -/
def entryPos (e : Cell) : Pos := ⟨fld e 0 24, fld e 24 3⟩

/-- The save mask of a return entry. -/
def entryMask (e : Cell) : BitVec 5 := fld e 27 5

/-- A resume position as a cell (R150). -/
def posCell (p : Pos) : Cell := atBits p.slot 24 ||| atBits p.addr 0

/-! ## Stack sizes (R100, R136, R138, R158) -/

/-- The return depth D of a context (R158). -/
def Bank.depthD (b : Bank) : Nat := b.st.toNat + b.rs.length

/-- The entries that a save mask pushes, in the order they are pushed (R125, R164). -/
def savedEntries (b : Bank) (m : BitVec 5) : List TCell :=
  let pair (n : Nat) (c : Cap) : List TCell :=
    if bit m (n + 1) then [⟨c.cell0, c.tag⟩, ⟨c.cell1, c.tag⟩] else []
  pair 0 b.c0 ++ pair 1 b.c1 ++ pair 2 b.c2 ++ pair 3 b.c3 ++ (if bit m 0 then [TCell.plain b.x] else [])

/-- The mask selects a capability register (R165). -/
def maskCaps (m : BitVec 5) : Bool := decide (fld m 1 4 ≠ (0 : BitVec 4))

/-- The number of entries under a return entry with a mask (R126). -/
def maskEntries (m : BitVec 5) : Nat :=
  2 * countTrue [bit m 1, bit m 2, bit m 3, bit m 4] + (if bit m 0 then 1 else 0)

end Sys2Proof.Machine
end

