-- ==== Sys2Proof/Machine/Windows.lean ====
section
/-! DEFINITION. Windows of a half: signatures, store buffer, input log, bookmarks, closes and rollbacks
(R194-R201, R242-R267, R281). -/

namespace Sys2Proof.Machine

/-! ## Signatures (R246, R247) -/

/-- One step of the signature unit (R246). -/
def misrStep (s v : BitVec 64) : BitVec 64 := (if bit s 63 then (s <<< 1) ^^^ 0b11011 else s <<< 1) ^^^ v

/-- A field of a signature item. -/
def sigAt {k : Nat} (x : BitVec k) (lo : Nat) : BitVec 64 := (x.setWidth 64) <<< lo

/-- The item of a retired slot (R247). Operand-stack cells carry no tag (R103, R150), so bit 36 is 0. DEDUCED: log 92. -/
def slotItem (p : Pos) (top : Option Cell) : BitVec 64 := sigAt p.addr 40 ||| sigAt p.slot 37 ||| sigAt (top.getD 0) 0

/-- The item of a fault or event entry (R247). -/
def entryItem (target : Addr) (cause : BitVec 4) (frame : Cell) : BitVec 64 :=
  sigAt target 40 ||| sigAt (7 : BitVec 3) 37 ||| sigAt cause 32 ||| sigAt (fld frame 0 27) 0

/-- The item of a store cell (R247). -/
def storeItem (t : Target) (data : Cell) (tag : Bool) (link : LinkKind) : BitVec 64 :=
  let sp : BitVec 2 := match t with
    | .io _ => 2
    | _ => 0
  let addr : BitVec 24 := match t with
    | .data a _ => a
    | .io a => a.setWidth 24 <<< 12
    | _ => 0
  let addrItem : BitVec 64 := match t with
    | .io a => sigAt a 36
    | _ => sigAt addr 36
  sigAt sp 62 ||| (if tag then sigAt (1 : BitVec 1) 61 else 0) ||| (if link != .single then sigAt (1 : BitVec 1) 60 else 0) |||
    addrItem ||| sigAt data 0

/-- Items enter a signature in order, up to the first that lacks its data. -/
def foldItems : List SigItem → BitVec 64 → BitVec 64 × List SigItem
  | [], g => (g, [])
  | i :: t, g =>
    match i.place with
    | none => foldItems t (misrStep g i.value)
    | some _ => (g, i :: t)

/-- An item follows those of the window. -/
def Windows.sign (w : Windows) (i : SigItem) : Windows :=
  let r := foldItems (w.items ++ [i]) w.sig
  { w with sig := r.1, items := r.2 }

/-- The data of an outstanding load stands in the items that show its place (R247). -/
def Windows.fillItems (w : Windows) (place : Nat) (v : Cell) : Windows :=
  let r := foldItems (w.items.map fun i => if i.place = some place then ⟨i.value ||| sigAt v 0, none⟩ else i) w.sig
  { w with sig := r.1, items := r.2 }

/-- A signature item is folded into the window in progress. -/
def signItem (s : State) (h : HalfId) (v : BitVec 64) : State := s.onWin h fun w => w.sign ⟨v, none⟩

/-- The cell at a place of the operand stack, counted from the oldest cell of it, is replaced; SPILLD and FILLD move no place.
DESIGN CHOICE: log 23. -/
def Bank.setPlace (b : Bank) (place : Nat) (v : Cell) : Bank :=
  { b with ds := b.ds.set (b.ds.length + b.sd.toNat - 1 - place) v }

/-- The state before a load, with the data of an earlier one filled in. -/
def Ckpt.fill (c : Ckpt) (place : Nat) (v : Cell) : Ckpt :=
  let r := foldItems (c.items.map fun i => if i.place = some place then ⟨i.value ||| sigAt v 0, none⟩ else i) c.sig
  { c with bank := c.bank.setPlace place v, sig := r.1, items := r.2 }

/-- The place of the top cell of an operand stack, when it is a load whose data is outstanding. -/
def awaited (e : Exec) (b : Bank) : Option Nat :=
  let n := b.ds.length + b.sd.toNat
  if b.ds != [] && e.reads.any fun r => r.place + 1 == n && !r.void then some (n - 1) else none

/-! ## The input log (R263, R265, R267) -/

/-- A kind whose requests are isolated (R264); an I/O read is when its register says so. -/
def LogKind.isRequest : LogKind → Bool
  | .event | .switch | .mint | .tick => false
  | _ => true

/-- An input is entered at the current retirement position. -/
def logInput (s : State) (h : HalfId) (k : LogKind) (req : Cell) (ctx : BitVec 5) (isolated : Bool) (v0 v1 : Cell) : State :=
  s.onWin h fun w => { w with log := w.log ++ [⟨w.num, w.slots, k, req, ctx, (s.bank h ctx).resume, isolated, v0, v1⟩], logged := w.logged + 1 }

/-- What the replayed log answers to a request (R265). -/
inductive Replay where
  /-- An entry with an equal request: its logged values. -/
  | hit (v0 v1 : Cell)
  /-- No entry: the request issues. -/
  | issue
  /-- An isolated request of a re-execution without an equal entry: a disagreement with no majority. -/
  | clash
deriving DecidableEq, Repr

/-- The entry answers the request. -/
def LogEntry.answers (e : LogEntry) (pos : Nat) (k : LogKind) (req : Cell) (ctx : BitVec 5) : Bool :=
  e.pos == pos && e.kind == k && e.req == req && e.ctx == ctx

/-- The answer of the replayed log to a request at the current position. -/
def replayAsk (w : Windows) (k : LogKind) (req : Cell) (ctx : BitVec 5) (isolated : Bool) : Replay :=
  match w.replayLog.find? fun e => e.answers w.replayPos k req ctx with
  | some e => .hit e.v0 e.v1
  | none =>
    if isolated && (w.replay.isSome || w.replayLog.any fun e => e.kind.isRequest && decide (w.replayPos ≤ e.pos)) then .clash
    else .issue

/-- The replayed log once a request has been answered or has passed its entries: what it passed is discarded (R265). -/
def replayPass (w : Windows) (k : LogKind) (req : Cell) (ctx : BitVec 5) : Windows :=
  match w.replayLog.findIdx? fun e => e.answers w.replayPos k req ctx with
  | some i => { w with replayLog := (w.replayLog.take i).filter (fun e => !e.kind.isRequest) ++ w.replayLog.drop (i + 1) }
  | none => { w with replayLog := w.replayLog.filter fun e => !(e.kind.isRequest && !e.isolated && decide (e.pos ≤ w.replayPos)) }

/-- A switch that the lanes will meet next in the replayed log. -/
def switchLogged (w : Windows) : Bool := w.replayLog.any fun e => e.kind == .switch && decide (e.pos ≤ w.replayPos)

/-- An answered request is logged again in the window that re-executes it. -/
def answerInput (s : State) (h : HalfId) (k : LogKind) (req : Cell) (ctx : BitVec 5) (isolated : Bool) (v0 v1 : Cell) : State :=
  logInput (s.onWin h fun w => replayPass w k req ctx) h k req ctx isolated v0 v1

/-! ## The store buffer (R194-R200) -/

/-- The entry of the current window that a store of a data cell merges into (R198). -/
def SbEntry.mergeable (e : SbEntry) (num : Cell) (a : Addr) : Bool :=
  !e.isSealed && e.win == num && e.link == .single &&
    (match e.target with
     | .data b _ => b == a
     | _ => false)

/-- The check bits that a lane computes at retirement for an entry: a function of the cell's item, which the spec does not
give (R194, R200). DESIGN CHOICE: log 93. -/
def entryCheck (t : Target) (data : Cell) (tag : Bool) (link : LinkKind) : Octet := Config.checkBits (storeItem t data tag link)

/-- A single store to the address would merge. -/
def wouldMerge (w : Windows) (a : Addr) : Bool := w.sb.any fun e => e.mergeable w.num a

/-- A cell written in the window in progress: merged, or given a new entry, and signed (R194, R198, R247). -/
def bufferStore (s : State) (h : HalfId) (t : Target) (data : Cell) (tag : Bool) (link : LinkKind) (wr : Writer)
    (snap : Option CapSnap) : State :=
  let s := signItem s h (storeItem t data tag link)
  let fresh : State := s.onWin h fun w =>
    { w with sb := w.sb ++ [⟨t, data, tag, w.num, false, link, false, wr, snap, entryCheck t data tag link⟩]
             stores := w.stores + 1 }
  match t with
  | .data a _ =>
    if link == .single && wouldMerge (s.half h).win a then
      s.onWin h fun w =>
        { w with sb := w.sb.map fun e =>
            if e.mergeable w.num a then
              { e with target := t, data := data, tag := tag, writer := wr, chk := entryCheck t data tag link } else e }
    else fresh
  | _ => fresh

/-- The youngest entry for a data address (R197). -/
def forwarded (w : Windows) (a : Addr) : Option TCell :=
  match (w.sb.filter fun e =>
    match e.target with
    | .data b _ => b == a
    | _ => false).getLast? with
  | none => none
  | some e => some ⟨e.data, e.tag⟩

/-- A load has issued: every entry in the buffer is sealed (R198). -/
def sealBuffer (s : State) (h : HalfId) : State :=
  s.onWin h fun w => { w with sb := w.sb.map fun e => { e with isSealed := true } }

/-- A data cell whose home is the other half (R290). -/
def farData (h : HalfId) (a : Addr) : Bool :=
  match (regionOf a).half? with
  | some k => k != h
  | none => false

/-- The entry's target is the other half (R290). -/
def SbEntry.far (e : SbEntry) (h : HalfId) : Bool :=
  match e.target with
  | .data a _ => farData h a
  | .io a => ioFar a.toNat
  | _ => false

/-- What the other half has received and not yet applied keeps its place in the outbound queue (R290). -/
def unapplied (s : State) (h : HalfId) : Nat :=
  let x := s.half h.other
  (x.mem.arb.filter fun r => r.source == .span).length + x.spn.applyGen.length

/-- Places of the span's outbound queue taken or reserved (R290). -/
def outboundUsed (s : State) (h : HalfId) : Nat :=
  (s.half h).spn.out.length + unapplied s h + ((s.half h).win.sb.filter fun e => e.far h).length

/-- The buffer and the outbound queue have room for a store of `n` entries, of which `far` go to the other half
(R196, R290). -/
def storeRoom (s : State) (h : HalfId) (n : Nat) (far : Nat) : Bool :=
  decide ((s.half h).win.sb.length + n ≤ 8) && (far == 0 || decide (outboundUsed s h + far ≤ 64))

/-! ## Closes (R242-R249, R255, R281) -/

/-- The bookmark of this moment. -/
def snapshot (s : State) (h : HalfId) : Snapshot :=
  let e := s.ex h
  ⟨e.banks, e.frec, e.running, e.chain, e.esc, e.escSrc, e.escAt, e.reads, e.arith, e.repu, e.dbgFrames, e.dbgSkip, e.fed⟩

/-- PRT_SIG selects the half and is armed. -/
def prtArmed (s : State) (h : HalfId) : Bool := bit s.prt.sig (34 + h.toNat) && bit s.prt.sig 31

/-- PRT_SIG inserts a difference at this close: at every k-th with rep, else once (R548). DEDUCED: log 81. -/
def prtInserts (s : State) (h : HalfId) : Bool :=
  prtArmed s h &&
    (!bit s.prt.sig 30 || decide (((s.half h).win.prtCloses + 1) % (max 1 (fld s.prt.sig 0 16).toNat) = 0))

/-- The lanes PRT_SIG names, lane A highest. DEDUCED: log 81. -/
def prtLanes (c : Cell) : BitVec 3 :=
  let l := fld c 32 2
  if l = 0 then 0b100 else if l = 1 then 0b010 else if l = 2 then 0b001 else 0b110

/-- PRT_CLOSE forces a close at this boundary: once, or after n slots (R548). -/
def prtForces (s : State) (h : HalfId) : Bool :=
  let w := (s.half h).win
  w.prtOnce || (bit s.prt.close (34 + h.toNat) && fld s.prt.close 0 11 != (0 : BitVec 11) &&
    decide ((fld s.prt.close 0 11).toNat ≤ w.slots))

/-- PRT_SIG after a close of the half: an insertion without rep disarms it. -/
def prtAfterClose (s : State) (h : HalfId) : State :=
  if prtArmed s h then
    let s' := s.onWin h fun w => { w with prtCloses := w.prtCloses + 1 }
    if bit s.prt.sig 30 then s' else { s' with prt := { s.prt with sig := setBit s.prt.sig 31 false } }
  else s

/-- A closed window, as its verdict will see it. -/
def closedWin (s : State) (h : HalfId) (forced : Bool) : ClosedWin :=
  let w := (s.half h).win
  let ins := prtInserts s h
  { num := w.num, slots := w.slots, lanes := (s.half h).tal.inService, sig := w.sig, forced := forced, mark := snapshot s h,
    prtLanes := if ins then prtLanes s.prt.sig else 0, prtChk := bit s.prt.sig 28, prtNoCharge := bit s.prt.sig 29 }

/-- The arrivals of a re-executed window that it has not reached are met at the first boundary after it (R265). -/
def Windows.unreached (w : Windows) : List LogEntry :=
  match w.replay with
  | none => w.replayLog
  | some n => w.replayLog.map fun e => if !e.kind.isRequest && decide (e.pos ≤ n) then { e with pos := min e.pos w.replayPos } else e

/-- The windows after a close: the next window is open and has no slot. -/
def Windows.opened (w : Windows) : Windows :=
  { w with num := w.num + 1, slots := 0, sig := (w.num + 1).setWidth 64, items := [], stores := 0, group := false, logged := 0,
           rolling := false, replay := none, replayLog := w.unreached, prtOnce := false, closeDue := false, taken := false }

/-- The oldest window that has not agreed: the first that awaits its verdict, else the one in progress. -/
def Windows.oldest (w : Windows) : Cell :=
  match w.closed with
  | c :: _ => c.num
  | [] => w.num

/-- The window in progress has nothing in it, so that no close falls on it (R244). -/
def Windows.blank (w : Windows) : Bool := w.slots == 0 && !w.group

/-- The window that follows what happens at this boundary: it takes effect once no older window awaits its agreement. -/
def Windows.followNum (w : Windows) : Cell := if w.blank then w.num else w.num + 1

/-- A change of a bank that waits for the agreement of the window it belongs to (R258). -/
def actLater (s : State) (h : HalfId) (a : WinAct) : State :=
  s.onWin h fun w => { w with acts := w.acts ++ [(w.followNum, a)] }

/-- A snapshot with the bank of a context changed. -/
def Snapshot.onBank (m : Snapshot) (k : BitVec 5) (f : Bank → Bank) : Snapshot :=
  { m with banks := sput Bank.reset m.banks k.toNat (f (sget Bank.reset m.banks k.toNat)) }

/-- The bank of a context changed by what has agreed: no rollback takes it back, so every bookmark has it (R255, R258). -/
def onBankAgreed (s : State) (h : HalfId) (k : BitVec 5) (f : Bank → Bank) : State :=
  (s.onBank h k f).onWin h fun w =>
    { w with mark := w.mark.map fun m => m.onBank k f, closed := w.closed.map fun c => { c with mark := c.mark.onBank k f } }

/-- The context is lost or stopped by a window that has not agreed yet. -/
def Windows.leaving (w : Windows) (k : BitVec 5) : Bool := w.acts.any fun a =>
  match a.2 with
  | .lose j _ => j == k
  | .stop j => j == k
  | .load _ _ => false

/-- The generations of agreed CREVOKEs are written to the half's table and to its copy in the commons store
(R148, R287, R297). DEDUCED: log 108. -/
def gensApply (s : State) (h : HalfId) (p : SbEntry → Bool) : State :=
  ((s.half h).win.sb.filter p).foldl (fun s e => match e.target with
    | .gen t g => s.onSpn h fun q => q.setGen t g
    | _ => s) s

/-- Every entry of the store buffer may leave (R281). -/
def agreeAll (w : Windows) : Windows := { w with sb := w.sb.map fun e => { e with agreed := true } }

/-! ## Modes and fences (R37-R40, R284, R493, R563) -/

/-- The fence marks of a half, lane A highest (R285). -/
def fenceMarks (s : State) (h : HalfId) : BitVec 3 := laneBits fun l => ((s.trec h).lane l).fenced

/-- A rollback-counter program is waiting or in flight. -/
def rollbackPending (s : State) : Bool := s.store.any fun p =>
  match p.op with
  | .rollback _ => true
  | _ => false

/-- The first TALLIED under an accepted charter has the rollback counter set to its version (R493). -/
def rollbackCount (s : State) (h : HalfId) : State :=
  if s.cht.installed && decide (s.rollback.toNat < s.cht.ver.toNat) && !rollbackPending s then
    storeAdd s ⟨.rollback s.cht.ver, h, false, false, false, false⟩
  else s

/-- The half changes mode: its source, a HALF report at an entry to or exit from READING-ROOM, and the rollback counter
(R37, R405, R493, R537). -/
def setMode (s : State) (h : HalfId) (m : BitVec 3) : State :=
  let old := s.mode h
  if old = m then s
  else
    let s := raiseHalf (s.onEx h fun e => { e with mode := m }) h 230
    let s := if old = mReading ∨ m = mReading then
        reportHalf s h .tly 8 none none (atBits old 3 ||| atBits m 0) (atBits (fenceMarks s h) 0) else s
    if m = mTallied then rollbackCount s h else s

/-- The half's run mode changes; in HALT it is the mode to come back to. -/
def setRunMode (s : State) (h : HalfId) (m : BitVec 3) : State :=
  if s.mode h = mHalt ∨ s.mode h = mKeep then s.onEx h fun e => { e with modeBefore := m } else setMode s h m

/-- The debug state of a half. -/
def State.dbgHalf (s : State) : HalfId → DbgHalf
  | .h0 => s.dbg.d0
  | .h1 => s.dbg.d1

/-- The block with the debug state of a half changed. -/
def State.onDbgHalf (s : State) (h : HalfId) (f : DbgHalf → DbgHalf) : State :=
  match h with
  | .h0 => { s with dbg := { s.dbg with d0 := f s.dbg.d0 } }
  | .h1 => { s with dbg := { s.dbg with d1 := f s.dbg.d1 } }

/-- The half stands at an agreed close: no slot in its window, no verdict outstanding, no re-execution.
DEDUCED: log 37. -/
def agreedClose (s : State) (h : HalfId) : Bool :=
  let w := (s.half h).win
  w.slots == 0 && !w.group && w.closed.isEmpty && !w.rolling && w.redo.isNone

/-- The other lanes are at their work: none is audited or resynchronised (R40). -/
def auditFree (t : Tally) : Bool := lanes.all fun l => (t.lane l).work == .inService || (t.lane l).work == .out

/-- A due audit may start in this mode: one of the rotation only in TALLIED (R277). -/
def auditStarts (s : State) (h : HalfId) (a : Lane × AuditTrigger) : Bool :=
  a.2 != .rotation || (s.mode h == mTallied && (s.half h).tal.auditEn)

/-- An audit is due that may start at a close of the half (R40, R277). -/
def auditReady (s : State) (h : HalfId) : Bool :=
  s.running h && s.mode h != mReading && auditFree (s.half h).tal && (s.half h).tal.audits.any (auditStarts s h)

/-- A trigger that ranks above a debug halt falls on the close the half stands at (R40): a half reset, an audit, or one that
has just acted. -/
def outranked (s : State) (h : HalfId) : Bool := (s.half h).win.taken || (s.half h).up.resetReq || auditReady s h

/-- A half marked for a halt enters HALT at an agreed close, unless a trigger of a higher rank falls on it (R40, R563).
DEDUCED: log 37. -/
def tryHalt (s : State) (h : HalfId) : State :=
  if (s.dbgHalf h).halt && s.running h && agreedClose s h && !outranked s h then
    let m := s.mode h
    let s := s.onDbgHalf h fun _ => DbgHalf.reset
    setMode (s.onEx h fun e => { e with modeBefore := m }) h mHalt
  else s

/-- A lane leaves service, fenced through TLY_CTRL as by a failed audit (R278, R284, R537). -/
def fenceLane (h : HalfId) (s : State) (l : Lane) : State :=
  if ((s.trec h).lane l).fenced then s
  else
    let s := s.onTrec h fun r => r.onLane l fun x => { x with fenced := true }
    let s := s.onTal h fun t =>
      { t.onLane l fun x => { x with work := .out } with audits := t.audits.filter fun a => a.1 != l || a.2 == .request }
    raiseHalf (reportHalf s h .tly 6 none (some l) (atBits (laneNo l) 0 ||| 0o50) 0) h 228

/-- The half's mode after lanes have left service: READING-ROOM with one lane, a half reset with none (R38, R479).
DEDUCED: log 36. -/
def afterFence (s : State) (h : HalfId) : State :=
  let n := (s.half h).tal.inService.length
  if n = 0 then s.onUp h fun u => { u with resetReq := true }
  else if s.runMode h = mReading then s
  else if n = 1 then setRunMode (s.onTal h fun t => { t with cmpLost := true }) h mReading
  else if n = 2 ∧ s.runMode h = mTallied then setRunMode s h mPaired else s

/-- The lanes that a fence request names and that carry no fence mark. -/
def fenceList (s : State) (h : HalfId) : List Lane :=
  lanes.filter fun l => bit ((s.half h).tal.fenceReq &&& ~~~fenceMarks s h) (2 - (laneNo l).toNat)

/-- The requested fences would leave fewer than two lanes in service. -/
def fenceStrands (s : State) (h : HalfId) : Bool :=
  let l := fenceList s h
  !l.isEmpty && decide (((s.half h).tal.inService.filter fun x => !l.contains x).length < 2)

/-- Fence requests act at a close; with one that would leave a single lane the half stands at its close until the verdicts
outstanding are given (R284). DEDUCED: log 37. -/
def fenceAct (s : State) (h : HalfId) : State :=
  let l := fenceList s h
  if l.isEmpty then s.onTal h fun t => { t with fenceReq := 0 }
  else if fenceStrands s h && !(s.half h).win.closed.isEmpty then s
  else afterFence ((l.foldl (fenceLane h) s).onTal h fun t => { t with fenceReq := 0 }) h

/-- The bring-up audit of the third lane has failed: two lanes serve, and no other lane is in work (R38, R481).
DEDUCED: log 39. -/
def thirdLaneFailed (t : Tally) : Bool :=
  t.inService.length == 2 && lanes.all fun l => (t.lane l).work == .inService || (t.lane l).work == .out

/-- The lanes switch to the PLL at a close: in READING-ROOM, or in EARLY once the third lane has failed its audit
(R38, R39). DEDUCED: log 39. -/
def pllClose (s : State) (h : HalfId) : State :=
  if !s.bnd.pllLocked || (s.ex h).onPll then s
  else if s.mode h = mReading then s.onEx h fun e => { e with onPll := true }
  else if s.mode h = mEarly ∧ thirdLaneFailed (s.half h).tal = true then setMode (s.onEx h fun e => { e with onPll := true }) h mPaired
  else s

/-- A requested injection starts at this close (R271). DEDUCED: log 39. -/
def injectStart (s : State) (h : HalfId) : State :=
  s.onTal h fun t => { t with injState := if t.injGo then 1 else t.injState }

/-- A new owner of the reckoner applies at the close that it forced (R344, R368). -/
def ownApply (s : State) (h : HalfId) : State :=
  match (s.half h).rkn.ownNext with
  | none => s
  | some o => s.onRkn h fun r => { r with ownValid := o.1, ownCtx := o.2, ownNext := none }

/-- What waits for a close of the half, in the order of R40. -/
def atClose (s : State) (h : HalfId) : State := tryHalt (fenceAct (injectStart (pllClose (ownApply s h) h) h) h) h

/-- A step has run its slots, in the window in progress and those that await their verdicts (R564). -/
def stepDue (s : State) (h : HalfId) : Bool :=
  match (s.dbgHalf h).stepLeft with
  | none => false
  | some n => let w := (s.half h).win; decide (n ≤ w.closed.foldl (fun m c => m + c.slots) w.slots)

/-- A step that has run its slots asks for the halt at this close (R564). -/
def stepClose (s : State) (h : HalfId) : State :=
  if stepDue s h then s.onDbgHalf h fun _ => ⟨true, none, false⟩ else s

/-- The slots of an agreed window count against a step. -/
def stepSpend (s : State) (h : HalfId) (n : Nat) : State :=
  s.onDbgHalf h fun d => { d with stepLeft := match d.stepLeft with
                                              | none => none
                                              | some k => some (k - n) }

/-- A close, after which the fault levels written before it hold (R232). A window with nothing in it does not close; in READING-ROOM a close is final at once, and the reckoner's
finished commands complete at it (R244, R281, R362). -/
def closeRaw (s : State) (h : HalfId) (forced : Bool) : State :=
  let w := (s.half h).win
  if w.slots = 0 ∧ w.group = false then s
  else
    let s := (stepClose (perfCount s h 0o07) h).onEx h fun e => { e with flevelEff := e.flevel }
    if s.runMode h = mReading then
      let s' := (stepSpend (gensApply s h fun e => !e.agreed) h w.slots).onWin h fun w => { (agreeAll w).opened with mark := some (snapshot s h), log := [] }
      atClose (completeFinished s' h w.num) h
    else
      let c := closedWin s h forced
      atClose (prtAfterClose (s.onWin h fun w => { w.opened with closed := w.closed ++ [c] }) h) h

/-- A slot has retired with its signature item, given the bank it leaves (R247, R249). -/
def retireSlot (s : State) (h : HalfId) (p : Pos) (b : Bank) : State :=
  let i : SigItem := match awaited (s.ex h) b with
    | some n => ⟨slotItem p none, some n⟩
    | none => ⟨slotItem p b.ds.head?, none⟩
  let s := s.onWin h fun w => { w.sign i with slots := w.slots + 1, replayPos := w.replayPos + 1 }
  perfCount s h 0o02

/-- Windows may still close: fewer than `4 - n` await their verdicts (R248). DEDUCED: log 24. -/
def closeRoom (s : State) (h : HalfId) (n : Nat) : Bool := decide ((s.half h).win.closed.length + n ≤ 4)

/-- The half stops at its close, because a halt, KEEP, a half reset or a fence waits for it there; after a trigger of a
higher rank it runs on to its next close (R40, R41, R284, R480, R563). DEDUCED: log 37. -/
def holdsClose (s : State) (h : HalfId) : Bool :=
  let w := (s.half h).win
  ((((s.dbgHalf h).halt || s.keep.keepReq) && !w.taken) || (s.half h).up.resetReq || fenceStrands s h) &&
    w.slots == 0 && !w.group && !w.rolling

/-- The lanes of the half can issue: they run, are not held in reset, and are not stopped at a close (R248, R256).
DESIGN CHOICE: log 13, 15. -/
def lanesRun (s : State) (h : HalfId) : Bool :=
  s.running h && (s.half h).win.redo.isNone && !(s.half h).tal.inService.isEmpty && !holdsClose s h

/-- A disagreement with no majority: the window closes at once (R28, R265). -/
def clashClose (s : State) (h : HalfId) : State :=
  if closeRoom s h 1 then closeRaw (s.onWin h fun w => { w with group := true }) h true else s

/-- No close may fall now: four windows await their verdicts, or the data of a read is outstanding (R225, R248).
DEDUCED: log 24. -/
def closeBlocked (s : State) (h : HalfId) : Bool := !closeRoom s h 1 || (s.ex h).reads.any fun r => !r.void

/-- The lanes are busy with a rollback, or no window can close: inputs are held (R248, R259). -/
def inputsHeld (s : State) (h : HalfId) : Bool :=
  (s.half h).win.rolling || (s.half h).win.redo.isSome || closeBlocked s h

/-! ## Rollback (R201, R253, R256-R259) -/

/-- The log entries of windows that have not agreed, with positions counted from the bookmark (R267). -/
def rebase (closed : List ClosedWin) (l : List LogEntry) : List LogEntry :=
  l.map fun e => { e with pos := e.pos + (closed.foldl (fun n c => if c.num.toNat < e.win.toNat then n + c.slots else n) 0) }

/-- The reckoner's commands that finished in a discarded window complete at the close of the re-executed one (R256, R362). -/
def Reckoner.finBack (r : Reckoner) (num : Cell) : Reckoner :=
  { r with queue := r.queue.map fun c => if num.toNat ≤ c.fin.toNat then { c with fin := num } else c }

/-- A rollback begins: the windows without an agreeing verdict are discarded with their store-buffer entries, and the
lanes are held in reset (R253, R256). -/
def rollbackStart (s : State) (h : HalfId) : State :=
  let s := s.onRkn h fun r => r.finBack (s.half h).win.oldest
  s.onWin h fun w =>
    let num := match w.closed with
      | c :: _ => c.num
      | [] => w.num
    let size := match w.closed with
      | c :: _ => c.slots
      | [] => w.slots
    let fresh := rebase w.closed w.log
    { w with num := num, slots := 0, sig := num.setWidth 64, stores := 0, group := false, logged := 0,
             rollbacks := satInc w.rollbacks, closed := [], sb := w.sb.filter fun e => e.agreed,
             items := [], acts := [], closeDue := false
             ticks := w.ticks.map fun t => if t.1.any fun n => decide (num.toNat < n.toNat) then (none, t.2) else t
             log := [], rolling := true, redo := some size, replay := none, replayPos := 0, replayLog := fresh ++ w.replayLog }

/-- The bookmark is restored (R255, R258). -/
def Exec.restore (e : Exec) (m : Snapshot) : Exec :=
  { e with banks := m.banks, frec := m.frec, running := m.running, chain := m.chain, esc := m.esc, escSrc := m.escSrc, escAt := m.escAt,
           reads := m.reads, arith := m.arith, repu := m.repu, dbgFrames := m.dbgFrames, dbgSkip := m.dbgSkip, fed := m.fed,
           waiting := none, fencing := false, revoking := none, groupOpen := none, ckpt := [], doze := false }

/-- The half's execution state and lines after a restore: the line buffers start empty (R256). -/
def restoreMark (s : State) (h : HalfId) : State :=
  match (s.half h).win.mark with
  | none => s
  | some m => s.onHalf h fun x => { x with ex := x.ex.restore m, line := ⟨none, false, none, false⟩ }

/-- ROLLBACK_RESTART: the bookmark is restored and the lanes start the window again (R256). -/
def restartWindow (s : State) (h : HalfId) : State :=
  match (s.half h).win.redo with
  | none => s
  | some n => (restoreMark s h).onWin h fun w => { w with redo := none, replay := some n }

/-- The half starts with its first bookmark. -/
def firstMark (s : State) (h : HalfId) : State := s.onWin h fun w => { w with mark := some (snapshot s h) }

end Sys2Proof.Machine
end

