-- ==== Sys2Proof/Machine/Govern.lean ====
section
/-! DEFINITION. The scheduler and the energy governor of a half: admission, leases, standing requests, entries and the
frame's reload (R371-R403). -/

namespace Sys2Proof.Machine

/-! ## The charter's values they use (R487-R489) -/

/-- The offset in the charter buffer of section k, 0 when it is absent (R487). -/
def chtOff (s : State) (k : Nat) : Nat := (fld (sget 0 s.cht.buf (8 + 2 * k)) 0 15).toNat

/-- Cell i of section k of the charter. -/
def chtCell (s : State) (k i : Nat) : Cell := if chtOff s k = 0 then 0 else sget 0 s.cht.buf (chtOff s k + i)

/-- The tenant is scheduled in EARLY (R489). -/
def earlyTenant (s : State) (t : BitVec 10) : Bool := bit (chtCell s 2 (2 * t.toNat)) 34

/-! ## Rates and budgets (R372, R377, R388-R390) -/

/-- The half's rate of run energy for its clock (R377). -/
def Half.rate (x : Half) : Nat := if x.ex.onPll then x.gov.run.toNat else x.gov.runEarly.toNat

/-- The charge for `c` cycles at a rate (R377). -/
def runCharge (rate c : Nat) : Nat := (c * rate + 65535) / 65536

/-- The refund for `c` cycles at a rate (R377). -/
def runRefund (rate c : Nat) : Nat := c * rate / 65536

/-- The ceiling of a lease class (R390). -/
def ceilingOf (g : Gov) (cls : BitVec 4) : Nat := sget 0 g.costs cls.toNat

/-- Eight times the frame length in µs: P, or 7P/8 with the external source (R372). -/
def frame8 (t : TickGen) : Nat := (if t.ext then 7 else 8) * t.period.toNat

/-- Standing energy of a frame (R378). -/
def standingUnits (g : Gov) (l8 : Nat) : Nat := (g.standing.toNat * l8 + 7999) / 8000

/-- tfac for a die temperature (R389). -/
def tfacOf (temp : Int) : Nat :=
  if temp ≤ 95 then 1000 else if 105 ≤ temp then 400 else 1000 - 60 * (temp - 95).toNat

/-- The effective budget (R388). -/
def beffOf (cap : Octet) (l8 tfac : Nat) : Nat := cap.toNat * l8 * tfac / 800000

/-! ## Admission (R374-R380) -/

/-- The valid entries of a table, by index. -/
def SchTable.valid (t : SchTable) : List (Nat × SchEntry) := t.entries.filter fun e => e.2.valid

/-- Entry i of a table. -/
def SchTable.entry (t : SchTable) (i : BitVec 7) : SchEntry := sget SchEntry.zero t.entries i.toNat

/-- The entry keeps R376. -/
def entryAdmissible (s : State) (h : HalfId) (e : SchEntry) : Bool :=
  decide (64 ≤ e.budget.toNat) && s.homeOf h e.tenant == h && !bit e.decl 6 && !bit e.decl 7 &&
    (!e.lstart || (bit e.decl e.scls.toNat && decide (ceilingOf (s.half h).gov e.scls ≤ e.allow.toNat)))

/-- The cycle check over some entries, at `f` lane cycles a µs (R378). -/
def cyclesFit (t : SchTable) (l : List (Nat × SchEntry)) (l8 f : Nat) : Bool :=
  decide (8 * ((l.map fun e => e.2.budget.toNat).sum + t.evReserve.toNat + 64 + 2400) ≤ l8 * f)

/-- The energy check over some entries, at a rate (R378). -/
def energyFits (g : Gov) (t : SchTable) (l : List (Nat × SchEntry)) (l8 rate : Nat) (cap : Octet) : Bool :=
  let need := standingUnits g l8 + runCharge rate t.evReserve.toNat +
    (l.map fun e => runCharge rate e.2.budget.toNat + e.2.allow.toNat).sum + t.sysAllow.toNat
  decide (800 * need ≤ cap.toNat * l8)

/-- Admission of a table under a cap: 0 when it passes, else the code of SCH_STAT, with the first invalid entry
(R378-R380). -/
def admission (s : State) (h : HalfId) (t : SchTable) (cap : Octet) : BitVec 4 × BitVec 7 :=
  let g := (s.half h).gov
  let l8 := frame8 s.tick
  let early := t.valid.filter fun e => earlyTenant s e.2.tenant
  match t.valid.find? fun e => !entryAdmissible s h e.2 with
  | some e => (3, BitVec.ofNat 7 e.1)
  | none =>
    if !cyclesFit t t.valid l8 600 then (1, 0)
    else if !energyFits g t t.valid l8 g.run.toNat cap then (2, 0)
    else if !cyclesFit t early l8 150 then (4, 0)
    else if !energyFits g t early l8 g.runEarly.toNat cap then (5, 0)
    else (0, 0)

/-- A check starts; while one runs, further ones are ignored (R380). DEDUCED: log 59. -/
def admissionStart (s : State) (h : HalfId) (k : AdmKind) : State :=
  s.onSch h fun c => if c.checking.isSome then c else { c with checking := some k, accepted := none, adm := 1, code := 0, bad := 0 }

/-- A check ends (R380). -/
def admissionEnd (s : State) (h : HalfId) : State :=
  let g := (s.half h).gov
  match (s.half h).sch.checking with
  | none => s
  | some (.table t) =>
    let r := admission s h t g.cap
    s.onSch h fun c =>
      if r.1 = 0 then { c with checking := none, accepted := some (.table t), adm := 2, code := 0, bad := 0 }
      else { c with checking := none, adm := 3, code := r.1, bad := r.2 }
  | some (.cap v) =>
    let r := admission s h (s.half h).sch.active v
    s.onSch h fun c =>
      if r.1 = 0 then { c with checking := none, accepted := some (.cap v), adm := 2, code := 0, bad := 0 }
      else { c with checking := none, adm := 3, code := 6, bad := 0 }

/-- A value kept within a register's limits (R402). -/
def clampOctet (lo hi : Nat) (v : Octet) : Octet := BitVec.ofNat 8 (max lo (min hi v.toNat))

/-- A write of GOV_BUDGET: the sag threshold at once, another cap through admission (R380, R402). -/
def govBudgetWrite (s : State) (h : HalfId) (v : Cell) : State :=
  let s := s.onGov h fun g => { g with sagThr := clampOctet 30 240 (fld v 16 8) }
  let cap := clampOctet 30 160 (fld v 0 8)
  if cap = (s.half h).gov.cap then s else admissionStart s h (.cap cap)

/-- SCH_CTRL.commit (R380). DEDUCED: log 59. -/
def schCommit (s : State) (h : HalfId) : State := admissionStart s h (.table (s.half h).sch.shadow)

/-- An accepted table or cap is installed, and the shadow is copied from the active table (R381). DEDUCED: log 59. -/
def installAccepted (s : State) (h : HalfId) : State :=
  match (s.half h).sch.accepted with
  | none => s
  | some (.table t) => s.onSch h fun c => { c with active := t, shadow := t, accepted := none, adm := 0, code := 0, bad := 0 }
  | some (.cap v) =>
    (s.onSch h fun c => { c with shadow := c.active, accepted := none, adm := 0, code := 0, bad := 0 }).onGov h
      fun g => { g with cap := v }

/-! ## Charges (R391, R392) -/

/-- The allowance left of an entry. -/
def allowLeftOf (c : Sched) (i : BitVec 7) : Int := sget 0 c.allowLeft i.toNat

/-- Energy is taken from the remaining energy, or given back when negative. -/
def spend (s : State) (h : HalfId) (n : Int) : State := s.onGov h fun g => { g with remaining := g.remaining - n }

/-- Energy is taken from an entry's allowance. -/
def spendAllow (s : State) (h : HalfId) (e : Option (BitVec 7)) (n : Int) : State :=
  match e with
  | none => s
  | some i => s.onSch h fun c => { c with allowLeft := sput 0 c.allowLeft i.toNat (allowLeftOf c i - n) }

/-- Energy is taken from the allowance of classes 6 and 7. -/
def spendSys (s : State) (h : HalfId) (n : Int) : State := s.onGov h fun g => { g with sysLeft := g.sysLeft - n }

/-- A ceiling fits the remaining energy and the allowance of an entry (R392). -/
def leaseFits (x : Half) (i : BitVec 7) (n : Nat) : Bool :=
  decide ((n : Int) ≤ x.gov.remaining) && decide ((n : Int) ≤ allowLeftOf x.sch i)

/-- A ceiling fits the remaining energy and the allowance of classes 6 and 7 (R392). -/
def sysFits (x : Half) (n : Nat) : Bool := decide ((n : Int) ≤ x.gov.remaining) && decide ((n : Int) ≤ x.gov.sysLeft)

/-- The lease of a local context. -/
def leaseOf (g : Gov) (k : BitVec 5) : Option Lease := sget none g.leases k.toNat

/-- The entry under which a context's lease was taken. -/
def leaseEntryOf (g : Gov) (k : BitVec 5) : Option (BitVec 7) := sget none g.leaseEntry k.toNat

/-- A lease of a class under an entry is released: the ceiling less its charges returns (R391). -/
def leaseBack (s : State) (h : HalfId) (e : Option (BitVec 7)) (l : Lease) : State :=
  let d : Int := (l.used : Int) - ceilingOf (s.half h).gov l.cls
  spendAllow (spend s h d) h e d

/-- The lease a context holds, if any, is released (R391). -/
def leaseRelease (s : State) (h : HalfId) (k : BitVec 5) : State :=
  let g := (s.half h).gov
  match leaseOf g k with
  | none => s
  | some l =>
    (leaseBack s h (leaseEntryOf g k) l).onGov h fun g =>
      { g with leases := sput none g.leases k.toNat none, leaseEntry := sput none g.leaseEntry k.toNat none }

/-- A context is given a lease, whose ceiling has been charged. -/
def leaseGive (s : State) (h : HalfId) (k : BitVec 5) (i : BitVec 7) (cls : BitVec 4) : State :=
  s.onGov h fun g => { g with leases := sput none g.leases k.toNat (some ⟨cls, 0⟩),
                               leaseEntry := sput none g.leaseEntry k.toNat (some i) }

/-- A class ceiling is charged for a lease under an entry (R391). -/
def leaseCharge (s : State) (h : HalfId) (i : BitVec 7) (cls : BitVec 4) : State :=
  let n : Int := ceilingOf (s.half h).gov cls
  spendAllow (spend s h n) h (some i) n

/-- The current schedule entry of a context: the scheduler's entry names it, its cycles count, and it does not run
borrowed (R143, R385). -/
def ownEntry (s : State) (h : HalfId) (k : BitVec 5) : Option (BitVec 7) :=
  let x := s.half h
  match x.sch.cur with
  | none => none
  | some i =>
    if (x.sch.active.entry i).ctx == k && !x.sch.waitCtx && x.ex.chain.isEmpty && x.ex.running == some k then some i else none

/-- The status of a LEASE (R143), refused with 1 before the half's first tick (R373). DEDUCED: log 57. -/
def leaseStatus (s : State) (h : HalfId) (k : BitVec 5) (cls : BitVec 4) : Nat :=
  let x := s.half h
  if (leaseOf x.gov k).isSome then 2
  else if !x.gov.ticked then 1
  else match ownEntry s h k with
    | none => 3
    | some i =>
      if !bit (x.sch.active.entry i).decl cls.toNat then 3
      else if leaseFits x i (ceilingOf x.gov cls) then 0 else 1

/-- LEASE's effect on the governor (R143, R391, R403). DEDUCED: log 57. -/
def leaseRequest (s : State) (h : HalfId) (k : BitVec 5) (cls : BitVec 4) : State × Nat :=
  let st := leaseStatus s h k cls
  if st = 0 then
    match ownEntry s h k with
    | none => (s, 0)
    | some i => (leaseGive (leaseCharge s h i cls) h k i cls, 0)
  else (s.onGov h fun g => { g with refused := satInc g.refused }, st)

/-! ## Standing requests (R392) -/

/-- A request that stands. -/
inductive Standing where
  /-- The reckoner's head command. -/
  | head (c : RkCmd)
  /-- The due line of this number. -/
  | line (n : Nat)
  /-- The commons-store program at this place of the queue. -/
  | prog (i : Nat)
deriving DecidableEq, Repr

/-- The reckoner's head command: the first that has not finished or failed (R349). -/
def Reckoner.headCmd (r : Reckoner) : Option RkCmd := r.queue.find? fun c => c.state != .finished

/-- The head command's lease request that stands. -/
def headStanding (x : Half) : Option RkCmd :=
  match x.rkn.headCmd with
  | some c => if c.state == .deferred && c.leaseWanted && c.lease.isNone then some c else none
  | none => none

/-- The number of the oldest due line without a grant. -/
def lineStanding (m : MemUnit) : Option Nat :=
  (m.merge.filter fun e => e.due.isSome && !e.granted).foldl (fun o e =>
    match o, e.due with
    | none, d => d
    | some n, some d => some (min n d)
    | some n, none => some n) none

/-- The place of the oldest commons-store program of the half without a grant. -/
def progStanding (s : State) (h : HalfId) : Option Nat :=
  s.store.findIdx? fun p => p.half == h && !p.exempt && !p.granted

/-- The standing request that is next (R392, R395). -/
def firstStanding (s : State) (h : HalfId) : Option Standing :=
  let x := s.half h
  match headStanding x with
  | some c => some (.head c)
  | none =>
    if x.gov.nvmHold then none
    else match lineStanding x.mem with
      | some n => some (.line n)
      | none => (progStanding s h).map .prog

/-- A grant of a request that stood is counted (R403). DEDUCED: log 57. -/
def countDeferred (s : State) (h : HalfId) (stood : Bool) : State :=
  if stood then s.onGov h fun g => { g with deferred := satInc g.deferred } else s

/-- A class 6 or 7 ceiling is charged. -/
def sysCharge (s : State) (h : HalfId) (cls : BitVec 4) : State :=
  let n : Int := ceilingOf (s.half h).gov cls
  spendSys (spend s h n) h n

/-- The due line of number n changed. -/
def MemUnit.onDue (m : MemUnit) (n : Nat) (f : MergeEntry → MergeEntry) : MemUnit :=
  { m with merge := m.merge.map fun e => if e.due = some n then f e else e }

/-- The commons-store program at place i changed. -/
def onProg (s : State) (i : Nat) (f : StoreProg → StoreProg) : State :=
  match s.store[i]? with
  | none => s
  | some p => { s with store := s.store.set i (f p) }

/-- Whether the due line of number n has stood. -/
def lineStood (m : MemUnit) (n : Nat) : Bool := m.merge.any fun e => e.due == some n && e.stood

/-- A line's program is granted and may start (R326, R391). -/
def grantLine (s : State) (h : HalfId) (n : Nat) : State :=
  let stood := lineStood (s.half h).mem n
  nvmPump ((countDeferred (sysCharge s h 6) h stood).onMem h fun m => m.onDue n fun e => { e with granted := true }) h

/-- The program at place i commits a daybook entry. -/
def progCommits (s : State) (i : Nat) (h : HalfId) : Bool :=
  match s.store[i]? with
  | none => false
  | some p => p.op.commits h

/-- Whether the program at place i has stood. -/
def progStood (s : State) (i : Nat) : Bool :=
  match s.store[i]? with
  | none => false
  | some p => p.stood

/-- A commons-store program is granted and may start; a daybook commit counts (R334, R391, R540). -/
def grantProg (s : State) (h : HalfId) (i : Nat) : State :=
  let s := if progCommits s i h then s.onDbk h fun q => { q with commits := q.commits + 1 } else s
  storePump (onProg (countDeferred (sysCharge s h 7) h (progStood s i)) i fun p => { p with granted := true })

/-- The head command takes its lease and runs (R359, R391). -/
def grantHead (s : State) (h : HalfId) (c : RkCmd) (cls : BitVec 4) (i : BitVec 7) : State :=
  let s := countDeferred (leaseCharge s h i cls) h true
  s.onRkn h fun r =>
    let c' := { c with state := .running, lease := some ⟨cls, 0⟩, leaseWanted := false }
    { (r.onStatus c.seq fun e => { e with state := 3 }) with queue := r.queue.map fun q => if q.seq = c.seq then c' else q }

/-- The energy class of the head command's request: that of R358, which the caller gives by selector and operand. -/
def standStays (s : State) (h : HalfId) : Standing → State
  | .head _ => s
  | .line n => s.onMem h fun m => m.onDue n fun e => { e with stood := true }
  | .prog i => onProg s i fun p => { p with stood := true }

/-! ## Entries (R383-R386) -/

/-- esc_active of a half (R235, R237). -/
def escActive (x : Half) : Bool := bit x.ex.escSrc 34

/-- The entry is ready (R383). DEDUCED: log 32. -/
def entryReady (s : State) (h : HalfId) (i : Nat) (e : SchEntry) : Bool :=
  let x := s.half h
  let b := x.bank e.ctx
  e.valid && !x.sch.started.contains (BitVec.ofNat 7 i) && x.sch.en && !b.lost && !b.stopped && !x.win.leaving e.ctx &&
    (x.ex.mode != mEarly || earlyTenant s e.tenant) && (!x.sch.disturbed || e.essential) && !escActive x

/-- The entry fits (R383). -/
def entryFits (x : Half) (e : SchEntry) : Bool :=
  let c := ceilingOf x.gov e.scls
  decide (((runCharge x.rate e.budget.toNat + if e.lstart then c else 0 : Nat) : Int) ≤ x.gov.remaining) &&
    (!e.lstart || decide (c ≤ e.allow.toNat))

/-- The entry of highest priority, ties to the lower index. -/
def bestEntry : List (Nat × SchEntry) → Option (Nat × SchEntry)
  | [] => none
  | e :: t =>
    match bestEntry t with
    | none => some e
    | some f => if e.2.prio < f.2.prio then some f else some e

/-- The ready entries of the active table. -/
def readyEntries (s : State) (h : HalfId) : List (Nat × SchEntry) :=
  (s.half h).sch.active.entries.filter fun e => entryReady s h e.1 e.2

/-- The running context as the value of a logged switch. -/
def runCode (r : Option (BitVec 5)) : Cell :=
  match r with
  | none => 32
  | some k => atBits k 0

/-- The fault is held in the control cell (R160). Another imprecise fault is not held.
DESIGN CHOICE: log 110. -/
def holdFault (b : Bank) (f : FaultInfo) (imprecise : Bool) (at_ : Pos) : Bank :=
  if f.cause = cArith then { b with heldArith := true, heldRec := some (at_, f.status == eDivideZero, imprecise) }
  else if f.cause = cBudget then { b with heldBudget := true, heldEntry := some (fld f.info 0 7) }
  else b

/-- A pending ARITH that a REPU holds back stays with its context, as a held fault does (R160, R168). DEDUCED: log 18. -/
def parkArith (s : State) (h : HalfId) (k : BitVec 5) : State :=
  match (s.ex h).arith with
  | none => s
  | some a =>
    (s.onBank h k fun b => holdFault b (faultOf cArith (if a.divZero then eDivideZero else eOverflow) 0) true a.at_).onEx h
      fun e => { e with arith := none }

/-- The running context restarts at its resume position as at a transfer (R207). -/
def lineResume (s : State) (h : HalfId) : State :=
  match s.runBank h with
  | none => s
  | some (_, b) => s.onHalf h fun x => { x with line := x.line.transfer b.resume.addr }

/-- The running context is about to change: the window closes, and what a REPU held back stays with the context (R168,
R207, R243). -/
def leaveRunning (s : State) (h : HalfId) : State :=
  let s := closeRaw s h false
  let s := match (s.ex h).running with
    | none => s
    | some k => parkArith s h k
  s.onEx h fun e => { e with repu := false, groupOpen := none }

/-- The running context changes by the scheduler's decision, which closes the window and is logged (R207, R243, R263); `cut`
marks a tick or end that took the context at the bottom of the return chain away. -/
def switchTo (s : State) (h : HalfId) (r : Option (BitVec 5)) (cut : Bool) : State :=
  let s := if (s.ex h).running = r then s else leaveRunning s h
  let s := lineResume (s.onEx h fun e => { e with running := r, doze := e.doze && r.isNone }) h
  logInput s h .switch 0 0 false (runCode r) (if cut then 1 else 0)

/-- A half has a pending, enabled source above the MASK of the context it is routed to (R36). -/
def eventWaiting (s : State) (h : HalfId) : Bool :=
  (sourcesIn (s.evc.pend &&& s.evc.en &&& ~~~s.evc.act)).any fun src =>
    let g := routeOf s src
    gHalf g == h && decide ((stMask (s.bank h (gLocal g)).status).toNat < levelOf s src)

/-- The start lease of an entry is granted, and its allowance left set (R384). -/
def startLease (s : State) (h : HalfId) (i : BitVec 7) (e : SchEntry) : State :=
  let s := s.onSch h fun c => { c with allowLeft := sput 0 c.allowLeft i.toNat (e.allow.toNat : Int) }
  if e.lstart then leaseGive (leaseCharge (leaseRelease s h e.ctx) h i e.scls) h e.ctx i e.scls else s

/-- The context of an entry is loaded for it (R178). -/
def contextLoaded (s : State) (h : HalfId) (e : SchEntry) : Bool :=
  (s.bank h e.ctx).valid && (s.bank h e.ctx).tenant == e.tenant

/-- An entry starts (R384). -/
def startEntry (s : State) (h : HalfId) (i : BitVec 7) (e : SchEntry) : State :=
  let s := startLease (spend s h (runCharge (s.half h).rate e.budget.toNat)) h i e
  let here := contextLoaded s h e
  let s := s.onSch h fun c => { c with cur := some i, left := e.budget.toNat, waitCtx := !here, expired := false,
                                       starved := false, started := i :: c.started }
  if here then switchTo s h (some e.ctx) false else raiseHalf s h 208

/-- The scheduler picks the next entry when none is current and no context is borrowed (R383, R417). DEDUCED: log 32. -/
def schedPick (s : State) (h : HalfId) : State :=
  let x := s.half h
  if x.sch.cur.isSome || !x.ex.chain.isEmpty || !x.gov.ticked || !x.win.ticks.isEmpty then s
  else
    let ready := readyEntries s h
    match bestEntry (ready.filter fun e => entryFits x e.2) with
    | some (i, e) => startEntry s h (BitVec.ofNat 7 i) e
    | none =>
      let s := s.onSch h fun c => { c with starved := !ready.isEmpty }
      if ready.isEmpty && x.ex.running.isNone && !eventWaiting s h then
        completeIdle (s.onEx h fun e => { e with doze := true }) h
      else s

/-- The bottom link of the return chain no longer records a context to return to (R417). -/
def cutBottom : List BorrowLink → List BorrowLink
  | [] => []
  | [l] => [{ l with prev := none }]
  | l :: t => l :: cutBottom t

/-- The current entry ends: cycles are refunded and its context's lease released; its context no longer runs, now or
when the return chain unwinds (R386, R417). -/
def endEntry (s : State) (h : HalfId) : State :=
  let x := s.half h
  match x.sch.cur with
  | none => s
  | some i =>
    let k := (x.sch.active.entry i).ctx
    let s := leaseRelease (spend s h (-(runRefund x.rate x.sch.left : Int))) h k
    let s := s.onSch h fun c => { c with cur := none, left := 0, waitCtx := false, expired := false }
    if x.sch.waitCtx then s
    else if x.ex.chain.isEmpty then
      if x.ex.running = some k then (leaveRunning s h).onEx h fun e => { e with running := none, waiting := none } else s
    else s.onEx h fun e => { e with chain := cutBottom e.chain }

/-- Cycles of the current entry pass (R385). -/
def useCycles (s : State) (h : HalfId) (n : Nat) : State := s.onSch h fun c => { c with left := c.left - n }

/-- Cycles of a borrowed context pass: from the event account, then from the remaining energy (R387). -/
def useEventCycles (s : State) (h : HalfId) (n : Nat) : State :=
  let x := s.half h
  if x.sch.evOver then spend s h (runCharge x.rate n) else s.onSch h fun c => { c with evLeft := c.evLeft - n }

/-- The half returns to the scheduler: an entry that waited for its context runs once that is loaded, and with none
current the scheduler picks (R178, R383, R416). -/
def schedReturn (s : State) (h : HalfId) : State :=
  let c := (s.half h).sch
  if !(s.ex h).chain.isEmpty || (s.ex h).running.isSome || !(s.half h).win.ticks.isEmpty then s
  else match c.cur with
    | none => schedPick s h
    | some i =>
      let e := c.active.entry i
      if contextLoaded s h e then switchTo (s.onSch h fun c => { c with waitCtx := false }) h (some e.ctx) false else s

/-- The end of an entry, after which the scheduler picks again; the change is logged for a rollback. -/
def endAndPick (s : State) (h : HalfId) : State :=
  let cut := !(s.ex h).chain.isEmpty
  let s' := schedPick (endEntry s h) h
  if (s'.half h).sch.cur.isSome && !(s'.half h).sch.waitCtx && !cut then s' else switchTo s' h (s'.ex h).running cut

/-! ## The frame (R373, R386-R389, R393) -/

/-- The sag comparator's view of the supply: VFIELD is below the half's threshold (R394). -/
def belowSag (s : State) (h : HalfId) : Bool := decide (s.keep.vfield.toNat < (s.half h).gov.sagThr.toNat)

/-- The lease that a sliced command holds between slices is revoked (R393). -/
def revokeHeadLease (s : State) (h : HalfId) : State :=
  match (s.half h).rkn.headCmd with
  | none => s
  | some c =>
    match c.lease with
    | none => s
    | some l =>
      if c.state == .running || !c.begun then s
      else
        let s := leaseBack s h c.entry l
        let s := s.onGov h fun g => { g with revoked := satInc g.revoked }
        s.onRkn h fun r => { r with queue := r.queue.map fun q => if q.seq = c.seq then { q with lease := none } else q }

/-- Ready entries that did not start are counted and reported (R386). -/
def countSkips (s : State) (h : HalfId) : State :=
  let l := if (s.half h).gov.ticked then readyEntries s h else []
  match l with
  | [] => s
  | e :: _ =>
    let s := s.onSch h fun c => { c with skips := satOf 12 (c.skips.toNat + l.length) }
    reportHalf s h .sch 19 none none (atBits (satOf 8 l.length) 0) (cellOf e.1)

/-- The current entry is cut by the tick (R386, R417). -/
def cutEntry (s : State) (h : HalfId) : State :=
  if (s.half h).sch.cur.isSome then
    (endEntry s h).onSch h fun c => { c with cuts := satInc c.cuts }
  else s

/-- The energy budget is reloaded (R388, R389, R394). -/
def reload (s : State) (h : HalfId) (temp : Int) : State :=
  let l8 := frame8 s.tick
  let tf := tfacOf temp
  let low := belowSag s h
  let s := s.onGov h fun g =>
    let beff := beffOf g.cap l8 tf
    let x := s.half h
    { g with
      temp := BitVec.ofInt 8 (temp + 40)
      tfac := BitVec.ofNat 10 tf
      beff := beff
      throttled := if tf < 1000 then satInc g.throttled else g.throttled
      remaining := (beff : Int) - standingUnits g l8 - runCharge x.rate x.sch.active.evReserve.toNat + min 0 g.remaining
      sysLeft := (x.sch.active.sysAllow.toNat : Int)
      nvmHold := g.nvmHold && g.sag
      ticked := true }
  s.onSch h fun c =>
    { c with
      allowLeft := (c.active.entries.filter fun e => e.2.allow != 0).map fun e => (e.1, (e.2.allow.toNat : Int))
      evLeft := c.active.evReserve.toNat
      evOver := false
      started := []
      starved := false
      disturbed := (s.half h).gov.sag || low }

/-! ## Supply sag (R394, R395) -/

/-- The class 6 and 7 grants of a half whose programs have not started. -/
def grantsHeld (s : State) (h : HalfId) : Nat × Nat :=
  (((s.half h).mem.merge.filter fun e => e.granted && !e.prog).length,
   (s.store.filter fun p => p.half == h && !p.exempt && p.granted && !p.started).length)

/-- Daybook commits among the granted programs that have not started. -/
def commitsHeld (s : State) (h : HalfId) : Nat :=
  (s.store.filter fun p => p.half == h && !p.exempt && p.granted && !p.started && p.op.commits h).length

/-- The grants are withdrawn and refunded, and their programs stand again (R395). -/
def withdrawGrants (s : State) (h : HalfId) : State :=
  let n := grantsHeld s h
  let g := (s.half h).gov
  let back : Int := n.1 * ceilingOf g 6 + n.2 * ceilingOf g 7
  let c := commitsHeld s h
  let s := spendSys (spend s h (-back)) h (-back)
  let s := s.onGov h fun g => { g with revoked := satOf 12 (g.revoked.toNat + n.1 + n.2), nvmHold := true }
  let s := s.onDbk h fun q => { q with commits := q.commits - c }
  let s := s.onMem h fun m =>
    { m with merge := m.merge.map fun e => if e.granted && !e.prog then { e with granted := false, stood := true } else e }
  { s with store := s.store.map fun p =>
      if p.half == h && !p.exempt && p.granted && !p.started then { p with granted := false, stood := true } else p }

/-- The half's sag entry (R395, R537). -/
def sagEntry (s : State) (h : HalfId) (n : Nat) : DbkEntry :=
  ⟨(s.half h).sch.frame, dbkHead false 20 (originOf h) (unitCode .gov) none none false, atBits s.keep.vfield 0, cellOf n⟩

/-- A non-essential current entry is cut (R386, R395). -/
def cutNonEssential (s : State) (h : HalfId) : State :=
  let c := (s.half h).sch
  match c.cur with
  | none => s
  | some i =>
    if (c.active.entry i).essential then s
    else endAndPick (s.onSch h fun c => { c with cuts := satInc c.cuts }) h

/-! ## Registers (R397-R403) -/

/-- The shadow entry that SCH_SEL selects. -/
def shadowEntry (c : Sched) : SchEntry := c.shadow.entry c.sel

/-- The scheduler with the selected shadow entry changed. -/
def Sched.onShadow (c : Sched) (f : SchEntry → SchEntry) : Sched :=
  { c with shadow := { c.shadow with entries := sput SchEntry.zero c.shadow.entries c.sel.toNat (f (shadowEntry c)) } }

/-- The two cells of SCH_TABLE (R399). -/
def SchEntry.cells (e : SchEntry) : Cell × Cell :=
  (atBit e.valid 35 ||| atBit e.essential 34 ||| atBits e.prio 31 ||| atBits e.ctx 26 ||| atBits e.tenant 16 ||| atBits e.decl 0,
   atBit e.lstart 35 ||| atBits e.scls 31 ||| atBits e.budget 0)

/-- An entry with the fields of SCH_TABLE replaced (R399). -/
def SchEntry.ofCells (e : SchEntry) (x0 x1 : Cell) : SchEntry :=
  { valid := bit x0 35, essential := bit x0 34, prio := fld x0 31 3, ctx := fld x0 26 5, tenant := fld x0 16 10,
    decl := fld x0 0 16, lstart := bit x1 35, scls := fld x1 31 4, budget := fld x1 0 24, allow := e.allow }

/-- SCH_STAT (R400). -/
def schStat (c : Sched) : Cell × Cell :=
  (atBits c.adm 34 ||| atBits c.code 30 ||| atBit c.cur.isSome 29 ||| atBits (c.cur.getD 0) 22 ||| atBit c.starved 21 |||
    atBit c.disturbed 20 ||| atBit c.evOver 19 ||| atBits c.bad 12,
   atBits c.overruns 24 ||| atBits c.cuts 12 ||| atBits c.skips 0)

/-- SCH_FRAME (R401). -/
def schFrame (t : TickGen) (c : Sched) : Cell × Cell :=
  (atBit t.ext 35 ||| atBit t.fallback 34 ||| atBits t.early 24 ||| atBits t.missed 14 ||| atBits t.period 0, c.frame)

/-- GOV_LEASE of a context (R403). -/
def govLease (g : Gov) (k : BitVec 5) : Cell :=
  match leaseOf g k with
  | none => 0
  | some l => atBit true 35 ||| atBits l.cls 31 ||| atBits (satOf 16 l.used) 0

/-- GOV_STAT (R403). -/
def govStat (g : Gov) : Cell × Cell :=
  (atBit g.sag 35 ||| atBit g.nvmHold 34 ||| atBits g.temp 26 ||| atBits (BitVec.ofInt 20 g.remaining) 0,
   atBits g.tfac 26 ||| atBits (BitVec.ofNat 20 g.beff) 0)

/-- GOV_LEFT (R403). -/
def govLeft (x : Half) : Cell × Cell :=
  let a : Int := match x.sch.cur with
    | none => 0
    | some i => allowLeftOf x.sch i
  (atBits (BitVec.ofInt 17 a) 0, atBits (BitVec.ofInt 17 x.gov.sysLeft) 0)

/-- Reads of SCH and GOV at offset `o` of 0o110000, by a local context of half `w` (R397). -/
def schRead (s : State) (h : HalfId) (k : BitVec 5) (o : Nat) : Option (Cell × Cell) :=
  let x := s.half h
  let c := x.sch
  let g := x.gov
  if o = 0 then some (atBit c.checking.isSome 35 ||| atBit c.en 34, 0)
  else if o = 1 then some (atBits c.sel 0, 0)
  else if o = 2 then some (shadowEntry c).cells
  else if o = 4 then some (atBits (shadowEntry c).allow 0, 0)
  else if o = 6 then some (atBits c.shadow.evReserve 0, atBits c.shadow.sysAllow 0)
  else if o = 0o10 then some (schStat c)
  else if o = 0o12 then some (atBits (BitVec.ofNat 24 c.left) 0, atBits (BitVec.ofNat 24 c.evLeft) 0)
  else if o = 0o14 then some (schFrame s.tick c)
  else if o = 0o100 then some (atBits g.sagThr 16 ||| atBits g.cap 0, 0)
  else if o = 0o102 then some (atBits g.run 9 ||| atBits g.runEarly 0, atBits g.standing 0)
  else if o = 0o104 then some (govLease g k, 0)
  else if o = 0o106 then some (govStat g)
  else if o = 0o110 then
    some (atBits g.sags 24 ||| atBits g.dips 12 ||| atBits g.revoked 0,
          atBits g.deferred 24 ||| atBits g.refused 12 ||| atBits g.throttled 0)
  else if o = 0o112 then some (govLeft x)
  else if 0o120 ≤ o ∧ o < 0o140 then some (cellOf (sget 0 g.costs (o - 0o120)), 0)
  else none

/-- Writes of SCH and GOV (R397-R402). -/
def schWrite (s : State) (h : HalfId) (o : Nat) (x0 x1 : Cell) : State :=
  if o = 0 then
    let s := s.onSch h fun c => { c with en := bit x0 34 }
    if bit x0 35 then schCommit s h else s
  else if o = 1 then s.onSch h fun c => { c with sel := fld x0 0 7 }
  else if o = 2 then s.onSch h fun c => c.onShadow fun e => e.ofCells x0 x1
  else if o = 4 then s.onSch h fun c => c.onShadow fun e => { e with allow := fld x0 0 16 }
  else if o = 6 then s.onSch h fun c => { c with shadow := { c.shadow with evReserve := fld x0 0 24, sysAllow := fld x1 0 16 } }
  else if o = 0o100 then govBudgetWrite s h x0
  else s

end Sys2Proof.Machine
end

