-- ==== Sys2Proof/Machine/Mailbox.lean ====
section
/-! DEFINITION. The mailbox channels: posting, taking, acknowledging, resets and the MBX registers (R436-R452). -/

namespace Sys2Proof.Machine

/-- A channel. -/
def State.chan (s : State) (c : BitVec 6) : Channel := sget Channel.zero s.mbx.chans c.toNat

/-- The block with a channel changed. -/
def State.onChan (s : State) (c : BitVec 6) (f : Channel → Channel) : State :=
  { s with mbx := { s.mbx with chans := sput Channel.zero s.mbx.chans c.toNat (f (s.chan c)) } }

/-- The direction of a channel: inbound or outbound. -/
def Channel.dir (x : Channel) (inbound : Bool) : MbxDir := if inbound then x.inp else x.outp

/-- A channel with a direction changed. -/
def Channel.onDir (x : Channel) (inbound : Bool) (f : MbxDir → MbxDir) : Channel :=
  if inbound then { x with inp := f x.inp } else { x with outp := f x.outp }

/-! ## Stamps and acks (R436, R444) -/

/-- The stamp of a new entry (R436, R441). -/
def stampOf (seq epoch : Octet) (origin : BitVec 2) (id : BitVec 10) : HostWord :=
  hBit true 31 ||| hAt seq 20 ||| hAt epoch 12 ||| hAt origin 10 ||| hAt id 0

/-- The seq field of a stamp. -/
def stampSeq (w : HostWord) : Octet := fld w 20 8

/-- The epoch field of a stamp. -/
def stampEpoch (w : HostWord) : Octet := fld w 12 8

/-- The content of an ack register that holds an ack (R444). -/
def ackOf (ctl : Bool) (origin : BitVec 2) (seq : Octet) (code : BitVec 12) : HostWord :=
  hBit true 31 ||| hBit ctl 30 ||| hAt origin 28 ||| hAt seq 20 ||| hAt code 0

/-- The origin code of a half (R436). -/
def mbxOrigin : HalfId → BitVec 2
  | .h0 => 1
  | .h1 => 2

/-- The ack register of a direction's sender takes an ack; an inbound one rings DB_ACK (R444, R451). -/
def setAck (s : State) (c : BitVec 6) (inbound : Bool) (a : HostWord) : State :=
  let s := s.onChan c fun x => x.onDir inbound fun d => { d with ack := a, timer := none }
  if inbound then { s with mbx := { s.mbx with dbAck := setBit s.mbx.dbAck c.toNat true } } else s

/-- A receiver's ack takes effect: discarded when the sender has been reset since the entry (R444, R449). -/
def receiverAck (s : State) (c : BitVec 6) (inbound : Bool) (origin : BitVec 2) (code : BitVec 12) : State :=
  let d := (s.chan c).dir inbound
  if d.takenEpoch ≠ d.sendEpoch then s.onChan c fun x => { x with ackOrphan := satInc x.ackOrphan }
  else setAck s c inbound (ackOf false origin d.takenSeq code)

/-- PRT_ACK delays acks of a channel (R548). -/
def ackIsDelayed (p : Cell) (c : BitVec 6) : Bool :=
  bit p 35 && (bit p 34 || fld p 28 6 == c) && fld p 0 16 != 0

/-- A receiver's ack write is accepted: at once, or after the delay of PRT_ACK (R444, R548). -/
def ackWrite (s : State) (c : BitVec 6) (inbound : Bool) (origin : BitVec 2) (code : BitVec 12) : State :=
  if ackIsDelayed s.prt.ack c then
    { s with mbx := { s.mbx with delayed := s.mbx.delayed ++ [⟨c, inbound, origin, code⟩] } }
  else receiverAck s c inbound origin code

/-! ## Posting and taking (R441, R442) -/

/-- The queue after a push, and whether it replaced the tail (R442). -/
def pushEntry (q : List MbxEntry) (e : MbxEntry) : List MbxEntry × Bool :=
  if q.length < 4 then (q ++ [e], false)
  else (q.dropLast ++ [{ e with stamp := e.stamp ||| hBit true 28 }], true)

/-- An accepted post (R441): the entry is queued, the sender's ack cleared and the ack timer started. -/
def postEntry (s : State) (c : BitVec 6) (inbound : Bool) (cells : List Cell) (origin : BitVec 2) (id : BitVec 10) :
    State :=
  let d := (s.chan c).dir inbound
  let r := pushEntry d.queue ⟨cells, stampOf d.seq d.sendEpoch origin id⟩
  let s := s.onChan c fun x =>
    let x := x.onDir inbound fun d =>
      { d with queue := r.1, seq := d.seq + 1, ack := setBit d.ack 31 false, timer := some (0, d.seq) }
    if r.2 then
      { x with collIn := x.collIn || inbound, collOut := x.collOut || !inbound, collisions := satInc x.collisions }
    else x
  if inbound then raiseSource s (128 + c.toNat)
  else { s with mbx := { s.mbx with dbOut := setBit s.mbx.dbOut c.toNat true } }

/-- A host or debugger post is refused (R441). -/
def postRefused (x : Channel) (iid : Octet) : Bool := !x.en || ((iid ^^^ x.iid) &&& x.imask) != 0

/-- A post by the host: none when it is refused (R441). -/
def hostPost (s : State) (c : BitVec 6) (iid : Octet) : Option State :=
  let x := s.chan c
  if postRefused x iid then none else some (postEntry s c true x.hostStage 0 (iid.setWidth 10))

/-- A post by the block; on a disabled channel the sender's ack completes with code 0o7775 (R441). -/
def blockPost (s : State) (c : BitVec 6) (w : Writer) : State :=
  let x := s.chan c
  if x.en then postEntry s c false x.blockStage (mbxOrigin w.half) w.tenant
  else setAck s c false (ackOf true 0 x.outp.seq 0o7775)

/-- The head of a direction's queue is taken; its stamp goes to the last-taken record (R442). -/
def popEntry (s : State) (c : BitVec 6) (inbound : Bool) : State :=
  match ((s.chan c).dir inbound).queue with
  | [] => s
  | e :: q => s.onChan c fun x => x.onDir inbound fun d =>
      { d with queue := q, takenSeq := stampSeq e.stamp, takenEpoch := stampEpoch e.stamp }

/-- The stamp of a direction's head, zero when the queue is empty (R436). -/
def headStamp (d : MbxDir) : HostWord :=
  match d.queue with
  | [] => 0
  | e :: _ => e.stamp

/-- Cell i of a direction's head, zero when the queue is empty (R437, R439). -/
def headCell (d : MbxDir) (i : Nat) : Cell :=
  match d.queue with
  | [] => 0
  | e :: _ => e.cells.getD i 0

/-! ## Resets (R447) -/

/-- An entry flagged stale. -/
def MbxEntry.stale (e : MbxEntry) : MbxEntry := { e with stamp := e.stamp ||| hBit true 30 }

/-- An entry flagged orphan. -/
def MbxEntry.orphan (e : MbxEntry) : MbxEntry := { e with stamp := e.stamp ||| hBit true 29 }

/-- A receiver reset: queued entries are flagged stale and the receive epoch advances. -/
def MbxDir.rxReset (d : MbxDir) : MbxDir := { d with queue := d.queue.map MbxEntry.stale, recvEpoch := d.recvEpoch + 1 }

/-- A sender reset: the sender epoch advances and the ack timer stops. -/
def MbxDir.txReset (d : MbxDir) : MbxDir := { d with sendEpoch := d.sendEpoch + 1, timer := none }

/-- A receiver reset of a direction. -/
def mbxRx (s : State) (c : BitVec 6) (inbound : Bool) : State := s.onChan c fun x => x.onDir inbound MbxDir.rxReset

/-- A sender reset of a direction. -/
def mbxTx (s : State) (c : BitVec 6) (inbound : Bool) : State := s.onChan c fun x => x.onDir inbound MbxDir.txReset

/-- The channel numbers. -/
def chanNos : List (BitVec 6) := (List.range 64).map (BitVec.ofNat 6)

/-- Both directions of the block side of every channel that a tenant owns are reset (R447). -/
def mbxTenantReset (s : State) (t : BitVec 10) : State :=
  chanNos.foldl (fun s c => if (s.chan c).owner = t then mbxTx (mbxRx s c true) c false else s) s

/-- What the reset or loss of a context does to the channels of the tenant it holds (R447). -/
def mbxContextGone (s : State) (b : Bank) : State := if b.valid then mbxTenantReset s b.tenant else s

/-- A half restart resets both directions of the block side of every channel whose owner is homed in the half (R447).
DEDUCED: log 63. -/
def mbxHomeReset (s : State) (h : HalfId) : State :=
  chanNos.foldl (fun s c => if s.homeOf h (s.chan c).owner = h then mbxTx (mbxRx s c true) c false else s) s

/-- A channel at a detach, or at a block reset that no detach preceded (R447). -/
def Channel.detach (x : Channel) : Channel :=
  { x with
    inp := { x.inp with queue := [], recvEpoch := x.inp.recvEpoch + 1, timer := none }
    outp := { x.outp with queue := x.outp.queue.map MbxEntry.orphan, sendEpoch := x.outp.sendEpoch + 1, timer := none }
    blockStage := zeroCells
    dropped := satOf 8 (x.dropped.toNat + x.inp.queue.length) }

/-- The detach rule for one channel: the host's ack completes when inbound entries were lost (R447). -/
def mbxDetachChan (s : State) (c : BitVec 6) : State :=
  let lost := (s.chan c).inp.queue
  let s := s.onChan c Channel.detach
  match lost.getLast? with
  | none => s
  | some e => setAck s c true (ackOf true 0 (stampSeq e.stamp) 0o7776)

/-- The detach rule of R447, applied once until the next block reset. -/
def mbxDetach (s : State) : State :=
  if s.mbx.detached then s
  else
    let s := chanNos.foldl mbxDetachChan s
    { s with mbx := { s.mbx with detached := true } }

/-- A channel's settings and stagings at a block reset (R437, R440). -/
def Channel.unconfigured (x : Channel) : Channel :=
  { x with en := false, tmo := 255, owner := 0, iid := 0, imask := 0, hostStage := zeroCells, blockStage := zeroCells,
           collIn := false, collOut := false }

/-- The mailboxes at a block reset (R447, R452). DEDUCED: log 63. -/
def mbxBlockReset (s : State) : State :=
  let s := mbxDetach s
  let s := chanNos.foldl (fun s c => s.onChan c Channel.unconfigured) s
  { s with mbx := { s.mbx with detached := false, cross := [], grants := 0, hostReset := false, hostKeep := false,
                               delayed := [] } }

/-- The mailboxes after the loss of main-domain power (R447). DEDUCED: log 63. -/
def mbxPowerLoss (s : State) : State :=
  { s with mbx := Mbx.reset, host := { s.host with lost := true } }

/-! ## Registers (R439, R440) -/

/-- MBX_STAT (R440). -/
def mbxStat (x : Channel) : Cell :=
  atBit x.en 35 ||| atBit x.collIn 34 ||| atBit x.collOut 33 ||| atBits (BitVec.ofNat 3 x.inp.queue.length) 30 |||
    atBits (BitVec.ofNat 3 x.outp.queue.length) 27 ||| atBits x.inp.recvEpoch 19 ||| atBits x.outp.sendEpoch 11

/-- HCH_STAT (R438). -/
def hchStat (x : Channel) : HostWord :=
  hBit x.en 31 ||| hBit x.collIn 30 ||| hBit x.collOut 29 ||| hAt (BitVec.ofNat 3 x.inp.queue.length) 26 |||
    hAt (BitVec.ofNat 3 x.outp.queue.length) 23 ||| hAt x.outp.recvEpoch 15 ||| hAt x.inp.sendEpoch 7

/-- HCH_CNT, and MBX_CNT in bits [31:0] (R438, R439). -/
def hchCnt (x : Channel) : HostWord :=
  hAt x.dropped 24 ||| hAt x.ackOrphan 16 ||| hAt x.collisions 8 ||| hAt x.timeouts 0

/-- MBX_CFG (R440). -/
def mbxCfg (x : Channel) : Cell × Cell :=
  (atBit x.en 35 ||| atBits x.tmo 22 ||| atBits x.owner 12, atBits x.iid 8 ||| atBits x.imask 0)

/-- A channel with MBX_CFG's settings (R440). -/
def Channel.config (x : Channel) (c0 c1 : Cell) : Channel :=
  { x with en := bit c0 35, tmo := if fld c0 22 8 = 0 then 1 else fld c0 22 8, owner := fld c0 12 10,
           iid := fld c1 8 8, imask := fld c1 0 8 }

/-- A list of cells with cell i replaced. -/
def setCell (l : List Cell) (i : Nat) (v : Cell) : List Cell := l.set i v

/-- MBX_CROSS of a global context (R450). -/
def mbxCross (s : State) (g : BitVec 6) : Cell :=
  match sget none s.mbx.cross g.toNat with
  | none => 0
  | some c => atBit true 35 ||| atBits c 0

/-- A read at offset `o` of the MBX unit by a context; MBX_POP takes the inbound head (R439). -/
def mbxRead (s : State) (g : BitVec 6) (o : Nat) : Option (State × Cell × Cell) :=
  let one (c : Cell) : Option (State × Cell × Cell) := some (s, c, 0)
  if o < 0o4000 then
    let c := BitVec.ofNat 6 (o / 32)
    let r := o % 32
    let x := s.chan c
    if r < 8 then one (headCell x.inp r)
    else if r = 0o10 then one (atBits (headStamp x.inp) 0)
    else if r = 0o11 then some (popEntry s c true, atBits (headStamp x.inp) 0, 0)
    else if r = 0o12 then one (atBits x.outp.ack 0)
    else if r = 0o13 then one (mbxStat x)
    else if r = 0o14 then some (s, mbxCfg x)
    else if r = 0o16 then one (atBits (hchCnt x) 0)
    else if 0o20 ≤ r ∧ r < 0o30 then some (s, x.blockStage.getD (r - 0o20) 0, x.blockStage.getD (r - 0o17) 0)
    else if r = 0o30 then one 0
    else none
  else if o = 0o4000 then one (mbxCross s g)
  else if o = 0o4001 then one (atBits s.mbx.dbSw 0)
  else if 0o4004 ≤ o ∧ o < 0o4010 then one (atBits (s.mbx.grants.extractLsb' (32 * (o - 0o4004)) 32) 0)
  else if o = 0o4010 then one (atBit s.mbx.hostReset 35 ||| atBit s.mbx.hostKeep 34)
  else none

/-- A write of MBX_CFG: settings, then the resets it asks for (R440, R447). -/
def mbxCfgWrite (s : State) (c : BitVec 6) (c0 c1 : Cell) : State :=
  let s := s.onChan c fun x => x.config c0 c1
  let s := if bit c0 34 then mbxRx s c true else s
  if bit c0 33 then mbxTx s c false else s

/-- The grant bits of index k replaced (R452). -/
def mbxGrantWrite (s : State) (k : Nat) (b : BitVec 32) : State :=
  let m : BitVec 128 := (BitVec.allOnes 32).setWidth 128 <<< (32 * k)
  { s with mbx := { s.mbx with grants := (s.mbx.grants &&& ~~~m) ||| (b.setWidth 128 <<< (32 * k)) } }

/-- A write at offset `o` of the MBX unit (R439, R440). -/
def mbxWrite (s : State) (w : Writer) (o : Nat) (x0 x1 : Cell) : State :=
  if o < 0o4000 then
    let c := BitVec.ofNat 6 (o / 32)
    let r := o % 32
    if r = 0o12 then ackWrite s c true (mbxOrigin w.half) (fld x0 0 12)
    else if r = 0o13 then if bit x0 33 then s.onChan c fun x => { x with collOut := false } else s
    else if r = 0o14 then mbxCfgWrite s c x0 x1
    else if 0o20 ≤ r ∧ r < 0o30 then
      s.onChan c fun x => { x with blockStage := setCell (setCell x.blockStage (r - 0o20) x0) (r - 0o17) x1 }
    else if r = 0o30 then if bit x0 35 then blockPost s c w else s
    else s
  else if o = 0o4001 then { s with mbx := { s.mbx with dbSw := s.mbx.dbSw ||| fld x0 0 32 } }
  else if 0o4004 ≤ o ∧ o < 0o4010 then mbxGrantWrite s (o - 0o4004) (fld x0 0 32)
  else if o = 0o4010 then { s with mbx := { s.mbx with hostReset := bit x0 35, hostKeep := bit x0 34 } }
  else s

/-! ## The controller's commands -/

/-- The ack timers count a frame tick of the commons generator (R445). -/
def mbxTick (s : State) : State :=
  let f (d : MbxDir) : MbxDir :=
    { d with timer := match d.timer with
                      | none => none
                      | some (n, q) => some (n + 1, q) }
  { s with mbx := { s.mbx with chans := s.mbx.chans.map fun e => (e.1, { e.2 with inp := f e.2.inp, outp := f e.2.outp }) } }

/-- ACK_TIMEOUT: at the tmo-th tick without an ack the controller completes it (R445). -/
def execAckTimeout (c : BitVec 6) (inbound : Bool) (s : State) : Host.Outcome State Fault Refusal :=
  let x := s.chan c
  let d := x.dir inbound
  match d.timer with
  | none => .next s
  | some (n, q) =>
    if x.tmo.toNat ≤ n ∧ bit d.ack 31 = false then
      .next (setAck (s.onChan c fun x => { x with timeouts := satInc x.timeouts }) c inbound (ackOf true 0 q 0o7777))
    else .next s

/-- ACK_DELAYED_EFFECT: the oldest ack that PRT_ACK holds for the direction takes effect and is tested (R548). -/
def execAckDelayedEffect (c : BitVec 6) (inbound : Bool) (s : State) : Host.Outcome State Fault Refusal :=
  match s.mbx.delayed.find? fun a => a.chan == c && a.inbound == inbound with
  | none => .next s
  | some a => .next (receiverAck { s with mbx := { s.mbx with delayed := s.mbx.delayed.erase a } } c inbound a.origin a.code)

end Sys2Proof.Machine
end

