-- ==== Sys2Proof/Machine/Store.lean ====
section
/-! DEFINITION. The commons store and the units that own its contents: monotonic counters, fleet index, key vault slots,
daybook ring and rollback counter (R21, R333, R334, R493, R516-R520, R527, R539-R546). -/

namespace Sys2Proof.Machine

/-! ## The queue of programs (R334, R539, R540) -/

/-- The sag entry is committed as the next program, ahead of any other (R395, R540). -/
def storeSag (s : State) (h : HalfId) (e : DbkEntry) : State :=
  storePump { s with store := s.store.filter (fun p => p.started) ++ ⟨.sag h e, h, true, false, false, false⟩ ::
                              s.store.filter (fun p => !p.started) }

/-! ## Monotonic counters (R333, R334) -/

/-- A counter's result before any increment. -/
def MctRes.zero : MctRes := ⟨0, 0, 0⟩

/-- The values assigned to a counter and not yet durable, oldest first. -/
def mctAssigned (s : State) (k : Octet) : List Cell :=
  s.store.filterMap fun p =>
    match p.op with
    | .counter j v _ => if j = k then some v else none
    | _ => none

/-- The latest value of a counter, durable or assigned. -/
def mctLatest (s : State) (k : Octet) : Cell := (mctAssigned s k).getLast?.getD (sget 0 s.mct.val k.toNat)

/-- The result of a context's latest increment. -/
def setMctRes (s : State) (g : BitVec 6) (r : MctRes) : State :=
  { s with mct := { s.mct with res := sput MctRes.zero s.mct.res g.toNat r } }

/-- An increment of counter k is accepted: its next value is assigned and its program joins the queue; a counter at
all-ones is locked (R334). -/
def mctIncrement (s : State) (w : Writer) (k : Octet) : State :=
  let g := gctx w.half w.ctx
  let v := mctLatest s k
  if v = BitVec.allOnes 36 then setMctRes s g ⟨v, 3, k⟩
  else storeAdd (setMctRes s g ⟨v + 1, 1, k⟩) ⟨.counter k (v + 1) g, w.half, false, false, false, false⟩

/-- The program of a counter's value completes (R334). -/
def mctDone (s : State) (k : Octet) (v : Cell) (g : BitVec 6) : State :=
  let s := { s with mct := { s.mct with val := sput 0 s.mct.val k.toNat v } }
  let r := sget MctRes.zero s.mct.res g.toNat
  if r = ⟨v, 1, k⟩ then setMctRes s g ⟨v, 2, k⟩ else s

/-! ## The fleet index (R525-R534) -/

/-- A revocation result before any revocation. -/
def FltRes.zero : FltRes := ⟨0, 0⟩

/-- Whether a member's bit is set in a bitmap. -/
def fltBit (m : Sparse HostWord) (member : Nat) : Bool := bit (sget 0 m (member / 32)) (member % 32)

/-- A bitmap with a member's bit set. -/
def fltSet (m : Sparse HostWord) (member : Nat) : Sparse HostWord :=
  sput 0 m (member / 32) (setBit (sget 0 m (member / 32)) (member % 32) true)

/-- The size of the fleet in force: 0 when no fleet data is present (R525). -/
def fltSize (s : State) : Nat := if bit s.flt.head 35 then (fld s.flt.head 14 15).toNat else 0

/-- The result of a context's latest revocation. -/
def setFltRes (s : State) (g : BitVec 6) (r : FltRes) : State :=
  { s with flt := { s.flt with res := sput FltRes.zero s.flt.res g.toNat r } }

/-- A program of a member's bit is pending. -/
def fltPending (s : State) (m : BitVec 14) : Bool := s.store.any fun p =>
  match p.op with
  | .fleet j _ => j == m
  | _ => false

/-- The pending program of a member, joined by one more issuer (R527). -/
def fltJoin (l : List StoreProg) (m : BitVec 14) (g : BitVec 6) : List StoreProg :=
  l.map fun p =>
    match p.op with
    | .fleet j gs => if j = m then { p with op := .fleet j (gs ++ [g]) } else p
    | _ => p

/-- A write of FLT_REV with go (R527, R534). -/
def fltRevoke (s : State) (w : Writer) (m : BitVec 14) : State :=
  let g := gctx w.half w.ctx
  if fltSize s ≤ m.toNat then setFltRes s g ⟨3, m⟩
  else
    let s := { s with flt := { s.flt with mirror := fltSet s.flt.mirror m.toNat } }
    if fltBit s.flt.stored m.toNat then setFltRes s g ⟨2, m⟩
    else if fltPending s m then setFltRes { s with store := fltJoin s.store m g } g ⟨1, m⟩
    else storeAdd (setFltRes s g ⟨1, m⟩) ⟨.fleet m [g], w.half, false, false, false, false⟩

/-- The program of a member's bit completes, for every issuer that joined it (R527). -/
def fltDone (s : State) (m : BitVec 14) (gs : List (BitVec 6)) : State :=
  let s := { s with flt := { s.flt with stored := fltSet s.flt.stored m.toNat } }
  gs.foldl (fun s g => if sget FltRes.zero s.flt.res g.toNat = ⟨1, m⟩ then setFltRes s g ⟨2, m⟩ else s) s

/-- FLEETCHK's answer for a member (R145, R527). -/
def fltRevoked (s : State) (member : Nat) : Bool := fltBit s.flt.mirror member

/-! ## Vault slots (R516, R533) -/

/-- A vault result before any operation. -/
def VltRes.zero : VltRes := ⟨0, 0, 0⟩

/-- A vault slot's durable record. -/
def vltSlot (s : State) (i : BitVec 10) : VltSlot := sget VltSlot.zero s.vlt.slots i.toNat

/-- The records that pending programs will give a slot, oldest first. -/
def vltPending (s : State) (i : BitVec 10) : List VltSlot :=
  s.store.filterMap fun p =>
    match p.op with
    | .slot j r _ => if j = i then some r else none
    | _ => none

/-- A vault slot as its latest operation leaves it, durable or pending: the order of R26 decides (R528).
DEDUCED: log 78. -/
def vltLatest (s : State) (i : BitVec 10) : VltSlot := (vltPending s i).getLast?.getD (vltSlot s i)

/-- The result of a context's latest vault operation. -/
def setVltRes (s : State) (g : BitVec 6) (r : VltRes) : State :=
  { s with vlt := { s.vlt with res := sput VltRes.zero s.vlt.res g.toNat r } }

/-- The program of a slot's record completes (R518, R533). -/
def vltDone (s : State) (i : BitVec 10) (r : VltSlot) (g : Option (BitVec 6)) : State :=
  let s := { s with vlt := { s.vlt with slots := sput VltSlot.zero s.vlt.slots i.toNat r } }
  match g with
  | none => s
  | some g =>
    let q := sget VltRes.zero s.vlt.res g.toNat
    if q.state = 1 ∧ q.slot = i then setVltRes s g ⟨2, 0, i⟩ else s

/-- The results held for a global context are cleared at its reset and at every CTXLD into it (R333, R533, R534). -/
def clearResults (s : State) (g : Nat) : State :=
  { s with mct := { s.mct with res := sput MctRes.zero s.mct.res g MctRes.zero },
           flt := { s.flt with res := sput FltRes.zero s.flt.res g FltRes.zero },
           vlt := { s.vlt with res := sput VltRes.zero s.vlt.res g VltRes.zero } }

/-! ## The daybook ring (R539-R546) -/

/-- An entry is written to the ring (R539, R453). -/
def ringWrite (s : State) (e : DbkEntry) : State :=
  { s with dbk := { s.dbk with
      ring := sput DbkEntry.zero s.dbk.ring s.dbk.head.toNat e
      head := s.dbk.head + 1
      wrapped := s.dbk.wrapped || s.dbk.head == BitVec.allOnes 12
      commits := satInc s.dbk.commits
      lastClass := fld e.d1 30 6
      lastFrame := fld e.d0 0 16 } }

/-- The commit of a half's entry completes: the entry's place is freed (R539). -/
def dbkDone (s : State) (h : HalfId) (e : DbkEntry) : State :=
  let s := ringWrite s e
  let s := s.onDbk h fun q => { q with queue := if q.queue.head? == some e then q.queue.drop 1 else q.queue }
  dbkKick (dbkEmit s h) h

/-! ## Completion -/

/-- What a completed program leaves. -/
def storeApply (s : State) : StoreOp → State
  | .counter k v g => mctDone s k v g
  | .fleet m gs => fltDone s m gs
  | .slot i r g => vltDone s i r g
  | .daybook h e => dbkDone s h e
  | .sag _ e => ringWrite s e
  | .rollback v => { s with rollback := v }

/-- COMMONS_STORE_PROGRAM_COMPLETE: the program in flight completes, and the next may start (R334). -/
def execCommonsStoreProgramComplete (s : State) : Host.Outcome State Fault Refusal :=
  match s.store.find? fun p => p.started with
  | none => .next s
  | some p => .next (storePump (storeApply { s with store := s.store.erase p } p.op))

/-! ## Registers of the counters, the fleet index and the daybook -/

/-- Reads of the MCT unit at offset `o` of 0o056000 (R333, R334): a result that is not durable is not reported.
DESIGN CHOICE: log 98. -/
def mctRead (s : State) (g : BitVec 6) (o : Nat) : Option (Cell × Cell) :=
  if o < 0o400 then some (sget 0 s.mct.val o, 0)
  else if o < 0o1000 then some (atBit (!(mctAssigned s (BitVec.ofNat 8 (o - 0o400))).isEmpty) 0, 0)
  else if o = 0o1000 then
    let r := sget MctRes.zero s.mct.res g.toNat
    some (if r.state = 1 then 0 else r.value, atBits r.state 34 ||| atBits r.counter 0)
  else none

/-- Writes of the MCT unit (R333). -/
def mctWrite (s : State) (w : Writer) (o : Nat) (x0 : Cell) : State :=
  if 0o400 ≤ o ∧ o < 0o1000 ∧ bit x0 0 = true then mctIncrement s w (BitVec.ofNat 8 (o - 0o400)) else s

/-- Reads of the fleet registers at an I/O address (R534). -/
def fltRead (s : State) (g : BitVec 6) (a : Nat) : Option (Cell × Cell) :=
  if a = 0o052100 then some (s.flt.head, s.flt.version)
  else if 0o052102 ≤ a ∧ a < 0o052112 then some (sget 0 s.flt.keys (a - 0o052102), 0)
  else if a = 0o052112 then some (atBits s.flt.member 0, 0)
  else if a = 0o052113 then
    let r := sget FltRes.zero s.flt.res g.toNat
    some (atBits r.state 34 ||| atBits r.member 0, 0)
  else if 0o055000 ≤ a ∧ a < 0o056000 then some (atBits (sget 0 s.flt.mirror (a - 0o055000)) 0, 0)
  else none

/-- Writes of FLT_REV (R534). -/
def fltWrite (s : State) (w : Writer) (a : Nat) (x0 : Cell) : State :=
  if a = 0o052112 then
    let s := { s with flt := { s.flt with member := fld x0 0 14 } }
    if bit x0 35 then fltRevoke s w (fld x0 0 14) else s
  else s

/-- The ring entry that a half's DBK_RSEL selects (R546). -/
def dbkSelected (s : State) (h : HalfId) : DbkEntry := sget DbkEntry.zero s.dbk.ring (s.half h).dbk.rsel.toNat

/-- The head entry waits for its grant (R546). -/
def dbkWaiting (s : State) (h : HalfId) : Bool := s.store.any fun p => p.op.commits h && !p.exempt && !p.granted

/-- The classes that hold coalesced state (R546 DBK_OVF). -/
def dbkClasses (q : DbkQueue) : BitVec 32 :=
  (List.range 32).foldl (fun m k => if (sget none q.coal k).isSome then m ||| (1#32 <<< k) else m) 0

/-- Reads of the DBK registers at offset `o` of 0o060000, for the reading half (R545, R546). -/
def dbkRead (s : State) (h : HalfId) (o : Nat) : Option (Cell × Cell) :=
  let q := (s.half h).dbk
  if o = 0 then some (atBit s.dbk.tenantPut 35, 0)
  else if o = 1 then
    some (atBits (BitVec.ofNat 7 q.queue.length) 29 ||| atBit q.overflow 28 ||| atBits (BitVec.ofNat 4 q.commits) 24 |||
      atBit (dbkWaiting s h) 23, 0)
  else if o = 2 then some (atBit s.dbk.wrapped 35 ||| atBits s.dbk.head 0, s.dbk.commits)
  else if o = 4 then some (s.dbk.lost, 0)
  else if o = 6 then some (s.dbk.put.c0, s.dbk.put.c1)
  else if o = 0o10 then some (atBits q.rsel 0, 0)
  else if o = 0o11 then some ((dbkSelected s h).d0, 0)
  else if o = 0o12 then some ((dbkSelected s h).d1, 0)
  else if o = 0o13 then some ((dbkSelected s h).d2, 0)
  else if o = 0o14 then some ((dbkSelected s h).d3, 0)
  else if 0o20 ≤ o ∧ o < 0o60 then some (sget 0 q.counts (o - 0o20), 0)
  else if o = 0o60 then some (atBits (dbkClasses q) 0, 0)
  else none

/-- A write of DBK_PUT makes one report of class WARDEN or TENANT (R538). -/
def dbkPutWrite (s : State) (w : Writer) (x0 x1 : Cell) : State :=
  let s := { s with dbk := { s.dbk with put := ⟨x0, x1⟩ } }
  reportHalf s w.half .firmware (if w.warden then 30 else 31) (some w.ctx) none x0 x1

/-- Writes of the DBK registers (R545, R546). -/
def dbkWrite (s : State) (w : Writer) (o : Nat) (x0 x1 : Cell) : State :=
  if o = 0 then { s with dbk := { s.dbk with tenantPut := bit x0 35 } }
  else if o = 6 then dbkPutWrite s w x0 x1
  else if o = 0o10 then s.onDbk w.half fun q => { q with rsel := fld x0 0 12 }
  else s

end Sys2Proof.Machine
end

