-- ==== Sys2Proof/Machine/Faults.lean ====
section
/-! DEFINITION. Entry of faults and events, escalation, loss of a context, the half restart and the return chain
(R157-R161, R204, R221-R237, R413-R417). -/

namespace Sys2Proof.Machine

/-! ## Code words and handler heads (R63, R64, R186, R204, R221) -/

/-- The data address of an instruction-space NVM word (R64). -/
def codeData (a : Addr) : Addr := a + 0o04000000

/-- A code word read as a load: the boot ROM, or the NVM behind it under a tenant's key, the store buffer first
(R63, R64, R186). -/
def codeRead (s : State) (h : HalfId) (t : BitVec 10) (a : Addr) : State × Option Cell :=
  if 0o77600000 ≤ a.toNat then (s, some (Config.bootRom a.toNat))
  else match forwarded (s.half h).win (codeData a) with
    | some c => (s, some c.val)
    | none => match homeRead (perfAccess s (codeData a) true) (codeData a) t .clean with
      | (s, .ok c) => (s, some c.val)
      | (s, _) => (s, none)

/-- A load through PCC (R54, R221). -/
def codeLoad : Access := ⟨4, spInstr, pLD, true, 1⟩

/-- Entry `c` of a handler table: absent in the cases of R221. -/
def headTarget (s : State) (h : HalfId) (b : Bank) (c : Nat) : State × Option Addr :=
  let a := b.htb.toNat + c
  if fld b.htb 24 12 ≠ (0 : BitVec 12) ∨ a < b.pcc.base.toNat then (s, none)
  else match checkCode s h b.pcc codeLoad (a - b.pcc.base.toNat) with
    | .error _ => (s, none)
    | .ok ea => match codeRead s h b.pcc.tenant ea with
      | (s, none) => (s, none)
      | (s, some v) => (s, if fld v 24 12 = (0 : BitVec 12) then some (fld v 0 24) else none)

/-- The targets of the entries from `c` on. -/
def headTargets (h : HalfId) (b : Bank) : Nat → State → State × List (Option Addr)
  | 0, s => (s, [])
  | n + 1, s =>
    let r := headTarget s h b (15 - n)
    let q := headTargets h b n r.1
    (q.1, r.2 :: q.2)

/-- The handler heads of a context are read (R204). -/
def readHeads (s : State) (h : HalfId) (k : BitVec 5) : State :=
  let b := s.bank h k
  let r := headTargets h b 16 s
  let w : State × Option Cell := match r.2.getD 12 none with
    | none => (r.1, none)
    | some t => if codeMapped r.1 h t.toNat = 0 then codeRead r.1 h b.pcc.tenant t else (r.1, none)
  w.1.onEx h fun e => { e with heads := sput Heads.absent e.heads k.toNat ⟨r.2, w.2⟩ }

/-- The handler of a cause that a context can enter (R223). -/
def handlerAt (s : State) (h : HalfId) (k : BitVec 5) (cause : BitVec 4) : Option Addr :=
  match (sget Heads.absent (s.ex h).heads k.toNat).targets.getD cause.toNat none with
  | none => none
  | some t => if (checkTarget s h (s.bank h k).pcc t.toNat).isNone then some t else none

/-! ## Records and levels (R226-R232) -/

/-- A fault record (R227). DEDUCED: log 19. -/
def recordOf (f : FaultInfo) (imprecise : Bool) (p : Pos) : Pair :=
  ⟨atBits f.cause 32 ||| atBit true 31 ||| atBit imprecise 30 ||| atBit f.empty 29 ||| atBits p.slot 24 ||| atBits p.addr 0,
   atBits f.status 30 ||| atBits f.reg 27 ||| atBits f.info 0⟩

/-- An empty record. -/
def Pair.zero : Pair := ⟨0, 0⟩

/-- The record of a context. -/
def recOf (e : Exec) (k : BitVec 5) : Pair := sget Pair.zero e.frec k.toNat

/-- The record of a context is written (R230). -/
def setRec (s : State) (h : HalfId) (k : BitVec 5) (r : Pair) : State :=
  s.onEx h fun e => { e with frec := sput Pair.zero e.frec k.toNat r }

/-- The level of a cause, as the window in progress has it (R232). -/
def faultLevel (e : Exec) (c : BitVec 4) : BitVec 3 :=
  if c.toNat < 12 then fld e.flevelEff.c0 (3 * c.toNat) 3 else fld e.flevelEff.c1 (3 * (c.toNat - 12)) 3

/-! ## Frames (R159, R166) -/

/-- Where a frame goes (R159). -/
inductive Place where
  | reserve | cache
  /-- Fewer than 2 free cache places. -/
  | full
  /-- The reserve holds two frames. -/
  | none
deriving DecidableEq, Repr

/-- The four stack causes. -/
def stackCause (c : BitVec 4) : Bool := decide (4 ≤ c.toNat ∧ c.toNat ≤ 7)

/-- Where a frame of a cause goes in a bank (R159). -/
def placeFor (b : Bank) (cause : BitVec 4) : Place :=
  if stackCause cause || !b.rv.isEmpty then (if b.rv.length + 2 ≤ 4 then .reserve else .none)
  else if b.rs.length + 2 ≤ 16 then .cache else .full

/-- The two entries of a frame, top first (R166). -/
def frameOf (b : Bank) (p : Pos) : List TCell :=
  [TCell.plain (frameEntry p), TCell.plain (statusEntry b.status b.repActive b.repLeft)]

/-- The status entry carries RKO as it reads (R151, R166). -/
def rkoBit (x : Half) (k : BitVec 5) : Bool := x.rkn.ownValid && x.rkn.ownCtx == k

/-- The status cell as GETST and a frame show it (R151, R343). -/
def statusOf (x : Half) (k : BitVec 5) : Cell := (x.bank k).status ||| atBit (rkoBit x k) 27

/-- A frame is pushed, and the context is at its handler (R224): `st` gives the new status. -/
def pushFrame (s : State) (h : HalfId) (k : BitVec 5) (pl : Place) (p : Pos) (target : Addr) (st : Cell → Cell) : State :=
  let x := s.half h
  s.onBank h k fun b =>
    let f := frameOf { b with status := statusOf x k } p
    let b := { b with status := st b.status, resume := ⟨target, 0⟩, repActive := false, repLeft := 0 }
    if pl = .reserve then { b with rv := f ++ b.rv } else { b with rs := f ++ b.rs }

/-- The status after a fault entry: IE 0 (R224). -/
def faultStatus (c : Cell) : Cell := setBit c 32 false

/-- A step that comes to a handler's entry halts there (R564). DEDUCED: log 84. -/
def stepEnds (s : State) (h : HalfId) : State :=
  s.onDbgHalf h fun d => if d.stepLeft.isSome then ⟨true, none, false⟩ else d

/-- The entry of a handler is signed and the window closes before its first slot (R243, R247). DEDUCED: log 84. -/
def entryClose (s : State) (h : HalfId) (target : Addr) (cause : BitVec 4) (p : Pos) : State :=
  let s := stepEnds (s.onEx h fun e => { e with arith := none, groupOpen := none, repu := false }) h
  let s := tryHalt (closeRaw (signItem s h (entryItem target cause (frameEntry p))) h false) h
  s.onHalf h fun x => { x with line := x.line.transfer target }

/-! ## The return chain (R416) -/

/-- A chain, oldest link first, whose links record each other's contexts, and the context that then runs. -/
def relink (p : Option (BitVec 5)) : List BorrowLink → List BorrowLink × Option (BitVec 5)
  | [] => ([], p)
  | l :: t => let r := relink (some l.ctx) t; ({ l with prev := p } :: r.1, r.2)

/-- The context beneath the whole chain. -/
def chainBase (e : Exec) : Option (BitVec 5) :=
  match e.chain.getLast? with
  | none => e.running
  | some l => l.prev

/-- A context no longer runs, and its links are removed (R416). -/
def unlink (s : State) (h : HalfId) (k : BitVec 5) : State :=
  s.onEx h fun e =>
    let base := if chainBase e = some k then none else chainBase e
    let r := relink base (e.chain.reverse.filter fun l => l.ctx != k)
    let e' := { e with chain := r.1.reverse, running := r.2 }
    if e.running = some k then { e' with waiting := none, arith := none, repu := false, groupOpen := none } else e'

/-- The current schedule entry of a context that has left ends: its cycles and lease return (R386). A context reset, which
R386 does not name, ends it too. DESIGN CHOICE: log 94. -/
def endOf (s : State) (h : HalfId) (k : BitVec 5) : State :=
  let c := (s.half h).sch
  match c.cur with
  | none => s
  | some i => if (c.active.entry i).ctx = k then endEntry s h else s

/-- A context leaves the half: its links are removed, and its entry ends (R386, R416). The entry of a context that is reset ends.
DESIGN CHOICE: log 94. -/
def leaveContext (s : State) (h : HalfId) (k : BitVec 5) : State := endOf (unlink s h k) h k

/-! ## Mints of a context that is gone (R214) -/

/-- A pending mint of the context is discarded. -/
def mintDiscard (s : State) (h : HalfId) (k : BitVec 5) : State :=
  s.onEx h fun e =>
    match e.mintPend with
    | none => e
    | some m => if m.ctx = k then { e with mintPend := none, mintSt := atBits (fld e.mintSt 10 5) 10 } else e

/-- What is held for a global context is cleared with it (R333, R450, R533, R534). -/
def clearHeld (s : State) (g : Nat) : State :=
  let s := clearResults s g
  { s with mbx := { s.mbx with cross := sput none s.mbx.cross g none } }

/-! ## The half restart (R236, R367) -/

/-- Every command of the reckoner fails with DISCARDED and goes to its tenant's ring (R367). -/
def discardCommands (s : State) (h : HalfId) : State :=
  let q := (s.half h).rkn.queue
  let s := s.onRkn h fun r =>
    { r with queue := [], wide := [], held := false, ownValid := false, ownNext := none, latch := false,
             failed := satOf 18 (r.failed.toNat + (q.filter RkCmd.live).length),
             status := r.status.map fun e => if q.any fun c => c.seq == e.seq then { e with state := 5, code := 0o46, result := 0 } else e }
  q.foldl (fun s c => completionRing s h c.stamp.tenant
    [ringHead 1 c.stamp, ticketOf c.sel c.stamp.ctx c.seq, statusCell 5 0o46 0, 0]) s

/-- A lease that a discarded command holds is released (R391). -/
def discardLeases (s : State) (h : HalfId) : State :=
  (s.half h).rkn.queue.foldl (fun s c => match c.lease with
    | none => s
    | some l => leaseBack s h c.entry l) s

/-- The capability that local context 0 starts with in PCC: loads and fetches over instruction space, of tenant 0.
DESIGN CHOICE: log 13. -/
def bootPcc (s : State) (h : HalfId) : Cap :=
  ⟨true, spInstr, 0, 0, s.genOf h 0, setBit (setBit 0 pX true) pLD true, 0o77777777⟩

/-- Local context 0 starts in warden mode at an entry of the boot ROM (R496). -/
def startBoot (s : State) (h : HalfId) (entry : Addr) : State :=
  let s := s.setBank h 0 { Bank.reset with pcc := bootPcc s h, status := setBit 0 35 true, valid := true, resume := ⟨entry, 0⟩ }
  s.onEx h fun e => { e with running := some 0, chain := [], waiting := none, fencing := false, revoking := none, arith := none,
                             groupOpen := none, repu := false, reads := [], doze := false }

/-- Every bank but that of local context 0 is lost (R236). -/
def loseOthers (e : Exec) : Exec :=
  { e with banks := (List.range 31).foldl (fun m i =>
      sput Bank.reset m (i + 1) { sget Bank.reset m (i + 1) with lost := true }) e.banks }

/-- The rollback that a half restart begins with, the bookmark restored (R236 step 1). -/
def restartRollback (s : State) (h : HalfId) : State :=
  (restoreMark (rollbackStart s h) h).onWin h fun w =>
    { w with rolling := false, redo := none, replay := none, replayLog := [], replayPos := 0
             held := (w.ticks.map fun t => ⟨t.2, 0⟩) ++ w.held, ticks := [] }

/-- What a context reset does beside the bank: the record, the results and latches held for the context, and its
ownership of the reckoner (R154, R230, R333, R367, R450, R533, R534). -/
def bankGone (s : State) (h : HalfId) (k : BitVec 5) : State :=
  let s := setRec (mintDiscard s h k) h k Pair.zero
  let s := s.onRkn h fun r => r.disown k
  clearHeld (s.onEx h fun e => { e with kept := e.kept.filter fun x => x.ctx != k }) (gctx h k).toNat

/-- The half restart (R236): the rollback, the loss of every other context, the reset and start of local context 0, and the
entry of its cause, the escalation that MEM_ESC holds as the restart finds it. -/
def halfRestart (s : State) (h : HalfId) : State :=
  let e := s.ex h
  let s := restartRollback s h
  let s := discardCommands (discardLeases s h) h
  let s := endEntry s h
  let s := bankGone ((s.onEx h loseOthers).onEx h fun x => { x with
    mintSt := if x.mintPend.isSome then atBits (fld x.mintSt 10 5) 10 else x.mintSt
    mintPend := none, escAt := none, esc := e.esc }) h 0
  let s := reportHalf s h .mem 9 none none e.esc.c0 e.escSrc
  let s := s.onEx h fun x => { x with escSrc := e.escSrc &&& atBit true 35 ||| (e.escSrc &&& 0o77777) }
  let s := startBoot (mbxHomeReset s h) h 0o77600010
  s.onWin h fun w => { w with mark := some (snapshot s h) }

/-! ## Loss and escalation (R231-R235) -/

/-- The loss of a context takes effect: its mark, its mint and mailboxes, and CONTEXT-LOST (R155, R214, R231, R447). -/
def loseNow (s : State) (h : HalfId) (k : BitVec 5) (r : Pair) : State :=
  let s := onBankAgreed s h k fun b => { b with lost := true }
  let s := mbxContextGone (mintDiscard s h k) (s.bank h k)
  raiseHalf (reportHalf s h .mem 10 (some k) none r.c0 r.c1) h 210

/-- A bank is loaded (R176, R204, R214, R230, R333, R344, R533), and an entry that waits for it may run (R178). -/
def loadNow (s : State) (h : HalfId) (n : BitVec 5) (b : Bank) : State :=
  let s := clearResults (mintDiscard (setRec (onBankAgreed s h n fun _ => b) h n Pair.zero) h n) (gctx h n).toNat
  schedReturn (readHeads (s.onRkn h fun r => r.disown n) h n) h

/-- A change of another bank takes effect (R258). -/
def actNow (h : HalfId) (s : State) (a : Cell × WinAct) : State :=
  match a.2 with
  | .load k b => loadNow s h k b
  | .lose k r => loseNow s h k r
  | .stop k => mintDiscard (onBankAgreed s h k fun b => { b with stopped := true }) h k

/-- The changes of other banks whose windows have agreed take effect, in order (R258). -/
def actsSettle (s : State) (h : HalfId) : State :=
  let w := (s.half h).win
  let due (a : Cell × WinAct) : Bool := decide (a.1.toNat ≤ w.oldest.toNat)
  (w.acts.filter due).foldl (actNow h) (s.onWin h fun w => { w with acts := w.acts.filter fun a => !due a })

/-- A context is lost, with the half's next context: its mark and CONTEXT-LOST wait for the agreement of the window
(R155, R231, R258). -/
def contextLost (s : State) (h : HalfId) (k : BitVec 5) (r : Pair) : State :=
  let s := unlink (actLater (setRec s h k r) h (.lose k r)) h k
  actsSettle (schedReturn (endOf (closeRaw s h false) h k) h) h

/-- A frame that cannot be placed: the context is lost, and in local context 0 the half restarts (R159). -/
def loseOrRestart (s : State) (h : HalfId) (k : BitVec 5) (r : Pair) : State :=
  if k = 0 then halfRestart s h else contextLost s h k r

/-- ESCALATED is entered in local context 0, over the context that then runs (R234). -/
def escalatedFrame (s : State) (h : HalfId) (pl : Place) (p : Pos) (target : Addr) : State :=
  let b := s.bank h 0
  let s := s.onEx h fun e => { e with
    chain := if e.running = some 0 then e.chain else ⟨e.running, 0, b.depthD⟩ :: e.chain
    running := some 0
    doze := false
    waiting := none
    escSrc := setBit e.escSrc 34 true
    escAt := some (if pl = .reserve then (true, b.rv.length) else (false, b.depthD)) }
  entryClose (pushFrame s h 0 pl p target fun c => setBit (setBit c 35 true) 32 false) h target cEscalated p

/-- The info of a RSTACK-OVER raised for a frame (R228). -/
def frameExcess (b : Bank) : FaultInfo := faultOf cRstackOver 0 (BitVec.ofNat 24 (b.rs.length + 2 - 16))

/-- ESCALATED waits behind a RSTACK-OVER of local context 0 (R234, R237). -/
def holdEscalated (s : State) (h : HalfId) (p : Pos) : State :=
  let b := s.bank h 0
  match handlerAt s h 0 cRstackOver with
  | none => halfRestart s h
  | some t =>
    if faultLevel (s.ex h) cRstackOver ≤ stMask b.status then halfRestart s h
    else
      let s := s.onEx h fun e => { e with
        chain := if e.running = some 0 then e.chain else ⟨e.running, 0, b.depthD⟩ :: e.chain
        running := some 0
        doze := false
        waiting := none
        escSrc := setBit e.escSrc 33 true }
      let s := setRec s h 0 (recordOf (frameExcess b) false p)
      entryClose (pushFrame s h 0 .reserve p t faultStatus) h t cRstackOver p

/-- Entry of ESCALATED, or the half restart where local context 0 cannot take it (R234). -/
def enterEscalated (s : State) (h : HalfId) : State :=
  let b := s.bank h 0
  match handlerAt s h 0 cEscalated with
  | none => halfRestart s h
  | some t =>
    if !b.valid || b.lost then halfRestart s h
    else match placeFor b cEscalated with
      | .none => halfRestart s h
      | .full => holdEscalated s h b.resume
      | pl => escalatedFrame s h pl b.resume t

/-- A fault escalates (R233): the context stops, or is local context 0 itself. -/
def escalate (s : State) (h : HalfId) (k : BitVec 5) (r : Pair) (p : Pos) : State :=
  if escActive (s.half h) then halfRestart s h
  else
    let t : BitVec 10 := if k = 0 then 0 else (s.bank h k).tenant
    let s := ((setRec s h k r).onBank h k fun b => { b with resume := p }).onEx h fun e => { e with
      esc := r, escSrc := atBit true 35 ||| atBits k 10 ||| atBits t 0, arith := none }
    if k = 0 then enterEscalated (mintDiscard s h 0) h
    else actsSettle (enterEscalated (leaveContext (actLater s h (.stop k)) h k) h) h

/-! ## Fault entry (R157-R160, R223, R224) -/

/-- The entry of a fault whose place, level and handler have been found. -/
def enterPlaced (s : State) (h : HalfId) (k : BitVec 5) (f : FaultInfo) (imprecise : Bool) (p at_ : Pos) (pl : Place)
    (t : Addr) : State :=
  entryClose (pushFrame (setRec s h k (recordOf f imprecise at_)) h k pl p t faultStatus) h t f.cause p

/-- Fault entry in a context (R159, R160, R223, R233): `p` is the frame's position, `at_` that of the offending
instruction. -/
def enterFault (s : State) (h : HalfId) (k : BitVec 5) (f : FaultInfo) (imprecise : Bool) (p at_ : Pos) : State :=
  let b := s.bank h k
  let pl := placeFor b f.cause
  let esc (g : FaultInfo) : Bool := decide (faultLevel (s.ex h) g.cause ≤ stMask b.status)
  if pl = .none then loseOrRestart s h k (recordOf f imprecise at_)
  else match handlerAt s h k f.cause with
    | none => escalate s h k (recordOf f imprecise at_) p
    | some t =>
      if esc f then escalate s h k (recordOf f imprecise at_) p
      else if pl = .full then
        let s := s.onBank h k fun b => holdFault b f imprecise at_
        let g := frameExcess b
        match handlerAt s h k cRstackOver with
        | none => escalate s h k (recordOf g false p) p
        | some u => if esc g then escalate s h k (recordOf g false p) p else enterPlaced s h k g false p p .reserve u
      else enterPlaced s h k f imprecise p at_ pl t

/-! ## Faults due at a boundary (R107, R160, R203, R225) -/

/-- The pending ARITH of the running context is taken (R107). DEDUCED: log 18. -/
def enterArith (s : State) (h : HalfId) : State :=
  match (s.ex h).arith, s.runBank h with
  | some a, some (k, b) =>
    enterFault (s.onEx h fun e => { e with arith := none }) h k
      (faultOf cArith (if a.divZero then eDivideZero else eOverflow) 0) (!stPrec b.status || a.slots != 0) b.resume a.at_
  | _, _ => s

/-- The boundary of a pending ARITH has been reached (R107, R203). DEDUCED: log 18. -/
def arithDue (e : Exec) (prec : Bool) : Bool :=
  match e.arith with
  | none => false
  | some a => !e.repu && (prec || decide (6 ≤ a.slots) || decide (3 < a.groups))

/-- BUDGET-OVERRUN of the current entry is taken, and the entry ends (R386). -/
def enterBudget (s : State) (h : HalfId) (k : BitVec 5) (b : Bank) (i : BitVec 7) : State :=
  let s := s.onSch h fun c => { c with overruns := satInc c.overruns, expired := false }
  let s := enterFault s h k (faultOf cBudget 0 (i.setWidth 24)) false b.resume b.resume
  if (s.half h).sch.cur.isSome then endAndPick s h else s

/-- A held ARITH, then a held BUDGET-OVERRUN, of the running context (R160, R176). -/
def enterHeld (s : State) (h : HalfId) (k : BitVec 5) (b : Bank) : State :=
  if b.heldArith then
    let r := b.heldRec.getD (b.resume, false, true)
    let f := faultOf cArith (if b.heldRec.isNone then 0 else if r.2.1 then eDivideZero else eOverflow) 0
    enterFault (s.onBank h k fun b => { b with heldArith := false, heldRec := none }) h k f r.2.2 b.resume r.1
  else
    let i := b.heldEntry.getD 0
    enterFault (s.onBank h k fun b => { b with heldBudget := false, heldEntry := none }) h k
      (faultOf cBudget 0 (i.setWidth 24)) false b.resume b.resume

/-- The status of a failed read (R229). -/
def readFailStatus (a : Addr) : BitVec 6 := if (regionOf a).isNvm then eIntegrity else eUncorrectable

/-- The status of a void read: the span that went DOWN, or the failure (R229, R306). -/
def voidStatus (o : OutRead) : BitVec 6 := if o.cut then eSpanDown else readFailStatus o.addr

/-- The oldest void read, whose BUS is due. -/
def voidRead (e : Exec) : Option OutRead := e.reads.find? fun r => r.void

/-- BUS on returned data: at the boundary before the first consumer or the next close (R225). -/
def enterBus (s : State) (h : HalfId) (k : BitVec 5) (o : OutRead) : State :=
  let s := s.onEx h fun e => { e with reads := e.reads.erase o, ckpt := [] }
  enterFault s h k ⟨cBus, voidStatus o, o.reg, o.info, false⟩ true (s.bank h k).resume o.at_

/-- What is entered before a close at this boundary: a pending ARITH, else BUS on returned data (R107, R225). -/
def beforeClose (s : State) (h : HalfId) : Option State :=
  if (s.ex h).repu then none
  else if (s.ex h).arith.isSome then some (enterArith s h)
  else match voidRead (s.ex h), (s.ex h).running with
    | some o, some k => some (enterBus s h k o)
    | _, _ => none

/-- A boundary at which a window may close. -/
def closeNow (s : State) (h : HalfId) : State := (beforeClose s h).getD (closeRaw s h false)

/-- The fault that is due at the running context's boundary is entered: a held fault once the reserve is empty, an ARITH
at its boundary, the expiry of the budget (R107, R160, R225). None: nothing is due. DESIGN CHOICE: log 16. -/
def enterDue (s : State) (h : HalfId) : Option State :=
  match s.runBank h with
  | none => none
  | some (k, b) =>
    let e := s.ex h
    if e.repu then none
    else if bit e.escSrc 33 && k == 0 && b.rv.isEmpty then
      some (enterEscalated (s.onEx h fun e => { e with escSrc := setBit e.escSrc 33 false }) h)
    else if (b.heldArith || b.heldBudget) && b.rv.isEmpty then some (enterHeld s h k b)
    else if arithDue e (stPrec b.status) then some (enterArith s h)
    else if (s.half h).sch.expired then
      match ownEntry s h k with
      | none => none
      | some i => some ((beforeClose s h).getD (enterBudget s h k b i))
    else none

/-! ## Event entry (R413-R417) -/

/-- The request of a source is takeable in its context (R413). -/
def takeable (s : State) (h : HalfId) (src : Nat) : Bool :=
  let g := routeOf s src
  let k := gLocal g
  let b := s.bank h k
  let e := s.ex h
  let l := levelOf s src
  gHalf g == h && b.valid && !b.lost && !b.stopped && !(s.half h).win.leaving k && (!escActive (s.half h) || k == 0) &&
    stIE b.status && decide ((stMask b.status).toNat < l) && b.rv.isEmpty && decide (b.rs.length ≤ 14) &&
    (handlerAt s h k cEvent).isSome && !e.repu &&
    (match e.running with
     | none => true
     | some r => r == k || decide ((stMask (s.bank h r).status).toNat < l))

/-- Requests compare by level, then sub-priority, then lower global context (R414). -/
def requestBefore (s : State) (a b : Nat) : Bool :=
  if levelOf s a ≠ levelOf s b then decide (levelOf s b < levelOf s a)
  else if subOf s a ≠ subOf s b then decide (subOf s b < subOf s a)
  else decide ((routeOf s a).toNat < (routeOf s b).toNat)

/-- The best takeable request of a half (R414). DEDUCED: log 61. -/
def bestRequest (s : State) (h : HalfId) : Option Nat :=
  bestOf (requestBefore s) ((sourcesIn (s.evc.pend &&& s.evc.en &&& ~~~s.evc.act)).filter (takeable s h))

/-- The EVENT handler of a context is entered at a level (R415, R416). -/
def enterEvent (s : State) (h : HalfId) (k : BitVec 5) (level : BitVec 3) : State :=
  match handlerAt s h k cEvent with
  | none => s
  | some t =>
    let b := s.bank h k
    let s := s.onEx h fun e => { e with
      chain := if e.running = some k then e.chain else ⟨e.running, k, b.depthD⟩ :: e.chain
      running := some k
      doze := false }
    entryClose (pushFrame s h k .cache b.resume t fun c => withMask c level) h t cEvent b.resume

/-- RETI has left D at the depth of the top link: the half switches back (R416), but for an ESCALATED that is held behind
the handler it leaves (R234). -/
def unwind (s : State) (h : HalfId) : State :=
  let e := s.ex h
  match e.chain, e.running with
  | l :: t, some k =>
    if l.ctx = k ∧ (s.bank h k).depthD = l.depth ∧ (s.bank h k).rv = [] ∧ bit e.escSrc 33 = false then
      (beforeClose s h).getD
        (schedReturn (lineResume (closeRaw (s.onEx h fun e => { e with chain := t, running := l.prev }) h false) h) h)
    else s
  | _, _ => s

end Sys2Proof.Machine
end

