-- ==== Sys2Proof/Machine/MemCmd.lean ====
section
/-! DEFINITION. The commands and registers of the MEM unit: the arbitration hierarchy, returned data, line programs, image
pairs, patrols and the fault, mint and context-reset registers (R154, R213, R226, R317, R326, R331-R342). -/

namespace Sys2Proof.Machine

/-! ## Register writes commanded directly (R15, R86, R210) -/

/-- The writer of a register of half h that half w's running context commands: none where no context runs, the register
is warden-only and the context in tenant mode, or the span does not carry the write (R24, R25, R210).
DESIGN CHOICE: log 17. -/
def regGate (s : State) (w h : HalfId) (warden : Bool) : Option Writer :=
  match s.writer w with
  | none => none
  | some wr => if (warden && !wr.warden) || (w != h && !spanOpen s w) then none else some wr

/-- The write that a command makes as the running context of half w. DESIGN CHOICE: log 17. -/
def regCommand (s : State) (w h : HalfId) (warden : Bool) (f : Writer → State) : State :=
  match regGate s w h warden with
  | none => s
  | some wr => f wr

/-! ## The hierarchy (R335-R338) -/

/-- The request is served by the merge buffer (R325): a write merges, or is filled, without a read of the array. -/
def mergeHit (s : State) (h : HalfId) (r : ArbReq) : Bool :=
  let m := (s.half h).mem
  let hit (a : Addr) : Bool := (youngest m (nvmLine a)).isSome
  match r.work with
  | .writes ws => ws.all fun w => hit w.1
  | .remoteRead a _ _ => hit a
  | .laneRead =>
    match nextRead (s.ex h) r.bank with
    | none => true
    | some o => hit o.addr
  | .patrol => false

/-- The NVM bank of a request is programming (R336). -/
def ArbReq.programs (m : MemUnit) (r : ArbReq) : Bool := decide (4 ≤ r.bank.toNat) && bankProgramming m (r.bank.toNat - 4)

/-- The request may be granted now (R336). -/
def grantable (s : State) (h : HalfId) (r : ArbReq) : Bool := !r.programs (s.half h).mem || mergeHit s h r

/-- The places of a source in the hierarchy (R335). -/
def places : ArbSource → Nat
  | .laneRead => 1
  | .reckoner => 8
  | .span => 14
  | .patrol => 1

/-- The requests of a list, in order of arrival, with those beyond their source's places marked as outside (R335). -/
def placed (seen : List ArbReq) : List ArbReq → List (ArbReq × Bool)
  | [] => []
  | r :: l => (r, decide ((seen.filter fun q => q.source == r.source).length < places r.source)) :: placed (seen ++ [r]) l

/-- A number of cycles passes for the requests that have a place (R337). -/
def ageBy (n : Nat) (l : List ArbReq) : List ArbReq :=
  (placed [] l).map fun p => if p.2 then { p.1 with age := p.1.age + n } else p.1

/-- The order of level 3: data, then reckoner, then span; a patrol enters at its bank (R335, R336). -/
def sourceRank : ArbSource → Nat
  | .laneRead => 0
  | .reckoner => 1
  | .span => 2
  | .patrol => 3

/-- A request goes before another that came earlier: the older of two where one is aged 32, else by a level's own rule
(R336, R337). -/
def goesBefore (own : ArbReq → ArbReq → Bool) (b a : ArbReq) : Bool :=
  if 32 ≤ a.age ∨ 32 ≤ b.age then decide (a.age < b.age) else own b a

/-- The request that a level grants, of a list in order of arrival. -/
def levelBest (own : ArbReq → ArbReq → Bool) : List ArbReq → Option ArbReq
  | [] => none
  | a :: t =>
    match levelBest own t with
    | none => some a
    | some b => if goesBefore own b a then some b else some a

/-- The own rule of level 3 (R336). -/
def portRule (b a : ArbReq) : Bool := decide (sourceRank b.source < sourceRank a.source)

/-- The own rule of level 4 is the order of arrival, patrol last (R336). -/
def bankRule (b a : ArbReq) : Bool := a.source == .patrol && b.source != .patrol

/-- Level 3 passes one request on to its bank, behind those that are there (R336). -/
def portGrant (l : List ArbReq) : List ArbReq :=
  let waiting := ((placed [] l).filter fun p => p.2 && !p.1.atBank).map fun p => p.1
  match levelBest portRule waiting with
  | none => l
  | some r =>
    let l := l.erase r
    l.filter (fun q => q.atBank) ++ { r with atBank := true } :: l.filter fun q => !q.atBank

/-- The cycles of the port before a grant: each ages the requests and passes one on. -/
def portCycles : Nat → List ArbReq → List ArbReq
  | 0, l => l
  | n + 1, l => portCycles n (portGrant (ageBy 1 l))

/-- The half's requests once `n` cycles have passed, the port's grant of the last one included. -/
def afterCycles (n : Nat) (l : List ArbReq) : List ArbReq :=
  let k := min n l.length
  portGrant (ageBy (n - k) (portCycles k l))

/-- The read's data is captured as it stands (R197, R336). -/
def captureRead (s : State) (h : HalfId) (bank : BitVec 4) : State :=
  match nextRead (s.ex h) bank with
  | none => s
  | some o =>
    let r := homeRead (perfAccess s o.addr true) o.addr o.tenant .clean
    let o' : OutRead := match r.2 with
      | .ok c => { o with granted := true, data := c }
      | _ => { o with granted := true, failed := true }
    r.1.onEx h fun e => { e with reads := e.reads.map fun q => if q = o then o' else q }

/-- The first cell of the n-th SRAM line of a bank (R312). -/
def sramPatrolAddr (h : HalfId) (bank n : Nat) : Addr := BitVec.ofNat 24 (262144 * h.toNat + 2 * (4 * n + bank))

/-- A line with two corrected bits gets a refresh program under its tenant, which waits where no entry is free (R340).
DEDUCED: log 42. -/
def refreshLine (s : State) (h : HalfId) (line : Nat) : State :=
  match storedLine s h line with
  | none => s
  | some l =>
    if (youngest (s.half h).mem line).isSome || l.broken || (s.half h).mem.lockedLines.contains line then s
    else mergeAdmitOne (s.onMem h fun m => mergeWait m ⟨line, l.tenant, [], false⟩) h

/-- The patrol reads the next line of a bank: of SRAM under R315, of NVM under R322 steps 1 and 2 (R317, R340).
DESIGN CHOICE: log 43. -/
def patrolRead (s : State) (h : HalfId) (bank : BitVec 4) (r : ReadOutcome) (twoBits : Bool) : State :=
  if bank.toNat < 4 then
    let n := sget 0 (s.half h).mem.patrolS bank.toNat
    let a := sramPatrolAddr h bank.toNat n
    let s := (sramRead (perfAccess s a true) h a r).1
    s.onMem h fun m => { m with patrolS := sput 0 m.patrolS bank.toNat ((n + 1) % 32768) }
  else
    let b := bank.toNat - 4
    let n := sget 0 (s.half h).mem.patrolN b
    let s := perfCount s h 0o11
    let s := if r == .corrected then s.onMem h fun m => { m with nvmCor := satInc m.nvmCor } else s
    let s := if twoBits && r == .corrected then refreshLine s h (16384 * b + n) else s
    s.onMem h fun m => { m with patrolN := sput 0 m.patrolN b ((n + 1) % 16384) }

/-- What a granted request does. -/
def grantWork (s : State) (h : HalfId) (bank : BitVec 4) (x : GrantInput) : ArbWork → State
  | .laneRead => captureRead s h bank
  | .writes ws => homeWritesMeet s ws x.outcome
  | .remoteRead a t id =>
    let r := homeRead (perfAccess s a true) a t x.outcome
    let f : Flit := match r.2 with
      | .ok c => .reply id c false
      | _ => .reply id TCell.zero true
    r.1.onSpn h fun p => { p with out := p.out ++ [f] }
  | .patrol => patrolRead s h bank x.outcome x.twoBits

/-- The performance events of a grant in the hierarchy (R342). -/
def grantPerf (s : State) (h : HalfId) (r : ArbReq) : State :=
  let s := if 32 ≤ r.age then perfCount s h 0o12 else s
  if r.source = .span then perfCount s h 0o15 else s

/-- MEMORY_GRANT: after the cycles that have passed a bank grants one of the requests that the port has passed on to it
(R336, R337). DEDUCED: log 44. -/
def memoryGrant (s : State) (h : HalfId) (bank : BitVec 4) (x : GrantInput) : State :=
  let s := s.onMem h fun m => { m with arb := afterCycles x.cycles m.arb }
  match levelBest bankRule ((s.half h).mem.arb.filter fun r => r.atBank && r.bank == bank && grantable s h r) with
  | none => s
  | some r =>
    let s := s.onMem h fun m => { m with arb := m.arb.erase r, lastServed := r.ctx }
    nvmPump (grantWork (grantPerf s h r) h r.bank x r.work) h

/-! ## Returned data (R191, R225) -/

/-- The oldest read whose data may come back. -/
def nextReturn (e : Exec) : Option OutRead := e.reads.find? fun r => !r.void

/-- A read's place holds a value, on the stack and in the items that show it. -/
def fillPlace (s : State) (h : HalfId) (place : Nat) (v : Cell) : State :=
  let s := match (s.ex h).running with
    | none => s
    | some k => s.onBank h k fun b => b.setPlace place v
  (s.onWin h fun w => w.fillItems place v).onEx h fun e => { e with ckpt := (e.ckpt.drop 1).map fun c => c.fill place v }

/-- The data of the oldest granted read comes back as it was captured. -/
def returnGood (s : State) (h : HalfId) (o : OutRead) (r : ReadOutcome) : State :=
  let s := match regionOf o.addr, r with
    | .sram k, .corrected => s.onMem k fun m => { m with sramCor := satInc m.sramCor }
    | .nvm k, .corrected => s.onMem k fun m => { m with nvmCor := satInc m.nvmCor }
    | _, _ => s
  (fillPlace s h o.place o.data.val).onEx h fun e => { e with reads := e.reads.erase o }

/-- The failure of a returned read is counted where the memory lies, unless it was at the grant (R315, R322). -/
def countFailed (s : State) (o : OutRead) : State :=
  if o.failed then s
  else match regionOf o.addr with
    | .sram k => sramFail s k o.addr
    | .nvm k => nvmFail s k o.addr
    | _ => s

/-- A read is void: BUS waits for the first consumer or the next close, and what its place holds is not stated (R225). -/
def returnBad (s : State) (h : HalfId) (o : OutRead) : State :=
  let s := countFailed s o
  (fillPlace s h o.place (Config.freeCell s.free)).draw.onEx h fun e =>
    { e with reads := e.reads.map fun r => if r = o then { r with void := true } else r }

/-- The lanes' requests for one access differ with no majority (R28). -/
def requestsSplit (s : State) (h : HalfId) (l : LaneRequests) : Bool :=
  match (s.half h).tal.inService.length with
  | 3 => l == .split
  | 2 => l != .same
  | _ => false

/-- A read of a retained cell is answered. -/
def OutRead.answered (s : State) (r : OutRead) : OutRead :=
  if regionOf r.addr = .retained ∧ r.granted = false then { r with granted := true, data := sget TCell.zero s.ram r.addr.toNat }
  else r

/-- Reads of the retained cells are answered through the half's commons port, once it is there (R62). -/
def grantRetained (s : State) (h : HalfId) : State :=
  if (s.half h).tal.portLost then s else s.onEx h fun e => { e with reads := e.reads.map (OutRead.answered s) }

/-- READ_DATA_RETURN: the oldest granted read is delivered, or voided; where the lanes asked differently with no majority, the
window closes (R28, R191, R225). DEDUCED: log 95. -/
def readReturn (s : State) (h : HalfId) (lanes : LaneRequests) (r : ReadOutcome) : State :=
  let s := grantRetained s h
  match nextReturn (s.ex h) with
  | none => s
  | some o =>
    if !o.granted then s
    else if requestsSplit s h lanes then clashClose s h
    else if o.failed || r == .failed then returnBad s h o
    else returnGood s h o r

/-- READ_DATA_RETURN (R225). -/
def execReadDataReturn (h : HalfId) (r : ReadReturn) (s : State) : Host.Outcome State Fault Refusal :=
  .next (readReturn s h r.lanes r.outcome)

/-! ## Line programs (R326-R328) -/

/-- The notice of a programmed line goes to both halves, over the span when it is up (R185, R291). -/
def sendNotice (s : State) (h : HalfId) (line : Nat) : State :=
  let s := lineNotice s h (nvmKey h line)
  if spanOpen s h then s.onSpn h fun p => { p with out := p.out ++ [.lineNotice (nvmKey h line)] } else s

/-- The line program in flight ends (R326, R327, R332). -/
def programComplete (s : State) (h : HalfId) (verified again : Bool) : State :=
  match (s.half h).mem.merge.find? fun e => e.prog with
  | none => s
  | some e =>
    match e.img with
    | some k => programEnd (s.onMem h fun m => metaProgram m k) h e
    | none => sendNotice (programEnd (runProgram s h e verified again) h e) h e.line

/-- The hold of the merge buffer's entry i ends (R326). -/
def holdExpiry (m : MemUnit) (i : BitVec 3) : MemUnit :=
  match nthLine m i.toNat with
  | none => m
  | some j => makeDue m j

/-- HOLD_EXPIRY: entry i becomes due (R326). -/
def execHoldExpiry (h : HalfId) (i : BitVec 3) (s : State) : Host.Outcome State Fault Refusal :=
  .next (s.onMem h fun m => holdExpiry m i)

/-- A write of MEM_NVSYNC.flush: every entry becomes due (R326). -/
def nvFlush (s : State) (h : HalfId) : State := s.onMem h makeAllDue

/-- NVSYNC_FLUSH (R326). -/
def execNvsyncFlush (w h : HalfId) (s : State) : Host.Outcome State Fault Refusal :=
  .next (regCommand s w h false fun _ => nvFlush s h)

/-- KC_FLUSH: the key cache is emptied (R323, R340). -/
def execKcFlush (w h : HalfId) (s : State) : Host.Outcome State Fault Refusal :=
  .next (regCommand s w h true fun _ => s.onMem h fun m => { m with keyCache := [] })

/-! ## Image pairs (R331, R332) -/

/-- Two runs of lines have a line in common. -/
def overlaps (a n b m : Nat) : Bool := decide (a < b + m) && decide (b < a + n)

/-- The regions of a pair meet the regions of another. -/
def ImgPair.meets (p q : ImgPair) : Bool :=
  let n := p.len.toNat
  let m := q.len.toNat
  overlaps p.a.toNat n q.a.toNat m || overlaps p.a.toNat n q.b.toNat m || overlaps p.b.toNat n q.a.toNat m ||
    overlaps p.b.toNat n q.b.toNat m

/-- A swap request is refused (R332). -/
def swapRefused (m : MemUnit) (k : Nat) (p : ImgPair) : Bool :=
  let n := p.len.toNat
  n == 0 || decide (131072 < p.a.toNat + n) || decide (131072 < p.b.toNat + n) || overlaps p.a.toNat n p.b.toNat n ||
    m.imgs.any fun e => e.1 != k && e.2.len != 0 && p.meets e.2

/-- A request to exchange pair k (R332). Its metadata program counts as due and done.
DEDUCED: log 101. -/
def imageSwap (s : State) (h : HalfId) (k : BitVec 4) : State :=
  s.onMem h fun m =>
    let p := sget ImgPair.zero m.imgs k.toNat
    if p.swap then m
    else if swapRefused m k.toNat p then { m with imgs := sput ImgPair.zero m.imgs k.toNat { p with err := true } }
    else
      let m := { m with imgs := sput ImgPair.zero m.imgs k.toNat { p with err := false, swap := true, prog := false } }
      makeDue { m with merge := m.merge ++ [⟨0, 0, zeroLine, 0, none, false, false, false, some k⟩] } m.merge.length

/-- IMAGE_SWAP (R332): its metadata program is a write of NVM, which EARLY and READING-ROOM refuse (R6, R7, R115).
DEDUCED: log 31. -/
def execImageSwap (w h : HalfId) (k : BitVec 4) (s : State) : Host.Outcome State Fault Refusal :=
  .next (regCommand s w h true fun _ => if s.lockedMode w then s else imageSwap s h k)

/-- A write of MEM_IMGk (R331). -/
def imgWrite (s : State) (h : HalfId) (k : BitVec 4) (x0 x1 : Cell) : State :=
  let s := s.onMem h fun m =>
    let p := sget ImgPair.zero m.imgs k.toNat
    if p.side || p.swap then m
    else { m with imgs := sput ImgPair.zero m.imgs k.toNat { p with len := fld x0 17 16, a := fld x0 0 17, b := fld x1 0 17 } }
  if bit x0 35 then imageSwap s h k else s

/-- A logical line lies in a region of the pair. -/
def ImgPair.holds (p : ImgPair) (line : Nat) : Bool :=
  overlaps p.a.toNat p.len.toNat line 1 || overlaps p.b.toNat p.len.toNat line 1

/-- The pair's exchange takes effect: both halves' copies of its lines are stale (R332). -/
def exchangeOne (h : HalfId) (s : State) (k : Nat) : State :=
  let m := (s.half h).mem
  let p := sget ImgPair.zero m.imgs k
  if p.swap && p.prog && !(m.merge.any fun e => e.img.isNone && p.holds e.line) then
    let s := s.onMem h fun m => { m with imgs := sput ImgPair.zero m.imgs k { p with side := !p.side, swap := false, prog := false } }
    let st (x : Half) : Half := { x with line := x.line.staleIf fun l => l / 131072 == h.toNat && p.holds (l % 131072) }
    (s.onHalf .h0 st).onHalf .h1 st
  else s

/-- The exchanges that a frame tick finds ready (R332). -/
def exchangeImages (s : State) (h : HalfId) : State := (List.range 16).foldl (exchangeOne h) s

/-! ## Patrols (R317, R340) -/

/-- A bank's patrol takes its place in the hierarchy, whose one place another patrol may hold; where nothing else waits it is
granted at once (R317, R335). -/
def patrolAsk (s : State) (h : HalfId) (bank : BitVec 4) (r : ReadOutcome) (twoBits : Bool) : State :=
  let m := (s.half h).mem
  let q : ArbReq := ⟨.patrol, bank, 0, 0, .patrol, true⟩
  if !m.patrolEn || s.heldInReset h || m.arb.contains q then s
  else if (m.arb.any fun r => r.bank == bank) || q.programs m then s.onMem h fun m => { m with arb := q :: m.arb }
  else patrolRead s h bank r twoBits

/-- SRAM_PATROL (R315, R317). -/
def execSramPatrol (h : HalfId) (bank : BitVec 2) (r : ReadOutcome) (s : State) : Host.Outcome State Fault Refusal :=
  .next (patrolAsk s h (bank.setWidth 4) r false)

/-- NVM_PATROL (R322, R340). DEDUCED: log 42. -/
def execNvmPatrol (h : HalfId) (bank : BitVec 3) (r : ReadOutcome) (twoBits : Bool) (s : State) :
    Host.Outcome State Fault Refusal :=
  .next (patrolAsk s h (bank.setWidth 4 + 4) r twoBits)

/-! ## Context resets and mints (R154, R213, R214) -/

/-- A snapshot with a context gone from its chain. -/
def Snapshot.without (m : Snapshot) (k : BitVec 5) : Snapshot :=
  { m with running := if m.running = some k then none else m.running, chain := m.chain.filter fun l => l.ctx != k }

/-- A context that has been reset is gone from every bookmark, which a rollback does not bring back (R255, R258). -/
def markWithout (s : State) (h : HalfId) (k : BitVec 5) : State :=
  s.onWin h fun w =>
    { w with mark := w.mark.map fun m => m.without k, closed := w.closed.map fun c => { c with mark := c.mark.without k } }

/-- A context reset (R154, R230, R333, R367, R447, R533). -/
def contextReset (s : State) (h : HalfId) (k : BitVec 5) : State :=
  let b := s.bank h k
  let s := if (s.ex h).running = some k then leaveRunning s h else s
  let s := if (s.ex h).running = some k then s.onEx h fun e => { e with reads := [], ckpt := [] } else s
  let s := leaveContext s h k
  let s := markWithout (onBankAgreed (bankGone s h k) h k fun _ => Bank.reset) h k
  mbxContextGone (schedReturn s h) b

/-- The pending context resets whose window has agreed take effect (R154, R258). -/
def resetsSettle (s : State) (h : HalfId) : State :=
  let w := (s.half h).win
  let due (r : BitVec 5 × Cell) : Bool := decide (r.2.toNat ≤ w.oldest.toNat)
  ((s.ex h).rstPend.filter due).foldl (fun s r => contextReset s h r.1)
    (s.onEx h fun e => { e with rstPend := e.rstPend.filter fun r => !due r })

/-- What waited for the agreement of a window takes effect with it (R154, R258). -/
def settleAgreed (s : State) (h : HalfId) : State := resetsSettle (actsSettle s h) h

/-- A write of MEM_CTXRST.go: a close is forced, and the reset waits for its verdict (R154). -/
def ctxrstGo (s : State) (wr : Writer) (k : BitVec 5) : State :=
  let h := wr.half
  if k = 0 ∨ k = wr.ctx then s
  else
    let blocked := closeBlocked s h
    let s := if blocked then s.onWin h fun w => { w with closeDue := !w.blank } else closeNow s h
    let n := (s.half h).win.followNum
    settleAgreed (s.onEx h fun e => { e with rstPend := e.rstPend ++ [(k, n)] }) h

/-- CONTEXT_RESET (R154). -/
def execContextReset (w : HalfId) (ctx : BitVec 5) (s : State) : Host.Outcome State Fault Refusal :=
  .next (regCommand s w w true fun wr => ctxrstGo (s.onEx w fun e => { e with rstCtx := ctx }) wr ctx)

/-- The first address beyond a space (R52). -/
def spaceLimit (sp : BitVec 2) : Nat := if sp = spIo then 65536 else 16777216

/-- A refusal of a mint: its code, or that one is pending (R214). -/
def mintStart (s : State) (wr : Writer) : State :=
  let e := s.ex wr.half
  let c := capOf true e.mint.c0 e.mint.c1
  let refuse (code : BitVec 6) : Cell := atBits (3 : BitVec 2) 34 ||| atBits wr.ctx 10 ||| atBits code 0
  s.onEx wr.half fun e =>
    if e.mintPend.isSome then { e with mintSt := (e.mintSt &&& ~~~(0o77 : Cell)) ||| atBits eBusy 0 }
    else if c.space = spSealed then { e with mintSt := refuse eOperand }
    else if spaceLimit c.space < c.base.toNat + c.len.toNat then { e with mintSt := refuse eBounds }
    else { e with mintPend := some ⟨c, e.mintN, wr.ctx⟩, mintSt := atBits (1 : BitVec 2) 34 ||| atBits wr.ctx 10 }

/-- MINT: a write of MEM_MINTGO.go (R213, R214). -/
def execMint (w : HalfId) (n : BitVec 2) (s : State) : Host.Outcome State Fault Refusal :=
  .next (regCommand s w w true fun wr => mintStart (s.onEx w fun e => { e with mintN := n }) wr)

/-- The mint of a context is delivered when its FENCE completes (R214). -/
def mintDeliver (s : State) (h : HalfId) (k : BitVec 5) : State :=
  match (s.ex h).mintPend with
  | none => s
  | some m =>
    if m.ctx ≠ k then s
    else
      let c := { m.cap with gen := s.genOf h m.cap.tenant }
      let s := s.onBank h k fun b => b.setCap m.n c
      let s := s.onEx h fun e => { e with mintPend := none, mintSt := atBits (2 : BitVec 2) 34 ||| atBits k 10 }
      logInput s h .mint (atBits m.n 0) k false c.cell0 c.cell1

/-! ## Registers (R226, R237, R331, R339-R342) -/

/-- MEM_STAT (R340). -/
def memStat (m : MemUnit) : Cell :=
  let p := m.merge.find? fun e => e.prog
  let bank : BitVec 3 := match p with
    | none => 0
    | some e => if e.img.isSome then 0 else BitVec.ofNat 3 (nvmBank (mapLine m e.line))
  atBits (BitVec.ofNat 4 (mergeUsed m)) 32 ||| atBit p.isSome 31 ||| atBits bank 28 |||
    atBits (BitVec.ofNat 7 m.keyCache.length) 21

/-- MEM_WEAR (R341). -/
def memWear (m : MemUnit) : Cell × Cell :=
  let f (b : Nat) : BitVec 7 := BitVec.ofNat 7 (spareOf m b)
  (atBits (f 0) 0 ||| atBits (f 1) 7 ||| atBits (f 2) 14 ||| atBits (f 3) 21 ||| atBits (f 4) 28,
   atBits m.locked 24 ||| atBits (f 5) 0 ||| atBits (f 6) 7 ||| atBits (f 7) 14)

/-- MEM_IMGk (R331). -/
def imgCells (p : ImgPair) : Cell × Cell :=
  (atBit p.swap 35 ||| atBit p.side 34 ||| atBit p.err 33 ||| atBits p.len 17 ||| atBits p.a 0, atBits p.b 0)

/-- MEM_MINTGO (R213). -/
def mintGo (e : Exec) : Cell := atBit e.mintPend.isSome 35 ||| atBits e.mintN 0

/-- An event code of R342 that counts time, which the block's state does not hold. DESIGN CHOICE: log 45. -/
def timedCode (c : BitVec 6) : Bool := c == 1 || c == 4 || c == 5 || c == 6

/-- A read of MEM_PERFn: a timed event's count is not stated. DESIGN CHOICE: log 45. -/
def perfRead (s : State) (h : HalfId) (n : Nat) : State × Cell :=
  let m := (s.half h).mem
  if timedCode (perfSel m n) then (s.draw, Config.freeCell s.free) else (s, perfVal m n)

/-- Reads of MEM at offset `o` of 0o130000, by a local context (R226, R339). -/
def memRead (s : State) (h : HalfId) (k : BitVec 5) (o : Nat) : Option (State × Cell × Cell) :=
  let m := (s.half h).mem
  let e := s.ex h
  if o = 0 then some (s, atBit m.patrolEn 34 ||| atBits m.hold 0, 0)
  else if o = 1 then some (s, memStat m, 0)
  else if o = 2 then some (s, 0, 0)
  else if o = 4 then some (s, m.due, m.done)
  else if o = 6 then
    some (s, atBits m.sramCor 24 ||| atBits m.sramUnc 12 ||| atBits m.nvmCor 0, atBits m.nvmInt 24 ||| atBits m.lastErr 0)
  else if o = 0o10 then some (s, memWear m)
  else if o = 0o12 then some (s, atBits m.pselOvf 32 ||| atBits m.psel 0, 0)
  else if 0o14 ≤ o ∧ o < 0o20 then let r := perfRead s h (o - 0o14); some (r.1, r.2, 0)
  else if 0o100 ≤ o ∧ o < 0o140 then some (s, imgCells (sget ImgPair.zero m.imgs ((o - 0o100) / 2)))
  else if 0o3600 ≤ o ∧ o < 0o3700 then
    let r := recOf e (BitVec.ofNat 5 ((o - 0o3600) / 2))
    some (s, r.c0, r.c1)
  else if o = 0o3700 then some (s, e.flevel.c0, e.flevel.c1)
  else if o = 0o3702 then some (s, e.mint.c0, e.mint.c1)
  else if o = 0o3704 then some (s, mintGo e, 0)
  else if o = 0o3705 then some (s, e.mintSt, 0)
  else if o = 0o3706 then some (s, e.esc.c0, e.esc.c1)
  else if o = 0o3710 then some (s, e.escSrc, 0)
  else if o = 0o3711 then some (s, atBits e.rstCtx 0, 0)
  else if o = 0o3776 then
    let r := recOf e k
    some (s, r.c0, r.c1)
  else none

/-- Writes of MEM (R154, R213, R226, R339-R342). -/
def memWrite (s : State) (wr : Writer) (h : HalfId) (o : Nat) (x0 x1 : Cell) : State :=
  if o = 0 then
    s.onMem h fun m => { m with patrolEn := bit x0 34, hold := if fld x0 0 8 = 0 then 1 else fld x0 0 8,
                                keyCache := if bit x0 35 then [] else m.keyCache }
  else if o = 2 then if bit x0 35 then nvFlush s h else s
  else if o = 0o12 then s.onMem h fun m => { m with pselOvf := m.pselOvf &&& ~~~(fld x0 32 4), psel := fld x0 0 24 }
  else if 0o14 ≤ o ∧ o < 0o20 then s.onMem h fun m => setPerf m (o - 0o14) x0
  else if 0o100 ≤ o ∧ o < 0o140 then imgWrite s h (BitVec.ofNat 4 ((o - 0o100) / 2)) x0 x1
  else if o = 0o3700 then
    s.onEx h fun e => let l : Pair := ⟨x0, x1 &&& 0o7700⟩
                      { e with flevel := l, flevelEff := if (s.half h).win.blank then l else e.flevelEff }
  else if o = 0o3702 then s.onEx h fun e => { e with mint := ⟨x0, x1⟩ }
  else if o = 0o3704 then
    let s := s.onEx h fun e => { e with mintN := fld x0 0 2 }
    if bit x0 35 && wr.half == h then mintStart s wr else s
  else if o = 0o3711 then
    let s := s.onEx h fun e => { e with rstCtx := fld x0 0 5 }
    if bit x0 35 && wr.half == h then ctxrstGo s wr (fld x0 0 5) else s
  else s

end Sys2Proof.Machine
end

