-- ==== Sys2Proof/Machine/Frame.lean ====
section
/-! DEFINITION. The reckoner's energy table, the frame tick of a half, and the commands of the scheduler, the governor and
the supply sag (R33, R358, R359, R371-R396). -/

namespace Sys2Proof.Machine

/-! ## Classes and energies of commands (R358, R359) -/

/-- The parameter set of an algorithm command: the operand above the block reference (R356). -/
def RkCmd.param (c : RkCmd) : Nat := (c.ops.getD 1 0).toNat

/-- The class of a command or of one of its slices (R358). -/
def rkClass (c : RkCmd) : BitVec 4 :=
  let p := c.param
  match c.sel.toNat with
  | 0o13 => 1
  | 0o14 => 5
  | 0o22 => 1
  | 0o23 => 1
  | 0o30 => 1
  | 0o31 => 1
  | 0o32 => 1
  | 0o40 => if p = 0 then 3 else 5
  | 0o41 => if p = 0 then 4 else 5
  | 0o42 => 3
  | 0o43 => 4
  | 0o44 => 3
  | 0o45 => if p = 1 then 4 else if p = 2 then 2 else 3
  | 0o50 => 5
  | 0o51 => if p = 0 then 2 else if p = 1 then 4 else 5
  | 0o60 => 2
  | 0o61 => if p = 0 then 2 else 3
  | 0o62 => if p = 0 then 2 else 3
  | 0o63 => 4
  | 0o64 => if p = 0 then 2 else 3
  | 0o65 => if p = 0 then 3 else 4
  | _ => 0

/-- The command runs in slices (R361). -/
def rkSliced (sel : BitVec 6) : Bool := sel == 0o14 || sel == 0o50 || sel == 0o64

/-- The energy of a command, or of one of its slices, in 0.1 µJ units (R358); what a message or a vault key adds is
charged with the first slice (R517). -/
def rkEnergy (c : RkCmd) : Nat :=
  let p := c.param
  (if c.slices = 0 then c.extra else 0) +
  match c.sel.toNat with
  | 0o02 => 3
  | 0o03 => 3
  | 0o13 => 7
  | 0o14 => 400
  | 0o22 => 12
  | 0o23 => 12
  | 0o30 => 16
  | 0o31 => 20
  | 0o32 => 20
  | 0o40 => if p = 0 then 90 else 220
  | 0o41 => if p = 0 then 160 else 410
  | 0o42 => 55
  | 0o43 => 120
  | 0o44 => 65
  | 0o45 => if p = 0 then 75 else if p = 1 then 180 else if p = 2 then 46 else 65
  | 0o50 => if p = 0 then 350 else if p = 1 then 388 else 400
  | 0o51 => if p = 0 then 50 else if p = 1 then 120 else 340
  | 0o60 => if p = 0 then 30 else 47
  | 0o61 => if p = 0 then 34 else 53
  | 0o62 => if p = 0 then 41 else 62
  | 0o63 => if p = 0 then 120 else 190
  | 0o64 => if c.slices = 0 then (if p = 0 then 43 else 65) else if p = 0 then 42 else 77
  | 0o65 => if p = 0 then 90 else 140
  | _ => 1

/-! ## Standing requests (R392) -/

/-- The head command's standing request is granted when it fits. -/
def headGrant (s : State) (h : HalfId) (c : RkCmd) : Option State :=
  match c.entry with
  | none => none
  | some i =>
    let cls := rkClass c
    if leaseFits (s.half h) i (ceilingOf (s.half h).gov cls) then some (grantHead s h c cls i) else none

/-- A standing request is granted when it fits (R392). -/
def grantStanding (s : State) (h : HalfId) : Standing → Option State
  | .head c => headGrant s h c
  | .line n => if sysFits (s.half h) (ceilingOf (s.half h).gov 6) then some (grantLine s h n) else none
  | .prog i => if sysFits (s.half h) (ceilingOf (s.half h).gov 7) then some (grantProg s h i) else none

/-- The first standing request is granted, or goes on standing (R392). -/
def leaseGrant (s : State) (h : HalfId) : State :=
  match firstStanding s h with
  | none => s
  | some q => (grantStanding s h q).getD (standStays s h q)

/-- Standing requests are granted until one does not fit (R373, R392). DEDUCED: log 57. -/
def grantAll (h : HalfId) : Nat → State → State
  | 0, s => s
  | n + 1, s =>
    match firstStanding s h with
    | none => s
    | some q => match grantStanding s h q with
      | none => standStays s h q
      | some s' => grantAll h n s'

/-- LEASE_GRANT (R392). DEDUCED: log 57. -/
def execLeaseGrant (h : HalfId) (s : State) : Host.Outcome State Fault Refusal := .next (leaseGrant s h)

/-! ## The tick of a half (R33, R245, R272-R277, R373, R386) -/

/-- The tally's counts of a frame: bucket and slow drains, the burst history and the rotation countdown, which holds at 0
(R272, R274, R277). -/
def Tally.tick (t : Tally) : Tally :=
  { t with
    drain := if t.drain = 0 then 4095 else t.drain - 1
    drainDue := t.drainDue || t.drain == 0
    slowDrain := if t.slowDrain ≤ 1 then 65536 else t.slowDrain - 1
    slowDue := t.slowDue || decide (t.slowDrain ≤ 1)
    burstHist := (0 :: t.burstHist).take 16
    countdown := if t.countdown = 0 then 0 else t.countdown - 1 }

/-- The half counts the tick (R35): it is in a running mode. DEDUCED: log 60. -/
def ticks (s : State) (h : HalfId) : Bool := s.running h

/-- A waiting WAIT has seen the tick (R131). -/
def waitTick (s : State) (h : HalfId) : State :=
  s.onEx h fun e => { e with waiting := match e.waiting with
                                        | none => none
                                        | some w => some { w with tickSeen := true } }

/-- The scheduler starts the frame's table; a change of the running context that no entry's start has logged is logged
(R33, R263). -/
def tickPick (s0 s : State) (h : HalfId) : State :=
  let s' := schedPick s h
  let c := (s'.half h).sch
  if c.cur.isSome && !c.waitCtx then s'
  else if (s'.ex h).running != (s0.ex h).running || (s'.ex h).chain != (s0.ex h).chain then
    switchTo s' h (s'.ex h).running (!(s'.ex h).chain.isEmpty)
  else s'

/-- The cycles and the temperature that a tick carries for a half. -/
def tickOf (t : TickInput) : HalfId → Nat × Int
  | .h0 => (t.used0, t.temp0)
  | .h1 => (t.used1, t.temp1)

/-- The tally counts a tick, but in READING-ROOM its counts stand still (R272-R277, R281). -/
def tallyTick (s : State) (h : HalfId) : State := if s.runMode h = mReading then s else s.onTal h Tally.tick

/-- The half acts on a tick whose close has been voted, in the order of R33 and R373. -/
def tickWork (h : HalfId) (s : State) (t : TickInput) : State :=
  let s0 := s
  let s := cutEntry (countSkips (useCycles s h (tickOf t h).1) h) h
  let s := installAccepted (revokeHeadLease s h) h
  let s := exchangeImages (grantAll h (16 + s.store.length) (reload s h (tickOf t h).2)) h
  let s := s.onDbk h fun q => { q with commits := 0 }
  let s := (tickPick s0 s h).onSch h fun c => { c with frame := c.frame + 1 }
  dbkKick (tallyTick s h) h

/-- A tick whose close has agreed. -/
def tickDue (w : Windows) (t : Option Cell × TickInput) : Bool := t.1.any fun n => decide (n.toNat ≤ w.oldest.toNat)

/-- The ticks whose closes have agreed act (R33, R34). -/
def ticksSettle (s : State) (h : HalfId) : State :=
  let w := (s.half h).win
  ((w.ticks.filter (tickDue w)).map fun t => t.2).foldl (tickWork h)
    (s.onWin h fun w => { w with ticks := w.ticks.filter fun t => !tickDue w t })

/-- What waits for the agreement of windows that have agreed takes effect (R33, R154, R258). -/
def settleAll (s : State) (h : HalfId) : State := ticksSettle (settleAgreed s h) h

/-- Something waits for a window that has agreed. -/
def settleWaits (s : State) (h : HalfId) : Bool :=
  let w := (s.half h).win
  (w.acts.any fun a => decide (a.1.toNat ≤ w.oldest.toNat)) || w.ticks.any (tickDue w) ||
    (s.ex h).rstPend.any fun r => decide (r.2.toNat ≤ w.oldest.toNat)

/-- What waits for an agreement that has come takes effect. -/
def settled (s : State) (h : HalfId) : State := if settleWaits s h then settleAll s h else s

/-- The tick takes the current entry's context off the lanes at its close (R386). -/
def tickCut (s : State) (h : HalfId) : State :=
  match (s.ex h).running with
  | none => s
  | some k =>
    if (ownEntry s h k).isSome then (leaveRunning s h).onEx h fun e => { e with running := none, waiting := none } else s

/-- A tick meets the lanes: it is logged, and it closes the window (R33, R34, R263); `acted` when it has acted on the
governor and the scheduler already (R245). -/
def tickMeet (s : State) (h : HalfId) (acted : Bool) : State :=
  tickCut (closeNow (logInput s h .tick 0 0 false 0 (if acted then 1 else 0)) h) h

/-- A tick that awaits the verdict on its close. -/
def tickAwaits (s : State) (h : HalfId) (t : TickInput) : State :=
  s.onWin h fun w => { w with ticks := w.ticks ++ [(some w.followNum, t)] }

/-- The tick forces a close, and the half acts on it after the vote (R33, R34). DEDUCED: log 32. -/
def tickHalf (s : State) (h : HalfId) (t : TickInput) : State := settled (tickAwaits (tickMeet s h false) h t) h

/-- A tick finds the half waiting: it acts at once, and is logged at the first position of the window to come (R245). -/
def tickWaiting (s : State) (h : HalfId) (t : TickInput) : State := tickWork h (tickCut (logInput (waitTick s h) h .tick 0 0 false 0 1) h) t

/-- A tick reaches a half: it acts, or is held through a rollback (R35, R245, R259). -/
def tickReach (t : TickInput) (s : State) (h : HalfId) : State :=
  if !ticks s h then s
  else if (s.half h).win.rolling || (s.half h).win.redo.isSome then
    s.onWin h fun w => { w with held := w.held ++ [⟨t, s.evc.pend &&& s.evc.en⟩] }
  else if (s.ex h).waiting.isSome then tickWaiting s h t
  else if inputsHeld s h then s.onWin h fun w => { w with held := w.held ++ [⟨t, s.evc.pend &&& s.evc.en⟩] }
  else tickHalf s h t

/-- The best takeable request among some sources. -/
def bestAmong (s : State) (h : HalfId) (m : BitVec 256) : Option Nat :=
  bestOf (requestBefore s) ((sourcesIn (s.evc.pend &&& s.evc.en &&& ~~~s.evc.act &&& m)).filter (takeable s h))

/-- The event of a source is entered, and logged (R263, R415). -/
def takeEvent (s : State) (h : HalfId) (src : Nat) : State :=
  let k := gLocal (routeOf s src)
  let l := BitVec.ofNat 3 (levelOf s src)
  enterEvent (logInput s h .event (cellOf src) k false (l.setWidth 36) 0) h k l

/-- The oldest held tick is delivered once the half takes inputs again, after the events that came before it (R259).
DESIGN CHOICE: log 16. DEDUCED: log 60. -/
def deliverHeld (s : State) (h : HalfId) : Option State :=
  match (s.half h).win.held with
  | [] => none
  | t :: l =>
    if inputsHeld s h || !ticks s h then none
    else match bestAmong s h t.before with
      | some src => some ((beforeClose s h).getD (takeEvent s h src))
      | none => some (tickHalf (s.onWin h fun w => { w with held := l }) h t.tick)

/-- The held ticks of a half that begins to wait act at once (R245, R259). -/
def heldWaiting (s : State) (h : HalfId) : State :=
  ((s.half h).win.held.map fun t => t.tick).foldl (fun s t => tickWaiting s h t) (s.onWin h fun w => { w with held := [] })

/-- The current entry is not essential, and the frame is disturbed (R386, R395). -/
def Sched.cutDue (c : Sched) : Bool := c.cur.any fun i => c.disturbed && !(c.active.entry i).essential

/-- The current entry, not essential in a disturbed frame, is cut at this boundary (R386, R395). -/
def sagCut (s : State) (h : HalfId) : Option State :=
  if !(s.half h).sch.cutDue || switchLogged (s.half h).win then none
  else some ((beforeClose s h).getD (cutNonEssential s h))

/-! ## The generator (R371) -/

/-- A tick of the generator reaches both halves and the mailbox timers (R32, R445). DEDUCED: log 60. -/
def tickAll (s : State) (t : TickInput) : State := mbxTick (tickReach t (tickReach t (advance s t.dt) .h0) .h1)

/-- The frame-sync source of both halves: fallback begins or ends (R371). -/
def raiseSync (s : State) : State := raiseSource (raiseSource s 216) 217

/-- The generator of an external source has made a tick of its own (R371). -/
def tickMissed (s : State) : State :=
  let g := s.tick
  if !g.ext || g.fallback then s
  else
    let g' := { g with missed := satInc g.missed, inRow := g.inRow + 1, fallback := decide (8 ≤ g.inRow + 1) }
    let s := { s with tick := g' }
    if g'.fallback then raiseSync s else s

/-- The charter has been installed, so the generator runs (R371, R495). -/
def tickRuns (s : State) : Bool := s.cht.installed && !s.isolated

/-- FRAME_TICK: the generator's tick (R32, R33, R371). DESIGN CHOICE: log 3. -/
def execFrameTick (t : TickInput) (s : State) : Host.Outcome State Fault Refusal :=
  .next (if tickRuns s then tickAll (tickMissed s) t else s)

/-- An edge that is a tick ends a row of missed ticks and a fallback (R371). -/
def syncTick (s : State) : State :=
  let g := s.tick
  let s' := { s with tick := { g with inRow := 0, fallback := false } }
  if g.fallback then raiseSync s' else s'

/-- FSYNC_EDGE: an edge of the frame-sync input, `since` nanoseconds after the previous tick (R371). DEDUCED: log 60. -/
def execFsyncEdge (since : Nat) (t : TickInput) (s : State) : Host.Outcome State Fault Refusal :=
  let p := 1000 * s.tick.period.toNat
  .next (
    if !tickRuns s || !s.tick.ext || !s.bnd.tieFsync then s
    else if 8 * since < 7 * p then
      { s with tick := { s.tick with early := if s.tick.fallback then s.tick.early else satInc s.tick.early } }
    else tickAll (syncTick s) t)

/-! ## Budgets and accounts (R386, R387) -/

/-- BUDGET_EXPIRY: the budget reaches 0, and BUDGET-OVERRUN is due at the context's next boundary (R225, R386). -/
def budgetExpiry (s : State) (h : HalfId) : State :=
  let c := (s.half h).sch
  if c.cur.isNone || c.expired || c.starved || !s.running h then s
  else
    let s := s.onSch h fun c => { c with left := 0, expired := true }
    if (s.ex h).waiting.isSome || closeBlocked s h || !lanesRun s h then s else (enterDue s h).getD s

/-- BUDGET_EXPIRY (R386). -/
def execBudgetExpiry (h : HalfId) (s : State) : Host.Outcome State Fault Refusal := .next (budgetExpiry s h)

/-- EVENT_ACCOUNT_EXHAUSTED: the event account reaches 0; the source is raised once in the frame (R387). -/
def execEventAccountExhausted (h : HalfId) (s : State) : Host.Outcome State Fault Refusal :=
  .next (if (s.half h).sch.evOver then s
         else raiseHalf (s.onSch h fun c => { c with evLeft := 0, evOver := true }) h 212)

/-! ## Admission (R380) -/

/-- COMMIT: a write of SCH_CTRL.commit (R380). -/
def execCommit (w h : HalfId) (s : State) : Host.Outcome State Fault Refusal :=
  .next (regCommand s w h true fun _ => schCommit s h)

/-- CAP_WRITE: a write of GOV_BUDGET (R380, R402). -/
def execCapWrite (w h : HalfId) (v : Cell) (s : State) : Host.Outcome State Fault Refusal :=
  .next (regCommand s w h true fun _ => govBudgetWrite s h v)

/-- ADMISSION_DONE (R380). -/
def execAdmissionDone (h : HalfId) (s : State) : Host.Outcome State Fault Refusal := .next (admissionEnd s h)

/-! ## Sag (R394, R395) -/

/-- VFIELD has stood at a level for `ns` nanoseconds: below the sag threshold for 200 ns to 2 µs is a dip (R394). A longer
stay is where VFIELD now stands. -/
def vfieldCrossing (level : BitVec 8) (ns : Nat) (s : State) (h : HalfId) : State :=
  if !s.running h && s.mode h != mHalt then s
  else if level.toNat < (s.half h).gov.sagThr.toNat ∧ 200 ≤ ns ∧ ns ≤ 2000 then
    s.onGov h fun g => { g with dips := satInc g.dips }
  else s

/-- VFIELD_CROSSING (R394). -/
def execVfieldCrossing (level : BitVec 8) (ns : Nat) (s : State) : Host.Outcome State Fault Refusal :=
  let s := vfieldCrossing level ns (vfieldCrossing level ns s .h0) .h1
  .next (if 2000 < ns then { s with keep := { s.keep with vfield := level } } else s)

/-- The start of a sag in a half (R395). -/
def sagStart (s : State) (h : HalfId) : State :=
  let n := grantsHeld s h
  let e := sagEntry s h (n.1 + n.2)
  let s := withdrawGrants s h
  let s := storeSag (s.onGov h fun g => { g with sag := true, sags := satInc g.sags }) h e
  let s := s.onSch h fun c => { c with disturbed := true }
  raiseHalf (if (s.ex h).running.isNone || (s.ex h).waiting.isSome then cutNonEssential s h else s) h 214

/-- SAG_START (R394, R395). -/
def execSagStart (h : HalfId) (s : State) : Host.Outcome State Fault Refusal :=
  .next (if (s.half h).gov.sag || !belowSag s h || !s.cht.installed then s else sagStart s h)

/-- SAG_END: VFIELD stands 0.2 V above the threshold again (R394). -/
def execSagEnd (h : HalfId) (s : State) : Host.Outcome State Fault Refusal :=
  .next (if (s.half h).gov.sag && decide ((s.half h).gov.sagThr.toNat + 2 ≤ s.keep.vfield.toNat) then
    s.onGov h fun g => { g with sag := false } else s)

end Sys2Proof.Machine
end

