-- ==== Sys2Proof/Machine/Engine.lean ====
section
/-! DEFINITION. How an instruction issues and retires: boundaries, stack checks, the order of faults, windows, issue
groups, hardware loops and prefixes (R74-R79, R99-R108, R167-R173, R187-R203, R242-R247, R263-R267). -/

namespace Sys2Proof.Machine

/-! ## What an instruction does -/

/-- A cell that an instruction writes to the store buffer: its target, data, tag and link (R194). -/
structure StoreCell where
  target : Target
  data : Cell
  tag : Bool
  link : LinkKind
deriving DecidableEq, Repr

/-- The place of a repeat's iteration: the target's position and, for the first, the bank that the prefix left
(R79, R167). -/
structure Iteration where
  at_ : Pos
  first : Option Bank
deriving DecidableEq, Repr

/-- What follows a retirement at its boundary. -/
inductive After where
  | nothing
  /-- A fault of the instruction, with its imprecise mark. -/
  | fault (f : FaultInfo) (imprecise : Bool)
  /-- A RETI: the return chain may unwind (R416). -/
  | unwind
  /-- A YIELD, with the cycles its entry has used (R141). -/
  | yield (used : Nat)
deriving DecidableEq, Repr

/-- The retirement takes a fault. -/
def After.faults : After → Bool
  | .fault _ _ => true
  | _ => false

/-- What a retiring instruction leaves (R182, R243): the state beside its bank, its bank, where execution continues,
whether it is a taken transfer, whether it closes the window, the overflow or zero divisor it detected, its stores and
the capability copy they carry, its place when a prefix repeats it, whether it is a group of a CTXSV that retires no
slot (R594), and what follows it. -/
structure Done where
  s : State
  b : Bank
  dst : Pos
  taken : Bool
  close : Bool
  arith : Option Bool
  stores : List StoreCell
  snap : Option CapSnap
  iter : Option Iteration
  group : Bool
  after : After

/-- How an instruction ends. -/
inductive Res where
  | done (d : Done)
  | fault (f : FaultInfo)
  /-- It faults after reads, which have left their counts in the state (R315, R322). -/
  | faultIn (s : State) (f : FaultInfo)
  /-- An iteration faults, the bank holding the repeat (R169): the state it leaves and the iteration's own position. -/
  | iterFault (s : State) (b : Bank) (f : FaultInfo) (at_ : Pos)
  /-- It cannot issue yet: nothing happens. -/
  | stall
  /-- It consumes a read that is void: BUS is entered at this boundary (R225). -/
  | bus (o : OutRead)
  /-- An isolated request differs from the log: a disagreement with no majority (R265). -/
  | clash
  /-- It fails and its context is lost (R137). -/
  | lost (f : FaultInfo)
  /-- It takes the context elsewhere; the state is all its effect. -/
  | whole (s : State)

/-- A slot instruction or selector form: its opcode or selector as a fault record names it, its pairing class, the cells
it pops and pushes and those it touches from the top, whether it is isolated, the slots it retires, and its effect given
the position after it. -/
structure Op where
  code : BitVec 6
  cls : PairClass
  pops : Nat
  pushes : Nat
  touch : List Nat
  isolated : Bool
  slots : Nat
  run : State → HalfId → BitVec 5 → Bank → Pos → Res

/-- How an instruction stands in its code word: whether its slot is permitted, what follows it (R74, R75), and the opcode
that a forbidden slot reports where the instruction has a selector (R228). -/
structure Form where
  fits : Pos → Bool
  next : Pos → Pos
  opcode : Option (BitVec 6)

/-- A simple form: any slot, the next slot follows (R74). -/
def simpleForm : Form := ⟨fun _ => true, fun p => slotsOn p 1, none⟩

/-- A long form in slots 0-4: the next code word follows (R74). -/
def longForm : Form := ⟨fun p => roomFor p 1, nextWord, none⟩

/-- A selector form of an opcode: slots 0-4, the next code word follows (R74). -/
def selectorForm (opcode : BitVec 6) : Form := ⟨fun p => roomFor p 1, nextWord, some opcode⟩

/-- A retirement with no effect beside the state and bank given. -/
def doneOf (s : State) (b : Bank) (dst : Pos) : Done := ⟨s, b, dst, false, false, none, [], none, none, false, .nothing⟩

/-- A retirement that only changes the bank. -/
def doneBank (s : State) (b : Bank) (dst : Pos) : Res := .done (doneOf s b dst)

/-- A retirement with data pushed in place of `n` cells popped; the last of the list ends on top. -/
def doneStack (s : State) (b : Bank) (dst : Pos) (n : Nat) (l : List Cell) : Res :=
  doneBank s { b with ds := l.reverse ++ b.ds.drop n } dst

/-- The cell at depth i of the operand stack, 0 the top. -/
def Bank.at (b : Bank) (i : Nat) : Cell := b.ds.getD i 0

/-! ## Stack checks (R100, R157, R228) -/

/-- The data-stack check: the fault, if there is one. -/
def stackFault (b : Bank) (pops pushes : Nat) : Option FaultInfo :=
  let n := b.ds.length
  if n < pops then
    some ⟨cDstackUnder, 0, 7, BitVec.ofNat 24 (pops - n), decide (n + b.sd.toNat < pops)⟩
  else if 16 < n - pops + pushes then some (faultOf cDstackOver 0 (BitVec.ofNat 24 (n - pops + pushes - 16)))
  else none

/-- The return-stack check. -/
def returnFault (b : Bank) (pops pushes : Nat) : Option FaultInfo :=
  let n := b.rs.length
  if n < pops then
    some ⟨cRstackUnder, 0, 7, BitVec.ofNat 24 (pops - n), decide (n + b.st.toNat < pops)⟩
  else if 16 < n - pops + pushes then some (faultOf cRstackOver 0 (BitVec.ofNat 24 (n - pops + pushes - 16)))
  else none

/-- The load result that has not been delivered, among those that an instruction consumes (R190, R191).
DESIGN CHOICE: log 23. -/
def consumedRead (e : Exec) (b : Bank) (touch : List Nat) : Option OutRead :=
  e.reads.find? fun r => touch.any fun i => r.place + i + 1 == b.ds.length + b.sd.toNat

/-! ## Issue groups (R187, R203) -/

/-- The second slot of a pair may have this class after a first of that class (R187). -/
def classesPair (prec : Bool) (c d : PairClass) : Bool :=
  match c, d with
  | .s, _ => false
  | .x, _ => false
  | .aLong, _ => false
  | .b, _ => false
  | _, .s => false
  | _, .x => false
  | _, .aLong => false
  | .l, _ => true
  | _, .l => true
  | .m, .m => false
  | .a, .a => false
  | .aStar, .a => false
  | .a, .aStar => !prec
  | .aStar, .aStar => !prec
  | _, _ => true

/-- The capability register whose contents an instruction of class A uses: CNAR's and CGET's (R57, R60). -/
def Op.usesCap (o : Op) (b : Bank) : Option Cell :=
  if o.cls = .a ∧ o.code = 0o52 then some (b.at 0) else if o.cls = .a ∧ o.code = 0o53 then some (b.at 1) else none

/-- The instruction joins the open group, consuming no load result of the first slot (R187, R190). DEDUCED: log 21. -/
def joins (e : Exec) (b : Bank) (o : Op) : Bool :=
  match e.groupOpen with
  | none => false
  | some g => classesPair (stPrec b.status) g.cls o.cls && !(o.touch.any fun i => decide (i < g.loads)) &&
      !(g.cap.any fun n => o.usesCap b == some (n.setWidth 36))

/-- The load results of an instruction of class M, in a group that it opens (R191). -/
def Op.groupOf (o : Op) (b : Bank) : Group :=
  ⟨o.cls, if o.cls = .m then o.pushes else 0, if o.cls = .m ∧ o.code = 0o50 ∧ (b.at 0).toNat < 4 then some (fld (b.at 0) 0 2) else none⟩

/-- The groups of a pending ARITH after an instruction that starts a group or joins one (R203). -/
def arithStep (a : PendArith) (joined : Bool) : PendArith :=
  { a with slots := a.slots + 1, groups := if joined then a.groups else a.groups + 1 }

/-- The pending ARITH after a retirement; a detection while one waits joins it (R107). -/
def arithAfter (o : Option PendArith) (joined : Bool) (at_ : Pos) (det : Option Bool) : Option PendArith :=
  match o, det with
  | some a, _ => some (arithStep a joined)
  | none, some z => some ⟨at_, z, 0, 0⟩
  | none, none => none

/-! ## Hardware loops (R170-R173) -/

/-- The innermost active level. -/
def Bank.level (b : Bank) : LoopReg := if b.levels = 1 then b.loop0 else if b.levels = 2 then b.loop1 else b.loop2

/-- A bank with its innermost active level replaced. -/
def Bank.setLevel (b : Bank) (l : LoopReg) : Bank :=
  if b.levels = 1 then { b with loop0 := l } else if b.levels = 2 then { b with loop1 := l } else { b with loop2 := l }

/-- The end checks at a sequential step from the last slot of a code word, innermost first (R171): the bank and where
execution continues. DEDUCED: log 20. -/
def loopEnds : Nat → Bank → Addr → Bank × Pos
  | 0, b, a => (b, ⟨a + 1, 0⟩)
  | n + 1, b, a =>
    if b.levels = 0 then (b, ⟨a + 1, 0⟩)
    else
      let l := b.level
      if l.ldp.toNat = b.depthD ∧ fld l.le 0 24 = a then
        if l.lc = 1 then loopEnds n { (b.setLevel { l with lc := 0 }) with levels := b.levels - 1 } a
        else (b.setLevel { l with lc := l.lc - 1 }, ⟨fld l.ls 0 24, 0⟩)
      else (b, ⟨a + 1, 0⟩)

/-- The outermost level that a jump leaves takes every level inside it with it (R172): levels are tried from the outside.
DEDUCED: log 20. -/
def outerLeft (b : Bank) (t : Addr) (l : LoopReg) : Bool :=
  decide (l.ldp.toNat = b.depthD ∧ ¬(l.ls.toNat ≤ t.toNat ∧ t.toNat ≤ l.le.toNat))

/-- A bank after a taken JMP, BZ or BNZ to t (R172). -/
def afterJump (b : Bank) (t : Addr) : Bank :=
  if 1 ≤ b.levels ∧ outerLeft b t b.loop0 then { b with levels := 0 }
  else if 2 ≤ b.levels ∧ outerLeft b t b.loop1 then { b with levels := 1 }
  else if 3 ≤ b.levels ∧ outerLeft b t b.loop2 then { b with levels := 2 }
  else b

/-- A bank after a RET or RETI has left a return depth (R172). -/
def afterReturn (b : Bank) : Bank :=
  let d := b.depthD
  if 1 ≤ b.levels ∧ d < b.loop0.ldp.toNat then { b with levels := 0 }
  else if 2 ≤ b.levels ∧ d < b.loop1.ldp.toNat then { b with levels := 1 }
  else if 3 ≤ b.levels ∧ d < b.loop2.ldp.toNat then { b with levels := 2 }
  else b

/-- Where execution continues after a slot at `p` without a transfer: at the end of a code word the end checks apply
(R171). DEDUCED: log 20. -/
def sequential (b : Bank) (p dst : Pos) : Bank × Pos := if dst.addr = p.addr then (b, dst) else loopEnds 3 b (dst.addr - 1)

/-! ## Stores (R194-R198) -/

/-- The entries that a store list adds to the buffer: a single store may merge (R195, R198). -/
def newEntries (w : Windows) (l : List StoreCell) : Nat :=
  (l.filter fun c => match c.target with
    | .data a _ => !(c.link == .single && wouldMerge w a)
    | _ => true).length

/-- The stores whose target is the other half (R290). -/
def farStores (h : HalfId) (l : List StoreCell) : Nat :=
  (l.filter fun c => match c.target with
    | .data a _ => farData h a
    | .io a => ioFar a.toNat
    | _ => false).length

/-- The cells of a store list enter the buffer in order (R194). -/
def putStores (s : State) (h : HalfId) (wr : Writer) (snap : Option CapSnap) (l : List StoreCell) : State :=
  l.foldl (fun s c => bufferStore s h c.target c.data c.tag c.link wr snap) s

/-! ## Retirement -/

/-- The re-executed window has reached its logged close (R256). -/
def replayCloses (w : Windows) : Bool := match w.replay with
  | none => false
  | some n => decide (n ≤ w.slots)

/-- The slots of a retirement enter the signature: a prefix before its first iteration; a group of a CTXSV has none
(R167, R247, R594). -/
def signSlots (s : State) (h : HalfId) (p : Pos) (d : Done) : State :=
  if d.group then s.onWin h fun w => { w with group := true }
  else match d.iter with
    | none => retireSlot s h p d.b
    | some i => retireSlot (match i.first with
                            | none => s
                            | some b => retireSlot s h p b) h i.at_ d.b

/-- The retirement pairs a prefix with its first iteration (R187). -/
def Done.leads (d : Done) : Bool := match d.iter with
  | none => false
  | some i => i.first.isSome

/-- The pending ARITH after a retirement's slots (R203). DEDUCED: log 18. -/
def arithRetire (o : Option PendArith) (joined : Bool) (p : Pos) (d : Done) : Option PendArith :=
  let at_ := match d.iter with
    | none => p
    | some i => i.at_
  if d.group then o
  else if d.leads then arithAfter (arithAfter o joined p none) true at_ d.arith
  else arithAfter o joined at_ d.arith

/-- The close that a retirement brings; one that may not fall yet falls before the next instruction. -/
def retireClose (s : State) (h : HalfId) (close : Bool) : State :=
  let w := (s.half h).win
  if close || replayCloses w || w.closeDue || decide (64 ≤ w.logged) || prtForces s h || stepDue s h then
    (if closeBlocked s h then s else settled (closeNow s h) h)
  else s

/-- A YIELD ends the current entry; in a context without one the half returns to the scheduler. In a borrowed context, or where
the log holds the switch, it does nothing more (R141, R265, R417). -/
def yieldEntry (s : State) (h : HalfId) (k : BitVec 5) (used : Nat) : State :=
  if !(s.ex h).chain.isEmpty || switchLogged (s.half h).win then s
  else if (ownEntry s h k).isSome then endAndPick (useCycles (leaseRelease s h k) h used) h
  else if (s.ex h).running = some k then schedReturn (switchTo s h none false) h
  else s

/-- A RETI that has popped a DEBUG frame: the slot it returns to is not matched (R565). -/
def debugReturn (s : State) (h : HalfId) (k : BitVec 5) : State :=
  let b := s.bank h k
  s.onEx h fun e =>
    match e.dbgFrames with
    | (c, r, n) :: l =>
      if c = k ∧ n = (if r then b.rv.length else b.depthD) then { e with dbgFrames := l, dbgSkip := true } else e
    | [] => e

/-- What follows a retirement at its boundary: its close, a fault, the end of a borrowing or of an entry. -/
def afterRetire (s : State) (h : HalfId) (k : BitVec 5) (p : Pos) (d : Done) : State :=
  match d.after with
  | .nothing => retireClose s h d.close
  | .fault f imprecise => enterFault s h k f imprecise (s.bank h k).resume p
  | .unwind => unwind (retireClose (debugReturn s h k) h d.close) h
  | .yield used => yieldEntry (retireClose s h d.close) h k used

/-- The state before an instruction, to which the abandonment of a load returns (R205). -/
def ckptOf (s : State) (h : HalfId) (k : BitVec 5) : Ckpt :=
  let e := s.ex h
  let w := (s.half h).win
  ⟨k, s.bank h k, e.arith, e.groupOpen, e.dbgSkip, e.repu, w.slots, w.sig, w.items, w.stores, w.group, w.logged, w.replayPos⟩

/-- An instruction at position `p` retires in context k; `g` is the group that it opens or that it is the second of.
DEDUCED: log 21. -/
def retire (s : State) (h : HalfId) (k : BitVec 5) (wr : Writer) (p : Pos) (d : Done) (joined : Bool) (g : Group) : State :=
  let q := if d.taken then (d.b, d.dst) else sequential d.b p d.dst
  let paired := q.2.addr == p.addr || (s.half h).line.holds q.2.addr
  let s := signSlots (s.setBank h k { q.1 with resume := q.2 }) h p { d with b := q.1 }
  let s := putStores s h wr d.snap d.stores
  let s := if joined || d.leads then perfCount s h 0o03 else s
  let s := s.onHalf h fun x => { x with line := if d.taken then x.line.transfer q.2.addr else x.line.step q.2.addr }
  let s := s.onEx h fun e => { e with
    arith := arithRetire e.arith joined p d
    groupOpen := if joined || d.leads || d.taken || !paired then none else some g
    dbgSkip := false }
  afterRetire s h k p d

/-! ## Boundaries -/

/-- The logged arrival that is met at the current retirement position of a re-execution (R265, R267). -/
def nextLogged (w : Windows) : Option LogEntry := w.replayLog.find? fun e => !e.kind.isRequest && decide (e.pos ≤ w.replayPos)

/-- The running context that a logged switch names. DEDUCED: log 27. -/
def codeRun (c : Cell) : Option (BitVec 5) := if c = 32 then none else some (fld c 0 5)

/-- A tick met again goes with the window that closes for it. -/
def reattach (n : Cell) : List (Option Cell × TickInput) → List (Option Cell × TickInput)
  | [] => []
  | (none, t) :: l => (some n, t) :: l
  | x :: l => x :: reattach n l

/-- A logged tick closes the window of a re-execution; one that has acted acts no more (R34, R245). -/
def tickAgain (s : State) (h : HalfId) (acted : Bool) : State :=
  let s := tickMeet s h acted
  if acted then s else settled (s.onWin h fun w => { w with ticks := reattach w.followNum w.ticks }) h

/-- A logged switch of the running context (R265). DEDUCED: log 27. -/
def switchAgain (s : State) (h : HalfId) (r : Option (BitVec 5)) (v0 v1 : Cell) : State :=
  let s := if (s.ex h).running = r then s else leaveRunning s h
  let s := s.onEx h fun x =>
    { x with running := r, chain := if v1 = 1 then cutBottom x.chain else x.chain, waiting := none, groupOpen := none }
  logInput (lineResume s h) h .switch 0 0 false v0 v1

/-- A logged arrival is delivered again, and logged in the window that meets it (R265).
DESIGN CHOICE: log 16. DEDUCED: log 27. -/
def deliverLogged (s : State) (h : HalfId) (e : LogEntry) : State :=
  let s := s.onWin h fun w => { w with replayLog := w.replayLog.erase e }
  match e.kind with
  | .event => enterEvent (logInput s h .event e.req e.ctx false e.v0 e.v1) h e.ctx (fld e.v0 0 3)
  | .switch => switchAgain s h (codeRun e.v0) e.v0 e.v1
  | .tick => tickAgain s h (e.v1 = 1)
  | .mint =>
    let s := s.onBank h e.ctx fun b => b.setCap (fld e.req 0 2) (capOf true e.v0 e.v1)
    logInput s h .mint e.req e.ctx false e.v0 e.v1
  | _ => s

/-- What happens at a boundary in place of the next instruction: a replayed arrival, a held tick, the cut of a disturbed
frame, a due fault. DESIGN CHOICE: log 16. -/
def boundary (s : State) (h : HalfId) : Option State :=
  if closeBlocked s h then none
  else match nextLogged (s.half h).win with
    | some e => some (deliverLogged s h e)
    | none => match deliverHeld s h with
      | some s' => some s'
      | none => match sagCut s h with
        | some s' => some s'
        | none => enterDue s h

/-- The window closes at this boundary: it is at a limit or at its logged close, or a close has been forced
(R189, R243, R256, R267). -/
def windowFull (w : Windows) : Bool :=
  decide (2048 ≤ w.slots) || decide (64 ≤ w.logged) || w.closeDue || replayCloses w

/-- The half takes an instruction of its running context now: its lanes run, and the context neither waits, nor fences, nor
stalls for a generation (R297). DESIGN CHOICE: log 15. -/
def takesInstr (s : State) (h : HalfId) : Bool :=
  lanesRun s h && !(s.ex h).waiting.isSome && !(s.ex h).fencing && !(s.ex h).revoking.isSome

/-- A window closes before an instruction; none when it cannot, or when the pending ARITH is taken there instead. -/
inductive PreClose where
  | go (s : State)
  | stop (s : State)

/-- The close before an instruction that may not share its window. DESIGN CHOICE: log 16. -/
def preClose (s : State) (h : HalfId) : PreClose :=
  if (s.half h).win.blank then .go s
  else if closeBlocked s h then .stop s
  else match beforeClose s h with
    | some s' => .stop s'
    | none => .go (closeRaw s h false)

/-- A fault at frame position `p` of an instruction at `at_` is entered, after what comes before its close (R107, R225); with
data outstanding it waits. -/
def raiseAt (s : State) (h : HalfId) (k : BitVec 5) (f : FaultInfo) (p at_ : Pos) : State :=
  if closeBlocked s h then s else (beforeClose s h).getD (enterFault s h k f false p at_)

/-- A fault of the instruction at `p`. -/
def raise (s : State) (h : HalfId) (k : BitVec 5) (f : FaultInfo) (p : Pos) : State := raiseAt s h k f p p

/-- A fault of an iteration, whose bank holds the repeat (R169); a pending ARITH that a REPU holds back stays with the
context (R168). -/
def raiseIter (s : State) (h : HalfId) (k : BitVec 5) (b : Bank) (f : FaultInfo) (p at_ : Pos) : State :=
  if closeBlocked s h then s
  else (beforeClose s h).getD (enterFault (parkArith (s.setBank h k b) h k) h k f false p at_)

/-- BUS before an instruction that consumes a void read, be it inside a REPU (R225). -/
def raiseBus (s : State) (h : HalfId) (k : BitVec 5) (o : OutRead) : State :=
  if closeBlocked s h then s else (beforeClose s h).getD (enterBus (parkArith s h k) h k o)

/-! ## Issue -/

/-- The entries and far places that a retirement's stores need are free (R196, R290). -/
def storesFit (s : State) (h : HalfId) (l : List StoreCell) : Bool :=
  l.isEmpty || storeRoom s h (newEntries (s.half h).win l) (farStores h l)

/-- The loads that an instruction has started: the state before the first of them is kept (R205). -/
def keepLoads (s t : State) (h : HalfId) (k : BitVec 5) : State :=
  if (s.ex h).reads.length < (t.ex h).reads.length then t.onEx h fun e => { e with ckpt := e.ckpt ++ [ckptOf s h k] } else t

/-- A load that waits is abandoned with what has issued past it: the half stands before the oldest such load, and the logged
answers are kept for the re-execution (R205, R206). DEDUCED: log 23. -/
def abandon (s : State) (h : HalfId) : State :=
  match (s.ex h).ckpt with
  | [] => s
  | c :: _ =>
    let own (w : Windows) : List LogEntry := w.log.filter fun x => x.win == w.num
    let s := (s.setBank h c.ctx c.bank).onEx h fun e => { e with
      arith := c.arith, groupOpen := c.groupOpen, dbgSkip := c.dbgSkip, repu := c.repu, ckpt := []
      reads := e.reads.filter fun r => r.void
      kept := e.kept ++ ((own (s.half h).win).drop c.logged).filter fun x => x.kind.isRequest }
    s.onWin h fun w => { w with
      slots := c.slots, sig := c.sig, items := c.items, stores := c.stores, group := c.group, logged := c.logged
      replayPos := c.replayPos
      log := (w.log.filter fun x => x.win != w.num) ++ (own w).take c.logged
      sb := (w.sb.filter fun x => x.win != w.num) ++ (w.sb.filter fun x => x.win == w.num).take c.stores }

/-- The retirement needs a close that may not fall now, or would pass a pending ARITH (R107). -/
def retireOrWait (s : State) (h : HalfId) (k : BitVec 5) (wr : Writer) (p : Pos) (o : Op) (d : Done) (joined : Bool) : State :=
  if (d.close || d.after.faults) && closeBlocked d.s h then s
  else if (d.taken || d.after.faults) && (s.ex h).arith.isSome && !(s.ex h).repu then (if closeBlocked s h then s else enterArith s h)
  else if !storesFit s h d.stores then s
  else retire (keepLoads s d.s h k) h k wr p d joined (o.groupOf (s.bank h k))

/-- The stores would bring the window above 8 entries (R195). -/
def storesOverflow (w : Windows) (l : List StoreCell) : Bool :=
  !l.isEmpty && decide (8 < w.stores + newEntries w l)

/-- An instruction has run: it retires, faults, or waits. `again` runs it once more after the close of R195. -/
def settle (s : State) (h : HalfId) (k : BitVec 5) (wr : Writer) (p : Pos) (o : Op) (joined : Bool) (again : State → Res) :
    Res → State
  | .stall => s
  | .fault f => raise s h k f p
  | .faultIn s' f => if closeBlocked s h then s else raise s' h k f p
  | .iterFault s' b f at_ => if closeBlocked s h then s else raiseIter s' h k b f p at_
  | .bus o => raiseBus s h k o
  | .clash => clashClose s h
  | .lost f => if closeBlocked s h then s else (beforeClose s h).getD (contextLost s h k (recordOf f false p))
  | .whole s' => s'
  | .done d =>
    if storesOverflow (s.half h).win d.stores then
      match preClose s h with
      | .stop s' => s'
      | .go s' =>
        match again s' with
        | .done d' => retireOrWait s' h k wr p o d' joined
        | _ => s'
    else retireOrWait s h k wr p o d joined

/-- An instruction's checks in the order of R101, and its effect. -/
def runChecked (o : Op) (s : State) (h : HalfId) (k : BitVec 5) (b : Bank) (dst : Pos) : Res :=
  match stackFault b o.pops o.pushes with
  | some f => .fault f
  | none => match consumedRead (s.ex h) b o.touch with
    | some r => if r.void then .bus r else .stall
    | none => o.run s h k b dst

/-- An instruction issues at the running context's position (R99-R101). DEDUCED: log 18, 21. -/
def issue (s : State) (h : HalfId) (k : BitVec 5) (wr : Writer) (b : Bank) (o : Op) (dst : Pos) (p : Pos) : State :=
  let e := s.ex h
  let joined := joins e b o
  let due : Bool := match e.arith with
    | none => false
    | some a => ((decide (3 ≤ a.groups) && !joined) || decide (6 ≤ a.slots) ||
        (decide (6 < a.slots + o.slots) && !(o.cls == .s && o.code == 0o71))) && !e.repu
  if due then (if closeBlocked s h then s else enterArith s h)
  else
    let go (s : State) : State :=
      settle s h k wr p o joined (fun s => runChecked o s h k (s.bank h k) dst) (runChecked o s h k (s.bank h k) dst)
    if o.isolated then
      match preClose s h with
      | .stop s' => s'
      | .go s' => if closeRoom s' h 1 then go s' else s
    else go s

/-- The sequential fetch past the end of PCC faults at slot 0 of the code word outside it (R91); the boot of a context
whose PCC is untagged faults likewise. -/
def fetchFault (s : State) (h : HalfId) (b : Bank) : Option FaultInfo := checkTarget s h b.pcc b.resume.addr.toNat

/-- A resumed instruction other than the one whose repeat was interrupted ignores it (R169). -/
def dropRepeat (s : State) (h : HalfId) (k : BitVec 5) (rep : Bool) : State :=
  if (s.bank h k).repActive && !rep then
    (s.onBank h k fun b => { b with repActive := false, repLeft := 0 }).onEx h fun e => { e with repu := false }
  else s

/-- An instruction of context k at its position: the fetch, the slot (R75) and any encoding fault, and the instruction. -/
def decodeIssue (s : State) (h : HalfId) (k : BitVec 5) (wr : Writer) (f : Form) (enc : BitVec 5 → Bank → Option FaultInfo)
    (o : Op) : State :=
  let b := s.bank h k
  let p := b.resume
  match fetchFault s h b with
  | some g => raise s h k g p
  | none =>
    if !f.fits p then raise s h k (illegal eEncoding (f.opcode.getD o.code)) p
    else match enc k b with
      | some g => raise s h k g p
      | none => issue s h k wr b o (f.next p) p

/-- An instruction of half h at its running context's position: what the boundary holds comes first, then the limits of
the window, and the instruction itself. `rep` marks an instruction that takes up a repeat; for any other the repeat is
ignored (R169). DESIGN CHOICE: log 15, 16. DEDUCED: log 22. -/
def attempt (s : State) (h : HalfId) (f : Form) (rep : Bool) (enc : BitVec 5 → Bank → Option FaultInfo) (o : Op) : State :=
  if !takesInstr s h then s
  else match boundary s h with
    | some s' => s'
    | none =>
      match (if windowFull (s.half h).win || prtForces s h || stepDue s h then preClose s h else .go s) with
      | .stop s' => s'
      | .go s =>
        match (s.ex h).running, s.writer h with
        | some k, some wr => decodeIssue (dropRepeat s h k rep) h k wr f enc o
        | _, _ => s

/-- The bank of the running context, as an instruction's operands are read before it issues. -/
def State.curBank (s : State) (h : HalfId) : Bank := match s.runBank h with
  | none => Bank.reset
  | some (_, b) => b

/-- No encoding fault of its own. -/
def noEnc (_ : BitVec 5) (_ : Bank) : Option FaultInfo := none

/-- A simple slot instruction. -/
def runSlot (s : State) (h : HalfId) (o : Op) : State := attempt s h simpleForm false noEnc o

/-- A warden-only selector in tenant mode is ILLEGAL (R86). -/
def wardenEnc (code : BitVec 6) (_ : BitVec 5) (b : Bank) : Option FaultInfo :=
  if stW b.status then none else some (illegal eWardenOnly code)

/-- An EXT operation. -/
def runExt (s : State) (h : HalfId) (o : Op) : State := attempt s h (selectorForm 0o75) false noEnc o

/-- A warden-only EXT operation. -/
def runWarden (s : State) (h : HalfId) (o : Op) : State := attempt s h (selectorForm 0o75) false (wardenEnc o.code) o

/-! ## Logged requests (R263-R265) -/

/-- The answer that an abandoned instruction left for its re-execution (R206). -/
def keptAnswer (s : State) (h : HalfId) (k : BitVec 5) (kind : LogKind) (req : Cell) : Option LogEntry :=
  (s.ex h).kept.find? fun e => e.ctx == k && e.at_ == (s.bank h k).resume && e.kind == kind && e.req == req

/-- A request for an input: answered by the replayed log or by an abandoned instruction's answer, or made and logged; none
when an isolated request differs from the log. -/
def request (s : State) (h : HalfId) (k : BitVec 5) (kind : LogKind) (req : Cell) (isolated : Bool)
    (live : State → State × Cell × Cell) : Option (State × Cell × Cell) :=
  match replayAsk (s.half h).win kind req k isolated with
  | .hit v0 v1 => some (answerInput s h kind req k isolated v0 v1, v0, v1)
  | .clash => none
  | .issue =>
    match keptAnswer s h k kind req with
    | some e => some (logInput (s.onEx h fun x => { x with kept := x.kept.erase e }) h kind req k isolated e.v0 e.v1, e.v0, e.v1)
    | none =>
      let r := live s
      some (logInput (r.1.onWin h fun w => replayPass w kind req k) h kind req k isolated r.2.1 r.2.2, r.2.1, r.2.2)

end Sys2Proof.Machine
end

