-- ==== Sys2Proof/Machine/Stack.lean ====
section
/-! DEFINITION. Slot instructions of class L on the stacks, the literals excepted (R102, R103) -/

namespace Sys2Proof.Machine

/-- An instruction that replaces the top cells: popped, pushed and touched counts, and the new cells, the last on top. -/
def pureOp (code : BitVec 6) (cls : PairClass) (pops pushes : Nat) (touch : List Nat) (f : Bank → List Cell) : Op :=
  ⟨code, cls, pops, pushes, touch, false, 1, fun s _ _ b dst => doneStack s b dst pops (f b)⟩

/-- NOP (R102). -/
def opNop : Op := pureOp 0o00 .l 0 0 [] fun _ => []
/-- DUP (R102). -/
def opDup : Op := pureOp 0o01 .l 1 2 [0] fun b => [b.at 0, b.at 0]
/-- DROP (R102). -/
def opDrop : Op := pureOp 0o02 .l 1 0 [0] fun _ => []
/-- SWAP (R102). -/
def opSwap : Op := pureOp 0o03 .l 2 2 [0, 1] fun b => [b.at 0, b.at 1]
/-- OVER, which touches only the cell it copies (R102, R190). -/
def opOver : Op := pureOp 0o04 .l 2 3 [1] fun b => [b.at 1, b.at 0, b.at 1]
/-- ROT (R102). -/
def opRot : Op := pureOp 0o05 .l 3 3 [0, 1, 2] fun b => [b.at 1, b.at 0, b.at 2]
/-- NIP (R102). -/
def opNip : Op := pureOp 0o06 .l 2 1 [0, 1] fun b => [b.at 0]
/-- TUCK (R102). -/
def opTuck : Op := pureOp 0o07 .l 2 3 [0, 1] fun b => [b.at 0, b.at 1, b.at 0]

/-- TOR's effect (R103). -/
def runTor (s : State) (_ : HalfId) (_ : BitVec 5) (b : Bank) (dst : Pos) : Res :=
  match returnFault b 0 1 with
  | some f => .fault f
  | none => doneBank s { b with ds := b.ds.drop 1, rs := TCell.plain (b.at 0) :: b.rs } dst

/-- TOR (R103). -/
def opTor : Op := ⟨0o37, .l, 1, 0, [0], false, 1, runTor⟩

/-- FROMR's effect: a tagged entry faults (R103). -/
def runFromr (s : State) (_ : HalfId) (_ : BitVec 5) (b : Bank) (dst : Pos) : Res :=
  match returnFault b 1 0, b.rs with
  | some f, _ => .fault f
  | none, [] => .stall
  | none, e :: t =>
    if e.tag then .fault (faultOf cCapability eTaggedEntry 0) else doneBank s { b with ds := e.val :: b.ds, rs := t } dst

/-- FROMR (R103). -/
def opFromr : Op := ⟨0o57, .l, 0, 1, [], false, 1, runFromr⟩

/-- NOP (R102). -/
def execNop (h : HalfId) (s : State) : Host.Outcome State Fault Refusal := .next (runSlot s h opNop)
/-- DUP (R102). -/
def execDup (h : HalfId) (s : State) : Host.Outcome State Fault Refusal := .next (runSlot s h opDup)
/-- DROP (R102). -/
def execDrop (h : HalfId) (s : State) : Host.Outcome State Fault Refusal := .next (runSlot s h opDrop)
/-- SWAP (R102). -/
def execSwap (h : HalfId) (s : State) : Host.Outcome State Fault Refusal := .next (runSlot s h opSwap)
/-- OVER (R102). -/
def execOver (h : HalfId) (s : State) : Host.Outcome State Fault Refusal := .next (runSlot s h opOver)
/-- ROT (R102). -/
def execRot (h : HalfId) (s : State) : Host.Outcome State Fault Refusal := .next (runSlot s h opRot)
/-- NIP (R102). -/
def execNip (h : HalfId) (s : State) : Host.Outcome State Fault Refusal := .next (runSlot s h opNip)
/-- TUCK (R102). -/
def execTuck (h : HalfId) (s : State) : Host.Outcome State Fault Refusal := .next (runSlot s h opTuck)
/-- TOR (R102). -/
def execTor (h : HalfId) (s : State) : Host.Outcome State Fault Refusal := .next (runSlot s h opTor)
/-- FROMR (R102). -/
def execFromr (h : HalfId) (s : State) : Host.Outcome State Fault Refusal := .next (runSlot s h opFromr)

end Sys2Proof.Machine
end

