-- ==== Sys2Proof/Machine/Arith.lean ====
section
/-! DEFINITION. Slot instructions of classes A and A-long on data (R44, R45, R102-R113) -/

namespace Sys2Proof.Machine

/-- A result with the carry, where it changes, and the overflow it detects (R104, R105). -/
structure AluRes where
  val : Cell
  carry : Bool
  ovf : Bool

/-- The status after an arithmetic result: V is sticky (R104, R105). -/
def aluStatus (c : Cell) (r : AluRes) : Cell := withCV c r.carry (stV c || r.ovf)

/-- ARITH of an overflow, where vtrap asks for it (R106). -/
def overArith (b : Bank) (ovf : Bool) : Option Bool := if ovf && b.vtrap then some false else none

/-- An instruction that sets C and V and may raise ARITH (R104-R107). -/
def runAlu (pops : Nat) (f : Bank → AluRes) (s : State) (_ : HalfId) (_ : BitVec 5) (b : Bank) (dst : Pos) : Res :=
  let r := f b
  .done { doneOf s { b with ds := r.val :: b.ds.drop pops, status := aluStatus b.status r } dst with
          arith := overArith b r.ovf }

/-- An arithmetic instruction. -/
def aluOp (code : BitVec 6) (pops : Nat) (touch : List Nat) (f : Bank → AluRes) : Op :=
  ⟨code, .a, pops, 1, touch, false, 1, runAlu pops f⟩

/-- ADD (R104, R105). -/
def opAdd : Op := aluOp 0o10 2 [0, 1] fun b =>
  ⟨addCells (b.at 1) (b.at 0) false, addCarry (b.at 1) (b.at 0) false, addOverflow (b.at 1) (b.at 0) false⟩
/-- SUB (R104, R105). -/
def opSub : Op := aluOp 0o11 2 [0, 1] fun b =>
  ⟨b.at 1 - b.at 0, subBorrow (b.at 1) (b.at 0), subOverflow (b.at 1) (b.at 0)⟩
/-- NEG (R104, R105). -/
def opNeg : Op := aluOp 0o16 1 [0] fun b => ⟨-(b.at 0), b.at 0 != 0, b.at 0 == minCell⟩
/-- ADDC (R104, R105). -/
def opAddc : Op := aluOp 0o17 2 [0, 1] fun b =>
  ⟨addCells (b.at 1) (b.at 0) (stC b.status), addCarry (b.at 1) (b.at 0) (stC b.status),
   addOverflow (b.at 1) (b.at 0) (stC b.status)⟩

/-- An instruction of two operands without status. -/
def binOp (code : BitVec 6) (cls : PairClass) (f : Cell → Cell → Cell) : Op :=
  pureOp code cls 2 1 [0, 1] fun b => [f (b.at 1) (b.at 0)]

/-- An instruction of one operand without status. -/
def unOp (code : BitVec 6) (cls : PairClass) (f : Cell → Cell) : Op := pureOp code cls 1 1 [0] fun b => [f (b.at 0)]

/-- AND (R102). -/
def opAnd : Op := binOp 0o12 .aStar fun x y => x &&& y
/-- OR (R102). -/
def opOr : Op := binOp 0o13 .aStar fun x y => x ||| y
/-- XOR (R102). -/
def opXor : Op := binOp 0o14 .aStar fun x y => x ^^^ y
/-- NOT (R102). -/
def opNot : Op := unOp 0o15 .aStar fun x => ~~~x
/-- SHL (R109). -/
def opShl : Op := binOp 0o20 .a shlCell
/-- SHR (R109). -/
def opShr : Op := binOp 0o21 .a shrCell
/-- SAR (R109). -/
def opSar : Op := binOp 0o22 .a sarCell
/-- ROL (R109). -/
def opRol : Op := binOp 0o23 .a rolCell
/-- EQ (R110). -/
def opEq : Op := binOp 0o24 .aStar fun x y => flagCell (x == y)
/-- LT (R110). -/
def opLt : Op := binOp 0o25 .a fun x y => flagCell (x.slt y)
/-- ULT (R110). -/
def opUlt : Op := binOp 0o26 .a fun x y => flagCell (x.ult y)
/-- ZEQ (R110). -/
def opZeq : Op := unOp 0o27 .aStar fun x => flagCell (x == 0)

/-- MUL: low cell, then high (R111). -/
def opMul : Op := pureOp 0o30 .aLong 2 2 [0, 1] fun b =>
  let p := mulWide (b.at 1) (b.at 0)
  [fld p 0 36, fld p 36 36]

/-- DIVM's effect (R105, R112). -/
def runDivm (s : State) (_ : HalfId) (_ : BitVec 5) (b : Bank) (dst : Pos) : Res :=
  let n := b.at 1
  let d := b.at 0
  let r := divSigned n d
  let ovf := divOverflow n d
  .done { doneOf s { b with ds := r.2 :: r.1 :: b.ds.drop 2, status := withCV b.status (stC b.status) (stV b.status || ovf) } dst with
          arith := if d = 0 then some true else overArith b ovf }

/-- DIVM (R112). -/
def opDivm : Op := ⟨0o31, .aLong, 2, 2, [0, 1], false, 1, runDivm⟩

/-- UDIVM's effect (R112). -/
def runUdivm (s : State) (_ : HalfId) (_ : BitVec 5) (b : Bank) (dst : Pos) : Res :=
  let d := b.at 0
  let r := divUnsigned (b.at 1) d
  .done { doneOf s { b with ds := r.2 :: r.1 :: b.ds.drop 2 } dst with arith := if d = 0 then some true else none }

/-- UDIVM (R112). -/
def opUdivm : Op := ⟨0o32, .aLong, 2, 2, [0, 1], false, 1, runUdivm⟩

/-- Three 12-bit fields in a cell, the first operand in field 2 (R43, R45). -/
def pack12 (x y z : Cell) : Cell := atBits (fld x 0 12) 24 ||| atBits (fld y 0 12) 12 ||| atBits (fld z 0 12) 0

/-- Field i of a cell in triple-12 packing, zero-extended (R43, R45). -/
def field12 (c : Cell) (i : Nat) : Cell := atBits (fld c (12 * i) 12) 0

/-- PK12 (R45). -/
def opPk12 : Op := pureOp 0o33 .a 3 1 [0, 1, 2] fun b => [pack12 (b.at 2) (b.at 1) (b.at 0)]
/-- UP12 (R45). -/
def opUp12 : Op := pureOp 0o34 .a 1 3 [0] fun b => [field12 (b.at 0) 2, field12 (b.at 0) 1, field12 (b.at 0) 0]

/-- The octet number that an operand names (R44). -/
def octetNo (n : Cell) : Nat := (fld n 0 2).toNat

/-- A cell with octet n replaced (R44). -/
def putOctet (c x : Cell) (n : Nat) : Cell :=
  (c &&& ~~~(atBits (BitVec.allOnes 8) (8 * n))) ||| atBits (fld x 0 8) (8 * n)

/-- OGET (R44). -/
def opOget : Op := binOp 0o35 .a fun x n => atBits (octetOf x (octetNo n)) 0
/-- OPUT (R44). -/
def opOput : Op := pureOp 0o36 .a 3 1 [0, 1, 2] fun b => [putOctet (b.at 2) (b.at 1) (octetNo (b.at 0))]

/-- ADD (R102). -/
def execAdd (h : HalfId) (s : State) : Host.Outcome State Fault Refusal := .next (runSlot s h opAdd)
/-- SUB (R102). -/
def execSub (h : HalfId) (s : State) : Host.Outcome State Fault Refusal := .next (runSlot s h opSub)
/-- AND (R102). -/
def execAnd (h : HalfId) (s : State) : Host.Outcome State Fault Refusal := .next (runSlot s h opAnd)
/-- OR (R102). -/
def execOr (h : HalfId) (s : State) : Host.Outcome State Fault Refusal := .next (runSlot s h opOr)
/-- XOR (R102). -/
def execXor (h : HalfId) (s : State) : Host.Outcome State Fault Refusal := .next (runSlot s h opXor)
/-- NOT (R102). -/
def execNot (h : HalfId) (s : State) : Host.Outcome State Fault Refusal := .next (runSlot s h opNot)
/-- NEG (R102). -/
def execNeg (h : HalfId) (s : State) : Host.Outcome State Fault Refusal := .next (runSlot s h opNeg)
/-- ADDC (R102). -/
def execAddc (h : HalfId) (s : State) : Host.Outcome State Fault Refusal := .next (runSlot s h opAddc)
/-- SHL (R102). -/
def execShl (h : HalfId) (s : State) : Host.Outcome State Fault Refusal := .next (runSlot s h opShl)
/-- SHR (R102). -/
def execShr (h : HalfId) (s : State) : Host.Outcome State Fault Refusal := .next (runSlot s h opShr)
/-- SAR (R102). -/
def execSar (h : HalfId) (s : State) : Host.Outcome State Fault Refusal := .next (runSlot s h opSar)
/-- ROL (R102). -/
def execRol (h : HalfId) (s : State) : Host.Outcome State Fault Refusal := .next (runSlot s h opRol)
/-- EQ (R102). -/
def execEq (h : HalfId) (s : State) : Host.Outcome State Fault Refusal := .next (runSlot s h opEq)
/-- LT (R102). -/
def execLt (h : HalfId) (s : State) : Host.Outcome State Fault Refusal := .next (runSlot s h opLt)
/-- ULT (R102). -/
def execUlt (h : HalfId) (s : State) : Host.Outcome State Fault Refusal := .next (runSlot s h opUlt)
/-- ZEQ (R102). -/
def execZeq (h : HalfId) (s : State) : Host.Outcome State Fault Refusal := .next (runSlot s h opZeq)
/-- MUL (R102). -/
def execMul (h : HalfId) (s : State) : Host.Outcome State Fault Refusal := .next (runSlot s h opMul)
/-- DIVM (R102). -/
def execDivm (h : HalfId) (s : State) : Host.Outcome State Fault Refusal := .next (runSlot s h opDivm)
/-- UDIVM (R102). -/
def execUdivm (h : HalfId) (s : State) : Host.Outcome State Fault Refusal := .next (runSlot s h opUdivm)
/-- PK12 (R102). -/
def execPk12 (h : HalfId) (s : State) : Host.Outcome State Fault Refusal := .next (runSlot s h opPk12)
/-- UP12 (R102). -/
def execUp12 (h : HalfId) (s : State) : Host.Outcome State Fault Refusal := .next (runSlot s h opUp12)
/-- OGET (R102). -/
def execOget (h : HalfId) (s : State) : Host.Outcome State Fault Refusal := .next (runSlot s h opOget)
/-- OPUT (R102). -/
def execOput (h : HalfId) (s : State) : Host.Outcome State Fault Refusal := .next (runSlot s h opOput)

end Sys2Proof.Machine
end

