-- ==== Sys2Proof/Machine/LoadStore.lean ====
section
/-! DEFINITION. Slot instructions on memory and capability registers (R57, R60, R114-R120, R186, R191, R197). -/

namespace Sys2Proof.Machine

/-! ## Reads of lanes (R191, R197, R290, R335) -/

/-- A read goes to the hierarchy of its home, over the span where that is far; the retained cells answer at once, through the
half's commons port (R62). -/
def startRead (s : State) (h : HalfId) (k : BitVec 5) (o : OutRead) : State :=
  match regionOf o.addr with
  | .retained => grantRetained (s.onEx h fun e => { e with reads := e.reads ++ [o] }) h
  | _ =>
    if homeHalf h o.addr = h then
      (s.onEx h fun e => { e with reads := e.reads ++ [o] }).onMem h fun m =>
        { m with arb := m.arb ++ [⟨.laneRead, bankOf o.addr, gctx h k, 0, .laneRead, false⟩] }
    else
      let n := (s.half h).spn.nextId
      (s.onEx h fun e => { e with reads := e.reads ++ [{ o with remote := some n }] }).onSpn h fun p =>
        { p with out := p.out ++ [.read o.addr o.tenant n], nextId := n + 1 }

/-- A load of one cell in place of the top cell: forwarded from the store buffer, or outstanding (R191, R197, R198). -/
def loadTop (s : State) (h : HalfId) (k : BitVec 5) (b : Bank) (dst : Pos) (a : Addr) (t : BitVec 10) (reg : BitVec 3)
    (info : BitVec 24) : Res :=
  match forwarded (s.half h).win a with
  | some c => doneStack (sealBuffer s h) b dst 1 [c.val]
  | none =>
    let o : OutRead := ⟨b.ds.length + b.sd.toNat - 1, a, t, false, TCell.zero, false, false, false, none, b.resume, reg, info⟩
    doneStack (startRead (sealBuffer s h) h k o) b dst 1 [0]

/-- How read number i of an instruction reads. -/
def outcomeAt (errs : List (Nat × ReadOutcome)) (i : Nat) : ReadOutcome :=
  ((errs.find? fun e => e.1 == i).map fun e => e.2).getD .clean

/-- A read waits: of the retained cells while the half's commons port is lost, of an NVM line without an entry while its bank
is programming (R62, R328). -/
def readBlocked (s : State) (h : HalfId) (a : Addr) : Bool :=
  (regionOf a == .retained && (s.half h).tal.portLost) || ((forwarded (s.half h).win a).isNone && readWaits s a)

/-- One of the reads of `n` cells waits. -/
def readsBlocked (s : State) (h : HalfId) (a : Addr) (n : Nat) : Bool :=
  (List.range n).any fun i => readBlocked s h (a + BitVec.ofNat 24 i)

/-- A cell read at once: the store buffer first, then its home (R197); none when the read fails its checks. -/
def fetchCell (s : State) (h : HalfId) (a : Addr) (t : BitVec 10) (r : ReadOutcome) : State × Option TCell :=
  match forwarded (s.half h).win a with
  | some c => (s, some c)
  | none => match homeRead s a t r with
    | (s, .ok c) => (s, some c)
    | (s, _) => (s, none)

/-! ## LDn and STn (R114, R115) -/

/-- LDn's effect (R114). -/
def runLdn (n : BitVec 2) (s : State) (h : HalfId) (k : BitVec 5) (b : Bank) (dst : Pos) : Res :=
  let c := b.cap n
  match checkData s h c ⟨n.setWidth 3, spData, pLD, false, 1⟩ (b.at 0).toNat false with
  | .error f => .fault f
  | .ok a => loadTop s h k b dst a c.tenant (n.setWidth 3) a

/-- LDn (R114). -/
def opLdn (n : BitVec 2) : Op := ⟨0o40 ||| n.setWidth 6, .m, 1, 1, [0], false, 1, runLdn n⟩

/-- A store to NVM is refused in EARLY and READING-ROOM (R115). -/
def storeLocked (s : State) (h : HalfId) (a : Addr) : Bool := (regionOf a).isNvm && s.lockedMode h

/-- The BUS fault of a refused store (R115). -/
def lockedFault (reg : BitVec 3) (info : BitVec 24) : FaultInfo := ⟨cBus, eModeLocked, reg, info, false⟩

/-- STn's effect (R114, R115). -/
def runStn (n : BitVec 2) (s : State) (h : HalfId) (_ : BitVec 5) (b : Bank) (dst : Pos) : Res :=
  let c := b.cap n
  match checkData s h c ⟨n.setWidth 3, spData, pST, false, 1⟩ (b.at 0).toNat false with
  | .error f => .fault f
  | .ok a =>
    if storeLocked s h a then .fault (lockedFault (n.setWidth 3) a)
    else .done { doneOf s { b with ds := b.ds.drop 2 } dst with stores := [⟨.data a c.tenant, b.at 1, false, .single⟩] }

/-- STn (R114). -/
def opStn (n : BitVec 2) : Op := ⟨0o44 ||| n.setWidth 6, .m, 2, 0, [0, 1], false, 1, runStn n⟩

/-! ## CLD and CST (R50, R56, R116-R118) -/

/-- Capability register n of an operand; none beyond 3 (R116). -/
def capNo (n : Cell) : Option (BitVec 2) := if n.toNat < 4 then some (fld n 0 2) else none

/-- CLD from an address that has passed its checks (R117): with a read that fails Cn keeps its value and BUS follows. -/
def cldFrom (errs : List (Nat × ReadOutcome)) (s : State) (h : HalfId) (b : Bank) (dst : Pos) (n : BitVec 2) (a : Addr) : Res :=
  let r0 := fetchCell (perfAccess (sealBuffer s h) a true) h a b.c0.tenant (outcomeAt errs 0)
  let r1 := fetchCell r0.1 h (a + 1) b.c0.tenant (outcomeAt errs 1)
  let popped := { b with ds := b.ds.drop 2 }
  match r0.2, r1.2 with
  | some x0, some x1 =>
    if x0.tag && x1.tag then doneBank r1.1 (popped.setCap n (capOf true x0.val x1.val)) dst
    else .faultIn r1.1 ⟨cCapability, eUntagged, 0, a, false⟩
  | _, _ => .done { doneOf r1.1 popped dst with after := .fault ⟨cBus, readFailStatus a, 0, a, false⟩ true }

/-- CLD's effect (R117). -/
def runCld (errs : List (Nat × ReadOutcome)) (s : State) (h : HalfId) (_ : BitVec 5) (b : Bank) (dst : Pos) : Res :=
  match capNo (b.at 0) with
  | none => .fault (illegal eOperand 0o50)
  | some n =>
    match checkData s h b.c0 ⟨0, spData, pCL, false, 2⟩ (b.at 1).toNat (bit (b.at 1) 0) with
    | .error f => .fault f
    | .ok a => if readsBlocked s h a 2 then .stall else cldFrom errs s h b dst n a

/-- CLD (R117). -/
def opCld (errs : List (Nat × ReadOutcome)) : Op := ⟨0o50, .m, 2, 0, [0, 1], false, 1, runCld errs⟩

/-- The two linked cells of a tagged pair at an address (R49, R194). -/
def pairStores (a : Addr) (t : BitVec 10) (c : Cap) : List StoreCell :=
  [⟨.data a t, c.cell0, true, .first⟩, ⟨.data (a + 1) t, c.cell1, true, .second⟩]

/-- CST of Cn to an address that has passed its checks (R56, R115, R118). -/
def cstTo (s : State) (h : HalfId) (b : Bank) (dst : Pos) (n : BitVec 2) (a : Addr) : Res :=
  let c := b.cap n
  if !c.tag then .fault ⟨cCapability, eUntagged, n.setWidth 3, a, false⟩
  else if !globalOk c b.c0.tenant then .fault ⟨cCapability, eGlobal, n.setWidth 3, a, false⟩
  else if storeLocked s h a then .fault (lockedFault 0 a)
  else .done { doneOf s { b with ds := b.ds.drop 2 } dst with stores := pairStores a b.c0.tenant c }

/-- CST's effect (R118). -/
def runCst (s : State) (h : HalfId) (_ : BitVec 5) (b : Bank) (dst : Pos) : Res :=
  match capNo (b.at 0) with
  | none => .fault (illegal eOperand 0o51)
  | some n =>
    match checkData s h b.c0 ⟨0, spData, pCS, false, 2⟩ (b.at 1).toNat (bit (b.at 1) 0) with
    | .error f => .fault f
    | .ok a => cstTo s h b dst n a

/-- CST (R118). -/
def opCst : Op := ⟨0o51, .m, 2, 0, [0, 1], false, 1, runCst⟩

/-! ## CNAR and CGET (R57, R60, R116, R119) -/

/-- CNAR's effect (R57, R119). -/
def runCnar (s : State) (_ : HalfId) (_ : BitVec 5) (b : Bank) (dst : Pos) : Res :=
  match capNo (b.at 0) with
  | none => .fault (illegal eOperand 0o52)
  | some n => match narrow n (b.cap n) (b.at 3) (b.at 2) (b.at 1) with
    | .error f => .fault f
    | .ok c => doneBank s ({ b with ds := b.ds.drop 4 }.setCap n c) dst

/-- CNAR (R57). -/
def opCnar : Op := ⟨0o52, .a, 4, 0, [0, 1, 2, 3], false, 1, runCnar⟩

/-- The register that CGET's operand names: C0-C3, PCC, SPD, SPT (R116). -/
def Bank.anyCap (b : Bank) (n : Cell) : Option Cap :=
  if n.toNat < 4 then some (b.cap (fld n 0 2)) else if n = 4 then some b.pcc else if n = 5 then some b.spd
  else if n = 6 then some b.spt else none

/-- CGET's effect (R60). -/
def runCget (s : State) (h : HalfId) (_ : BitVec 5) (b : Bank) (dst : Pos) : Res :=
  match b.anyCap (b.at 1) with
  | none => .fault (illegal eOperand 0o53)
  | some c => match capField s h c (b.at 0) with
    | none => .fault (illegal eOperand 0o53)
    | some x => doneStack s b dst 2 [x]

/-- CGET (R60). -/
def opCget : Op := ⟨0o53, .a, 2, 1, [0, 1], false, 1, runCget⟩

/-! ## IFETCH (R120, R186) -/

/-- IFETCH's effect: the boot ROM answers at once; other code words are loads of their data alias (R64, R120, R186). -/
def runIfetch (s : State) (h : HalfId) (k : BitVec 5) (b : Bank) (dst : Pos) : Res :=
  match checkCode s h b.pcc codeLoad (b.at 0).toNat with
  | .error f => .fault f
  | .ok a =>
    if 0o77600000 ≤ a.toNat then doneStack (sealBuffer s h) b dst 1 [Config.bootRom a.toNat]
    else loadTop s h k b dst (codeData a) b.pcc.tenant 4 a

/-- IFETCH (R120). -/
def opIfetch : Op := ⟨0o56, .m, 1, 1, [0], false, 1, runIfetch⟩

/-- LDn (R114). -/
def execLdn (h : HalfId) (n : BitVec 2) (s : State) : Host.Outcome State Fault Refusal := .next (runSlot s h (opLdn n))
/-- STn (R114). -/
def execStn (h : HalfId) (n : BitVec 2) (s : State) : Host.Outcome State Fault Refusal := .next (runSlot s h (opStn n))
/-- CLD (R117). -/
def execCld (h : Fetching) (s : State) : Host.Outcome State Fault Refusal := .next (runSlot s h.half (opCld h.errs))
/-- CST (R118). -/
def execCst (h : HalfId) (s : State) : Host.Outcome State Fault Refusal := .next (runSlot s h opCst)
/-- CNAR (R57). -/
def execCnar (h : HalfId) (s : State) : Host.Outcome State Fault Refusal := .next (runSlot s h opCnar)
/-- CGET (R60). -/
def execCget (h : HalfId) (s : State) : Host.Outcome State Fault Refusal := .next (runSlot s h opCget)
/-- IFETCH (R120). -/
def execIfetch (h : HalfId) (s : State) : Host.Outcome State Fault Refusal := .next (runSlot s h opIfetch)

end Sys2Proof.Machine
end

