-- ==== Sys2Proof/Machine/Branch.lean ====
section
/-! DEFINITION. Long forms and transfers: JMP, BZ, BNZ, CALL, CALLI, RET, LIT, LITH and LOOP (R74-R85, R124-R127,
R163-R173). -/

namespace Sys2Proof.Machine

/-! ## Targets (R91) -/

/-- The check of a transfer to an integer target; one below 0 is below the base (R83, R91). -/
def checkBranch (s : State) (h : HalfId) (pcc : Cap) (t : Int) : Option FaultInfo :=
  if t < 0 then
    let st := capStatus pcc (s.genOk h pcc) fetchAccess 0 false
    some { accessFault pcc fetchAccess 0 (if st = 0 then eBounds else st) with info := BitVec.ofInt 24 t }
  else checkTarget s h pcc t.toNat

/-- A taken transfer to slot 0 of a code word (R90). -/
def transfer (s : State) (b : Bank) (t : Addr) : Res := .done { doneOf s b ⟨t, 0⟩ with taken := true }

/-! ## JMP, BZ and BNZ (R83, R124, R172) -/

/-- JMP in slot 0 needs slot 1 zero (R83). -/
def jmpEnc (slot1 : BitVec 6) (_ : BitVec 5) (b : Bank) : Option FaultInfo :=
  if b.resume.slot = 0 ∧ slot1 ≠ 0 then some (illegal eEncoding 0o60) else none

/-- JMP's effect (R83, R124). -/
def runJmp (t : Addr) (s : State) (h : HalfId) (_ : BitVec 5) (b : Bank) (_ : Pos) : Res :=
  match checkTarget s h b.pcc t.toNat with
  | some f => .fault f
  | none => transfer s (afterJump b t) t

/-- JMP (R83). -/
def opJmp (t : Addr) : Op := ⟨0o60, .b, 0, 0, [], false, 1, runJmp t⟩

/-- JMP's form: slots 0 and 1 (R74). -/
def jmpForm : Form := ⟨fun p => decide (p.slot.toNat ≤ 1), nextWord, none⟩

/-- The effect of BZ (`zero`) and BNZ (R83, R124). -/
def runBranch (zero : Bool) (f : BitVec 30) (s : State) (h : HalfId) (_ : BitVec 5) (b : Bank) (dst : Pos) : Res :=
  let popped := { b with ds := b.ds.drop 1 }
  if (b.at 0 == 0) != zero then doneBank s popped dst
  else
    let t := branchTarget b.resume f
    match checkBranch s h b.pcc t with
    | some g => .fault g
    | none => transfer s (afterJump popped (BitVec.ofInt 24 t)) (BitVec.ofInt 24 t)

/-- BZ and BNZ (R83). -/
def opBranch (code : BitVec 6) (zero : Bool) (f : BitVec 30) : Op := ⟨code, .b, 1, 0, [0], false, 1, runBranch zero f⟩

/-! ## CALL and CALLI (R80, R81, R125, R164, R165) -/

/-- A save mask with bit 5 set is an encoding fault (R80). -/
def maskEnc (code : BitVec 6) (mask : BitVec 6) (_ : BitVec 5) (_ : Bank) : Option FaultInfo :=
  if bit mask 5 then some (illegal eEncoding code) else none

/-- The save mask and return position pushed, and the target entered (R125, R164, R165): `b` has its operands popped. -/
def enterCall (s : State) (h : HalfId) (b : Bank) (m : BitVec 5) (target : Nat) (ret : Pos) : Res :=
  match returnFault b 0 (maskEntries m + 1) with
  | some f => .fault f
  | none => match checkTarget s h b.pcc target with
    | some f => .fault f
    | none =>
      if maskCaps m && decide (b.depthD % 2 = 1) then .fault (faultOf cMisalign eAlign (BitVec.ofNat 24 target))
      else transfer s { b with rs := TCell.plain (returnEntry m ret) :: ((savedEntries b m).reverse ++ b.rs) }
        (BitVec.ofNat 24 target)

/-- CALL (R83, R125). -/
def opCall (mask : BitVec 6) (t : Addr) : Op :=
  ⟨0o63, .b, 0, 0, [], false, 1, fun s h _ b _ => enterCall s h b (fld mask 0 5) t.toNat (nextWord b.resume)⟩

/-- CALL's form: slot 0 (R74). -/
def callForm : Form := ⟨fun p => decide (p.slot = 0), nextWord, none⟩

/-- CALLI: it returns to the slot after its mask (R81, R125). -/
def opCalli (mask : BitVec 6) : Op :=
  ⟨0o64, .b, 1, 0, [0], false, 1,
   fun s h _ b _ => enterCall s h { b with ds := b.ds.drop 1 } (fld mask 0 5) (b.at 0).toNat (slotsOn b.resume 2)⟩

/-- CALLI's form: slots 0-4 (R74). -/
def calliForm : Form := ⟨fun p => roomFor p 1, fun p => slotsOn p 2, none⟩

/-! ## RET (R92, R126) -/

/-- The return entry's slot field is 6 or 7 (R92). -/
def badSlot (e : Cell) : Bool := decide (6 ≤ (fld e 24 3).toNat)

/-- The depth, from the top, of the second cell of Cn among the items saved under a mask (R164). -/
def savedDepth (m : BitVec 5) (n : Nat) : Nat :=
  1 + (if bit m 0 then 1 else 0) + 2 * countTrue ((List.range 4).map fun j => decide (n < j) && bit m (j + 1))

/-- The entry at a depth of the return-stack cache, 0 the top. -/
def Bank.ret (b : Bank) (i : Nat) : TCell := b.rs.getD i TCell.zero

/-- A saved pair carries one tag only (R126). -/
def mixedPair (b : Bank) (m : BitVec 5) (n : Nat) : Bool :=
  bit m (n + 1) && ((b.ret (savedDepth m n)).tag != (b.ret (savedDepth m n + 1)).tag)

/-- Capability register Cn as a RET restores it. -/
def restoredCap (b : Bank) (m : BitVec 5) (n : Nat) (c : Cap) : Cap :=
  if bit m (n + 1) then
    capOf (b.ret (savedDepth m n + 1)).tag (b.ret (savedDepth m n + 1)).val (b.ret (savedDepth m n)).val
  else c

/-- The bank after RET has popped its entry and saved items (R126). -/
def popSaved (b : Bank) (m : BitVec 5) : Bank :=
  { b with
    c0 := restoredCap b m 0 b.c0
    c1 := restoredCap b m 1 b.c1
    c2 := restoredCap b m 2 b.c2
    c3 := restoredCap b m 3 b.c3
    x := if bit m 0 then (b.ret 1).val else b.x
    rs := b.rs.drop (maskEntries m + 1) }

/-- RET's effect (R126). -/
def runRet (s : State) (h : HalfId) (_ : BitVec 5) (b : Bank) (_ : Pos) : Res :=
  match returnFault b 1 0 with
  | some f => .fault f
  | none =>
    let e := (b.ret 0).val
    let m := entryMask e
    if bit e 32 || badSlot e then .fault (illegal eEncoding 0o65)
    else match returnFault b (maskEntries m + 1) 0 with
      | some f => .fault f
      | none => match checkTarget s h b.pcc (entryPos e).addr.toNat with
        | some f => .fault f
        | none => match (List.range 4).find? (mixedPair b m) with
          | some n => .fault ⟨cCapability, eTaggedEntry, BitVec.ofNat 3 n, 0, false⟩
          | none => .done { doneOf s (afterReturn (popSaved b m)) (entryPos e) with taken := true }

/-- RET (R126). -/
def opRet : Op := ⟨0o65, .b, 0, 0, [], false, 1, runRet⟩

/-! ## LIT and LITH (R83, R85, R172) -/

/-- The innermost level whose last code word holds a LIT36 ends there at this depth (R172). -/
def litAtLoopEnd (b : Bank) : Bool :=
  [b.loop0, b.loop1, b.loop2].take b.levels |>.any fun l =>
    l.ldp.toNat == b.depthD && fld l.le 0 24 == b.resume.addr

/-- LIT's effect (R83, R85). -/
def runLit (f : Cell) (s : State) (h : HalfId) (_ : BitVec 5) (b : Bank) (dst : Pos) : Res :=
  if b.resume.slot ≠ 5 then doneStack s b dst 0 [litField b.resume f]
  else if litAtLoopEnd b then .fault (illegal eOperand 0o66)
  else match checkTarget s h b.pcc (b.resume.addr.toNat + 1) with
    | some g => .fault g
    | none => doneStack s b dst 0 [litField b.resume f]

/-- LIT (R83). -/
def opLit (f : Cell) : Op := ⟨0o66, .l, 0, 1, [], false, 1, runLit f⟩

/-- LIT's form: any slot; in slot 5 the literal is the whole next code word (R74). -/
def litForm : Form := ⟨fun _ => true, fun p => if p.slot = 5 then ⟨p.addr + 2, 0⟩ else nextWord p, none⟩

/-- LITH's effect: the width of its field depends on its slot (R83). -/
def runLith (f : BitVec 30) (s : State) (_ : HalfId) (_ : BitVec 5) (b : Bank) (dst : Pos) : Res :=
  doneStack s b dst 1 [(b.at 0 <<< fieldWidth b.resume) ||| unsignedField b.resume f]

/-- LITH (R83). -/
def opLith (f : BitVec 30) : Op := ⟨0o67, .l, 1, 1, [0], false, 1, runLith f⟩

/-! ## LOOP (R84, R170, R173) -/

/-- LOOP's encoding faults: a body of length 0, a context that is not privileged (R83, R84). -/
def loopEnc (len : BitVec 6) (k : BitVec 5) (_ : Bank) : Option FaultInfo :=
  if len = 0 ∨ 8 ≤ k.toNat then some (illegal eEncoding 0o72) else none

/-- A new innermost level (R170). -/
def Bank.pushLevel (b : Bank) (l : LoopReg) : Bank :=
  let b := { b with levels := b.levels + 1 }
  b.setLevel l

/-- The body would leave the enclosing body at the same depth (R173). -/
def loopOutside (b : Bank) (last : Nat) : Bool :=
  decide (0 < b.levels) && b.level.ldp.toNat == b.depthD && decide (b.level.le.toNat < last)

/-- LOOP's effect (R170). -/
def runLoop (len : BitVec 6) (s : State) (h : HalfId) (_ : BitVec 5) (b : Bank) (dst : Pos) : Res :=
  let a := b.resume.addr.toNat
  let popped := { b with ds := b.ds.drop 1 }
  if 2 ^ 24 ≤ (b.at 0).toNat ∨ b.levels = 3 ∨ loopOutside b (a + len.toNat) = true then .fault (illegal eOperand 0o72)
  else if b.at 0 = 0 then
    match checkTarget s h b.pcc (a + len.toNat + 1) with
    | some f => .fault f
    | none => transfer s popped (BitVec.ofNat 24 (a + len.toNat + 1))
  else doneBank s (popped.pushLevel ⟨cellOf (a + 1), cellOf (a + len.toNat), b.at 0, cellOf b.depthD⟩) dst

/-- LOOP (R170). -/
def opLoop (len : BitVec 6) : Op := ⟨0o72, .s, 1, 0, [0], false, 1, runLoop len⟩

/-! ## The commands -/

/-- JMP (R83). -/
def execJmp (h : HalfId) (slot1 : BitVec 6) (target : Addr) (s : State) : Host.Outcome State Fault Refusal :=
  .next (attempt s h jmpForm false (jmpEnc slot1) (opJmp target))
/-- BZ (R83). -/
def execBz (h : HalfId) (field : BitVec 30) (s : State) : Host.Outcome State Fault Refusal :=
  .next (attempt s h longForm false noEnc (opBranch 0o61 true field))
/-- BNZ (R83). -/
def execBnz (h : HalfId) (field : BitVec 30) (s : State) : Host.Outcome State Fault Refusal :=
  .next (attempt s h longForm false noEnc (opBranch 0o62 false field))
/-- CALL (R125). DEDUCED: log 19. -/
def execCall (h : HalfId) (mask : BitVec 6) (target : Addr) (s : State) : Host.Outcome State Fault Refusal :=
  .next (attempt s h callForm false (maskEnc 0o63 mask) (opCall mask target))
/-- CALLI (R81). -/
def execCalli (h : HalfId) (mask : BitVec 6) (s : State) : Host.Outcome State Fault Refusal :=
  .next (attempt s h calliForm false (maskEnc 0o64 mask) (opCalli mask))
/-- RET (R126). DEDUCED: log 19. -/
def execRet (h : HalfId) (s : State) : Host.Outcome State Fault Refusal := .next (runSlot s h opRet)
/-- LIT (R83). -/
def execLit (h : HalfId) (field : Cell) (s : State) : Host.Outcome State Fault Refusal :=
  .next (attempt s h litForm false noEnc (opLit field))
/-- LITH (R83). -/
def execLith (h : HalfId) (field : BitVec 30) (s : State) : Host.Outcome State Fault Refusal := .next (attempt s h longForm false noEnc (opLith field))
/-- LOOP (R170). DEDUCED: log 19. -/
def execLoop (h : HalfId) (len : BitVec 6) (s : State) : Host.Outcome State Fault Refusal :=
  .next (attempt s h longForm false (loopEnc len) (opLoop len))

end Sys2Proof.Machine
end

