-- ==== Sys2Proof/Machine/Ext.lean ====
section
/-! DEFINITION. EXT operations on the stacks, the status, capabilities, leases, time and generations (R134-R148,
R212-R219). The context image is in Context. -/

namespace Sys2Proof.Machine

/-! ## Cells and X (R135) -/

/-- An EXT operation that replaces the top cells. -/
def extOp (sel : BitVec 6) (pops pushes : Nat) (touch : List Nat) (f : Bank → List Cell) : Op :=
  pureOp sel .s pops pushes touch f

/-- CLZ (R135). -/
def opClz : Op := extOp 0o00 1 1 [0] fun b => [cellOf (clzCell (b.at 0))]
/-- POPC (R135). -/
def opPopc : Op := extOp 0o01 1 1 [0] fun b => [cellOf (popCell (b.at 0))]
/-- XCH (R135). -/
def opXch : Op := ⟨0o02, .s, 1, 1, [0], false, 1, fun s _ _ b dst => doneStack s { b with x := b.at 0 } dst 1 [b.x]⟩
/-- XGET (R135). -/
def opXget : Op := extOp 0o03 0 1 [] fun b => [b.x]
/-- XPUT (R135). -/
def opXput : Op := ⟨0o04, .s, 1, 0, [0], false, 1, fun s _ _ b dst => doneStack s { b with x := b.at 0 } dst 1 []⟩
/-- DEPTH (R138). -/
def opDepth : Op := extOp 0o14 0 1 [] fun b => [cellOf b.ds.length + b.sd]
/-- RDEPTH (R138). -/
def opRdepth : Op := extOp 0o15 0 1 [] fun b => [cellOf (b.rs.length + b.rv.length) + b.st]
/-- TENANT (R144). -/
def opTenant : Op := extOp 0o32 0 1 [] fun b => [atBits b.tenant 0]
/-- TIMEH (R144). -/
def opTimeh : Op := extOp 0o34 0 1 [] fun b => [b.latch]

/-! ## Spills and fills (R136, R137) -/

/-- The check of an access that needs a second permission, both at step 3 of R55. -/
def checkTwo (s : State) (h : HalfId) (c : Cap) (a : Access) (q : Nat) (off : Nat) (misaligned : Bool) :
    Except FaultInfo Addr :=
  let ra := checkData s h c a off misaligned
  match ra with
  | .ok _ => if c.has q then ra else .error (accessFault c a (effAddr c off) ePermission)
  | .error f =>
    if f.status = eUntagged ∨ f.status = eSpace ∨ f.status = eGeneration ∨ f.status = ePermission ∨ c.has q = true then ra
    else .error (accessFault c a (effAddr c off) ePermission)

/-- The check of a move that needs two permissions. -/
def checkBoth (s : State) (h : HalfId) (c : Cap) (reg : BitVec 3) (p q : Nat) (off : Nat) : Except FaultInfo Addr :=
  checkTwo s h c ⟨reg, spData, p, false, 1⟩ q off false

/-- The check of a store of a spill, the mode lock included (R55, R115). -/
def checkSpill (s : State) (h : HalfId) (c : Cap) (reg : BitVec 3) (p q : Nat) (off : Nat) : Except FaultInfo Addr :=
  match checkBoth s h c reg p q off with
  | .error f => .error f
  | .ok a => if storeLocked s h a then .error (lockedFault reg a) else .ok a

/-- The first failure of a check over `n` offsets from `off`. -/
def firstFault (chk : Nat → Except FaultInfo Addr) (off : Nat) : Nat → Option FaultInfo
  | 0 => none
  | n + 1 => match firstFault chk off n with
    | some f => some f
    | none => match chk (off + n) with
      | .error f => some f
      | .ok _ => none

/-- Single untagged stores of cells from an address. -/
def plainStores (a : Addr) (t : BitVec 10) : List Cell → List StoreCell
  | [] => []
  | c :: l => ⟨.data a t, c, false, .single⟩ :: plainStores (a + 1) t l

/-- SPILLD's effect: the oldest cells go to SPD (R136). -/
def runSpilld (s : State) (h : HalfId) (_ : BitVec 5) (b : Bank) (dst : Pos) : Res :=
  let n := min 8 b.ds.length
  match consumedRead (s.ex h) b ((List.range n).map fun i => b.ds.length - n + i) with
  | some r => if r.void then .bus r else .stall
  | none =>
    match firstFault (checkSpill s h b.spd 5 pST pST) b.sd.toNat n with
    | some f => .fault f
    | none =>
      .done { doneOf s { b with ds := b.ds.take (b.ds.length - n), sd := b.sd + cellOf n } dst with
              stores := plainStores (b.spd.base + fld b.sd 0 24) b.spd.tenant (b.ds.reverse.take n) }

/-- SPILLD (R136). -/
def opSpilld : Op := ⟨0o10, .s, 0, 0, [], false, 1, runSpilld⟩

/-- Cells read at once from an address, in rising order, read number i first (R225). -/
def fetchCells (errs : List (Nat × ReadOutcome)) (s : State) (h : HalfId) (a : Addr) (t : BitVec 10) (i : Nat) :
    Nat → State × Except Addr (List TCell)
  | 0 => (s, .ok [])
  | n + 1 =>
    match fetchCell (perfRun s a i) h a t (outcomeAt errs i) with
    | (s, none) => (s, .error a)
    | (s, some c) => match fetchCells errs s h (a + 1) t (i + 1) n with
      | (s, .error e) => (s, .error e)
      | (s, .ok l) => (s, .ok (c :: l))

/-- The precise BUS of a read that a fill or CTXLD could not make (R225). -/
def fillFault (reg : BitVec 3) (a : Addr) : FaultInfo := ⟨cBus, readFailStatus a, reg, a, false⟩

/-- FILLD's effect: cells come back beneath the cached ones (R136). -/
def runFilld (errs : List (Nat × ReadOutcome)) (s : State) (h : HalfId) (_ : BitVec 5) (b : Bank) (dst : Pos) : Res :=
  let n := min 8 (min b.sd.toNat (16 - b.ds.length))
  let off := b.sd.toNat - n
  match firstFault (checkBoth s h b.spd 5 pLD pLD) off n with
  | some f => .fault f
  | none =>
    let a := b.spd.base + BitVec.ofNat 24 off
    if readsBlocked s h a n then .stall
    else match fetchCells errs (sealBuffer s h) h a b.spd.tenant 0 n with
    | (s', .error a) => .faultIn s' (fillFault 5 a)
    | (s, .ok l) => doneBank s { b with ds := b.ds ++ (l.map fun c => c.val).reverse, sd := b.sd - cellOf n } dst

/-- FILLD (R136). -/
def opFilld (errs : List (Nat × ReadOutcome)) : Op := ⟨0o11, .s, 0, 0, [], false, 1, runFilld errs⟩

/-- Entries written from an address: a tagged pair by one CST, others as plain stores (R137). A pair with one
tag is written untagged. DESIGN CHOICE: log 103. -/
def entryStores (a : Addr) (t : BitVec 10) : List TCell → List StoreCell
  | x :: y :: l =>
    (if x.tag && y.tag then [⟨.data a t, x.val, true, .first⟩, ⟨.data (a + 1) t, y.val, true, .second⟩]
     else [⟨.data a t, x.val, false, .single⟩, ⟨.data (a + 1) t, y.val, false, .single⟩]) ++ entryStores (a + 2) t l
  | [x] => [⟨.data a t, x.val, false, .single⟩]
  | [] => []

/-- The offset of the first tagged pair that the GL rule keeps from being stored through a tenant's capability
(R56, R137). -/
def localPair (t : BitVec 10) (i : Nat) : List TCell → Option Nat
  | x :: y :: l => if x.tag && y.tag && !globalOk (capOf true x.val y.val) t then some i else localPair t (i + 2) l
  | _ => none

/-- SPILLT's effect: the 8 oldest entries go to SPT, or the context is lost (R137). A refusal by the mode loses it too (R115).
DESIGN CHOICE: log 102. -/
def runSpillt (s : State) (h : HalfId) (_ : BitVec 5) (b : Bank) (dst : Pos) : Res :=
  let l := b.rs.reverse.take 8
  if b.rs.length < 8 then doneBank s b dst
  else match firstFault (checkSpill s h b.spt 6 pST pCS) b.st.toNat 8 with
    | some f => .lost f
    | none => match localPair b.spt.tenant 0 l with
      | some i => .lost ⟨cCapability, eGlobal, 6, BitVec.ofNat 24 (effAddr b.spt (b.st.toNat + i)), false⟩
      | none =>
        .done { doneOf s { b with rs := b.rs.take (b.rs.length - 8), st := b.st + 8 } dst with
                stores := entryStores (b.spt.base + fld b.st 0 24) b.spt.tenant l }

/-- SPILLT (R137). -/
def opSpillt : Op := ⟨0o12, .s, 0, 0, [], false, 1, runSpillt⟩

/-- FILLT's effect (R137). -/
def runFillt (errs : List (Nat × ReadOutcome)) (s : State) (h : HalfId) (_ : BitVec 5) (b : Bank) (dst : Pos) : Res :=
  if b.st.toNat < 8 ∨ 8 < b.rs.length then doneBank (sealBuffer s h) b dst
  else
    let off := b.st.toNat - 8
    match firstFault (checkBoth s h b.spt 6 pLD pCL) off 8 with
    | some f => .fault f
    | none =>
      let a := b.spt.base + BitVec.ofNat 24 off
      if readsBlocked s h a 8 then .stall
      else match fetchCells errs (sealBuffer s h) h a b.spt.tenant 0 8 with
      | (s', .error a) => .faultIn s' (fillFault 6 a)
      | (s, .ok l) => doneBank s { b with rs := b.rs ++ l.reverse, st := b.st - 8 } dst

/-- FILLT (R137). -/
def opFillt (errs : List (Nat × ReadOutcome)) : Op := ⟨0o13, .s, 0, 0, [], false, 1, runFillt errs⟩

/-! ## Status (R139) -/

/-- GETST: the status is pushed and V cleared (R139). -/
def opGetst : Op := ⟨0o20, .s, 0, 1, [], false, 1, fun s h k b dst =>
  doneStack s { b with status := setBit b.status 33 false } dst 0 [b.status ||| atBit (rkoBit (s.half h) k) 27]⟩

/-- The writable bits of a status cell: all but RKO and the reserved ones (R139, R151). -/
def writableStatus (c : Cell) : Cell := atBits (fld c 28 8) 28

/-- SETST (R139). -/
def opSetst : Op := ⟨0o21, .s, 1, 0, [0], false, 1, fun s _ _ b dst =>
  doneStack s { b with status := writableStatus (b.at 0) } dst 1 []⟩

/-! ## RETI (R140, R161, R166, R169, R235) -/

/-- The frame that RETI would pop, position entry first: of the reserve, else of the cache; or its fault. -/
def topFrame (b : Bank) : Except FaultInfo (Cell × Cell) :=
  match b.rv, b.rs with
  | p :: q :: _, _ => .ok (p.val, q.val)
  | _, p :: q :: _ => .ok (p.val, q.val)
  | _, l =>
    if 2 ≤ l.length + b.st.toNat then .error ⟨cRstackUnder, 0, 7, BitVec.ofNat 24 (2 - l.length), false⟩
    else .error (illegal eEncoding 0o22)

/-- The bank without its top frame. -/
def popFrame (b : Bank) : Bank := if b.rv.isEmpty then { b with rs := b.rs.drop 2 } else { b with rv := b.rv.drop 2 }

/-- The status that RETI restores: W cannot be set in tenant mode (R140). -/
def restoredStatus (c e : Cell) : Cell :=
  let n := writableStatus e
  if stW c then n else setBit n 35 false

/-- The RETI pops the ESCALATED frame of local context 0 (R235). -/
def popsEscalated (e : Exec) (k : BitVec 5) (b : Bank) : Bool :=
  bit e.escSrc 34 && k == 0 && e.escAt == some (!b.rv.isEmpty, if b.rv.isEmpty then b.depthD - 2 else b.rv.length - 2)

/-- RETI's effect (R140, R169). -/
def runReti (used : Nat) (s : State) (h : HalfId) (k : BitVec 5) (b : Bank) (_ : Pos) : Res :=
  match topFrame b with
  | .error f => .fault f
  | .ok (pe, se) =>
    if !bit pe 32 || badSlot pe then .fault (illegal eEncoding 0o22)
    else match checkTarget s h b.pcc (entryPos pe).addr.toNat with
      | some f => .fault f
      | none =>
        let b' := { popFrame b with status := restoredStatus b.status se, repActive := bit se 24, repLeft := if bit se 24 then fld se 0 24 else 0 }
        let s := if (s.ex h).chain.isEmpty then s else useEventCycles s h used
        let s := if popsEscalated (s.ex h) k b then
            s.onEx h fun e => { e with escSrc := setBit e.escSrc 34 false, escAt := none }
          else s
        .done { doneOf s (afterReturn b') (entryPos pe) with taken := true, after := .unwind }

/-- RETI (R140). -/
def opReti (used : Nat) : Op := ⟨0o22, .s, 0, 0, [], false, 1, runReti used⟩

/-! ## YIELD and FENCE (R141, R142, R204, R214) -/

/-- YIELD: the window closes, and the current entry ends (R141). -/
def opYield (used : Nat) : Op := ⟨0o23, .s, 0, 0, [], false, 1, fun s _ _ b dst =>
  .done { doneOf s b dst with close := true, after := .yield used }⟩

/-- No write that half h has made still waits for its memory: in its merge buffer's queue, of a completed reckoner command in
its hierarchy, on the span or in the other half's hierarchy (R142, R329). -/
def writesSettled (s : State) (h : HalfId) : Bool :=
  let near := (s.half h).mem
  let far := (s.half h.other).mem
  near.allocs.isEmpty && far.allocs.isEmpty && !(near.arb.any fun r => r.source == .reckoner) &&
    !(far.arb.any fun r => r.source == .span && !r.work.reads) &&
    !((s.half h).spn.out.any fun f => match f with
      | .write _ | .ioWrite _ _ _ _ _ _ => true
      | _ => false)

/-- The window of a FENCE has been voted and every store before it has drained: the mint is delivered and the handler heads
are read (R142, R204, R214). -/
def fenceDone (s : State) (h : HalfId) : State :=
  let w := (s.half h).win
  if (s.ex h).fencing && w.closed.isEmpty && w.sb.isEmpty && w.redo.isNone && w.slots == 0 && writesSettled s h then
    match (match (s.ex h).fed with
           | some f => some f.ctx
           | none => (s.ex h).running) with
    | none => s.onEx h fun e => { e with fencing := false }
    | some k => readHeads (mintDeliver (s.onEx h fun e => { e with fencing := false }) h k) h k
  else s

/-- FENCE: the window closes and the lanes stall (R142). -/
def opFence : Op := ⟨0o24, .s, 0, 0, [], false, 1, fun s h _ b dst =>
  .done { doneOf (s.onEx h fun e => { e with fencing := true }) b dst with close := true }⟩

/-! ## Leases, time and fleet (R143-R145) -/

/-- An isolated or logged request that pushes its value in place of `pops` cells. -/
def pushRequest (o : Option (State × Cell × Cell)) (b : Bank) (dst : Pos) (pops : Nat) (close : Bool) : Res :=
  match o with
  | none => .clash
  | some (s, v, _) => .done { doneOf s { b with ds := v :: b.ds.drop pops } dst with close := close }

/-- LEASE's effect (R143). -/
def runLease (s : State) (h : HalfId) (k : BitVec 5) (b : Bank) (dst : Pos) : Res :=
  if 16 ≤ (b.at 0).toNat then .fault (illegal eOperand 0o30)
  else pushRequest (request s h k .lease (b.at 0) true fun s =>
    let r := leaseRequest s h k (fld (b.at 0) 0 4)
    (r.1, cellOf r.2, 0)) b dst 1 true

/-- LEASE (R143). -/
def opLease : Op := ⟨0o30, .s, 1, 1, [0], true, 1, runLease⟩

/-- UNLEASE's effect (R143). -/
def runUnlease (s : State) (h : HalfId) (k : BitVec 5) (b : Bank) (dst : Pos) : Res :=
  match request s h k .unlease 0 true fun s => (leaseRelease s h k, 0, 0) with
  | none => .clash
  | some (s, _, _) => .done { doneOf s b dst with close := true }

/-- UNLEASE (R143). -/
def opUnlease : Op := ⟨0o31, .s, 0, 0, [], true, 1, runUnlease⟩

/-- TIMEL's effect: both cells of the time base are read at once (R144). -/
def runTimel (dt : Nat) (s : State) (h : HalfId) (k : BitVec 5) (b : Bank) (dst : Pos) : Res :=
  match request s h k .timel 0 false fun s =>
    let s := advance s dt
    (s, fld s.evc.timeBase 0 36, fld s.evc.timeBase 36 36) with
  | none => .clash
  | some (s, lo, hi) => doneStack s { b with latch := hi } dst 0 [lo]

/-- TIMEL (R144). -/
def opTimel (dt : Nat) : Op := ⟨0o33, .s, 0, 1, [], false, 1, runTimel dt⟩

/-- FLEETCHK's answer: the member is in the index and not revoked (R145). -/
def fleetAnswer (s : State) (m : Cell) : Cell := flagCell (decide (m.toNat < fltSize s) && !fltRevoked s m.toNat)

/-- FLEETCHK (R145). -/
def opFleetchk : Op := ⟨0o35, .s, 1, 1, [0], false, 1, fun s h k b dst =>
  pushRequest (request s h k .fleetchk (b.at 0) false fun s => (s, fleetAnswer s (b.at 0), 0)) b dst 1 false⟩

/-! ## Sealing (R146) -/

/-- SEAL's effect (R146). -/
def runSeal (s : State) (_ : HalfId) (_ : BitVec 5) (b : Bank) (dst : Pos) : Res :=
  match capNo (b.at 0) with
  | none => .fault (illegal eOperand 0o40)
  | some n => match sealCap n (b.cap n) (bit (b.at 1) 0) with
    | .error f => .fault f
    | .ok c => doneBank s ({ b with ds := b.ds.drop 2 }.setCap n c) dst

/-- SEAL (R146). -/
def opSeal : Op := ⟨0o40, .s, 2, 0, [0, 1], false, 1, runSeal⟩

/-- UNSEAL's effect (R146). -/
def runUnseal (s : State) (_ : HalfId) (_ : BitVec 5) (b : Bank) (dst : Pos) : Res :=
  match capNo (b.at 0) with
  | none => .fault (illegal eOperand 0o41)
  | some n => match unsealCap n (b.cap n) with
    | .error f => .fault f
    | .ok c => doneBank s ({ b with ds := b.ds.drop 1 }.setCap n c) dst

/-- UNSEAL (R146). -/
def opUnseal : Op := ⟨0o41, .s, 1, 0, [0], false, 1, runUnseal⟩

/-! ## CINV (R147, R215-R219) -/

/-- A sealed capability is a return capability (R215). -/
def Cap.isReturn (c : Cap) : Bool := c.space == spSealed && !c.has pX && c.has pSE

/-- A capability is tagged sealed data (R215). -/
def Cap.isSealedData (c : Cap) : Bool := c.tag && c.space == spSealed && !c.has pX && !c.has pSE

/-- The checks of CINV through Cn: a one-word fetch at offset 0 of a sealed entry (R54, R147). -/
def checkCinv (s : State) (h : HalfId) (n : BitVec 2) (c : Cap) : Option FaultInfo :=
  let a : Access := ⟨n.setWidth 3, spSealed, pSE, false, 1⟩
  let st := capStatus c (s.genOk h c) a 0 false
  if st ≠ 0 then some (accessFault c a c.base.toNat st)
  else
    let m := codeMapped s h c.base.toNat
    if m ≠ 0 then some (accessFault c a c.base.toNat m) else none

/-- The return capability made of a PCC (R216 step 3). -/
def returnCap (pcc : Cap) (w : Bool) : Cap :=
  { pcc with tag := true, space := spSealed, perm := setBit (setBit (setBit pcc.perm pX false) pSE true) pWD w }

/-- PCC of an entry (R216 step 4). -/
def entryPcc (c : Cap) : Cap := { c with space := spInstr, perm := setBit (setBit c.perm pSE false) pWD false }

/-- PCC of a return (R218 step 4). -/
def returnPcc (c : Cap) : Cap := { c with space := spInstr, perm := setBit (setBit (setBit c.perm pX true) pSE false) pWD false }

/-- The register beside Cn is unsealed when it is sealed data of the entry's tenant (R216 step 6). -/
def unsealBeside (b : Bank) (n : BitVec 2) (t : BitVec 10) : Bank :=
  let m := n ^^^ 1
  let c := b.cap m
  if c.isSealedData && c.tenant == t then b.setCap m { c with space := spData } else b

/-- CINV through an entry (R216, R219). -/
def cinvEntry (s : State) (h : HalfId) (k : BitVec 5) (b : Bank) (n : BitVec 2) (c : Cap) : Res :=
  if c.tenant ≠ 0 ∧ (c.has pWD || stW b.status) = true then .fault ⟨cWardenCall, eCrossing, n.setWidth 3, c.base, false⟩
  else
    let st := b.status ||| atBit (rkoBit (s.half h) k) 27
    let b := { b with ds := b.ds.drop 1,
                      rs := TCell.plain (returnEntry 0 (nextWord b.resume)) :: TCell.plain (statusEntry st false 0) :: b.rs }
    let b := unsealBeside (b.setCap n (returnCap b.pcc (stW b.status))) n c.tenant
    transfer s { b with pcc := entryPcc c, status := setBit b.status 35 (c.has pWD) } c.base

/-- The status after a return: W by the capability; IE, MASK and PREC of the status entry (R218 step 5). -/
def cinvStatus (c : Cell) (w : Bool) (e : Cell) : Cell :=
  setBit (setBit (withMask (setBit c 35 w) (stMask e)) 32 (stIE e)) 28 (stPrec e)

/-- CINV through a return capability (R218). -/
def cinvReturn (s : State) (h : HalfId) (b : Bank) (n : BitVec 2) (c : Cap) : Res :=
  let e := (b.ret 0).val
  if bit e 32 || entryMask e != 0 || badSlot e then .fault (illegal eEncoding 0o42)
  else match checkTarget s h (returnPcc c) (entryPos e).addr.toNat with
    | some f => .fault f
    | none =>
      let b' := { b with ds := b.ds.drop 1, rs := b.rs.drop 2, pcc := returnPcc c,
                         status := cinvStatus b.status (c.has pWD) (b.ret 1).val }
      .done { doneOf s (b'.setCap n Cap.zero) (entryPos e) with taken := true }

/-- CINV's return-stack check: it pops two entries through a return capability, and pushes two otherwise. -/
def cinvStack (b : Bank) (ret : Bool) : Option FaultInfo := if ret then returnFault b 2 0 else returnFault b 0 2

/-- The operand names a return capability. -/
def cinvReturns (b : Bank) : Bool := match capNo (b.at 0) with
  | none => false
  | some n => (b.cap n).isReturn

/-- CINV's effect (R147, R216, R218). -/
def runCinv (s : State) (h : HalfId) (k : BitVec 5) (b : Bank) (_ : Pos) : Res :=
  match cinvStack b (cinvReturns b) with
  | some f => .fault f
  | none => match capNo (b.at 0) with
    | none => .fault (illegal eOperand 0o42)
    | some n =>
      let c := b.cap n
      match checkCinv s h n c with
      | some f => .fault f
      | none => if c.isReturn then cinvReturn s h b n c else cinvEntry s h k b n c

/-- CINV (R147). -/
def opCinv : Op := ⟨0o42, .s, 1, 0, [0], false, 1, runCinv⟩

/-! ## CREVOKE (R148, R297, R308) -/

/-- CREVOKE's effect: a tenant's generation advances here, or its home half is asked and the lanes stall (R148, R297);
during a partition only here (R308). -/
def runCrevoke (s : State) (h : HalfId) (_ : BitVec 5) (b : Bank) (dst : Pos) : Res :=
  let t : BitVec 10 := fld (b.at 0) 0 10
  let popped := { b with ds := b.ds.drop 1 }
  if 1024 ≤ (b.at 0).toNat then .fault (illegal eOperand 0o43)
  else if s.homeOf h t = h then
    let g := s.genOf h t + 1
    .done { doneOf s popped dst with close := true, stores := [⟨.gen t g, atBits g 0, false, .single⟩] }
  else if !spanOpen s h then .fault (illegal eSpanDown 0o43)
  else
    .done { doneOf (s.onEx h fun e => { e with revoking := some t }) popped dst with
            close := true, stores := [⟨.genAsk t, 0, false, .single⟩] }

/-- CREVOKE (R148). -/
def opCrevoke : Op := ⟨0o43, .s, 1, 0, [0], false, 1, runCrevoke⟩

/-! ## The commands -/

/-- CLZ (R135). -/
def execClz (h : HalfId) (s : State) : Host.Outcome State Fault Refusal := .next (runExt s h opClz)
/-- POPC (R135). -/
def execPopc (h : HalfId) (s : State) : Host.Outcome State Fault Refusal := .next (runExt s h opPopc)
/-- XCH (R135). -/
def execXch (h : HalfId) (s : State) : Host.Outcome State Fault Refusal := .next (runExt s h opXch)
/-- XGET (R135). -/
def execXget (h : HalfId) (s : State) : Host.Outcome State Fault Refusal := .next (runExt s h opXget)
/-- XPUT (R135). -/
def execXput (h : HalfId) (s : State) : Host.Outcome State Fault Refusal := .next (runExt s h opXput)
/-- SPILLD (R136). -/
def execSpilld (h : HalfId) (s : State) : Host.Outcome State Fault Refusal := .next (runExt s h opSpilld)
/-- FILLD (R136). -/
def execFilld (h : Fetching) (s : State) : Host.Outcome State Fault Refusal := .next (runExt s h.half (opFilld h.errs))
/-- SPILLT (R137). -/
def execSpillt (h : HalfId) (s : State) : Host.Outcome State Fault Refusal := .next (runExt s h opSpillt)
/-- FILLT (R137). -/
def execFillt (h : Fetching) (s : State) : Host.Outcome State Fault Refusal := .next (runExt s h.half (opFillt h.errs))
/-- DEPTH (R138). -/
def execDepth (h : HalfId) (s : State) : Host.Outcome State Fault Refusal := .next (runExt s h opDepth)
/-- RDEPTH (R138). -/
def execRdepth (h : HalfId) (s : State) : Host.Outcome State Fault Refusal := .next (runExt s h opRdepth)
/-- GETST (R139). -/
def execGetst (h : HalfId) (s : State) : Host.Outcome State Fault Refusal := .next (runExt s h opGetst)
/-- LEASE (R143). -/
def execLease (h : HalfId) (s : State) : Host.Outcome State Fault Refusal := .next (runExt s h opLease)
/-- UNLEASE (R143). -/
def execUnlease (h : HalfId) (s : State) : Host.Outcome State Fault Refusal := .next (runExt s h opUnlease)
/-- TENANT (R144). -/
def execTenant (h : HalfId) (s : State) : Host.Outcome State Fault Refusal := .next (runExt s h opTenant)
/-- TIMEH (R144). -/
def execTimeh (h : HalfId) (s : State) : Host.Outcome State Fault Refusal := .next (runExt s h opTimeh)
/-- FLEETCHK (R145). -/
def execFleetchk (h : HalfId) (s : State) : Host.Outcome State Fault Refusal := .next (runExt s h opFleetchk)
/-- CINV (R147). DEDUCED: log 20. -/
def execCinv (h : HalfId) (s : State) : Host.Outcome State Fault Refusal := .next (runExt s h opCinv)
/-- SETST (R139). -/
def execSetst (h : HalfId) (s : State) : Host.Outcome State Fault Refusal := .next (runWarden s h opSetst)
/-- SEAL (R146). -/
def execSeal (h : HalfId) (s : State) : Host.Outcome State Fault Refusal := .next (runWarden s h opSeal)
/-- UNSEAL (R146). -/
def execUnseal (h : HalfId) (s : State) : Host.Outcome State Fault Refusal := .next (runWarden s h opUnseal)
/-- CREVOKE (R148). -/
def execCrevoke (h : HalfId) (s : State) : Host.Outcome State Fault Refusal := .next (runWarden s h opCrevoke)
/-- RETI (R140). -/
def execReti (h : HalfId) (evCycles : Nat) (s : State) : Host.Outcome State Fault Refusal := .next (runExt s h (opReti evCycles))
/-- YIELD (R141). DEDUCED: log 27. -/
def execYield (h : HalfId) (used : Nat) (s : State) : Host.Outcome State Fault Refusal := .next (runExt s h (opYield used))
/-- FENCE (R142). -/
def execFence (h : HalfId) (s : State) : Host.Outcome State Fault Refusal := .next (fenceDone (runExt s h opFence) h)
/-- TIMEL (R144). -/
def execTimel (h : HalfId) (dt : Nat) (s : State) : Host.Outcome State Fault Refusal := .next (runExt s h (opTimel dt))

end Sys2Proof.Machine
end

