-- ==== Sys2Proof/Machine/RkIssue.lean ====
section
/-! DEFINITION. The issue of RK commands: refusals, tickets, acceptance, and the status of a ticket (R88, R102, R128,
R343-R356, R360). -/

namespace Sys2Proof.Machine

/-! ## Selectors (R88, R348) -/

/-- The selectors that R88 marks for EARLY. -/
def rkEarly (sel : BitVec 6) : Bool :=
  [0o00, 0o01, 0o02, 0o03, 0o04, 0o10, 0o11, 0o12, 0o20, 0o21, 0o22, 0o23, 0o24, 0o30, 0o31, 0o32, 0o41, 0o43, 0o51,
    0o65].contains sel.toNat

/-- The signing selectors, refused in READING-ROOM (R7). -/
def rkSigns (sel : BitVec 6) : Bool := sel == 0o40 || sel == 0o42 || sel == 0o50 || sel == 0o64

/-! ## Operand ranges (R352, R355, R356) -/

/-- A memory reference of a stack operand: not a vault slot, bits [32:24] zero (R352). DEDUCED: log 54. -/
def mrefOk (c : Cell) : Bool := fld c 24 10 == (0 : BitVec 10)

/-- A register number. -/
def regOk (c : Cell) : Bool := decide (c.toNat < 8)

/-- A count of 1 to 128. -/
def countOk (c : Cell) : Bool := decide (1 ≤ c.toNat ∧ c.toNat ≤ 128)

/-- A register of a polynomial in format f, 0 or 1: for ML-DSA it is even (R355). -/
def polyOk (r f : Cell) : Bool := regOk r && decide (f.toNat ≤ 1) && !(f == 1 && bit r 0)

/-- The parameter sets of an algorithm command (R356). -/
def rkSets (sel : BitVec 6) : Nat :=
  match sel.toNat with
  | 0o42 => 1
  | 0o43 => 1
  | 0o44 => 1
  | 0o45 => 4
  | 0o50 => 3
  | 0o51 => 3
  | _ => 2

/-- The stack operands are in the ranges of R355 and R356; the first pushed comes first. -/
def rkRange (sel : BitVec 6) (o : List Cell) : Bool :=
  let a := o.getD 0 0
  let b := o.getD 1 0
  let c := o.getD 2 0
  let d := o.getD 3 0
  let e := o.getD 4 0
  match sel.toNat with
  | 0o04 => true
  | 0o10 => mrefOk a && regOk b && countOk c
  | 0o11 => regOk a && mrefOk b && countOk c
  | 0o12 => regOk a && regOk b
  | 0o13 => regOk a && regOk b && regOk c && regOk d && countOk e
  | 0o14 => regOk a && regOk b && regOk c && regOk d && countOk e
  | 0o15 => polyOk a b
  | 0o16 => polyOk a b
  | 0o17 => polyOk a d && polyOk b d && polyOk c d
  | 0o20 => regOk a && regOk b && decide (c.toNat ≤ 1)
  | 0o21 => regOk a && regOk b && decide (c.toNat ≤ 1)
  | 0o24 => regOk a
  | _ => mrefOk a && (decide (o.length < 2) || decide (b.toNat < rkSets sel))

/-! ## Refusal and acceptance (R347-R350, R360) -/

/-- The places of the queue in use: a failed command has freed its own (R349). -/
def Reckoner.depth (r : Reckoner) : Nat := (r.queue.filter fun c => !(c.state == .finished && c.code != 0)).length

/-- The code with which RK is refused, 0 when it is accepted; the rows of R348 in order. DEDUCED: log 54. -/
def rkRefusal (s : State) (h : HalfId) (sel : BitVec 6) (o : List Cell) : BitVec 6 :=
  if s.runMode h = mEarly ∧ rkEarly sel = false then eModeLocked
  else if s.runMode h = mReading ∧ rkSigns sel = true then eModeLocked
  else if rkRange sel o = false then eOperand
  else if 8 ≤ (s.half h).rkn.depth then eBusy
  else 0

/-- A refused ticket (R347). -/
def refusedTicket (sel : BitVec 6) (k : BitVec 5) (code : BitVec 6) : Cell :=
  atBit true 35 ||| atBits sel 24 ||| atBits k 18 ||| atBits code 12

/-- The command that an accepted RK queues (R349, R352). -/
def newCmd (s : State) (h : HalfId) (k : BitVec 5) (b : Bank) (sel : BitVec 6) (o : List Cell) : RkCmd :=
  { sel := sel, seq := (s.half h).rkn.seq, ops := o
    snaps := [s.snapCap h b.c0, s.snapCap h b.c1, s.snapCap h b.c2, s.snapCap h b.c3]
    stamp := ⟨b.tenant, s.genOf h b.tenant, gctx h k⟩, entry := ownEntry s h k, state := .queued, begun := false
    slices := 0, lease := none, leaseWanted := false, restarts := 0, fin := 0, writes := [], regs := [], own := none
    fill := none, vault := false, keys := [], wrong := false, extra := 0, code := 0, result := 0 }

/-- The class is heavy: it runs under a lease (R359). -/
def heavy (cls : BitVec 4) : Bool := decide (2 ≤ cls.toNat)

/-- An explicit lease of at least the class passes to a heavy command; a light one remembers that its context held a
lease (R360, R391). -/
def passLease (s : State) (h : HalfId) (k : BitVec 5) (c : RkCmd) : State × RkCmd :=
  let g := (s.half h).gov
  match leaseOf g k with
  | none => (s, c)
  | some l =>
    if !heavy (rkClass c) then (s, { c with leaseWanted := true })
    else if ceilingOf g (rkClass c) ≤ ceilingOf g l.cls then
      (s.onGov h fun g => { g with leases := sput none g.leases k.toNat none, leaseEntry := sput none g.leaseEntry k.toNat none },
       { c with lease := some l })
    else (s, c)

/-- A command joins the queue and the 32 held statuses (R349, R350). -/
def Reckoner.enqueue (r : Reckoner) (c : RkCmd) : Reckoner :=
  { r with queue := r.queue ++ [c], seq := r.seq + 1
           status := (⟨c.sel, c.seq, c.stamp, 1, 0, 0⟩ :: r.status).take 32 }

/-- RK is presented to the reckoner: the ticket that it pushes (R347, R348). -/
def rkAccept (s : State) (h : HalfId) (k : BitVec 5) (b : Bank) (sel : BitVec 6) (o : List Cell) : State × Cell :=
  let code := rkRefusal s h sel o
  if code ≠ 0 then (s.onRkn h fun r => { r with refused := satInc r.refused }, refusedTicket sel k code)
  else
    let p := passLease s h k (newCmd s h k b sel o)
    (p.1.onRkn h fun r => r.enqueue p.2, ticketOf sel (gctx h k) p.2.seq)

/-- RK's effect (R128, R347). -/
def runRk (sel : BitVec 6) (n : Nat) (s : State) (h : HalfId) (k : BitVec 5) (b : Bank) (dst : Pos) : Res :=
  if !rkoBit (s.half h) k then .fault (faultOf cReckoner 0 (sel.setWidth 24))
  else pushRequest (request s h k .rk (atBits sel 0) true fun s =>
    let r := rkAccept s h k b sel (b.ds.take n).reverse
    (r.1, r.2, 0)) b dst n true

/-- An RK command that pops `n` operands. -/
def opRk (sel : BitVec 6) (n : Nat) : Op := ⟨sel, .x, n, 1, List.range n, true, 1, runRk sel n⟩

/-- An RK command. -/
def runRkSlot (s : State) (h : HalfId) (o : Op) : State := attempt s h (selectorForm 0o73) false noEnc o

/-- A warden-only RK command (R88). -/
def runRkWarden (s : State) (h : HalfId) (o : Op) : State := attempt s h (selectorForm 0o73) false (wardenEnc o.code) o

/-! ## Status (R350, R351) -/

/-- The entry that a ticket finds, asked for by a context. -/
def ticketEntry (s : State) (h : HalfId) (k : BitVec 5) (t : Cell) : Option RkStatus :=
  let b := s.bank h k
  match (s.half h).rkn.status.find? fun e => e.seq == fld t 0 12 with
  | none => none
  | some e =>
    if fld t 30 5 = (0 : BitVec 5) ∧ bit t 23 = false ∧ fld t 24 6 = e.sel ∧ fld t 18 5 = gLocal e.stamp.ctx ∧
        e.stamp = ⟨b.tenant, s.genOf h b.tenant, gctx h k⟩ then some e
    else none

/-- The status cell of a ticket (R351). -/
def statOf (s : State) (h : HalfId) (k : BitVec 5) (t : Cell) : Cell :=
  if bit t 35 then statusCell 6 (fld t 12 6) 0
  else match ticketEntry s h k t with
    | none => 0
    | some e => statusCell e.state e.code e.result

/-- A SYNC on the status ends: done, failed, refused or unknown (R351). -/
def statEnds (c : Cell) : Bool := let st := fld c 33 3; st == (0 : BitVec 3) || decide (4 ≤ st.toNat)

/-- STAT's effect (R351). -/
def runStat (s : State) (h : HalfId) (k : BitVec 5) (b : Bank) (dst : Pos) : Res :=
  pushRequest (request s h k .stat (b.at 0) false fun s => (s, statOf s h k (b.at 0), 0)) b dst 1 false

/-- STAT (R351). -/
def opStat : Op := ⟨0o01, .x, 1, 1, [0], false, 1, runStat⟩

/-! ## The commands -/

/-- STAT (R351). -/
def execStat (h : HalfId) (s : State) : Host.Outcome State Fault Refusal := .next (runRkSlot s h opStat)
/-- SAVE (R355). -/
def execSave (h : HalfId) (s : State) : Host.Outcome State Fault Refusal := .next (runRkWarden s h (opRk 0o02 1))
/-- LOAD (R366). -/
def execLoad (h : HalfId) (s : State) : Host.Outcome State Fault Refusal := .next (runRkWarden s h (opRk 0o03 1))
/-- CLEAR (R355). -/
def execClear (h : HalfId) (s : State) : Host.Outcome State Fault Refusal := .next (runRkSlot s h (opRk 0o04 0))
/-- WLD (R355). -/
def execWld (h : HalfId) (s : State) : Host.Outcome State Fault Refusal := .next (runRkSlot s h (opRk 0o10 3))
/-- WST (R355). -/
def execWst (h : HalfId) (s : State) : Host.Outcome State Fault Refusal := .next (runRkSlot s h (opRk 0o11 3))
/-- WMOV (R355). -/
def execWmov (h : HalfId) (s : State) : Host.Outcome State Fault Refusal := .next (runRkSlot s h (opRk 0o12 2))
/-- MMUL (R355). -/
def execMmul (h : HalfId) (s : State) : Host.Outcome State Fault Refusal := .next (runRkSlot s h (opRk 0o13 5))
/-- MEXP (R355). -/
def execMexp (h : HalfId) (s : State) : Host.Outcome State Fault Refusal := .next (runRkSlot s h (opRk 0o14 5))
/-- NTT (R355). -/
def execNtt (h : HalfId) (s : State) : Host.Outcome State Fault Refusal := .next (runRkSlot s h (opRk 0o15 2))
/-- INTT (R355). -/
def execIntt (h : HalfId) (s : State) : Host.Outcome State Fault Refusal := .next (runRkSlot s h (opRk 0o16 2))
/-- PMUL (R355). -/
def execPmul (h : HalfId) (s : State) : Host.Outcome State Fault Refusal := .next (runRkSlot s h (opRk 0o17 4))
/-- AESKS (R355). -/
def execAesks (h : HalfId) (s : State) : Host.Outcome State Fault Refusal := .next (runRkSlot s h (opRk 0o20 3))
/-- AESBLK (R355). -/
def execAesblk (h : HalfId) (s : State) : Host.Outcome State Fault Refusal := .next (runRkSlot s h (opRk 0o21 3))
/-- GCMENC (R356). -/
def execGcmenc (h : HalfId) (s : State) : Host.Outcome State Fault Refusal := .next (runRkSlot s h (opRk 0o22 1))
/-- GCMDEC (R356). -/
def execGcmdec (h : HalfId) (s : State) : Host.Outcome State Fault Refusal := .next (runRkSlot s h (opRk 0o23 1))
/-- KECCAK (R355). -/
def execKeccak (h : HalfId) (s : State) : Host.Outcome State Fault Refusal := .next (runRkSlot s h (opRk 0o24 1))
/-- SHA2 (R356). -/
def execSha2 (h : HalfId) (s : State) : Host.Outcome State Fault Refusal := .next (runRkSlot s h (opRk 0o30 1))
/-- SHA3 (R356). -/
def execSha3 (h : HalfId) (s : State) : Host.Outcome State Fault Refusal := .next (runRkSlot s h (opRk 0o31 1))
/-- SHAKE (R356). -/
def execShake (h : HalfId) (s : State) : Host.Outcome State Fault Refusal := .next (runRkSlot s h (opRk 0o32 1))
/-- ECSIGN (R356). -/
def execEcsign (h : HalfId) (s : State) : Host.Outcome State Fault Refusal := .next (runRkSlot s h (opRk 0o40 2))
/-- ECVER (R356). -/
def execEcver (h : HalfId) (s : State) : Host.Outcome State Fault Refusal := .next (runRkSlot s h (opRk 0o41 2))
/-- EDSIGN (R356). -/
def execEdsign (h : HalfId) (s : State) : Host.Outcome State Fault Refusal := .next (runRkSlot s h (opRk 0o42 2))
/-- EDVER (R356). -/
def execEdver (h : HalfId) (s : State) : Host.Outcome State Fault Refusal := .next (runRkSlot s h (opRk 0o43 2))
/-- X25519 (R356). -/
def execX25519 (h : HalfId) (s : State) : Host.Outcome State Fault Refusal := .next (runRkSlot s h (opRk 0o44 2))
/-- ECKEY (R518). -/
def execEckey (h : HalfId) (s : State) : Host.Outcome State Fault Refusal := .next (runRkSlot s h (opRk 0o45 2))
/-- RSAPRIV (R356). -/
def execRsapriv (h : HalfId) (s : State) : Host.Outcome State Fault Refusal := .next (runRkSlot s h (opRk 0o50 2))
/-- RSAPUB (R356). -/
def execRsapub (h : HalfId) (s : State) : Host.Outcome State Fault Refusal := .next (runRkSlot s h (opRk 0o51 2))
/-- KEMGEN (R356). -/
def execKemgen (h : HalfId) (s : State) : Host.Outcome State Fault Refusal := .next (runRkSlot s h (opRk 0o60 2))
/-- KEMENC (R356). -/
def execKemenc (h : HalfId) (s : State) : Host.Outcome State Fault Refusal := .next (runRkSlot s h (opRk 0o61 2))
/-- KEMDEC (R356). -/
def execKemdec (h : HalfId) (s : State) : Host.Outcome State Fault Refusal := .next (runRkSlot s h (opRk 0o62 2))
/-- DSAGEN (R356). -/
def execDsagen (h : HalfId) (s : State) : Host.Outcome State Fault Refusal := .next (runRkSlot s h (opRk 0o63 2))
/-- DSASIGN (R361). -/
def execDsasign (h : HalfId) (s : State) : Host.Outcome State Fault Refusal := .next (runRkSlot s h (opRk 0o64 2))
/-- DSAVER (R356). -/
def execDsaver (h : HalfId) (s : State) : Host.Outcome State Fault Refusal := .next (runRkSlot s h (opRk 0o65 2))

end Sys2Proof.Machine
end

