-- ==== Sys2Proof/Machine/Wait.lean ====
section
/-! DEFINITION. WAIT and SYNC, TRAP and ILL, the entries that a boundary takes, and the limits of a window
(R72, R79, R89, R107, R129-R133, R189, R243-R245, R267, R351, R414, R450). -/

namespace Sys2Proof.Machine

/-! ## What ends a WAIT (R129-R131, R450) -/

/-- An event or fault entry is due at the half's next boundary (R131, R351, R413). -/
def entryDue (s : State) (h : HalfId) : Bool := (enterDue s h).isSome || (bestRequest s h).isSome

/-- The channels of R450: an inbound entry is queued, and its source is routed to the context. DEDUCED: log 26. -/
def crossChan (s : State) (g : BitVec 6) : Option Nat :=
  firstBelow (fun c => routeOf s (128 + c) == g && !(s.chan (BitVec.ofNat 6 c)).inp.queue.isEmpty) 64

/-- The block-side ack register of a channel is valid. -/
def ackValid (s : State) (c : BitVec 6) : Bool := bit (s.chan c).outp.ack 31

/-- The mailbox arrivals that are pending for a context, enabled or not (R131). -/
def myArrivals (s : State) (g : BitVec 6) : List Nat :=
  (sourcesIn s.evc.pend).filter fun src => decide (128 ≤ src ∧ src < 192) && routeOf s src == g

/-- The pending source that a WAIT reports: one at a selected level, else a mailbox arrival (R130, R131). -/
def waitSource (s : State) (g : BitVec 6) (mask : Cell) : Option Nat :=
  match bestOf (sourceBefore s) ((myPending s g).filter fun src => bit mask (24 + levelOf s src)) with
  | some src => some src
  | none => bestOf (sourceBefore s) (myArrivals s g)

/-- The first end condition of R131 that holds, as cause and number; the time limit stands apart. DEDUCED: log 26. -/
def waitCause (s : State) (h : HalfId) (k : BitVec 5) (mask : Cell) (tickSeen : Bool) : Option (BitVec 4 × Nat) :=
  let g := gctx h k
  let c : BitVec 6 := fld mask 0 6
  let cross := if bit mask 35 then crossChan s g else none
  if entryDue s h then some (5, 0)
  else match cross with
    | some n => some (4, n)
    | none =>
      if bit mask 35 && ackValid s c then some (3, c.toNat)
      else match waitSource s g mask with
        | some src => some (1, src)
        | none => if bit mask 34 && tickSeen then some (2, 0) else none

/-- The levels at which sources of a context are pending and enabled (R130). -/
def waitLevels (s : State) (g : BitVec 6) : Octet := (myPending s g).foldl (fun m src => m ||| (1#8 <<< levelOf s src)) 0

/-- The status of R130. -/
def waitStatus (s : State) (g : BitVec 6) (cause : BitVec 4) (number : Nat) : Cell :=
  atBits cause 32 ||| atBits (waitLevels s g) 24 ||| atBits (BitVec.ofNat 8 number) 0

/-- MBX_CROSS of a context replaced (R450). -/
def setCross (s : State) (g : BitVec 6) (c : Option (BitVec 6)) : State :=
  { s with mbx := { s.mbx with cross := sput none s.mbx.cross g.toNat c } }

/-- CROSS is latched when it ends a WAIT (R450). -/
def latchCross (s : State) (g : BitVec 6) (cause : BitVec 4) (n : Nat) : State :=
  if cause = 4 then setCross s g (some (BitVec.ofNat 6 n)) else s

/-- The timeout field (R129). -/
def waitUs (timeout : Cell) : BitVec 32 := fld timeout 0 32

/-! ## WAIT and SYNC issue (R129, R245, R351) -/

/-- The window closes at the boundary before the instruction, and the lanes wait; what the window held back acts now, held
ticks among it (R245). -/
def beginWait (s : State) (h : HalfId) (w : Waiting) : Res :=
  match preClose s h with
  | .stop s' => .whole s'
  | .go s' => .whole (heldWaiting (settled (completeIdle (s'.onEx h fun e => { e with waiting := some w, groupOpen := none }) h) h) h)

/-- WAIT's effect when the log does not answer it: it ends at once, or waits. -/
def waitIssue (s : State) (h : HalfId) (k : BitVec 5) (b : Bank) (dst : Pos) : Res :=
  let g := gctx h k
  let s := setCross s g none
  let push (cause : BitVec 4) (n : Nat) : Res :=
    pushRequest (request s h k .wait 0 false fun s => (latchCross s g cause n, waitStatus s g cause n, 0)) b dst 2 false
  match waitCause s h k (b.at 1) false with
  | some (cause, n) => push cause n
  | none => if waitUs (b.at 0) = 0 then push 0 0 else beginWait s h ⟨false, b.at 1, b.at 0, false⟩

/-- WAIT's effect (R129, R132). -/
def runWait (s : State) (h : HalfId) (k : BitVec 5) (b : Bank) (dst : Pos) : Res :=
  match replayAsk (s.half h).win .wait 0 k false with
  | .hit v0 v1 => pushRequest (some (answerInput s h .wait 0 k false v0 v1, v0, v1)) b dst 2 false
  | .clash => .clash
  | .issue => waitIssue s h k b dst

/-- WAIT (R129). -/
def opWait : Op := ⟨0o74, .s, 2, 1, [0, 1], false, 1, runWait⟩

/-- SYNC's effect (R351). -/
def runSync (s : State) (h : HalfId) (k : BitVec 5) (b : Bank) (dst : Pos) : Res :=
  match replayAsk (s.half h).win .sync (b.at 0) k false with
  | .hit v0 v1 => pushRequest (some (answerInput s h .sync (b.at 0) k false v0 v1, v0, v1)) b dst 1 false
  | .clash => .clash
  | .issue =>
    if statEnds (statOf s h k (b.at 0)) || entryDue s h then
      pushRequest (request s h k .sync (b.at 0) false fun s => (s, statOf s h k (b.at 0), 0)) b dst 1 false
    else beginWait s h ⟨true, b.at 0, 0, false⟩

/-- SYNC (R351). -/
def opSync : Op := ⟨0o00, .x, 1, 1, [0], false, 1, runSync⟩

/-! ## The end of a wait (R131, R245, R351) -/

/-- The waiting instruction retires with its status, as the first slot of a new window (R245). DEDUCED: log 25. -/
def endWait (s : State) (h : HalfId) (w : Waiting) (v : Cell) : State :=
  match s.runBank h, s.writer h with
  | some (k, b), some wr =>
    let s := s.onEx h fun e => { e with waiting := none }
    let s := if w.isSync then logInput s h .sync (b.at 0) k false v 0 else logInput s h .wait 0 k false v 0
    let dst := if w.isSync then nextWord b.resume else slotsOn b.resume 1
    retire s h k wr b.resume (doneOf s { b with ds := v :: b.ds.drop (if w.isSync then 1 else 2) } dst)
      false ⟨if w.isSync then .x else .s, 0, none⟩
  | _, _ => s

/-- The waiting WAIT is tested; `up` when its time limit has passed. -/
def pollWait (s : State) (h : HalfId) (k : BitVec 5) (w : Waiting) (up : Bool) : State :=
  let g := gctx h k
  match waitCause s h k w.mask w.tickSeen with
  | some (cause, n) => endWait (latchCross s g cause n) h w (waitStatus s g cause n)
  | none => if up && waitUs w.timeout != BitVec.allOnes 32 then endWait s h w (waitStatus s g 0 0) else s

/-- The waiting SYNC is tested. -/
def pollSync (s : State) (h : HalfId) (k : BitVec 5) (w : Waiting) : State :=
  let v := statOf s h k w.mask
  if statEnds v || entryDue s h then endWait s h w v else s

/-- The half's waiting instruction, if its lanes run and it is of the kind. -/
def waitingOf (s : State) (h : HalfId) (sync : Bool) : Option (BitVec 5 × Waiting) :=
  if !lanesRun s h then none
  else match (s.ex h).waiting, (s.ex h).running with
    | some w, some k => if w.isSync == sync then some (k, w) else none
    | _, _ => none

/-- WAIT_END (R131). -/
def waitEnd (s : State) (h : HalfId) (up : Bool) : State :=
  match waitingOf s h false with
  | none => s
  | some (k, w) => pollWait s h k w up

/-- SYNC: a waiting SYNC tests again; any other issues (R351). -/
def syncSlot (s : State) (h : HalfId) : State :=
  match waitingOf s h true with
  | none => runRkSlot s h opSync
  | some (k, w) => pollSync s h k w

/-- A waiting instruction that an entry preempts ends first (R131, R206, R351). -/
def endForEntry (s : State) (h : HalfId) : State :=
  match waitingOf s h true with
  | some (k, w) => pollSync s h k w
  | none => waitEnd s h false

/-! ## Entries at a boundary (R107, R413-R415) -/

/-- The half takes what arrives: its lanes run, nothing stalls them, no rollback holds inputs, and a window may close. -/
def takesArrival (s : State) (h : HalfId) : Bool :=
  lanesRun s h && !(s.ex h).fencing && !(s.ex h).revoking.isSome && !(s.half h).win.rolling && closeRoom s h 1

/-- The best takeable request is taken, after what comes before a close (R107, R225, R414). -/
def takeBest (s : State) (h : HalfId) : State :=
  match bestRequest s h with
  | none => s
  | some src => (beforeClose s h).getD (takeEvent s h src)

/-- EVENT_ENTRY: what waits for a load is abandoned (R205, R206, R414). -/
def eventEntry (s : State) (h : HalfId) : State :=
  if !takesArrival s h then s
  else
    let s := if (bestRequest s h).isSome then endForEntry (abandon s h) h else s
    if (s.ex h).waiting.isSome || closeBlocked s h then s else (boundary s h).getD (takeBest s h)

/-- ARITH_ENTRY, at the boundary that R107 and R203 fix. -/
def arithEntry (s : State) (h : HalfId) : State :=
  if !takesArrival s h || closeBlocked s h || (s.ex h).waiting.isSome || !arithDue (s.ex h) (stPrec (s.curBank h).status) then s
  else enterArith s h

/-! ## The limits of a window (R189, R243, R267) -/

/-- A close that falls at the next boundary at which one may. -/
def limitClose (s : State) (h : HalfId) : State :=
  if !lanesRun s h || (s.ex h).waiting.isSome then s
  else if closeBlocked s h then s.onWin h fun w => { w with closeDue := !w.blank }
  else settled (closeNow s h) h

/-- The window has reached 2,048 slots (R189). -/
def slotLimit (s : State) (h : HalfId) : State := if 2048 ≤ (s.half h).win.slots then limitClose s h else s

/-- The window's log has reached 64 entries (R267). -/
def logLimit (s : State) (h : HalfId) : State := if 64 ≤ (s.half h).win.logged then limitClose s h else s

/-! ## TRAP and ILL (R72, R89, R133) -/

/-- The TRAP fault (R89, R228). -/
def trapFault (n : BitVec 6) : FaultInfo := faultOf cTrap 0 (n.setWidth 24)

/-- TRAP's effect: it retires with its number pushed, and the fault follows with the position after it (R89); a frame
for the cache counts in its return-stack check (R160). -/
def runTrap (n : BitVec 6) (s : State) (_ : HalfId) (_ : BitVec 5) (b : Bank) (dst : Pos) : Res :=
  match (if b.rv.isEmpty then returnFault b 0 2 else none) with
  | some f => .fault f
  | none => .done { doneOf s { b with ds := n.setWidth 36 :: b.ds } dst with after := .fault (trapFault n) false }

/-- TRAP (R89). -/
def opTrap (n : BitVec 6) : Op := ⟨0o76, .s, 0, 1, [], false, 1, runTrap n⟩

/-- The reserved selectors of EXT (R87). -/
def extReserved (x : BitVec 6) : Bool :=
  [0o05, 0o06, 0o07, 0o16, 0o17, 0o25, 0o26, 0o27, 0o36, 0o37, 0o44, 0o45, 0o46, 0o47].contains x.toNat || decide (0o52 ≤ x.toNat)

/-- The reserved selectors of RK (R88). -/
def rkReserved (x : BitVec 6) : Bool :=
  [0o05, 0o06, 0o07, 0o25, 0o26, 0o27, 0o33, 0o34, 0o35, 0o36, 0o37, 0o46, 0o47].contains x.toNat ||
    decide (0o52 ≤ x.toNat ∧ x.toNat < 0o60) || decide (0o66 ≤ x.toNat)

/-- ILL, or a reserved selector: ILLEGAL wherever it is decoded (R72, R86). -/
def illEnc (code : BitVec 6) (_ : BitVec 5) (_ : Bank) : Option FaultInfo := some (illegal eEncoding code)

/-- ILL has no effect of its own. -/
def opIll (code : BitVec 6) : Op := ⟨code, .s, 0, 0, [], false, 1, fun _ _ _ _ _ => .stall⟩

/-- A reserved selector of RK or EXT (R86). -/
def illSelector (s : State) (h : HalfId) (rk : Bool) (x : BitVec 6) : State :=
  if (if rk then rkReserved x else extReserved x) then
    attempt s h (selectorForm (if rk then 0o73 else 0o75)) false (illEnc x) (opIll x)
  else s

/-- ILL in a slot, or a reserved selector (R72, R86). -/
def illSlot (s : State) (h : HalfId) (sel : Option (Bool × BitVec 6)) : State :=
  match sel with
  | none => attempt s h simpleForm false (illEnc 0o77) (opIll 0o77)
  | some (rk, x) => illSelector s h rk x

/-! ## The commands -/

/-- WAIT (R129). -/
def execWait (h : HalfId) (s : State) : Host.Outcome State Fault Refusal := .next (runSlot s h opWait)
/-- WAIT_END (R131). DEDUCED: log 25, 26. -/
def execWaitEnd (h : HalfId) (timeUp : Bool) (s : State) : Host.Outcome State Fault Refusal := .next (waitEnd s h timeUp)
/-- SYNC (R351). -/
def execSync (h : HalfId) (s : State) : Host.Outcome State Fault Refusal := .next (syncSlot s h)
/-- TRAP (R89). -/
def execTrap (h : HalfId) (n : BitVec 6) (s : State) : Host.Outcome State Fault Refusal :=
  .next (attempt s h (selectorForm 0o76) false noEnc (opTrap n))
/-- ILL (R72). -/
def execIll (h : HalfId) (sel : Option (Bool × BitVec 6)) (s : State) : Host.Outcome State Fault Refusal :=
  .next (illSlot s h sel)
/-- EVENT_ENTRY (R414). DEDUCED: log 25, 61. -/
def execEventEntry (h : HalfId) (s : State) : Host.Outcome State Fault Refusal := .next (eventEntry s h)
/-- ARITH_ENTRY (R107). -/
def execArithEntry (h : HalfId) (s : State) : Host.Outcome State Fault Refusal := .next (arithEntry s h)
/-- WINDOW_SLOT_LIMIT (R189). -/
def execWindowSlotLimit (h : HalfId) (s : State) : Host.Outcome State Fault Refusal := .next (slotLimit s h)
/-- INPUT_LOG_LIMIT (R267). -/
def execInputLogLimit (h : HalfId) (s : State) : Host.Outcome State Fault Refusal := .next (logLimit s h)
/-- WINDOW_TIMER_EXPIRY (R243). DESIGN CHOICE: log 3. -/
def execWindowTimerExpiry (h : HalfId) (s : State) : Host.Outcome State Fault Refusal := .next (limitClose s h)

end Sys2Proof.Machine
end

