-- ==== Sys2Proof/Machine/Card.lean ====
section
/-! DEFINITION. The card port: its registers, transfers and commits (R454-R460, R470-R478), the folio link (R461-R463) and
the smart-card fall-back (R464-R469). -/

namespace Sys2Proof.Machine

/-- The block with the card port changed. -/
def State.onCrd (s : State) (f : Crd → Crd) : State := { s with crd := f s.crd }

/-- The block with CRD_XST changed. -/
def State.onXst (s : State) (f : CrdXst → CrdXst) : State := s.onCrd fun c => { c with xst := f c.xst }

/-! ## Codes (R229, R477) -/

/-- CARD-GONE. -/
def xGone : BitVec 6 := 0o50
/-- NO-CARD. -/
def xNoCard : BitVec 6 := 0o51
/-- TIMEOUT. -/
def xTimeout : BitVec 6 := 0o52
/-- CRC. -/
def xCrc : BitVec 6 := 0o53
/-- PARITY. -/
def xParity : BitVec 6 := 0o54
/-- CARD-ERROR. -/
def xCardError : BitVec 6 := 0o55
/-- ABORTED. -/
def xAborted : BitVec 6 := 0o56
/-- PROTOCOL. -/
def xProtocol : BitVec 6 := 0o57

/-! ## Card state (R470, R471, R475) -/

/-- The card state becomes `n`; a change is counted and raises source 197. -/
def crdCard (s : State) (n : BitVec 2) : State :=
  if s.crd.card = n then s else raiseSource (s.onCrd fun c => { c with card := n, detCnt := satInc c.detCnt }) 197

/-- The 7816 interface is deactivated (R464). -/
def Crd.deactivate (c : Crd) : Crd := { c with w4 := false, clk := 0, cls := 0, stopped := false, fidi := 0 }

/-! ## The end of a transfer (R460) -/

/-- CRD_XST (R477). -/
def xstCells (x : CrdXst) : Pair :=
  ⟨atBits x.state 33 ||| atBits x.code 27 ||| atBits x.blocks 23 ||| atBits x.seq 0,
   atBits x.count 24 ||| atBits x.index 16 ||| atBits x.rstat 0⟩

/-- A redirected completion is written to its tenant's ring. -/
def crdRing (s : State) (e : Stamp × Cell × Pair) : State :=
  completionRing s (gHalf e.1.ctx) e.1.tenant [ringHead 2 e.1, e.2.1, e.2.2.c0, e.2.2.c1]

/-- The completion of a transfer: source 196, and the tenant's ring where R301 redirects it; an issuer in HALT waits for
that until its half resumes. DEDUCED: log 61, 65. -/
def crdDeliver (s : State) (st : Stamp) : State :=
  let s := raiseSource s 196
  let e : Stamp × Cell × Pair := (st, atBits s.crd.xst.seq 0, xstCells s.crd.xst)
  if s.mode (gHalf st.ctx) = mHalt then s.onCrd fun c => { c with held := c.held ++ [e] }
  else if stampCurrent s st then s else crdRing s e

/-- A half resumes: what it held back is delivered (R460). DEDUCED: log 65. -/
def crdResume (s : State) (h : HalfId) : State :=
  let l := s.crd.held.filter fun e => gHalf e.1.ctx == h
  let s := s.onCrd fun c => { c with held := c.held.filter fun e => gHalf e.1.ctx != h }
  l.foldl (fun s e => if stampCurrent s e.1 then s else crdRing s e) s

/-- The transfer ends: done with code 0, else failed. -/
def crdEnd (s : State) (code : BitVec 6) : State :=
  match s.crd.xfer with
  | none => s.onCrd fun c => { c with phase := .idle }
  | some x =>
    let s := s.onXst fun r => { r with state := if code = 0 then 4 else 5, code := code }
    crdDeliver (s.onCrd fun c => { c with xfer := none, phase := .idle, tries := 0, blkTries := 0, chars := 0 }) x.stamp

/-! ## Memory (R458, R459) -/

/-- The half of an address, if it has one, is reachable through its commons port (R458). -/
def crdReaches (s : State) (a : Nat) : Bool :=
  decide (a < 2 ^ 24) &&
  match regionOf (BitVec.ofNat 24 a) with
  | .unmapped => false
  | .retained => true
  | .sram h => s.mode h != mOff && !(s.half h).tal.portLost
  | .nvm h => s.mode h != mOff && !(s.half h).tal.portLost

/-- Cells that hold a number of octets (R43). -/
def cellsFor (n : Nat) : Nat := (n + 3) / 4

/-- The checks of R458 over a length: the address, or the status code. -/
def crdCheck (s : State) (x : CrdXfer) (perm : Nat) (octets : Nat) : Except (BitVec 6) Addr :=
  let n := cellsFor octets
  let st := capStatus x.snap.cap true ⟨0, spData, perm, false, n⟩ x.off.toNat false
  let a := effAddr x.snap.cap x.off.toNat
  if st ≠ 0 then .error st
  else if !(List.range n).all fun i => crdReaches s (a + i) then .error eUnmapped
  else .ok (BitVec.ofNat 24 a)

/-- Cells read for the port, or the code of the first read that fails. -/
def crdRead (t : BitVec 10) : Nat → State → Addr → State × Except (BitVec 6) (List Cell)
  | 0, s, _ => (s, .ok [])
  | n + 1, s, a =>
    match homeRead (perfRun s a 1) a t .clean with
    | (s, .ok c) =>
      match crdRead t n s (a + 1) with
      | (s, .ok l) => (s, .ok (c.val :: l))
      | (s, .error e) => (s, .error e)
    | (s, _) => (s, .error (readFailStatus a))

/-- The data of a transfer to the card is read into staging (R459). -/
def crdFetch (s : State) (x : CrdXfer) (octets : Nat) : State × Except (BitVec 6) CrdXfer :=
  if octets = 0 then (s, .ok x)
  else match crdCheck s x pLD octets with
    | .error e => (s, .error e)
    | .ok a =>
      match crdRead x.snap.cap.tenant (cellsFor octets) s a with
      | (s, .error e) => (s, .error e)
      | (s, .ok l) => (s, .ok { x with staging := (octetsOfCells l).take octets })

/-- Octets that fill the last cell of a commit; the spec does not state them. DESIGN CHOICE: log 69. -/
def padOctets (s : State) (n : Nat) : List Octet := (List.range n).map fun i => octetOf (Config.freeCell s.free) (3 - i)

/-- The received octets are written in address order (R459). DESIGN CHOICE: log 69. -/
def crdStore (s : State) (x : CrdXfer) : State :=
  let n := cellsFor x.staging.length
  let l := x.staging ++ padOctets s (4 * n - x.staging.length)
  match crdCheck s x pST x.staging.length with
  | .error _ => s
  | .ok a => homeWrites s.draw (writesFrom a x.snap.cap.tenant (cellsOfOctets n l))

/-- A commit begins, under the checks of R458; with nothing received the transfer ends (R459, R467). -/
def crdCommit (s : State) (x : CrdXfer) : State :=
  if x.staging.isEmpty then crdEnd s 0
  else match crdCheck s x pST x.staging.length with
    | .error e => crdEnd s e
    | .ok _ => (s.onXst fun r => { r with state := 2 }).onCrd fun c => { c with phase := .commit, xfer := some x }

/-- CARD_COMMIT_DONE: the octets are in memory and the transfer is done (R459, R460). -/
def crdCommitDone (s : State) : State :=
  match s.crd.phase, s.crd.xfer with
  | .commit, some x => crdEnd (crdStore s x) 0
  | _, _ => s

/-! ## Removal (R471) -/

/-- The card is gone: a transfer that is not committing fails. -/
def crdGone (s : State) : State :=
  let s := if s.crd.phase = .commit then s else crdEnd s xGone
  crdCard (s.onCrd fun c => { c.deactivate with atr := [] }) 0

/-! ## The folio link (R461-R463) -/

/-- The index of the command that the port waits on. -/
def crdIndex (c : Crd) : BitVec 6 :=
  match c.phase with
  | .resetResp => 0o75
  | .negotiateResp _ => 0o76
  | _ =>
    match c.xfer with
    | none => 0
    | some x => if x.op = 1 then 0o44 else if x.op = 2 then 0o45 else fld x.cmd 24 6

/-- The port sends a command and waits for its response. DESIGN CHOICE: log 89. -/
def crdSend (s : State) (p : CrdPhase) : State := s.onCrd fun c => { c with phase := p, tries := 0 }

/-- A start-up ends with the card in a state; a RESET transfer ends with it (R470). DEDUCED: log 67. -/
def crdReady (s : State) (card : BitVec 2) : State := crdEnd (crdCard (s.onCrd fun c => { c with phase := .idle }) card) 0

/-- A 7816 card that is left not ready is deactivated (R464, R465). -/
def isoUnready (s : State) : State := crdReady (s.onCrd Crd.deactivate) 1

/-- Activation at class B, or C (R464). -/
def isoActivateAt (s : State) (b : Bool) : State :=
  s.onCrd fun c => { c.deactivate with phase := .atr b, cls := if b then 1 else 2, clk := 4, atr := [], chars := 0, fidi := 0x11 }

/-- Activation under ISO/IEC 7816-3 (R464); without the fall-back, or with no class permitted, the card is left not ready. -/
def isoActivate (s : State) : State :=
  let s := s.onCrd fun c => { c with pars := IsoPars.reset }
  if !s.bnd.tieSc7816 then isoUnready s
  else if s.crd.act.classC then isoActivateAt s false
  else if s.crd.act.classB then isoActivateAt s true
  else isoUnready s

/-- The start-up of a present card: the settings of CRD_CFG take effect (R470, R474). -/
def crdStartUp (s : State) : State :=
  let s := crdCard (s.onCrd fun c => { c.deactivate with act := c.cfg, fresh := false, tries := 0, atr := [] }) 1
  if s.crd.act.proto = 2 then isoActivate s else s.onCrd fun c => { c with phase := .wakeUp }

/-- No answer to the wake-up, or to RESET: under auto the card is activated under 7816 (R470). DEDUCED: log 67. -/
def crdNoFolio (s : State) : State := if s.crd.act.proto = 0 then isoActivate s else crdReady s 1

/-- A READ's or WRITE's first block not yet passed is asked for again (R463). -/
def crdAgain (s : State) : State := s.onCrd fun c => { c with phase := .commandResp, tries := 0 }

/-- The failed first command after a new setting: one line at 400 kHz is negotiated, and the command retried (R470). -/
def crdFallback (s : State) : State :=
  crdSend (s.onCrd fun c => { c with w4 := false, clk := 0, fresh := false }) (.negotiateResp true)

/-- A command has failed its last retry: with no response the card is gone, or is no folio card; else the transfer, or the
start-up, ends (R463, R470). DEDUCED: log 67. -/
def crdExhausted (s : State) (silent : Bool) : State :=
  match s.crd.phase with
  | .resetResp =>
    if silent then (if s.crd.act.proto = 0 ∧ s.bnd.tieSc7816 = true then isoActivate s else crdGone s)
    else crdEnd (crdCard s 1) xCrc
  | .negotiateResp false => if silent then crdGone s else crdReady s 2
  | .negotiateResp true => if silent then crdGone s else crdSend s .commandResp
  | _ => if s.crd.fresh then crdFallback s else if silent then crdGone s else crdEnd s xCrc

/-- A command is retried, up to 3 times. -/
def crdRetry (s : State) (silent : Bool) : State :=
  if 3 ≤ s.crd.tries then crdExhausted s silent
  else s.onCrd fun c => { c with tries := c.tries + 1, retries := satInc c.retries }

/-- A block is asked for or sent again, up to 3 times. DEDUCED: log 67. -/
def crdBlockRetry (s : State) (code : BitVec 6) : State :=
  if 3 ≤ s.crd.blkTries then crdEnd s code
  else crdAgain (s.onCrd fun c => { c with blkTries := c.blkTries + 1, retries := satInc c.retries })

/-- A CRC failure is counted. -/
def crdCrc (s : State) : State := s.onCrd fun c => { c with crc := satInc c.crc }

/-- A timeout is counted. -/
def crdLate (s : State) : State := s.onCrd fun c => { c with timeouts := satInc c.timeouts }

/-- A short response is good as a frame (R461). -/
def respGood (c : Crd) (f : BitVec 24) : Bool :=
  !bit f 23 && !bit f 22 && fld f 16 6 == crdIndex c && crc7 ((bitsMsb f).take 16) == fld f 1 7 && bit f 0 && !bit f 13

/-- The answer of NEGOTIATE is within the offer (R470). -/
def negotiated (c : Crd) (again : Bool) (f : BitVec 24) : Option (Bool × BitVec 3) :=
  let w4 := bit f 12
  let clk : BitVec 2 := fld f 10 2
  let inOffer := if again then !w4 && clk == 0 else (c.act.maxW4 || !w4) && decide (clk ≤ c.act.maxClk)
  if inOffer then some (w4, clk.setWidth 3) else none

/-- A good response without busy or error (R463, R470). -/
def crdAccepted (s : State) (f : BitVec 24) : State :=
  match s.crd.phase with
  | .resetResp => crdSend s (.negotiateResp false)
  | .negotiateResp again =>
    let r := (negotiated s.crd again f).getD (false, 0)
    let s := s.onCrd fun c => { c with w4 := r.1, clk := r.2, fresh := r != (false, 0) }
    if again then crdSend s .commandResp else crdReady s 2
  | _ =>
    let s := s.onCrd fun c => { c with tries := 0, fresh := false }
    match s.crd.xfer with
    | none => s
    | some x =>
      if x.op = 1 then s.onCrd fun c => { c with phase := .dataBlock }
      else if x.op = 2 then s.onCrd fun c => { c with phase := .receipt }
      else crdEnd s 0

/-- The last response of a transfer is kept in CRD_XST (R477). -/
def crdKeep (s : State) (f : BitVec 24) : State :=
  if s.crd.phase = .commandResp then
    s.onXst fun r => { r with index := (fld f 16 6 : BitVec 6).setWidth 8, rstat := (fld f 8 8 : Octet).setWidth 16 }
  else s

/-- A start-up command that the card answers with an error (R470): NEGOTIATE leaves one line at 400 kHz. -/
def crdError (s : State) : State :=
  match s.crd.phase with
  | .resetResp => crdEnd (crdCard s 1) xCardError
  | .negotiateResp false => crdReady s 2
  | .negotiateResp true => crdSend s .commandResp
  | _ => crdEnd s xCardError

/-- The port waits for a response. -/
def CrdPhase.waitsResponse : CrdPhase → Bool
  | .resetResp | .negotiateResp _ | .commandResp => true
  | _ => false

/-- A short response (R463). -/
def crdResponse (s : State) (f : BitVec 24) : State :=
  if !s.crd.phase.waitsResponse then s
  else if !respGood s.crd f then crdRetry (crdCrc s) false
  else
    let s := crdKeep s f
    if bit f 14 then s.onCrd fun c => { c with phase := .busyWait c.phase }
    else if bit f 15 then crdError s
    else crdAccepted s f

/-- A line's frame of a block is good (R462). -/
def frameGood (tag : BitVec 4) (octets : Nat) (l : LineFrame) : Bool :=
  l.tag == tag && l.octets.length == octets && l.stop && crc16 (bitsMsb l.tag ++ l.octets.flatMap bitsMsb) == l.crc

/-- The octets of four lines, octet j from line j mod 4 (R462). -/
def stripe (lines : List LineFrame) : List Octet :=
  (List.range 128).flatMap fun i => lines.map fun l => l.octets.getD i 0

/-- Blocks of a READ or WRITE. -/
def CrdXfer.blocks (x : CrdXfer) : Nat := x.len / 512

/-- A data block of a READ (R462, R463). -/
def crdBlock (s : State) (lines : List LineFrame) : State :=
  match s.crd.phase, s.crd.xfer with
  | .dataBlock, some x =>
    let tag : BitVec 4 := s.crd.xst.blocks
    let good := if s.crd.w4 then lines.length == 4 && lines.all (frameGood tag 128)
                else lines.length == 1 && lines.all (frameGood tag 512)
    if !good then crdBlockRetry (crdCrc s) xCrc
    else
      let x := { x with staging := x.staging ++ (if s.crd.w4 then stripe lines else lines.flatMap fun l => l.octets) }
      let s := (s.onXst fun r => { r with blocks := r.blocks + 1 }).onCrd fun c => { c with xfer := some x, blkTries := 0 }
      if x.blocks ≤ s.crd.xst.blocks.toNat then crdCommit s x else s
  | _, _ => s

/-- A receipt says that its block was accepted (R462). -/
def receiptGood (tag : BitVec 4) (f : BitVec 10) : Bool :=
  !bit f 9 && !bit f 8 && fld f 6 2 == (3 : BitVec 2) && fld f 2 4 == tag && countTrue (bitsMsb (fld f 1 7 : BitVec 7)) % 2 == 1 &&
    bit f 0

/-- The receipt of a WRITE block (R462, R463). -/
def crdReceipt (s : State) (f : BitVec 10) : State :=
  if s.crd.phase = .receipt then
    if receiptGood s.crd.xst.blocks f then
      (s.onXst fun r => { r with blocks := r.blocks + 1 }).onCrd fun c => { c with phase := .lineBusy, blkTries := 0 }
    else crdBlockRetry (crdCrc s) xCrc
  else s

/-- The command line is high again: the next block is sent, or the WRITE is done (R462). -/
def crdRelease (s : State) : State :=
  match s.crd.phase, s.crd.xfer with
  | .lineBusy, some x =>
    if x.blocks ≤ s.crd.xst.blocks.toNat then crdEnd s 0 else s.onCrd fun c => { c with phase := .receipt }
  | _, _ => s

/-- A folio limit expires (R463, R470). -/
def crdTimeout (s : State) : State :=
  match s.crd.phase with
  | .wakeUp => crdNoFolio s
  | .resetResp | .negotiateResp _ | .commandResp => crdRetry (crdLate s) true
  | .busyWait p =>
    let s := crdLate s
    if p = .commandResp then crdEnd s xTimeout else crdEnd (crdCard s 1) xTimeout
  | .dataBlock => crdBlockRetry (crdLate s) xTimeout
  | .receipt => crdBlockRetry (crdLate s) xCrc
  | .lineBusy => crdEnd (crdLate s) xTimeout
  | _ => s

/-! ## The smart-card fall-back (R464-R468) -/

/-- The interface bytes of an ATR (R465). -/
structure AtrInfo where
  ta1 : Option Octet
  tc1 : Option Octet
  ta2 : Option Octet
  tc2 : Option Octet
  tags : List (BitVec 4)
  ta15 : Option Octet
deriving DecidableEq, Repr

/-- An octet of the ATR's tail, present when its bit of Y is set, with what follows. -/
def atrTake (present : Bool) (l : List Octet) : Option Octet × List Octet :=
  if present then (l.head?, l.drop 1) else (none, l)

/-- The interface bytes from group `i` on: `y` says which are present, `t` is the protocol of the group (R465). -/
def atrGroups : Nat → Nat → BitVec 4 → BitVec 4 → List Octet → AtrInfo → AtrInfo
  | 0, _, _, _, _, r => r
  | n + 1, i, y, t, l, r =>
    let a := atrTake (bit y 0) l
    let b := atrTake (bit y 1) a.2
    let c := atrTake (bit y 2) b.2
    let d := atrTake (bit y 3) c.2
    let r := { r with
      ta1 := if i = 1 then a.1 else r.ta1
      tc1 := if i = 1 then c.1 else r.tc1
      ta2 := if i = 2 then a.1 else r.ta2
      tc2 := if i = 2 then c.1 else r.tc2
      ta15 := if 2 < i ∧ t = 15 ∧ r.ta15 = none then a.1 else r.ta15 }
    match d.1 with
    | none => r
    | some td => atrGroups n (i + 1) (fld td 4 4) (fld td 0 4) d.2 { r with tags := r.tags ++ [fld td 0 4] }

/-- The interface bytes of an ATR after TS. -/
def atrInfo (l : List Octet) : AtrInfo :=
  match l with
  | [] => ⟨none, none, none, none, [], none⟩
  | t0 :: t => atrGroups 8 1 (fld t0 4 4) 0 t ⟨none, none, none, none, [], none⟩

/-- An ATR offers T=0: in specific mode TA2 names it; otherwise it is among the protocols named, or none is (R465). -/
def AtrInfo.offersT0 (a : AtrInfo) : Bool :=
  match a.ta2 with
  | some t => fld t 0 4 == (0 : BitVec 4)
  | none => a.tags.isEmpty || a.tags.contains 0

/-- Di by code; 1 where the code is reserved (R465). -/
def diOf (c : BitVec 4) : Nat :=
  match c.toNat with
  | 2 => 2 | 3 => 4 | 4 => 8 | 5 => 16 | 6 => 32 | 7 => 64 | 8 => 12 | 9 => 20
  | _ => 1

/-- The supported codes of Di (R465). -/
def diCodes : List (BitVec 4) := [1, 2, 3, 4, 8, 5, 9, 6]

/-- The pair of a TA1 is supported (R465). -/
def pairSupported (t : Octet) : Bool :=
  (fld t 4 4 == (0 : BitVec 4) || fld t 4 4 == (1 : BitVec 4) || fld t 4 4 == (9 : BitVec 4)) && diCodes.contains (fld t 0 4)

/-- The pair that a PPS asks for (R465). -/
def ppsPair (t : Octet) : Octet :=
  if pairSupported t then t
  else
    let best := diCodes.foldl (fun m c => if diOf c ≤ diOf (fld t 0 4) ∧ diOf m ≤ diOf c then c else m) (1 : BitVec 4)
    (1 : BitVec 4) ++ best

/-- A pair equals Fi = 372, Di = 1. -/
def pairDefault (t : Octet) : Bool :=
  (fld t 4 4 == (0 : BitVec 4) || fld t 4 4 == (1 : BitVec 4)) && fld t 0 4 == (1 : BitVec 4)

/-- The clock in use once a PPS has applied a pair: 5 MHz where the fmax of its Fi is 5 MHz (R465). -/
def ppsClock (t : Octet) : BitVec 3 := if fld t 4 4 = (0 : BitVec 4) then 4 else 5

/-- The parameters that an ATR gives. DEDUCED: log 68. -/
def atrPars (a : AtrInfo) (ts : Octet) (p : IsoPars) : IsoPars :=
  { p with
    guard := a.tc1.getD 0
    wi := match a.tc2 with
          | some w => if w = 0 then 10 else w
          | none => 10
    clockX := match a.ta15 with
              | some t => fld t 6 2
              | none => 0
    inverse := ts == 0x3F }

/-- The class indicator of an ATR excludes class C (R464). -/
def excludesC (a : AtrInfo) : Bool :=
  match a.ta15 with
  | some t => !bit t 2
  | none => false

/-- No usable card at this class: class B follows after 10 ms where it is permitted (R464). -/
def isoNext (s : State) (b : Bool) : State :=
  if !b && s.crd.act.classB then s.onCrd fun c => { c.deactivate with phase := .reactivate } else isoUnready s

/-- A usable ATR: the pair it gives is used, or a PPS is sent (R465). DEDUCED: log 68. -/
def isoPair (s : State) (a : AtrInfo) : State :=
  let use (t : Octet) : State := crdReady (s.onCrd fun c => { c with fidi := t }) 3
  match a.ta2, a.ta1 with
  | some _, some t => if pairSupported t then use t else isoUnready s
  | some _, none => use 0x11
  | none, none => use 0x11
  | none, some t =>
    if pairDefault t || s.crd.pars.noPps then use 0x11
    else s.onCrd fun c => { c with phase := .pps, chars := 0, pars := { c.pars with ppsPair := ppsPair t } }

/-- An ATR (R464, R465). -/
def isoAtr (s : State) (l : List Octet) : State :=
  match s.crd.phase with
  | .atr b =>
    let l := l.take 33
    let ts := l.headD 0
    let a := atrInfo (l.drop 1)
    let s := s.onCrd fun c => { c with atr := l, chars := 0, pars := atrPars a ts c.pars }
    if (ts != 0x3B && ts != 0x3F) || !a.offersT0 then isoUnready s
    else if !b && excludesC a then isoNext s b
    else isoPair s a
  | _ => s

/-- A PPS that was not echoed: the card is activated again, without a PPS (R465). DEDUCED: log 68. -/
def isoPpsFailed (s : State) : State :=
  let b := s.crd.cls == 1
  isoActivateAt (s.onCrd fun c => { c with pars := { IsoPars.reset with noPps := true } }) b

/-- The answer to a PPS: an exact echo applies the pair (R465). -/
def isoPps (s : State) (l : List Octet) : State :=
  if s.crd.phase = .pps then
    let p := s.crd.pars.ppsPair
    if l = [0xFF, 0x10, p, 0xFF ^^^ 0x10 ^^^ p] then crdReady (s.onCrd fun c => { c with fidi := p, clk := ppsClock p }) 3
    else isoPpsFailed s
  else s

/-- Data octets that a TPDU moves (R467). -/
def tpduCount (dir : Bool) (p3 : Octet) : Nat := if dir ∧ p3 = 0 then 256 else p3.toNat

/-- A TPDU fails and the card is deactivated. -/
def isoFail (s : State) (code : BitVec 6) : State := crdCard ((crdEnd s code).onCrd Crd.deactivate) 1

/-- Octets of an outbound TPDU have gone to the card. -/
def isoSent (s : State) (n : Nat) : State := s.onXst fun r => { r with count := r.count + BitVec.ofNat 12 n }

/-- A procedure byte (R467). -/
def isoProcedure (s : State) (x : CrdXfer) (o : Octet) : State :=
  let ins : Octet := fld x.cmd 16 8
  let left := tpduCount x.dir x.p3 - s.crd.xst.count.toNat
  if o = 0x60 then s
  else if o = ins then
    if left = 0 then s else if x.dir then s.onCrd fun c => { c with phase := .rxData false } else isoSent s left
  else if o = ~~~ins then
    if left = 0 then s else if x.dir then s.onCrd fun c => { c with phase := .rxData true } else isoSent s 1
  else if fld o 4 4 = (6 : BitVec 4) ∨ fld o 4 4 = (9 : BitVec 4) then s.onCrd fun c => { c with phase := .sw2 o }
  else crdEnd s xProtocol

/-- A data octet from the card (R467). -/
def isoData (s : State) (x : CrdXfer) (one : Bool) (o : Octet) : State :=
  let x := { x with staging := x.staging ++ [o] }
  let s := (isoSent s 1).onCrd fun c => { c with xfer := some x }
  if one || decide (tpduCount x.dir x.p3 ≤ s.crd.xst.count.toNat) then s.onCrd fun c => { c with phase := .procedure } else s

/-- A character's failure is counted; the fifth of one character ends the transfer, or the start-up (R466). -/
def isoCharFailed (s : State) : State :=
  let s := s.onCrd fun c => { c with parity := satInc c.parity, chars := c.chars + 1 }
  if s.crd.chars < 5 then s
  else match s.crd.phase with
    | .atr _ => isoUnready s
    | .pps => isoUnready s
    | _ => isoFail s xParity

/-- The port is exchanging characters with a 7816 card. -/
def CrdPhase.iso : CrdPhase → Bool
  | .atr _ | .pps | .procedure | .rxData _ | .sw2 _ => true
  | _ => false

/-- A character from the card (R466, R467). -/
def isoCharacter (s : State) (o : Octet) (parityOk : Bool) : State :=
  if !s.crd.phase.iso then s
  else if !parityOk then isoCharFailed s
  else
    let s := s.onCrd fun c => { c with chars := 0 }
    match s.crd.phase, s.crd.xfer with
    | .procedure, some x => isoProcedure s x o
    | .rxData one, some x => isoData s x one o
    | .sw2 sw1, some x =>
      let s := s.onXst fun r => { r with rstat := sw1 ++ o }
      if x.dir then crdCommit s x else crdEnd s 0
    | _, _ => s

/-- The card signals an error on a character of the port (R466). -/
def isoErrorSignal (s : State) : State :=
  if s.crd.phase = .procedure ∨ s.crd.phase = .pps then isoCharFailed s else s

/-- The work waiting time expires (R467). DEDUCED: log 68. -/
def isoWaited (s : State) : State :=
  match s.crd.phase with
  | .procedure | .rxData _ | .sw2 _ => isoFail (crdLate s) xTimeout
  | _ => s

/-- No ATR has come in time, or the 10 ms before class B are over (R464). -/
def isoActivationLate (s : State) : State :=
  match s.crd.phase with
  | .atr b => isoNext s b
  | .reactivate => isoActivateAt s true
  | _ => s

/-- The 7816 clock stops (R468). -/
def isoClockStop (s : State) : State :=
  let c := s.crd
  if c.card = 3 ∧ c.act.clkstop = true ∧ c.pars.clockX ≠ 0 ∧ c.xfer = none ∧ c.phase = .idle then
    s.onCrd fun c => { c with stopped := true }
  else s

/-! ## Starts (R455-R457) -/

/-- The length of a transfer, in octets: by block count, or by P3. -/
def startLen (c : Crd) (op : BitVec 3) : Nat :=
  if op = 1 ∨ op = 2 then 512 * ((fld c.cmd0 21 3 : BitVec 3).toNat + 1) else if op = 3 then tpduCount c.dir c.p3 else 0

/-- The card is ready for an operation (R457). -/
def cardReady (c : Crd) (op : BitVec 3) : Bool :=
  if op = 3 then c.card == 3 else if op = 4 then c.card != 0 else c.card == 2

/-- Data of the operation goes to memory. -/
def CrdXfer.inbound (x : CrdXfer) : Bool := x.op == 1 || (x.op == 3 && x.dir)

/-- The target lies in NVM. -/
def CrdXfer.toNvm (x : CrdXfer) : Bool :=
  let a := effAddr x.snap.cap x.off.toNat
  (List.range (cellsFor x.len)).any fun i => (regionOf (BitVec.ofNat 24 (a + i))).isNvm

/-- Why a start fails; 0: it runs (R457). -/
def startRefusal (s : State) (x : CrdXfer) : BitVec 6 :=
  let c := s.crd
  if 5 ≤ x.op.toNat ∨ (x.op = 3 ∧ c.len.toNat ≠ x.len) then eOperand
  else if !s.bnd.tieCard || !cardReady c x.op then xNoCard
  else if !x.snap.genOk then eGeneration
  else if x.inbound && x.toNvm && s.lockedMode (gHalf x.stamp.ctx) then eModeLocked
  else 0

/-- A transfer runs: data for the card is read first (R459, R461, R467, R470). -/
def startRun (s : State) (x : CrdXfer) : State :=
  let s := s.onCrd fun c => { c with xfer := some x, tries := 0, blkTries := 0, chars := 0, stopped := false }
  if x.op = 4 then crdStartUp s
  else
    match crdFetch s x (if x.inbound ∨ x.op = 0 then 0 else x.len) with
    | (s, .error e) => crdEnd s e
    | (s, .ok x) => s.onCrd fun c => { c with xfer := some x, phase := if x.op = 3 then .procedure else .commandResp }

/-- A write of CRD_GO with go by a writer whose capability register was copied (R455, R457). DEDUCED: log 65. -/
def crdGo (s : State) (w : Writer) (snap : CapSnap) (op : BitVec 3) : State :=
  match s.crd.xfer with
  | some _ =>
    let s := s.onCrd fun c => { c with busyIgn := satInc c.busyIgn }
    reportCommons s .crd 23 s.crd.busyIgn (atBits s.crd.xst.seq 0)
  | none =>
    let c := s.crd
    let x : CrdXfer := ⟨op, snap, ⟨w.tenant, w.gen, gctx w.half w.ctx⟩, c.off, c.cmd0, startLen c op, c.dir, c.p3, []⟩
    let e := startRefusal s x
    let s := s.onCrd fun c => { c with xst := { CrdXst.zero with state := 1, seq := c.nextSeq }, nextSeq := c.nextSeq + 1 }
    if e = 0 then startRun s x else
      let s := s.onXst fun r => { r with state := 5, code := e }
      crdDeliver s x.stamp

/-- An abort of a transfer that is not committing (R460). DEDUCED: log 66. -/
def crdAbort (s : State) : State := if s.crd.phase = .commit then s else if s.crd.xfer.isSome then crdEnd s xAborted else s

/-- A write of CRD_GO (R476). DEDUCED: log 66. -/
def crdGoWrite (s : State) (w : Writer) (snap : CapSnap) (x : Cell) : State :=
  let running := s.crd.xfer.isSome
  let s := s.onCrd fun c => { c with op := fld x 31 3, n := fld x 29 2 }
  let s := if bit x 35 then crdGo s w snap (fld x 31 3) else s
  if bit x 34 && running then crdAbort s else s

/-! ## Presence (R454, R470, R474) -/

/-- The detect pin has held the level of presence, and the port operates. -/
def crdPresent (s : State) : Bool := s.bnd.tieCard && s.crd.en && s.crd.detect == s.crd.act.detPol

/-- The card state follows presence (R470, R471). -/
def crdFollow (s : State) : State :=
  if crdPresent s then (if s.crd.card = 0 ∧ s.crd.phase ≠ .commit then crdStartUp s else s)
  else if s.crd.card = 0 then s else crdGone s

/-- CARD_DETECT: CRD_DET has held a level for 1 ms (R470). -/
def crdDetect (s : State) (level : Bool) : State := crdFollow (s.onCrd fun c => { c with detect := level })

/-- The settings of a CRD_CFG cell (R474). -/
def CrdCfg.ofCell (x : Cell) : CrdCfg :=
  let p : BitVec 2 := fld x 33 2
  ⟨if p = 3 then 0 else p, bit x 32, fld x 30 2, bit x 29, bit x 28, bit x 27, bit x 26⟩

/-- CRD_CFG (R474). -/
def crdCfgCell (c : Crd) : Cell :=
  atBit c.en 35 ||| atBits c.cfg.proto 33 ||| atBit c.cfg.detPol 32 ||| atBits c.cfg.maxClk 30 ||| atBit c.cfg.maxW4 29 |||
    atBit c.cfg.clkstop 28 ||| atBit c.cfg.classB 27 ||| atBit c.cfg.classC 26

/-- A write of CRD_CFG: `en` acts at once, the rest at the next start-up (R474). -/
def crdCfgWrite (s : State) (x : Cell) : State := crdFollow (s.onCrd fun c => { c with en := bit x 35, cfg := CrdCfg.ofCell x })

/-- The charter's CRD_CFG: its settings are in force from the first start-up (R472, R474). DEDUCED: log 66. -/
def crdInstall (s : State) (x : Cell) : State :=
  crdFollow (s.onCrd fun c => { c with en := bit x 35, cfg := CrdCfg.ofCell x, act := CrdCfg.ofCell x })

/-! ## Registers (R473-R478) -/

/-- CRD_STAT (R475). -/
def crdStat (s : State) : Cell :=
  let c := s.crd
  atBits c.card 34 ||| atBit c.xfer.isSome 33 ||| atBit c.w4 32 ||| atBits c.clk 29 ||| atBits c.cls 27 ||| atBit c.stopped 26 |||
    atBits c.fidi 18 ||| atBits c.detCnt 10

/-- The ATR as it reads: only while a 7816 card is present (R478). -/
def atrShown (c : Crd) : List Octet := if c.card = 3 ∨ (c.card = 1 ∧ c.cls ≠ 0) then c.atr else []

/-- Reads of CRD at offset `o` of 0o030000 (R473). -/
def crdReadReg (s : State) (o : Nat) : Option (Cell × Cell) :=
  let c := s.crd
  if o = 0 then some (crdCfgCell c, 0)
  else if o = 1 then some (crdStat s, 0)
  else if o = 2 then some (atBits c.cmd0 0, atBit c.dir 35 ||| atBits c.p3 0)
  else if o = 4 then some (atBits c.off 0, atBits c.len 0)
  else if o = 6 then some (atBit c.xfer.isSome 35 ||| atBits c.op 31 ||| atBits c.n 29, 0)
  else if o = 0o10 then some ((xstCells c.xst).c0, (xstCells c.xst).c1)
  else if o = 0o12 then some (atBits c.retries 27 ||| atBits c.crc 18 ||| atBits c.timeouts 9 ||| atBits c.parity 0, 0)
  else if 0o20 ≤ o ∧ o < 0o31 then some (cellOfOctets (((atrShown c).drop (4 * (o - 0o20))).take 4), 0)
  else if o = 0o31 then some (atBits (BitVec.ofNat 6 (atrShown c).length) 0, 0)
  else none

/-- Writes of CRD (R473). -/
def crdWrite (s : State) (w : Writer) (snap : CapSnap) (o : Nat) (x0 x1 : Cell) : State :=
  if o = 0 then crdCfgWrite s x0
  else if o = 2 then s.onCrd fun c => { c with cmd0 := fld x0 0 32, dir := bit x1 35, p3 := fld x1 0 8 }
  else if o = 4 then s.onCrd fun c => { c with off := fld x0 0 24, len := fld x1 0 12 }
  else if o = 6 then crdGoWrite s w snap x0
  else s

/-! ## Commands -/

/-- A start as the running context of half w makes it, with its Cn copied (R455). -/
def crdStart (s : State) (w : HalfId) (op : BitVec 3) (n : BitVec 2) : State :=
  regCommand s w w false fun wr =>
    crdGoWrite s wr (s.snapCap w ((s.curBank w).cap n)) (atBit true 35 ||| atBits op 31 ||| atBits n 29)

/-- Inputs of the card port are ignored while the main domain is isolated (R579). -/
def crdInput (s : State) (f : State → State) : State := if s.isolated then s else f s

/-- COMMAND (R456). -/
def execCommand (w : HalfId) (n : BitVec 2) (s : State) : Host.Outcome State Fault Refusal := .next (crdStart s w 0 n)
/-- READ (R456). -/
def execRead (w : HalfId) (n : BitVec 2) (s : State) : Host.Outcome State Fault Refusal := .next (crdStart s w 1 n)
/-- WRITE (R456). -/
def execWrite (w : HalfId) (n : BitVec 2) (s : State) : Host.Outcome State Fault Refusal := .next (crdStart s w 2 n)
/-- TPDU (R456). -/
def execTpdu (w : HalfId) (n : BitVec 2) (s : State) : Host.Outcome State Fault Refusal := .next (crdStart s w 3 n)
/-- RESET (R456). -/
def execReset (w : HalfId) (n : BitVec 2) (s : State) : Host.Outcome State Fault Refusal := .next (crdStart s w 4 n)
/-- ABORT (R460). -/
def execAbort (w : HalfId) (s : State) : Host.Outcome State Fault Refusal := .next (regCommand s w w false fun _ => crdAbort s)
/-- FOLIO_RESPONSE (R463). -/
def execFolioResponse (f : BitVec 24) (s : State) : Host.Outcome State Fault Refusal :=
  .next (crdInput s fun s => crdResponse s f)
/-- FOLIO_DATA_BLOCK (R462). -/
def execFolioDataBlock (lines : List LineFrame) (s : State) : Host.Outcome State Fault Refusal :=
  .next (crdInput s fun s => crdBlock s lines)
/-- FOLIO_RECEIPT (R462). -/
def execFolioReceipt (f : BitVec 10) (s : State) : Host.Outcome State Fault Refusal :=
  .next (crdInput s fun s => crdReceipt s f)
/-- FOLIO_TIMEOUT (R463). -/
def execFolioTimeout (s : State) : Host.Outcome State Fault Refusal := .next (crdTimeout s)
/-- FOLIO_BUSY_RETRY: the command is issued again (R463). -/
def execFolioBusyRetry (s : State) : Host.Outcome State Fault Refusal :=
  match s.crd.phase with
  | .busyWait p => .next (s.onCrd fun c => { c with phase := p })
  | _ => .next s
/-- CARD_COMMIT_DONE (R459, R460). -/
def execCardCommitDone (s : State) : Host.Outcome State Fault Refusal := .next (crdCommitDone s)
/-- CARD_DETECT (R470). -/
def execCardDetect (level : Bool) (s : State) : Host.Outcome State Fault Refusal :=
  .next (crdInput s fun s => crdDetect s level)
/-- ATR (R465). -/
def execAtr (octets : List Octet) (s : State) : Host.Outcome State Fault Refusal := .next (crdInput s fun s => isoAtr s octets)
/-- PPS_RESPONSE (R465). -/
def execPpsResponse (octets : List Octet) (s : State) : Host.Outcome State Fault Refusal :=
  .next (crdInput s fun s => isoPps s octets)
/-- PPS_TIMEOUT (R465). -/
def execPpsTimeout (s : State) : Host.Outcome State Fault Refusal :=
  .next (if s.crd.phase = .pps then isoPpsFailed s else s)
/-- CHARACTER_RECEIVE (R466). -/
def execCharacterReceive (o : Octet) (parityOk : Bool) (s : State) : Host.Outcome State Fault Refusal :=
  .next (crdInput s fun s => isoCharacter s o parityOk)
/-- CHARACTER_ERROR_SIGNAL (R466). -/
def execCharacterErrorSignal (s : State) : Host.Outcome State Fault Refusal := .next (crdInput s isoErrorSignal)
/-- WORK_WAITING_TIMEOUT (R467). -/
def execWorkWaitingTimeout (s : State) : Host.Outcome State Fault Refusal := .next (isoWaited s)
/-- ACTIVATION_TIMEOUT (R464). -/
def execActivationTimeout (s : State) : Host.Outcome State Fault Refusal := .next (isoActivationLate s)
/-- CLOCK_STOP (R468). -/
def execClockStop (s : State) : Host.Outcome State Fault Refusal := .next (isoClockStop s)
/-- COMMAND_LINE_RELEASE (R462). -/
def execCommandLineRelease (s : State) : Host.Outcome State Fault Refusal := .next (crdInput s crdRelease)
/-- FOLIO_WAKE_UP_ANSWER: the card is a folio card, and RESET is sent (R470). -/
def execFolioWakeUpAnswer (s : State) : Host.Outcome State Fault Refusal :=
  .next (crdInput s fun s => if s.crd.phase = .wakeUp then crdSend s .resetResp else s)

end Sys2Proof.Machine
end

