-- ==== Sys2Proof/Machine/Crypto.lean ====
section
/-! DEFINITION. The algorithms of the standards that R369 names, as far as they compute their results from their inputs:
FIPS 180-4, FIPS 202, FIPS 197, SP 800-38D, the transforms of FIPS 203 and FIPS 204, RSA, and the curves. PRESUMED: the
spec names the standards; their contents are taken from outside it. Octet strings are lists, first octet first. -/

namespace Sys2Proof.Machine

/-! ## Octet strings and numbers -/

/-- The number that octets spell, the first one least significant. -/
def leNat : List Octet → Nat
  | [] => 0
  | o :: l => o.toNat + 256 * leNat l

/-- The number that octets spell, the first one most significant. -/
def beNat (l : List Octet) : Nat := leNat l.reverse

/-- `n` octets of a number, least significant first. -/
def leOctets : Nat → Nat → List Octet
  | 0, _ => []
  | n + 1, x => BitVec.ofNat 8 x :: leOctets n (x / 256)

/-- `n` octets of a number, most significant first. -/
def beOctets (n x : Nat) : List Octet := (leOctets n x).reverse

/-- A list cut into pieces of `n`. -/
def pieces {α : Type} (n : Nat) : Nat → List α → List (List α)
  | 0, _ => []
  | k + 1, l => if l.isEmpty then [] else l.take n :: pieces n k (l.drop n)

/-- Two strings combined octet by octet, the shorter one limiting. -/
def xorOctets (a b : List Octet) : List Octet := List.zipWith (fun x y => x ^^^ y) a b

/-- `b ^ e mod m`, for an exponent of at most `n` bits. -/
def powBits (m : Nat) : Nat → Nat → Nat → Nat
  | 0, _, _ => 1 % m
  | n + 1, b, e =>
    let r := powBits m n (b * b % m) (e / 2)
    if e % 2 = 1 then r * b % m else r

/-- `b ^ e mod m`. -/
def powMod (b e m : Nat) : Nat := powBits m (e.log2 + 1) (b % m) e

/-- The inverse modulo a prime. -/
def invMod (x p : Nat) : Nat := powMod x (p - 2) p

/-- Montgomery reduction: `x * 2 ^ (-n) mod m` for odd `m`. -/
def montRed (m : Nat) : Nat → Nat → Nat
  | 0, x => x % m
  | n + 1, x => montRed m n (if x % 2 = 0 then x / 2 else (x + m) / 2)

/-! ## Keccak, SHA-3 and SHAKE (FIPS 202) -/

/-- The round constants of Keccak-f[1600]. -/
def keccakRc : List (BitVec 64) :=
  [0x1, 0x8082, 0x800000000000808a, 0x8000000080008000,
   0x808b, 0x80000001, 0x8000000080008081, 0x8000000000008009,
   0x8a, 0x88, 0x80008009, 0x8000000a,
   0x8000808b, 0x800000000000008b, 0x8000000000008089, 0x8000000000008003] ++
  [0x8000000000008002, 0x8000000000000080, 0x800a, 0x800000008000000a,
   0x8000000080008081, 0x8000000000008080, 0x80000001, 0x8000000080008008]

/-- The rotation offsets of the lanes x + 5y. -/
def keccakRot : List Nat :=
  [0x0, 0x1, 0x3e, 0x1c, 0x1b, 0x24, 0x2c, 0x6, 0x37,
   0x14, 0x3, 0xa, 0x2b, 0x19, 0x27, 0x29] ++
  [0x2d, 0xf, 0x15, 0x8, 0x12, 0x2, 0x3d, 0x38, 0xe]

/-- Lane i of a Keccak state. -/
def lane64 (a : List (BitVec 64)) (i : Nat) : BitVec 64 := a.getD i 0

/-- The theta step. -/
def keccakTheta (a : List (BitVec 64)) : List (BitVec 64) :=
  let c := (List.range 5).map fun x => lane64 a x ^^^ lane64 a (x + 5) ^^^ lane64 a (x + 10) ^^^ lane64 a (x + 15) ^^^ lane64 a (x + 20)
  (List.range 25).map fun i => lane64 a i ^^^ lane64 c ((i + 4) % 5) ^^^ (lane64 c ((i + 1) % 5)).rotateLeft 1

/-- The rho and pi steps. -/
def keccakRhoPi (a : List (BitVec 64)) : List (BitVec 64) :=
  (List.range 25).map fun i =>
    let j := (i % 5 + 3 * (i / 5)) % 5 + 5 * (i % 5)
    (lane64 a j).rotateLeft (keccakRot.getD j 0)

/-- The chi step. -/
def keccakChi (a : List (BitVec 64)) : List (BitVec 64) :=
  (List.range 25).map fun i =>
    lane64 a i ^^^ (~~~(lane64 a ((i + 1) % 5 + 5 * (i / 5))) &&& lane64 a ((i + 2) % 5 + 5 * (i / 5)))

/-- A round. -/
def keccakRound (a : List (BitVec 64)) (rc : BitVec 64) : List (BitVec 64) :=
  let b := keccakChi (keccakRhoPi (keccakTheta a))
  b.set 0 (lane64 b 0 ^^^ rc)

/-- Keccak-f[1600]. PRESUMED: log 52. -/
def keccakF (a : List (BitVec 64)) : List (BitVec 64) := keccakRc.foldl keccakRound a

/-- The lanes of octets. -/
def lanesOf (l : List Octet) : List (BitVec 64) := (pieces 8 l.length l).map fun p => BitVec.ofNat 64 (leNat p)

/-- A block absorbed. -/
def keccakAbsorb (a : List (BitVec 64)) (block : List Octet) : List (BitVec 64) :=
  let b := lanesOf block
  keccakF ((List.range 25).map fun i => lane64 a i ^^^ lane64 b i)

/-- The first octets of a Keccak state. -/
def keccakOut (rate : Nat) (a : List (BitVec 64)) : List Octet := (a.flatMap fun x => leOctets 8 x.toNat).take rate

/-- Octets squeezed, a block at a time. -/
def keccakSqueeze (rate : Nat) : Nat → List (BitVec 64) → List Octet
  | 0, _ => []
  | n + 1, a => keccakOut rate a ++ keccakSqueeze rate n (keccakF a)

/-- A message padded to the rate. -/
def keccakPad (rate : Nat) (suffix : Octet) (m : List Octet) : List Octet :=
  let n := rate - m.length % rate
  m ++ (if n = 1 then [suffix ||| 0x80] else suffix :: List.replicate (n - 2) 0 ++ [0x80])

/-- `n` octets of the sponge over a message. -/
def sponge (rate : Nat) (suffix : Octet) (n : Nat) (m : List Octet) : List Octet :=
  let p := keccakPad rate suffix m
  (keccakSqueeze rate (n / rate + 1) ((pieces rate p.length p).foldl keccakAbsorb (List.replicate 25 0))).take n

/-! ## SHA-2 (FIPS 180-4) -/

/-- The largest number below `r + 2 ^ n` whose `e`-th power is at most `x`, found bit by bit from `r`. -/
def rootFrom (e x : Nat) : Nat → Nat → Nat
  | 0, r => r
  | n + 1, r => rootFrom e x n (if (r + 2 ^ n) ^ e ≤ x then r + 2 ^ n else r)

/-- The first `w` bits of the fraction of the `e`-th root of a number below 512. -/
def rootFraction (e w p : Nat) : Nat := rootFrom e (p * 2 ^ (e * w)) (w + 5) 0 % 2 ^ w

/-- The primes below 410 (the first eighty), in order. -/
def smallPrimes : List Nat :=
  ((List.range 410).drop 2).filter fun n => ((List.range 21).drop 2).all fun d => n % d != 0 || n == d

/-- The round constants: the fractions of the cube roots of the first primes. -/
def sha2K (w n : Nat) : List Nat := (smallPrimes.take n).map (rootFraction 3 w)

/-- An initial value: the fractions of the square roots of eight primes, after the first `n` of them. -/
def sha2H (w n : Nat) : List Nat := ((smallPrimes.drop n).take 8).map (rootFraction 2 w)

/-- A member of the SHA-2 family: word width, rotations of the four functions, constants and initial value. -/
structure Sha2 (w : Nat) where
  big0 : Nat × Nat × Nat
  big1 : Nat × Nat × Nat
  small0 : Nat × Nat × Nat
  small1 : Nat × Nat × Nat
  k : List Nat
  init : List Nat

/-- Three rotations combined. -/
def rot3 {w : Nat} (r : Nat × Nat × Nat) (x : BitVec w) : BitVec w :=
  x.rotateRight r.1 ^^^ x.rotateRight r.2.1 ^^^ x.rotateRight r.2.2

/-- Two rotations and a shift combined. -/
def rotShift {w : Nat} (r : Nat × Nat × Nat) (x : BitVec w) : BitVec w :=
  x.rotateRight r.1 ^^^ x.rotateRight r.2.1 ^^^ (x >>> r.2.2)

/-- The message schedule, latest word first, extended by `n` words. -/
def shaSchedule {w : Nat} (h : Sha2 w) : Nat → List (BitVec w) → List (BitVec w)
  | 0, l => l
  | n + 1, l =>
    shaSchedule h n ((rotShift h.small1 (l.getD 1 0) + l.getD 6 0 + rotShift h.small0 (l.getD 14 0) + l.getD 15 0) :: l)

/-- A round over the eight working words. -/
def shaRound {w : Nat} (h : Sha2 w) (v : List (BitVec w)) (kw : BitVec w) : List (BitVec w) :=
  let x (i : Nat) : BitVec w := v.getD i 0
  let t1 := x 7 + rot3 h.big1 (x 4) + ((x 4 &&& x 5) ^^^ (~~~(x 4) &&& x 6)) + kw
  let t2 := rot3 h.big0 (x 0) + ((x 0 &&& x 1) ^^^ (x 0 &&& x 2) ^^^ (x 1 &&& x 2))
  [t1 + t2, x 0, x 1, x 2, x 3 + t1, x 4, x 5, x 6]

/-- A block compressed into a hash value. -/
def shaBlock {w : Nat} (h : Sha2 w) (v : List (BitVec w)) (block : List Octet) : List (BitVec w) :=
  let m := (pieces (w / 8) 16 block).map fun p => BitVec.ofNat w (beNat p)
  let ws := (shaSchedule h (h.k.length - 16) m.reverse).reverse
  let e := (List.zipWith (fun k x => BitVec.ofNat w k + x) h.k ws).foldl (shaRound h) v
  List.zipWith (fun a b => a + b) v e

/-- A message padded to blocks. -/
def shaPad (w : Nat) (m : List Octet) : List Octet :=
  let b := 2 * w
  let z := (2 * b - (m.length + 1 + w / 4) % b) % b
  m ++ [0x80] ++ List.replicate z 0 ++ beOctets (w / 4) (8 * m.length)

/-- The hash of a message, all its words. -/
def shaFull {w : Nat} (h : Sha2 w) (m : List Octet) : List Octet :=
  let p := shaPad w m
  ((pieces (2 * w) p.length p).foldl (shaBlock h) (h.init.map (BitVec.ofNat w))).flatMap fun x => beOctets (w / 8) x.toNat

/-- SHA-256. PRESUMED: log 52. -/
def sha256 (m : List Octet) : List Octet :=
  shaFull (w := 32) ⟨(2, 13, 22), (6, 11, 25), (7, 18, 3), (17, 19, 10), sha2K 32 64, sha2H 32 0⟩ m

/-- SHA-384. -/
def sha384 (m : List Octet) : List Octet :=
  (shaFull (w := 64) ⟨(28, 34, 39), (14, 18, 41), (1, 8, 7), (19, 61, 6), sha2K 64 80, sha2H 64 8⟩ m).take 48

/-- SHA-512, as Ed25519 uses it. -/
def sha512 (m : List Octet) : List Octet :=
  shaFull (w := 64) ⟨(28, 34, 39), (14, 18, 41), (1, 8, 7), (19, 61, 6), sha2K 64 80, sha2H 64 0⟩ m

/-! ## AES (FIPS 197) -/

/-- Multiplication by x. -/
def xtime (a : Octet) : Octet := if bit a 7 then (a <<< 1) ^^^ 0x1b else a <<< 1

/-- Multiplication in the field of AES, over the low `n` bits of the second factor. -/
def gfMul : Nat → Octet → Octet → Octet
  | 0, _, _ => 0
  | n + 1, a, b => (if bit b 0 then a else 0) ^^^ gfMul n (xtime a) (b >>> 1)

/-- The `n`-th power in the field of AES. -/
def gfPow (a : Octet) : Nat → Octet
  | 0 => 1
  | n + 1 => gfMul 8 a (gfPow a n)

/-- The inverse in the field, 0 for 0. -/
def gfInv (a : Octet) : Octet :=
  let a2 := gfMul 8 a a
  let a3 := gfMul 8 a2 a
  let a6 := gfMul 8 a3 a3
  let a12 := gfMul 8 a6 a6
  let a15 := gfMul 8 a12 a3
  let a30 := gfMul 8 a15 a15
  let a60 := gfMul 8 a30 a30
  let a120 := gfMul 8 a60 a60
  let a240 := gfMul 8 a120 a120
  gfMul 8 (gfMul 8 a240 a12) a2

/-- The substitution of an octet. -/
def subOctet (a : Octet) : Octet :=
  let b := gfInv a
  b ^^^ b.rotateLeft 1 ^^^ b.rotateLeft 2 ^^^ b.rotateLeft 3 ^^^ b.rotateLeft 4 ^^^ 0x63

/-- The inverse substitution of an octet. -/
def invSubOctet (a : Octet) : Octet :=
  let b := a ^^^ 0x63
  gfInv (b.rotateLeft 1 ^^^ b.rotateLeft 3 ^^^ b.rotateLeft 6)

/-- Octet i of a block. -/
def blk (l : List Octet) (i : Nat) : Octet := l.getD i 0

/-- The next word of a key schedule: `l` is the schedule, latest word first, `nk` the key's words, i the word's number. -/
def nextKeyWord (nk i : Nat) (rcon : Octet) (l : List (List Octet)) : List Octet :=
  let t := l.getD 0 []
  let t := if i % nk = 0 then
      match (t.drop 1 ++ t.take 1).map subOctet with
      | a :: r => (a ^^^ rcon) :: r
      | [] => []
    else if 6 < nk ∧ i % nk = 4 then t.map subOctet else t
  xorOctets (l.getD (nk - 1) []) t

/-- `n` more words of a key schedule. -/
def keyWords (nk : Nat) : Nat → Nat → Octet → List (List Octet) → List (List Octet)
  | 0, _, _, l => l
  | n + 1, i, rcon, l => keyWords nk n (i + 1) (if i % nk = 0 then xtime rcon else rcon) (nextKeyWord nk i rcon l :: l)

/-- The rounds of a key of `nk` words. -/
def aesRounds (nk : Nat) : Nat := nk + 6

/-- The key schedule of a key of 16 or 32 octets, in order. -/
def aesSchedule (key : List Octet) : List Octet :=
  let nk := key.length / 4
  (keyWords nk (4 * (aesRounds nk + 1) - nk) nk 1 (pieces 4 nk key).reverse).reverse.flatten

/-- Rows shifted. -/
def shiftRows (b : List Octet) : List Octet := (List.range 16).map fun i => blk b ((i + 4 * (i % 4)) % 16)

/-- Rows shifted back. -/
def invShiftRows (b : List Octet) : List Octet := (List.range 16).map fun i => blk b ((i + 12 * (i % 4)) % 16)

/-- Columns multiplied by the circulant of four octets. -/
def mixWith (m : List Octet) (b : List Octet) : List Octet :=
  (List.range 16).map fun i =>
    (List.range 4).foldl (fun x j => x ^^^ gfMul 8 (blk b (i / 4 * 4 + (i + j) % 4)) (blk m j)) 0

/-- The round key of round i of a schedule. -/
def roundKey (ks : List Octet) (i : Nat) : List Octet := (ks.drop (16 * i)).take 16

/-- The inner rounds of the cipher, from round i. -/
def aesInner (ks : List Octet) : Nat → Nat → List Octet → List Octet
  | 0, _, b => b
  | n + 1, i, b => aesInner ks n (i + 1) (xorOctets (mixWith [2, 3, 1, 1] (shiftRows (b.map subOctet))) (roundKey ks i))

/-- The cipher under a schedule of `nr` rounds. PRESUMED: log 52. -/
def aesEncrypt (ks : List Octet) (nr : Nat) (b : List Octet) : List Octet :=
  xorOctets (shiftRows ((aesInner ks (nr - 1) 1 (xorOctets b (roundKey ks 0))).map subOctet)) (roundKey ks nr)

/-- The inner rounds of the inverse cipher, of which `n` remain. -/
def aesInnerInv (ks : List Octet) : Nat → List Octet → List Octet
  | 0, b => b
  | n + 1, b =>
    aesInnerInv ks n (mixWith [14, 11, 13, 9] (xorOctets ((invShiftRows b).map invSubOctet) (roundKey ks (n + 1))))

/-- The inverse cipher under a schedule of `nr` rounds. -/
def aesDecrypt (ks : List Octet) (nr : Nat) (b : List Octet) : List Octet :=
  xorOctets ((invShiftRows (aesInnerInv ks (nr - 1) (xorOctets b (roundKey ks nr)))).map invSubOctet) (roundKey ks 0)

/-! ## GCM (SP 800-38D) -/

/-- A block as a number, its first octet most significant. -/
def gcmBlock (l : List Octet) : BitVec 128 := BitVec.ofNat 128 (beNat (l ++ List.replicate (16 - l.length) 0))

/-- Multiplication of GHASH, over `n` more bits of the first factor. -/
def ghashMul : Nat → BitVec 128 → BitVec 128 → BitVec 128 → BitVec 128
  | 0, _, _, z => z
  | n + 1, x, v, z =>
    ghashMul n (x <<< 1) (if bit v 0 then (v >>> 1) ^^^ (0xe1 <<< 120) else v >>> 1) (if bit x 127 then z ^^^ v else z)

/-- GHASH over data that fills its blocks. -/
def ghash (hk : BitVec 128) (l : List Octet) : BitVec 128 :=
  (pieces 16 l.length l).foldl (fun y p => ghashMul 128 (y ^^^ gcmBlock p) hk 0) 0

/-- Data padded to blocks. -/
def padBlock (l : List Octet) : List Octet := l ++ List.replicate ((16 - l.length % 16) % 16) 0

/-- The counter block after `n` increments. -/
def ctrBlock (iv : List Octet) (n : Nat) : List Octet := iv ++ beOctets 4 (n + 1)

/-- Data under the key stream from counter `n` on. -/
def gctr (enc : List Octet → List Octet) (iv : List Octet) : Nat → List (List Octet) → List Octet
  | _, [] => []
  | n, p :: t => xorOctets p (enc (ctrBlock iv n)) ++ gctr enc iv (n + 1) t

/-- A message under the key stream. -/
def gcmStream (enc : List Octet → List Octet) (iv m : List Octet) : List Octet := gctr enc iv 1 (pieces 16 m.length m)

/-- The tag over additional data and ciphertext. -/
def gcmTag (enc : List Octet → List Octet) (iv a c : List Octet) : List Octet :=
  let hk := gcmBlock (enc (List.replicate 16 0))
  let y := ghash hk (padBlock a ++ padBlock c ++ beOctets 8 (8 * a.length) ++ beOctets 8 (8 * c.length))
  xorOctets (beOctets 16 y.toNat) (enc (ctrBlock iv 0))

/-! ## The transforms of FIPS 203 and FIPS 204 -/

/-- The low `n` bits of a number in reverse. -/
def revBits : Nat → Nat → Nat
  | 0, _ => 0
  | n + 1, x => x % 2 * 2 ^ n + revBits n (x / 2)

/-- The forward transform of `n` layers with root z modulo q; `k` numbers the node, `bits` the width of the reversal. -/
def nttRec (q z bits : Nat) : Nat → Nat → List Nat → List Nat
  | 0, _, l => l
  | n + 1, k, l =>
    let lo := l.take (l.length / 2)
    let hi := (l.drop (l.length / 2)).map fun x => powMod z (revBits bits k) q * x % q
    nttRec q z bits n (2 * k) (List.zipWith (fun a b => (a + b) % q) lo hi) ++
      nttRec q z bits n (2 * k + 1) (List.zipWith (fun a b => (a + q - b) % q) lo hi)

/-- The inverse transform, but for its final factor; `order` is the root's. -/
def inttRec (q z bits order : Nat) : Nat → Nat → List Nat → List Nat
  | 0, _, l => l
  | n + 1, k, l =>
    let lo := inttRec q z bits order n (2 * k) (l.take (l.length / 2))
    let hi := inttRec q z bits order n (2 * k + 1) (l.drop (l.length / 2))
    let w := powMod z (order - revBits bits k) q
    List.zipWith (fun a b => (a + b) % q) lo hi ++ List.zipWith (fun a b => w * (a + q - b) % q) lo hi

/-- The modulus of ML-KEM. -/
def kemQ : Nat := 3329

/-- The modulus of ML-DSA. -/
def dsaQ : Nat := 8380417

/-- The transform of ML-KEM (`f` false) or ML-DSA. PRESUMED: log 52. -/
def ntt (f : Bool) (l : List Nat) : List Nat := if f then nttRec dsaQ 1753 8 8 1 l else nttRec kemQ 17 7 7 1 l

/-- The inverse transform. -/
def intt (f : Bool) (l : List Nat) : List Nat :=
  if f then (inttRec dsaQ 1753 8 512 8 1 l).map fun x => 8347681 * x % dsaQ
  else (inttRec kemQ 17 7 256 7 1 l).map fun x => 3303 * x % kemQ

/-- The pairwise products of ML-KEM, from pair i. -/
def kemMul : Nat → List Nat → List Nat → List Nat
  | i, a0 :: a1 :: a, b0 :: b1 :: b =>
    let g := powMod 17 (2 * revBits 7 i + 1) kemQ
    (a0 * b0 + a1 * b1 % kemQ * g) % kemQ :: (a0 * b1 + a1 * b0) % kemQ :: kemMul (i + 1) a b
  | _, _, _ => []

/-- The product in the transform domain. -/
def polyMul (f : Bool) (a b : List Nat) : List Nat :=
  if f then List.zipWith (fun x y => x * y % dsaQ) a b else kemMul 0 a b

/-! ## RSA (RFC 8017) -/

/-- the secret-key operation by the factors: p, q, dp, dq and qinv. -/
def rsaCrt (p q dp dq qinv x : Nat) : Nat :=
  let m1 := powMod x dp p
  let m2 := powMod x dq q
  let h := (m1 + p * (m2 / p + 1) - m2) * qinv % p
  m2 + q * h

/-! ## X25519 (RFC 7748) -/

/-- The field of Curve25519. -/
def p255 : Nat := 2 ^ 255 - 19

/-- The ladder over `n` more bits of a scalar, highest first. -/
def ladder (k x1 : Nat) : Nat → Nat × Nat × Nat × Nat → Nat × Nat × Nat × Nat
  | 0, v => v
  | n + 1, (x2, z2, x3, z3) =>
    let p := p255
    let b := k / 2 ^ n % 2 = 1
    let v : Nat × Nat × Nat × Nat := if b then (x3, z3, x2, z2) else (x2, z2, x3, z3)
    let a := (v.1 + v.2.1) % p
    let c := (v.1 + p - v.2.1) % p
    let aa := a * a % p
    let cc := c * c % p
    let e := (aa + p - cc) % p
    let da := (v.2.2.1 + p - v.2.2.2) * a % p
    let cb := (v.2.2.1 + v.2.2.2) * c % p
    let y3 := (da + cb) * (da + cb) % p
    let w3 := x1 * ((da + p - cb) * (da + p - cb) % p) % p
    let y2 := aa * cc % p
    let w2 := e * (aa + 121665 * e) % p
    ladder k x1 n (if b then (y3, w3, y2, w2) else (y2, w2, y3, w3))

/-- The scalar that 32 octets give: the highest bit cleared, the next set, the low three cleared. -/
def clampScalar (l : List Octet) : Nat := leNat l % 2 ^ 254 / 8 * 8 + 2 ^ 254

/-- X25519 of a scalar and a u-coordinate. -/
def x25519 (scalar u : List Octet) : List Octet :=
  let x1 := leNat u % 2 ^ 255 % p255
  let r := ladder (clampScalar scalar) x1 255 (1, 0, x1, 1)
  leOctets 32 (r.1 * invMod r.2.1 p255 % p255)

/-! ## ECDSA verification (FIPS 186-5) -/

/-- A curve y² = x³ - 3x + b over p, with its generator and order. -/
structure Curve where
  p : Nat
  b : Nat
  gx : Nat
  gy : Nat
  n : Nat

/-- P-256. -/
def curveP256 : Curve :=
  { p := 0xffffffff00000001000000000000000000000000ffffffffffffffffffffffff
    b := 0x5ac635d8aa3a93e7b3ebbd55769886bc651d06b0cc53b0f63bce3c3e27d2604b
    gx := 0x6b17d1f2e12c4247f8bce6e563a440f277037d812deb33a0f4a13945d898c296
    gy := 0x4fe342e2fe1a7f9b8ee7eb4a7c0f9e162bce33576b315ececbb6406837bf51f5
    n := 0xffffffff00000000ffffffffffffffffbce6faada7179e84f3b9cac2fc632551 }

/-- P-384. -/
def curveP384 : Curve :=
  { p := 0xfffffffffffffffffffffffffffffffffffffffffffffffffffffffffffffffeffffffff0000000000000000ffffffff
    b := 0xb3312fa7e23ee7e4988e056be3f82d19181d9c6efe8141120314088f5013875ac656398d8a2ed19d2a85c8edd3ec2aef
    gx := 0xaa87ca22be8b05378eb1c71ef320ad746e1d3b628ba79b9859f741e082542a385502f25dbf55296c3a545e3872760ab7
    gy := 0x3617de4a96262c6f5d9e98bf9292dc29f8f41dbd289a147ce9da3113b5f0b8c00a60b1ce1d7e819d7a431d7c90ea0e5f
    n := 0xffffffffffffffffffffffffffffffffffffffffffffffffc7634d81f4372ddf581a0db248b0a77aecec196accc52973 }

/-- The third point of a line of the given slope. -/
def chord (c : Curve) (m x1 y1 x2 : Nat) : Option (Nat × Nat) :=
  let x := (m * m + 2 * c.p - x1 - x2) % c.p
  some (x, (m * (x1 + c.p - x) + c.p - y1) % c.p)

/-- The sum of two points; none is the point at infinity. -/
def ecAdd (c : Curve) : Option (Nat × Nat) → Option (Nat × Nat) → Option (Nat × Nat)
  | none, q => q
  | p, none => p
  | some (x1, y1), some (x2, y2) =>
    if x1 = x2 then
      if (y1 + y2) % c.p = 0 then none
      else chord c ((3 * x1 * x1 + c.p - 3) % c.p * invMod (2 * y1) c.p % c.p) x1 y1 x2
    else chord c ((y2 + c.p - y1) % c.p * invMod (x2 + c.p - x1) c.p % c.p) x1 y1 x2

/-- A multiple of a point, for a factor of at most `n` bits. -/
def ecMul (c : Curve) : Nat → Nat → Option (Nat × Nat) → Option (Nat × Nat)
  | 0, _, _ => none
  | n + 1, k, p =>
    let r := ecMul c n (k / 2) (ecAdd c p p)
    if k % 2 = 1 then ecAdd c r p else r

/-- The point lies on the curve. -/
def onCurve (c : Curve) (x y : Nat) : Bool :=
  decide (x < c.p ∧ y < c.p) && y * y % c.p == (x * x % c.p * x + c.p * 3 - 3 * x + c.b) % c.p

/-- ECDSA verification: point, digest and signature, `n` octets to a coordinate. PRESUMED: log 52. -/
def ecdsaVerify (c : Curve) (n : Nat) (pub digest sig : List Octet) : Bool :=
  let x := beNat (pub.take n)
  let y := beNat (pub.drop n)
  let r := beNat (sig.take n)
  let s := beNat (sig.drop n)
  if !onCurve c x y || r == 0 || s == 0 || decide (c.n ≤ r) || decide (c.n ≤ s) then false
  else
    let w := invMod s c.n
    match ecAdd c (ecMul c 384 (beNat digest * w % c.n) (some (c.gx, c.gy))) (ecMul c 384 (r * w % c.n) (some (x, y))) with
    | none => false
    | some q => q.1 % c.n == r

/-! ## Ed25519 (RFC 8032, FIPS 186-5) -/

/-- The constant d of the curve. -/
def edD : Nat := 37095705934669439343138083508754565189542113879843219016388785533085940283555

/-- The order of the generator. -/
def edL : Nat := 2 ^ 252 + 27742317777372353535851937790883648493

/-- The generator. -/
def edB : Nat × Nat :=
  (15112221349535400772501151409588531511454012693041857206046113283949847762202,
   46316835694926478169428394003475163141307993866256225615783033603165251855960)

/-- The sum of two points. -/
def edAdd (a b : Nat × Nat) : Nat × Nat :=
  let p := p255
  let t := edD * (a.1 * b.1 % p) % p * (a.2 * b.2 % p) % p
  ((a.1 * b.2 + a.2 * b.1) % p * invMod (1 + t) p % p, (a.2 * b.2 + a.1 * b.1) % p * invMod (1 + p - t) p % p)

/-- A multiple of a point, for a factor of at most `n` bits. -/
def edMul : Nat → Nat → Nat × Nat → Nat × Nat
  | 0, _, _ => (0, 1)
  | n + 1, k, p =>
    let r := edMul n (k / 2) (edAdd p p)
    if k % 2 = 1 then edAdd r p else r

/-- The encoding of a point. -/
def edEncode (a : Nat × Nat) : List Octet := leOctets 32 (a.2 + 2 ^ 255 * (a.1 % 2))

/-- The point that 32 octets encode. -/
def edDecode (l : List Octet) : Option (Nat × Nat) :=
  let p := p255
  let y := leNat l % 2 ^ 255
  let sign := leNat l / 2 ^ 255
  let u := (y * y + p - 1) % p
  let v := (edD * (y * y % p) + 1) % p
  let x2 := u * invMod v p % p
  let r := powMod x2 ((p + 3) / 8) p
  let x := if r * r % p = x2 then r else r * powMod 2 ((p - 1) / 4) p % p
  if p ≤ y ∨ x * x % p ≠ x2 ∨ (x = 0 ∧ sign = 1) then none else some (if x % 2 = sign then x else p - x, y)

/-- The Ed25519 signature of a message under a seed. -/
def edSign (seed m : List Octet) : List Octet :=
  let h := sha512 seed
  let a := clampScalar (h.take 32)
  let pub := edEncode (edMul 256 a edB)
  let r := leNat (sha512 (h.drop 32 ++ m)) % edL
  let rr := edEncode (edMul 256 r edB)
  let k := leNat (sha512 (rr ++ pub ++ m)) % edL
  rr ++ leOctets 32 ((r + k * a) % edL)

/-- Ed25519 verification. PRESUMED: log 52. -/
def edVerify (pub m sig : List Octet) : Bool :=
  let s := leNat (sig.drop 32)
  match edDecode pub, edDecode (sig.take 32) with
  | some a, some r =>
    let k := leNat (sha512 (sig.take 32 ++ pub ++ m)) % edL
    decide (s < edL) && edMul 256 (8 * s % edL) edB == edAdd (edMul 4 8 r) (edMul 4 8 (edMul 256 k a))
  | _, _ => false

end Sys2Proof.Machine
end

