-- ==== Sys2Proof/Machine/Slot.lean ====
section
/-! DEFINITION. The charter image: the header, the directory, the sections' tables, the owner key and the choice of a slot
(R484-R493, R525). -/

namespace Sys2Proof.Machine

/-! ## Cells, sections and octets (R486-R488) -/

/-- The cells of a list as a sparse table, from number `i` on. -/
def cellTable : Nat → List Cell → Sparse Cell
  | _, [] => []
  | i, c :: t => if c = 0 then cellTable (i + 1) t else (i, c) :: cellTable (i + 1) t

/-- A charter image as cells by number. -/
abbrev Image := Sparse Cell

/-- Cell i of an image. -/
def Image.cell (m : Image) (i : Nat) : Cell := sget 0 m i

/-- The charter's length L in cells (R487). -/
def Image.length (m : Image) : Nat := (fld (m.cell 1) 0 24).toNat

/-- The charter's version V (R487). -/
def Image.version (m : Image) : Cell := m.cell 2

/-- The image's body is read in quad mode (R487). -/
def Image.quad (m : Image) : Bool := bit (m.cell 3) 0

/-- The offset of section k, 0 when it is absent (R487). -/
def Image.off (m : Image) (k : Nat) : Nat := (fld (m.cell (8 + 2 * k)) 0 15).toNat

/-- The length of section k (R487). -/
def Image.len (m : Image) (k : Nat) : Nat := (fld (m.cell (9 + 2 * k)) 0 15).toNat

/-- Section k is present. -/
def Image.has (m : Image) (k : Nat) : Bool := m.off k != 0

/-- Cell i of section k. -/
def Image.at (m : Image) (k i : Nat) : Cell := m.cell (m.off k + i)

/-- The 9 flash octets of a pair of cells (R486). -/
def flashPair (a b : Cell) : List Octet := beOctets 9 (a.toNat * 2 ^ 36 + b.toNat)

/-- The flash octets of the first `2 n` cells (R486). -/
def Image.octets (m : Image) (n : Nat) : List Octet :=
  (List.range n).flatMap fun i => flashPair (m.cell (2 * i)) (m.cell (2 * i + 1))

/-- The cells of a flash image's octets (R486). -/
def flashCells (l : List Octet) : List Cell :=
  (pieces 9 l.length l).flatMap fun p =>
    let n := beNat (p ++ List.replicate (9 - p.length) 0)
    [cellOf (n / 2 ^ 36), cellOf n]

/-- SHA3-256 of a string, octet 0 in the top bits. -/
def sha3Bits (l : List Octet) : BitVec 256 := BitVec.ofNat 256 (beNat (sponge 136 0x06 32 l))

/-- The owner key's hash: SHA3-256 over key pair 0 (R492). -/
def Image.ownerHash (m : Image) : BitVec 256 := sha3Bits (octetsOfCells ((List.range 504).map (m.at 0)))

/-- The digest d: SHA3-256 over the octets before section 15 (R492). -/
def Image.digest (m : Image) : BitVec 256 := sha3Bits (m.octets (m.off 15 / 2))

/-! ## The header and the directory (R487, R490) -/

/-- Every bit of a field is zero. -/
def zeroBits (c : Cell) (lo len : Nat) : Bool := (c >>> lo) &&& ((1 <<< len) - 1) == 0

/-- The zero fields of the header (R487). -/
def Image.headerZero (m : Image) : Bool :=
  zeroBits (m.cell 3) 1 35 && ([4, 5, 6, 7].all fun i => m.cell i == 0) &&
    (List.range 32).all fun i => zeroBits (m.cell (8 + i)) 15 21

/-- The reason for which a header is rejected, 0 for none (R490). -/
def Image.headerReason (m : Image) (responds quadAgrees : Bool) : BitVec 4 :=
  if !responds || m.cell 0 != 0o526311620044 then 1
  else if fld (m.cell 1) 24 12 != (1 : BitVec 12) || !m.headerZero || (m.quad && !quadAgrees) then 2
  else if m.length % 2 = 1 ∨ m.length < 40 ∨ 14560 < m.length ∨ m.version = 0 then 3
  else 0

/-- The sections' numbers. -/
def sectionNos : List Nat := List.range 16

/-- The length that a section must have (R488, R525). -/
def sectionLen (k n : Nat) : Bool :=
  match k with
  | 0 => n % 504 == 0 && decide (504 ≤ n) && decide (n ≤ 4536)
  | 1 => n == 16
  | 2 => n == 2048
  | 3 => n == 386
  | 4 => n == 386
  | 5 => n == 12
  | 6 => n == 776
  | 7 => n == 128
  | 8 => decide (n ≤ 64)
  | 9 => n == 10 || n == 522
  | 15 => n == 844
  | _ => false

/-- A section lies where it may, with its length (R490). -/
def Image.sectionOk (m : Image) (k : Nat) : Bool :=
  !m.has k || (m.off k % 2 == 0 && decide (40 ≤ m.off k) && decide (m.off k + m.len k ≤ m.length) && sectionLen k (m.len k))

/-- Two sections share no cell. -/
def Image.apart (m : Image) (j k : Nat) : Bool :=
  j == k || !m.has j || !m.has k || decide (m.off j + m.len j ≤ m.off k) || decide (m.off k + m.len k ≤ m.off j)

/-- The directory is in order (R490). -/
def Image.directoryOk (m : Image) : Bool :=
  m.has 0 && m.has 15 && m.off 15 + m.len 15 == m.length &&
    sectionNos.all (fun k => m.sectionOk k && sectionNos.all (m.apart k))

/-! ## The tables of the body (R488-R490, R525) -/

/-- Every cell i of n cells of section k satisfies a test, where the section is present. -/
def Image.each (m : Image) (k n : Nat) (p : Nat → Cell → Bool) : Bool :=
  !m.has k || (List.range n).all fun i => p i (m.at k i)

/-- The zero fields of the body: guard bits, the tail of the signature, and the tenants' (R486, R488, R489). -/
def Image.bodyZero (m : Image) : Bool :=
  m.each 0 (m.len 0) (fun _ c => zeroBits c 32 4) && m.each 15 844 (fun _ c => zeroBits c 32 4) &&
    zeroBits (m.at 15 827) 8 24 && m.each 2 2048 (fun i c => i % 2 == 1 || zeroBits c 24 4)

/-- The register images of section BLOCK keep their tables (R488). -/
def blockCellOk (i : Nat) (c : Cell) : Bool :=
  match i with
  | 0 => zeroBits c 14 21 && decide (125 ≤ (fld c 0 14).toNat ∧ (fld c 0 14).toNat ≤ 16000)
  | 1 => zeroBits c 9 27
  | 2 => zeroBits c 22 8
  | 3 => zeroBits c 24 12 && zeroBits c 6 7 && zeroBits c 0 3
  | 4 => zeroBits c 24 12
  | 7 => zeroBits c 0 26
  | 8 => zeroBits c 0 34
  | 9 => zeroBits c 2 34
  | 10 => zeroBits c 32 4
  | 11 => zeroBits c 32 4
  | 12 => zeroBits c 32 4
  | 13 => zeroBits c 32 4
  | _ => true

/-- The images of SCHED0 and SCHED1 keep their tables (R399-R401, R488). -/
def schedCellOk (i : Nat) (c : Cell) : Bool :=
  if i = 384 then zeroBits c 24 12
  else if i = 385 then zeroBits c 16 20
  else match i % 3 with
    | 0 => true
    | 1 => zeroBits c 24 7
    | _ => zeroBits c 16 20

/-- The images of ENERGY keep their tables (R402, R403, R488). -/
def energyCellOk (i : Nat) (c : Cell) : Bool :=
  if i < 2 then zeroBits c 24 12 && zeroBits c 8 8
  else if i = 2 then zeroBits c 18 18
  else if i = 3 then zeroBits c 9 27
  else zeroBits c 16 20

/-- The images of EVENTS keep their tables (R426, R427, R488). -/
def eventCellOk (i : Nat) (c : Cell) : Bool :=
  if 768 ≤ i then zeroBits c 32 4
  else match i % 3 with
    | 0 => zeroBits c 6 30
    | 1 => zeroBits c 8 28
    | _ => zeroBits c 32 4

/-- The images of MAILBOX keep their tables (R440, R488). -/
def mailCellOk (i : Nat) (c : Cell) : Bool :=
  if i % 2 = 0 then zeroBits c 30 5 && zeroBits c 0 12 else zeroBits c 16 20

/-- Section FLEET keeps its table (R525). -/
def Image.fleetOk (m : Image) : Bool :=
  !m.has 9 ||
    (zeroBits (m.at 9 0) 29 6 && m.each 9 10 (fun i c => decide (i < 2) || zeroBits c 10 25) &&
     m.each 9 (m.len 9) (fun i c => decide (i < 10) || zeroBits c 32 4) &&
     (!bit (m.at 9 0) 35 ||
      (decide (1 ≤ (fld (m.at 9 0) 14 15).toNat ∧ (fld (m.at 9 0) 14 15).toNat ≤ 16384) &&
       decide ((fld (m.at 9 0) 0 14).toNat < (fld (m.at 9 0) 14 15).toNat) && m.at 9 1 != 0)))

/-- Every register image keeps its table, and tenant 0 is valid and early (R489, R490). -/
def Image.tablesOk (m : Image) : Bool :=
  m.each 1 16 blockCellOk && m.each 3 386 schedCellOk && m.each 4 386 schedCellOk && m.each 5 12 energyCellOk &&
    m.each 6 776 eventCellOk && m.each 7 128 mailCellOk && m.fleetOk &&
    (!m.has 2 || (bit (m.at 2 0) 35 && bit (m.at 2 0) 34))

/-! ## The choice of a slot (R490-R493) -/

/-- The image of a slot, as far as its header claims it. -/
def slotImage (x : SlotInput) : Image := cellTable 0 (x.cells.take 14560)

/-- A slot's header is rejected for this reason, 0 for none. -/
def slotHeader (x : SlotInput) : BitVec 4 := (slotImage x).headerReason x.responds x.quadAgrees

/-- The ML-DSA-65 signature verifies in every half that verifies. -/
def slotMldsa (x : SlotInput) (p : List HalfId) : Bool := p.all fun h => match h with
  | .h0 => x.mldsa0
  | .h1 => x.mldsa1

/-- The ECDSA signature verifies in every half that verifies. -/
def slotEcdsa (x : SlotInput) (p : List HalfId) : Bool := p.all fun h => match h with
  | .h0 => x.ecdsa0
  | .h1 => x.ecdsa1

/-- The reason for which a candidate is rejected, 0 when it is accepted: against the fuses' hash and the rollback counter
(R490). -/
def slotReason (fuses : BitVec 256) (rollback : Cell) (p : List HalfId) (x : SlotInput) : BitVec 4 :=
  let m := slotImage x
  if !m.directoryOk then 4
  else if !m.bodyZero then 2
  else if fuses = 0 ∨ m.ownerHash ≠ fuses then 5
  else if !slotMldsa x p then 6
  else if !slotEcdsa x p then 7
  else if m.version.toNat < rollback.toNat then 8
  else if !m.tablesOk then 9
  else 0

/-- What verification finds: the accepted slot, the reasons recorded for both slots, and the slot last examined. -/
structure Choice where
  slot : Option Bool
  rej0 : BitVec 4
  rej1 : BitVec 4
  last : Bool
deriving DecidableEq, Repr

/-- Slot 1 is tried before slot 0: both are candidates, and it has the higher version (R491). -/
def secondFirst (c : CharterInput) : Bool := decide ((slotImage c.slot0).version.toNat < (slotImage c.slot1).version.toNat)

/-- The candidates are tried in order, and the first accepted one is taken (R491). -/
def chooseSlot (fuses : BitVec 256) (rollback : Cell) (p : List HalfId) (c : CharterInput) : Choice :=
  let h0 := slotHeader c.slot0
  let h1 := slotHeader c.slot1
  let r0 := slotReason fuses rollback p c.slot0
  let r1 := slotReason fuses rollback p c.slot1
  if h0 ≠ 0 ∧ h1 ≠ 0 then ⟨none, h0, h1, false⟩
  else if h1 ≠ 0 then ⟨if r0 = 0 then some false else none, r0, h1, false⟩
  else if h0 ≠ 0 then ⟨if r1 = 0 then some true else none, h0, r1, true⟩
  else if secondFirst c then
    if r1 = 0 then ⟨some true, 0, 0, true⟩ else ⟨if r0 = 0 then some false else none, r0, r1, false⟩
  else if r0 = 0 then ⟨some false, 0, 0, false⟩ else ⟨if r1 = 0 then some true else none, r0, r1, true⟩

/-- The owner key hash in the fuses: row k holds octets 4k to 4k + 3 (R592). -/
def fuseHash (rows : Sparse (BitVec 32)) : BitVec 256 :=
  (List.range 8).foldl (fun v k => (v <<< 32) ||| (sget 0 rows k).setWidth 256) 0

end Sys2Proof.Machine
end

