-- ==== Sys2Proof/Machine/Prt.lean ====
section
/-! DEFINITION. The perturbation-test unit: when it is allowed, its registers and what resets leave of them (R547-R552). -/

namespace Sys2Proof.Machine

/-- The debug lock lets every register through (R556). -/
def dbgOpen (d : Dbg) : Bool := d.lock == .open_ || d.lock == .relock

/-- A fed word is under way in a half. -/
def feeding (s : State) : Bool := (s.ex .h0).fed.isSome || (s.ex .h1).fed.isSome

/-- A debugger is attached (R561); a fed word under way keeps the attachment until it has completed (R574). -/
def attached (s : State) : Bool := (s.dbg.attach || feeding s) && dbgOpen s.dbg

/-- PRT may be used: by the charter's policy, or while a debugger is attached after unlock (R547). -/
def prtAllowed (s : State) : Bool := (s.cht.installed && bit (chtCell s 1 6) 2) || attached s

/-- Every control is cleared; PRT_SIG keeps its reset values (R551, R552). -/
def prtClear (s : State) : State :=
  let f (h : HalfId) (s : State) : State := s.onWin h fun w => { w with prtOnce := false, prtCloses := 0 }
  f .h1 (f .h0 { s with prt := Prt.reset })

/-- Every control is cleared once PRT is no longer allowed (R547). DEDUCED: log 81. -/
def prtCheck (s : State) : State := if prtAllowed s then s else prtClear s

/-- A control without the selection bit of a half. -/
def prtDeselect (c : Cell) (h : HalfId) : Cell := setBit c (34 + h.toNat) false

/-- The selection bits of a half are cleared at its reset (R551). -/
def prtHalfReset (s : State) (h : HalfId) : State :=
  let p := s.prt
  { s with prt := { p with
      stall := prtDeselect p.stall h, lat := prtDeselect p.lat h, span := prtDeselect p.span h
      close := prtDeselect p.close h, sig := prtDeselect p.sig h } }

/-- PRT_CLOSE as it reads: `once` until the forced close has fallen (R552). -/
def prtCloseCell (s : State) : Cell := s.prt.close ||| atBit (s.h0.win.prtOnce || s.h1.win.prtOnce) 33

/-- The control at offset `o` as it reads; none for another offset. -/
def prtControl (s : State) (o : Nat) : Option Cell :=
  match o with
  | 1 => some s.prt.stall
  | 2 => some s.prt.lat
  | 3 => some s.prt.ack
  | 4 => some s.prt.span
  | 5 => some (prtCloseCell s)
  | 6 => some s.prt.sig
  | _ => none

/-- The controls that are set, STALL first (R552). -/
def prtActive (s : State) : BitVec 6 :=
  let p := s.prt
  let on (b : Bool) (n : Nat) : BitVec 6 := if b then 1#6 <<< n else 0
  let halves (c : Cell) : Bool := fld c 34 2 != (0 : BitVec 2)
  on (halves p.stall && fld p.stall 31 3 != (0 : BitVec 3) && fld p.stall 23 8 != (0 : Octet)) 5 |||
    on (halves p.lat && fld p.lat 30 4 != (0 : BitVec 4) && fld p.lat 0 8 != (0 : Octet)) 4 |||
    on (bit p.ack 35 && fld p.ack 0 16 != (0 : BitVec 16)) 3 |||
    on (halves p.span && fld p.span 0 10 != (0 : BitVec 10)) 2 |||
    on (bit (prtCloseCell s) 33 || (halves p.close && fld p.close 0 11 != (0 : BitVec 11))) 1 |||
    on (halves p.sig && bit p.sig 31) 0

/-- Reads of PRT at offset `o` of 0o064000 (R552). -/
def prtRead (s : State) (o : Nat) : Option Cell :=
  if o = 0 then some (atBit (prtAllowed s) 35 ||| atBits (prtActive s) 29) else prtControl s o

/-- PRT_STALL as a write stores it (R552). -/
def prtStallCell (x : Cell) : Cell :=
  let lvl : BitVec 3 := fld x 31 3
  let n : Octet := fld x 23 8
  let p : BitVec 16 := fld x 7 16
  let p := if p.toNat < 4 * n.toNat then BitVec.ofNat 16 (4 * n.toNat) else p
  atBits (fld x 34 2) 34 ||| atBits (if 6 ≤ lvl.toNat then 0 else lvl) 31 ||| atBits n 23 ||| atBits p 7

/-- PRT_CLOSE is written: each selected half is to force one close when `once` is set (R548). DEDUCED: log 81. -/
def prtCloseWrite (s : State) (x : Cell) : State :=
  let s := { s with prt := { s.prt with close := atBits (fld x 34 2) 34 ||| atBits (fld x 0 11) 0 } }
  let f (h : HalfId) (s : State) : State :=
    if bit x 33 && bit x (34 + h.toNat) then s.onWin h fun w => { w with prtOnce := true } else s
  f .h1 (f .h0 s)

/-- PRT_SIG is written; the closes that `rep` counts start afresh (R548). -/
def prtSigWrite (s : State) (x : Cell) : State :=
  let k : BitVec 16 := if fld x 0 16 = (0 : BitVec 16) then 1 else fld x 0 16
  let s := { s with prt := { s.prt with sig := atBits (fld x 28 8) 28 ||| atBits k 0 } }
  let f (h : HalfId) (s : State) : State := s.onWin h fun w => { w with prtCloses := 0 }
  f .h1 (f .h0 s)

/-- The control at offset `o` takes a write. -/
def prtSet (s : State) (o : Nat) (x : Cell) : State :=
  match o with
  | 1 => { s with prt := { s.prt with stall := prtStallCell x } }
  | 2 => { s with prt := { s.prt with lat := atBits (fld x 30 6) 30 ||| atBits (fld x 0 8) 0 } }
  | 3 => { s with prt := { s.prt with ack := atBits (fld x 28 8) 28 ||| atBits (fld x 0 16) 0 } }
  | 4 => { s with prt := { s.prt with span := atBits (fld x 34 2) 34 ||| atBits (fld x 0 10) 0 } }
  | 5 => prtCloseWrite s x
  | 6 => prtSigWrite s x
  | _ => s

/-- A write at offset `o` of PRT: ignored while it is not allowed, and reported when it changes the control (R547). -/
def prtWrite (s : State) (o : Nat) (x : Cell) : State :=
  if !prtAllowed s then s
  else
    let t := prtSet s o x
    if prtControl t o = prtControl s o then t
    else reportCommons t .prt 24 (cellOf (0o064000 + o)) x

end Sys2Proof.Machine
end

