-- ==== Sys2Proof/Machine/Lattice.lean ====
section
/-! DEFINITION. ML-KEM (FIPS 203), ML-DSA (FIPS 204), and key pairs and ECDSA signatures
(FIPS 186-5), as functions of their inputs and of the random bits that they draw. PRESUMED: the spec names the standards;
their contents are taken from outside it. -/

namespace Sys2Proof.Machine

/-! ## Packing and sampling -/

/-- 256 values of `d` bits as octets, least significant bit first. -/
def packBits (d : Nat) (l : List Nat) : List Octet := leOctets (32 * d) (l.foldr (fun x n => x + 2 ^ d * n) 0)

/-- The lowest `d`-bit digits of a number, `n` of them. -/
def digits (d : Nat) : Nat → Nat → List Nat
  | 0, _ => []
  | n + 1, x => x % 2 ^ d :: digits d n (x / 2 ^ d)

/-- 256 values of `d` bits read from octets. -/
def unpackBits (d : Nat) (l : List Octet) : List Nat := digits d 256 (leNat l)

/-- Octets `i` of a string cut into pieces of `n`. -/
def piece (n i : Nat) (l : List Octet) : List Octet := (l.drop (n * i)).take n

/-- SHA3-512. -/
def sha3Wide (m : List Octet) : List Octet := sponge 72 6 64 m

/-- SHAKE128. -/
def shake128 (n : Nat) (m : List Octet) : List Octet := sponge 168 0x1f n m

/-- SHAKE256. -/
def shake256 (n : Nat) (m : List Octet) : List Octet := sponge 136 0x1f n m

/-- An octet of a small number. -/
def oct (n : Nat) : Octet := BitVec.ofNat 8 n

/-- The sum of two polynomials modulo q. -/
def polyAdd (q : Nat) (a b : List Nat) : List Nat := List.zipWith (fun x y => (x + y) % q) a b

/-- The difference of two polynomials modulo q. -/
def polySub (q : Nat) (a b : List Nat) : List Nat := List.zipWith (fun x y => (x + q - y) % q) a b

/-- The zero polynomial. -/
def polyZero : List Nat := List.replicate 256 0

/-- The sum of the products of two vectors in the transform domain. -/
def polyDot (f : Bool) (a b : List (List Nat)) : List Nat :=
  (List.zipWith (polyMul f) a b).foldl (polyAdd (if f then dsaQ else kemQ)) polyZero

/-- A matrix by rows, from its entry function. -/
def matrix (k l : Nat) (f : Nat → Nat → List Nat) : List (List (List Nat)) :=
  (List.range k).map fun i => (List.range l).map fun j => f i j

/-! ## ML-KEM (FIPS 203) -/

/-- The parameters of an ML-KEM set: its dimension and the bits kept of each half of a ciphertext. -/
structure KemSet where
  k : Nat
  du : Nat
  dv : Nat

/-- ML-KEM-768 (0) and ML-KEM-1024. -/
def kemSet (p : Nat) : KemSet := if p = 0 then ⟨3, 10, 4⟩ else ⟨4, 11, 5⟩

/-- A uniform polynomial in the transform domain: SampleNTT. -/
def kemUniform (seed : List Octet) : List Nat :=
  (((pieces 3 280 (shake128 840 seed)).flatMap fun t => [leNat t % 4096, leNat t / 4096]).filter fun x => x < kemQ).take 256

/-- A short polynomial: SamplePolyCBD with η = 2. -/
def kemShort (seed : List Octet) (n : Nat) : List Nat :=
  (digits 4 256 (leNat (shake256 128 (seed ++ [oct n])))).map fun x =>
    (kemQ + x % 2 + x / 2 % 2 - x / 4 % 2 - x / 8) % kemQ

/-- The short polynomials numbered `n` to `n + k - 1`. -/
def kemShorts (seed : List Octet) (n k : Nat) : List (List Nat) := (List.range k).map fun i => kemShort seed (n + i)

/-- Compress. -/
def kemCompress (d x : Nat) : Nat := (2 ^ (d + 1) * x + kemQ) / (2 * kemQ) % 2 ^ d

/-- Decompress. -/
def kemDecompress (d y : Nat) : Nat := (2 * kemQ * y + 2 ^ d) / 2 ^ (d + 1)

/-- The transformed polynomials of a key, reduced. -/
def kemVector (k : Nat) (l : List Octet) : List (List Nat) :=
  (List.range k).map fun i => (unpackBits 12 (piece 384 i l)).map fun x => x % kemQ

/-- The encapsulation and decapsulation keys of seeds d and z: ML-KEM.KeyGen. -/
def kemKeys (p : Nat) (d z : List Octet) : List Octet × List Octet :=
  let k := (kemSet p).k
  let g := sha3Wide (d ++ [oct k])
  let rho := g.take 32
  let s := (kemShorts (g.drop 32) 0 k).map (ntt false)
  let e := (kemShorts (g.drop 32) k k).map (ntt false)
  let a := matrix k k fun i j => kemUniform (rho ++ [oct j, oct i])
  let t := List.zipWith (fun r e => polyAdd kemQ (polyDot false r s) e) a e
  let ek := t.flatMap (packBits 12) ++ rho
  (ek, s.flatMap (packBits 12) ++ ek ++ sponge 136 6 32 ek ++ z)

/-- The ciphertext of 32 octets under an encapsulation key: K-PKE.Encrypt. -/
def kemEncrypt (p : Nat) (ek m r : List Octet) : List Octet :=
  let c := kemSet p
  let k := c.k
  let rho := ek.drop (384 * k)
  let y := (kemShorts r 0 k).map (ntt false)
  let a := matrix k k fun i j => kemUniform (rho ++ [oct i, oct j])
  let u := List.zipWith (fun row e => polyAdd kemQ (intt false (polyDot false row y)) e) a (kemShorts r k k)
  let v := polyAdd kemQ (polyAdd kemQ (intt false (polyDot false (kemVector k ek) y)) (kemShort r (2 * k)))
    ((unpackBits 1 m).map (kemDecompress 1))
  (u.flatMap fun w => packBits c.du (w.map (kemCompress c.du))) ++ packBits c.dv (v.map (kemCompress c.dv))

/-- The 32 octets of a ciphertext: K-PKE.Decrypt. -/
def kemDecrypt (p : Nat) (dk ct : List Octet) : List Octet :=
  let c := kemSet p
  let u := (List.range c.k).map fun i => (unpackBits c.du (piece (32 * c.du) i ct)).map (kemDecompress c.du)
  let v := (unpackBits c.dv (ct.drop (32 * c.du * c.k))).map (kemDecompress c.dv)
  packBits 1 ((polySub kemQ v (intt false (polyDot false (kemVector c.k dk) (u.map (ntt false))))).map (kemCompress 1))

/-- The ciphertext and the shared key of an encapsulation key and 32 random octets: ML-KEM.Encaps. -/
def kemEncaps (p : Nat) (ek m : List Octet) : List Octet × List Octet :=
  let g := sha3Wide (m ++ sponge 136 6 32 ek)
  (kemEncrypt p ek m (g.drop 32), g.take 32)

/-- The shared key of a decapsulation key and a ciphertext: ML-KEM.Decaps. PRESUMED: log 52. -/
def kemDecaps (p : Nat) (dk ct : List Octet) : List Octet :=
  let k := (kemSet p).k
  let ek := (dk.drop (384 * k)).take (384 * k + 32)
  let m := kemDecrypt p (dk.take (384 * k)) ct
  let g := sha3Wide (m ++ (dk.drop (768 * k + 32)).take 32)
  if kemEncrypt p ek m (g.drop 32) = ct then g.take 32 else shake256 32 (dk.drop (768 * k + 64) ++ ct)

/-! ## ML-DSA (FIPS 204) -/

/-- The parameters of an ML-DSA set. -/
structure DsaSet where
  k : Nat
  l : Nat
  eta : Nat
  tau : Nat
  beta : Nat
  omega : Nat
  hash : Nat

/-- ML-DSA-65 (0) and ML-DSA-87. -/
def dsaSet (p : Nat) : DsaSet := if p = 0 then ⟨6, 5, 4, 49, 196, 55, 48⟩ else ⟨8, 7, 2, 60, 120, 75, 64⟩

/-- The bound γ1. -/
def dsaGamma1 : Nat := 2 ^ 19

/-- Twice the bound γ2. -/
def dsaStep : Nat := (dsaQ - 1) / 16

/-- A uniform polynomial in the transform domain: RejNTTPoly. -/
def dsaUniform (seed : List Octet) : List Nat :=
  (((pieces 3 336 (shake128 1008 seed)).map fun t => leNat t % 2 ^ 23).filter fun x => x < dsaQ).take 256

/-- A short coefficient, by how far it lies below η, from a half octet that is taken. -/
def dsaHalf (eta x : Nat) : List Nat := if eta = 2 then (if x < 15 then [x % 5] else []) else (if x < 9 then [x] else [])

/-- A short polynomial, each coefficient as η less it: RejBoundedPoly. -/
def dsaShort (eta : Nat) (seed : List Octet) (n : Nat) : List Nat :=
  ((digits 4 1088 (leNat (shake256 544 (seed ++ [oct n, 0])))).flatMap (dsaHalf eta)).take 256

/-- The coefficients modulo q of a polynomial given by how far they lie below `b`. -/
def dsaBelow (b : Nat) (l : List Nat) : List Nat := l.map fun x => (dsaQ + b - x) % dsaQ

/-- ExpandA. -/
def dsaMatrix (c : DsaSet) (rho : List Octet) : List (List (List Nat)) :=
  matrix c.k c.l fun i j => dsaUniform (rho ++ [oct j, oct i])

/-- The high part of Power2Round. -/
def dsaHigh (x : Nat) : Nat := (x + 4095) / 8192

/-- 2^12 less the low part of Power2Round. -/
def dsaLow (x : Nat) : Nat := 4096 + 8192 * dsaHigh x - x

/-- The public and private keys of a seed: ML-DSA.KeyGen. PRESUMED: log 52. -/
def dsaKeys (p : Nat) (xi : List Octet) : List Octet × List Octet :=
  let c := dsaSet p
  let h := shake256 128 (xi ++ [oct c.k, oct c.l])
  let rho := h.take 32
  let short (i : Nat) : List Nat := dsaShort c.eta ((h.drop 32).take 64) i
  let s1 := (List.range c.l).map short
  let s2 := (List.range c.k).map fun i => short (c.l + i)
  let s1h := s1.map fun s => ntt true (dsaBelow c.eta s)
  let t := List.zipWith (fun r e => polyAdd dsaQ (intt true (polyDot true r s1h)) (dsaBelow c.eta e)) (dsaMatrix c rho) s2
  let pk := rho ++ t.flatMap fun v => packBits 10 (v.map dsaHigh)
  let bits := if c.eta = 2 then 3 else 4
  (pk, rho ++ h.drop 96 ++ shake256 64 pk ++ (s1 ++ s2).flatMap (packBits bits) ++
    t.flatMap fun v => packBits 13 (v.map dsaLow))

/-- SampleInBall, coefficient by coefficient from `i` on: the polynomial so far, the signs left and the octets left. -/
def dsaBallFrom (i : Nat) (signs : Nat) : Nat → List Nat → List Octet → List Nat
  | 0, c, _ => c
  | n + 1, c, l =>
    match l.dropWhile fun o => i < o.toNat with
    | [] => c
    | j :: l =>
      let s := if signs % 2 = 1 then dsaQ - 1 else 1
      dsaBallFrom (i + 1) (signs / 2) n ((c.set i (c.getD j.toNat 0)).set j.toNat s) l

/-- SampleInBall. -/
def dsaBall (tau : Nat) (seed : List Octet) : List Nat :=
  let s := shake256 544 seed
  dsaBallFrom (256 - tau) (leNat (s.take 8)) tau polyZero (s.drop 8)

/-- The positions of one polynomial's hints: rising, no more than ω in all. -/
def dsaRising : List Nat → Bool
  | a :: b :: l => decide (a < b) && dsaRising (b :: l)
  | _ => true

/-- The hint of each polynomial, from the ends of their runs of positions, or none where the encoding is malformed. -/
def dsaHints (omega : Nat) (pos : List Nat) : Nat → List Nat → Option (List (List Nat))
  | i, [] => if (pos.drop i).all (fun x => x == 0) then some [] else none
  | i, e :: l =>
    let run := (pos.take e).drop i
    if e < i ∨ omega < e ∨ dsaRising run = false then none
    else match dsaHints omega pos e l with
      | none => none
      | some r => some (run :: r)

/-- UseHint: the high part of a coefficient (Decompose), moved by its hint. -/
def dsaUse (hint : Bool) (x : Nat) : Nat :=
  let hi := (x + dsaStep / 2 - 1) / dsaStep
  let up := decide (dsaStep * hi < x)
  let hi := hi % 16
  if !hint then hi else if up then (hi + 1) % 16 else (hi + 15) % 16

/-- ML-DSA verification of a signature of μ: public key, μ, signature. PRESUMED: log 52. -/
def dsaVerify (p : Nat) (pk mu sig : List Octet) : Bool :=
  let c := dsaSet p
  let z := (List.range c.l).map fun i => unpackBits 20 (piece 640 i (sig.drop c.hash))
  let y := (sig.drop (c.hash + 640 * c.l)).map (·.toNat)
  match dsaHints c.omega (y.take c.omega) 0 (y.drop c.omega) with
  | none => false
  | some hints =>
    let ch := ntt true (dsaBall c.tau (sig.take c.hash))
    let zh := z.map fun v => ntt true (dsaBelow dsaGamma1 v)
    let w := (List.range c.k).map fun i =>
      let t := ntt true ((unpackBits 10 (piece 320 i (pk.drop 32))).map fun x => 8192 * x % dsaQ)
      intt true (polySub dsaQ (polyDot true ((dsaMatrix c (pk.take 32)).getD i []) zh) (polyMul true ch t))
    let w1 := List.zipWith (fun v h => v.zipIdx.map fun e => dsaUse (h.contains e.2) e.1) w hints
    (z.all fun v => v.all fun x => decide (c.beta < x ∧ x < 2 * dsaGamma1 - c.beta)) &&
      shake256 c.hash (mu ++ w1.flatMap (packBits 4)) == sig.take c.hash

/-- The distance of a coefficient from 0 modulo q. -/
def dsaSize (x : Nat) : Nat := min x (dsaQ - x)

/-- The distance from 0 of a coefficient's low part (Decompose). -/
def dsaLowSize (x : Nat) : Nat :=
  let hi := (x + dsaStep / 2 - 1) / dsaStep
  if hi = 16 then dsaStep * hi + 1 - x else max x (dsaStep * hi) - min x (dsaStep * hi)

/-- Every coefficient of a vector is below a bound, by a measure. -/
def dsaWithin (f : Nat → Nat) (n : Nat) (v : List (List Nat)) : Bool := v.all fun p => p.all fun x => decide (f x < n)

/-- The product of a transformed polynomial and each of a vector. -/
def dsaTimes (c : List Nat) (v : List (List Nat)) : List (List Nat) := v.map fun p => intt true (polyMul true c p)

/-- The hints of each polynomial, as the signature holds them: the positions, then the ends of their runs. -/
def dsaHintOctets (omega : Nat) (h : List (List Nat)) : List Octet :=
  let pos := h.flatMap fun l => l
  (pos ++ List.replicate (omega - pos.length) 0 ++ (List.range h.length).map fun i => ((h.take (i + 1)).flatMap fun l => l).length).map oct

/-- The signature that attempt `n` of ML-DSA.Sign yields, if it passes: private key, μ and hedge. PRESUMED: log 52. -/
def dsaAttempt (p : Nat) (sk mu rnd : List Octet) (n : Nat) : Option (List Octet) :=
  let c := dsaSet p
  let bits := if c.eta = 2 then 3 else 4
  let vec (from_ k b v : Nat) : List (List Nat) :=
    (List.range k).map fun i => ntt true (dsaBelow v (unpackBits b (piece (32 * b) i (sk.drop from_))))
  let s1 := vec 128 c.l bits c.eta
  let s2 := vec (128 + 32 * bits * c.l) c.k bits c.eta
  let t0 := vec (128 + 32 * bits * (c.l + c.k)) c.k 13 4096
  let rp := shake256 64 ((sk.drop 32).take 32 ++ rnd ++ mu)
  let y := (List.range c.l).map fun i => dsaBelow dsaGamma1 (unpackBits 20 (shake256 640 (rp ++ leOctets 2 (c.l * (n - 1) + i))))
  let yh := y.map (ntt true)
  let w := (dsaMatrix c (sk.take 32)).map fun r => intt true (polyDot true r yh)
  let ct := shake256 c.hash (mu ++ w.flatMap fun v => packBits 4 (v.map (dsaUse false)))
  let ch := ntt true (dsaBall c.tau ct)
  let z := List.zipWith (polyAdd dsaQ) y (dsaTimes ch s1)
  let u := List.zipWith (polySub dsaQ) w (dsaTimes ch s2)
  let v := dsaTimes ch t0
  let hints := List.zipWith (fun a b => (List.range 256).filter fun i =>
    dsaUse false (a.getD i 0) != dsaUse false ((a.getD i 0 + b.getD i 0) % dsaQ)) u v
  if dsaWithin dsaSize (dsaGamma1 - c.beta) z && dsaWithin dsaLowSize (dsaStep / 2 - c.beta) u &&
      dsaWithin dsaSize (dsaStep / 2) v && decide ((hints.flatMap fun l => l).length ≤ c.omega) then
    some (ct ++ (z.flatMap fun q => packBits 20 (dsaBelow dsaGamma1 q)) ++ dsaHintOctets c.omega hints)
  else none

/-! ## Keys and signatures on the curves (FIPS 186-5, RFC 7748) -/

/-- A scalar from 1 to n - 1, from more random bits than n has. -/
def ecScalar (c : Curve) (x : Nat) : Nat := 1 + x % (c.n - 1)

/-- The octets of a point, `n` to a coordinate. -/
def ecOctets (n : Nat) : Option (Nat × Nat) → List Octet
  | none => List.replicate (2 * n) 0
  | some q => beOctets n q.1 ++ beOctets n q.2

/-- The private and public keys of random bits. -/
def ecKeys (c : Curve) (n x : Nat) : List Octet × List Octet :=
  let d := ecScalar c x
  (beOctets n d, ecOctets n (ecMul c 384 d (some (c.gx, c.gy))))

/-- The ECDSA signature of a digest under a private key, with a nonce from random bits; none where the nonce yields no
signature. PRESUMED: log 52. -/
def ecdsaSign (c : Curve) (n : Nat) (key digest : List Octet) (x : Nat) : Option (List Octet) :=
  let k := ecScalar c x
  match ecMul c 384 k (some (c.gx, c.gy)) with
  | none => none
  | some q =>
    let r := q.1 % c.n
    let s := invMod k c.n * (beNat digest + r * beNat key) % c.n
    if r = 0 ∨ s = 0 then none else some (beOctets n r ++ beOctets n s)

/-- The Ed25519 public key of a seed. -/
def edPublic (seed : List Octet) : List Octet := edEncode (edMul 256 (clampScalar ((sha512 seed).take 32)) edB)

/-- The X25519 public key of a scalar. -/
def x25519Public (scalar : List Octet) : List Octet := x25519 scalar (leOctets 32 9)

end Sys2Proof.Machine
end

