-- ==== Sys2Proof/Machine/Rng.lean ====
section
/-! DEFINITION. The random number generator: health tests, seeds, the halves' DRBGs and raw-sample test mode (R521-R524,
R532). -/

namespace Sys2Proof.Machine

/-- The block with a half's DRBG changed. -/
def State.onDrbg (s : State) (h : HalfId) (f : Drbg → Drbg) : State := s.onHalf h fun x => { x with rng := f x.rng }

/-- The block with the generator changed. -/
def State.onRng (s : State) (f : Rng → Rng) : State := { s with rng := f s.rng }

/-! ## Generate calls (R523) -/

/-- The most calls between reseeds (R523). -/
def drbgLimit : Nat := 524288

/-- A half's DRBG is due for a reseed (R532). -/
def overdue (s : State) (h : HalfId) : Bool := decide (s.rng.reseedInt.toNat ≤ (s.half h).rng.calls)

/-- A half's DRBG is blocked (R523). -/
def blocked (s : State) (h : HalfId) : Bool := decide (drbgLimit ≤ (s.half h).rng.calls) && !s.rng.seed

/-- The DRBGs are stopped: in raw mode, and after it until the first seed (R524). -/
def Rng.stopped (r : Rng) : Bool := r.raw || r.resumes

/-- A generate call of a half's DRBG, after a reseed that is due and has its seed; none while it cannot generate.
DEDUCED: log 79. -/
def drbgCall (s : State) (h : HalfId) : Option State :=
  if !(s.half h).rng.ready || s.rng.stopped || blocked s h then none
  else if overdue s h && s.rng.seed then some ((s.onRng fun r => { r with seed := false }).onDrbg h fun d => { d with calls := 1 })
  else some (s.onDrbg h fun d => { d with calls := d.calls + 1 })

/-- The value of RNG_OUT when random bits follow. -/
def rngWord (s : State) : Cell := atBit true 35 ||| atBits (fld (Config.randomBits s.free) 0 32) 0

/-- A read of RNG_OUT: 32 bits of the latest call, or of a new one (R523, R532). DEDUCED: log 79. -/
def rngOutRead (s : State) (h : HalfId) : State × Cell :=
  let d := (s.half h).rng
  if s.rng.stopped || !d.ready then (s, 0)
  else if d.kept ≠ 0 then ((s.onDrbg h fun d => { d with kept := d.kept - 1 }).draw, rngWord s)
  else match drbgCall s h with
    | none => (s, 0)
    | some s' => ((s'.onDrbg h fun d => { d with kept := 17 }).draw, rngWord s)

/-! ## Seeds (R521, R523) -/

/-- The half that a seed is served to first: the one with more calls since its reseed, half 0 on a tie. -/
def seedFirst (s : State) : HalfId := if s.h0.rng.calls < s.h1.rng.calls then .h1 else .h0

/-- A half takes a seed at once: its DRBG is not instantiated, or is overdue. -/
def wantsSeed (s : State) (h : HalfId) : Bool := !(s.half h).rng.ready || overdue s h

/-- A half's DRBG is instantiated or reseeded. -/
def reseed (s : State) (h : HalfId) : State := s.onDrbg h fun d => { d with ready := true, calls := 0 }

/-- SEED_READY: a seed goes to the DRBG that needs it, or waits (R521, R523). DEDUCED: log 79. -/
def execSeedReady (s : State) : Host.Outcome State Fault Refusal :=
  let h := seedFirst s
  .next (
    if s.rng.state ≠ 1 ∨ s.rng.raw = true then s
    else
      let s := s.onRng fun r => { r with fails := [0, 0, 0, 0], resumes := false }
      if wantsSeed s h then reseed s h
      else if wantsSeed s h.other then reseed s h.other
      else s.onRng fun r => { r with seed := true })

/-! ## Health tests (R522) -/

/-- RNG_STAT as a half reads it (R532). -/
def rngStat (s : State) (h : HalfId) : Cell :=
  atBits (if s.rng.raw then (2 : BitVec 2) else s.rng.state) 34 ||| atBits s.rng.srcFail 31 ||| atBit (blocked s h) 21 |||
    atBit (overdue s h) 20 ||| atBits (BitVec.ofNat 20 (s.half h).rng.calls) 0

/-- RNG_HLTH (R532). -/
def rngHealth (r : Rng) : Cell := atBits r.rct 24 ||| atBits r.apt 12 ||| atBits r.starts 0

/-- A failure is reported and raises source 199 (R405, R522). -/
def rngReport (s : State) : State :=
  raiseSource (reportCommons s .rng 22 (rngStat s (commonsQueue s)) (rngHealth s.rng)) 199

/-- The sources excluded from the XOR. -/
def excluded (f : BitVec 3) : Nat := countTrue [bit f 0, bit f 1, bit f 2]

/-- A stream that has failed in three windows in a row: a source is excluded, and with a second one, or with the combined
stream, the generator enters fault. -/
def streamOut (r : Rng) (stream : BitVec 2) : Rng :=
  if r.fails.getD stream.toNat 0 < 3 then r
  else if stream = 3 then { r with state := 3 }
  else
    let f := setBit r.srcFail (2 - stream.toNat) true
    { r with srcFail := f, state := if 2 ≤ excluded f then 3 else r.state }

/-- HEALTH_TEST_FAILURE (R522). DEDUCED: log 79. -/
def execHealthTestFailure (stream : BitVec 2) (adaptive : Bool) (s : State) : Host.Outcome State Fault Refusal :=
  let count (r : Rng) : Rng :=
    let r := if adaptive then { r with apt := satInc r.apt } else { r with rct := satInc r.rct }
    streamOut { r with fails := r.fails.set stream.toNat (r.fails.getD stream.toNat 0 + 1) } stream
  .next (if s.isolated then s else rngReport (s.onRng count))

/-- RNG_STARTUP_DONE: a start-up run passes, is repeated once, or puts the generator in fault (R522). -/
def execRngStartupDone (pass : Bool) (s : State) : Host.Outcome State Fault Refusal :=
  let s' := s.onRng fun r => { r with starts := satInc r.starts }
  .next (
    if s.isolated || s.rng.state != 0 then s
    else if pass then s'.onRng fun r => { r with state := 1 }
    else if s.rng.retried then rngReport (s'.onRng fun r => { r with state := 3 })
    else s'.onRng fun r => { r with retried := true })

/-! ## Raw-sample test mode (R524, R532) -/

/-- Raw mode begins or ends; the start-up tests run again after it (R524). -/
def rawMode (s : State) (on : Bool) (src : BitVec 2) : State :=
  s.onRng fun r =>
    if on then { r with raw := true, rawSrc := src }
    else if r.raw then
      { r with raw := false, rawSrc := src, fifo := [], overrun := false, seed := false, retried := false, resumes := true
               state := if r.state = 3 then 3 else 0 }
    else { r with rawSrc := src }

/-- A write of RNG_CTRL (R532). -/
def rngCtrlWrite (s : State) (x0 : Cell) : State :=
  let n := (fld x0 0 20).toNat
  let s := s.onRng fun r => { r with reseedInt := BitVec.ofNat 20 (max 1 (min n drbgLimit)) }
  rawMode s (bit x0 35) (fld x0 33 2)

/-- RAW_MODE_ENTER (R524). -/
def execRawModeEnter (w : HalfId) (src : BitVec 2) (s : State) : Host.Outcome State Fault Refusal :=
  .next (regCommand s w w true fun _ => rawMode s true src)

/-- RAW_MODE_EXIT (R524). -/
def execRawModeExit (w : HalfId) (s : State) : Host.Outcome State Fault Refusal :=
  .next (regCommand s w w true fun _ => rawMode s false s.rng.rawSrc)

/-- RAW_SAMPLE: a sample enters the FIFO, or is lost (R524). -/
def execRawSample (bits : BitVec 32) (s : State) : Host.Outcome State Fault Refusal :=
  let r := s.rng
  .next (
    if !r.raw || s.isolated then s
    else if 64 ≤ r.fifo.length then s.onRng fun r => { r with overrun := true }
    else
      let s := s.onRng fun r => { r with fifo := r.fifo ++ [⟨r.rawSrc, r.overrun, bits⟩], overrun := false }
      if s.rng.fifo.length = 32 then raiseSource s 199 else s)

/-- A read of RNG_RAW pops a sample (R532). -/
def rngRawRead (s : State) : State × Cell :=
  match s.rng.fifo with
  | [] => (s, 0)
  | e :: l =>
    (s.onRng fun r => { r with fifo := l }, atBit true 35 ||| atBits e.src 33 ||| atBit e.overrun 32 ||| atBits e.bits 0)

/-- Reads of the RNG registers at offset `o` of 0o051000 (R532). -/
def rngRead (s : State) (h : HalfId) (o : Nat) : Option (State × Cell) :=
  if o = 0 then some (rngOutRead s h)
  else if o = 1 then some (s, rngStat s h)
  else if o = 2 then some (s, atBit s.rng.raw 35 ||| atBits s.rng.rawSrc 33 ||| atBits s.rng.reseedInt 0)
  else if o = 3 then some (rngRawRead s)
  else if o = 4 then some (s, rngHealth s.rng)
  else none

end Sys2Proof.Machine
end

