-- ==== Sys2Proof/Machine/RkData.lean ====
section
/-! DEFINITION. What a reckoner command does when it starts: its checks, its reads, and the register values and memory
writes that it produces (R345, R346, R352-R357, R363, R366, R517, R518). -/

namespace Sys2Proof.Machine

/-! ## Codes (R357) -/

/-- UNDECLARED (R357). -/
def kUndeclared : BitVec 6 := 0o40
/-- KEY-LOCKED (R357). -/
def kKeyLocked : BitVec 6 := 0o41
/-- SELF-CHECK (R357). -/
def kSelfCheck : BitVec 6 := 0o42
/-- INVALID-INPUT (R357). -/
def kInvalid : BitVec 6 := 0o43
/-- FOREIGN (R357). -/
def kForeign : BitVec 6 := 0o44
/-- ATTEMPTS (R357). -/
def kAttempts : BitVec 6 := 0o45

/-! ## Wide registers (R346) -/

/-- Cell i of Ww. -/
def wideCell (r : Reckoner) (w i : Nat) : Cell := sget 0 r.wide (128 * w + i)

/-- The first `n` cells of Ww. -/
def wideCells (r : Reckoner) (w n : Nat) : List Cell := (List.range n).map (wideCell r w)

/-- Cells written into Ww from cell `i` on. -/
def wideSet (w : Sparse Cell) (n i : Nat) : List Cell → Sparse Cell
  | [] => w
  | c :: l => wideSet (sput 0 w (128 * n + i) c) n (i + 1) l

/-- The limb integer in the first `n` cells of a register (R346). -/
def limbs (l : List Cell) : Nat := l.foldr (fun c x => (fld c 0 32).toNat + 2 ^ 32 * x) 0

/-- `n` limbs of a number. -/
def limbCells : Nat → Nat → List Cell
  | 0, _ => []
  | n + 1, x => cellOf (x % 2 ^ 32) :: limbCells n (x / 2 ^ 32)

/-- A list brought to 128 cells with zeros. -/
def fullReg (l : List Cell) : List Cell := l ++ List.replicate (128 - l.length) 0

/-- The ML-KEM polynomial of 86 cells in triple-12 packing (R346). -/
def kemPoly (l : List Cell) : List Nat :=
  (l.flatMap fun c => [(fld c 24 12).toNat % kemQ, (fld c 12 12).toNat % kemQ, (fld c 0 12).toNat % kemQ]).take 256

/-- The cells of an ML-KEM polynomial. -/
def kemCells (l : List Nat) : List Cell :=
  (List.range 86).map fun i =>
    let f (j : Nat) : BitVec 12 := BitVec.ofNat 12 (l.getD (3 * i + j) 0)
    atBits (f 0) 24 ||| atBits (f 1) 12 ||| atBits (f 2) 0

/-- The polynomial in format f from Wr (R346). -/
def polyOf (r : Reckoner) (f : Bool) (w : Nat) : List Nat :=
  if f then (wideCells r w 128 ++ wideCells r (w + 1) 128).map fun c => (fld c 0 23).toNat % dsaQ else kemPoly (wideCells r w 86)

/-- The register values that hold a polynomial. -/
def polyRegs (f : Bool) (w : Nat) (l : List Nat) : List (Nat × List Cell) :=
  if f then [(w, (l.take 128).map cellOf), (w + 1, (l.drop 128).map cellOf)] else [(w, kemCells l)]

/-- The octet string of `n` octets in the first cells of a register. -/
def regOctets (r : Reckoner) (w n : Nat) : List Octet := (octetsOfCells (wideCells r w ((n + 3) / 4))).take n

/-- The cells of an octet string. -/
def octetCells (l : List Octet) : List Cell := cellsOfOctets ((l.length + 3) / 4) l

/-! ## Memory references (R352-R354) -/

/-- The cells that the requests of a source still hold for a half's memory. -/
def heldWrites (s : State) (h : HalfId) (src : ArbSource) : List (Addr × Cell) :=
  (s.half h).mem.arb.flatMap fun r =>
    match r.work with
    | .writes ws => if r.source = src then ws.map fun w => (w.1, w.2.2.val) else []
    | _ => []

/-- Cells that the reckoner's own queue still holds for an address, oldest first: writes released but not yet drained, at
home or in the other half's hierarchy, then those of finished commands (R199, R362). -/
def queuedWrites (s : State) (h : HalfId) : List (Addr × Cell) :=
  heldWrites s h .reckoner ++ heldWrites s h.other .span ++
  ((s.half h).spn.out.flatMap fun f => match f with
    | .write ws => ws.map fun w => (w.1, w.2.2.val)
    | _ => []) ++
  ((s.half h).rkn.queue.filter fun c => c.state == .finished).flatMap fun c => c.writes.map fun w => (w.1, w.2.2)

/-- The youngest queued value for an address. -/
def queuedCell (l : List (Addr × Cell)) (a : Addr) : Option Cell := match (l.filter fun w => w.1 == a).getLast? with
  | none => none
  | some w => some w.2

/-- A memory reference of `n` cells, checked against the snapshot of its register (R352, R353); one of no cells is not
accessed. -/
def rkRef (s : State) (h : HalfId) (c : RkCmd) (m : Cell) (n : Nat) (p : Nat) : Except (BitVec 6) (Addr × BitVec 10) :=
  if fld m 24 10 ≠ (0 : BitVec 10) then .error eOperand
  else if n = 0 then .ok (0, 0)
  else
    let i := fld m 34 2
    let q := c.snaps.getD i.toNat ⟨Cap.zero, false⟩
    let off := (fld m 0 24).toNat
    let ea := q.cap.base.toNat + off
    let st := capStatus q.cap q.genOk ⟨i.setWidth 3, spData, p, false, n⟩ off false
    if st ≠ 0 then .error st
    else
      let d := dataMapped s h ea
      let d' := if d ≠ 0 then d else dataMapped s h (ea + n - 1)
      if d' ≠ 0 then .error d'
      else if p = pST ∧ storeLocked s h (BitVec.ofNat 24 ea) = true then .error eModeLocked
      else .ok (BitVec.ofNat 24 ea, q.cap.tenant)

/-- `n` cells read from an address, the reckoner's own queue first. -/
def rkCells (h : HalfId) (t : BitVec 10) (q : List (Addr × Cell)) : Nat → State → Addr → State × Except (BitVec 6) (List Cell)
  | 0, s, _ => (s, .ok [])
  | n + 1, s, a =>
    match queuedCell q a with
    | some v => match rkCells h t q n s (a + 1) with
      | (s, .ok l) => (s, .ok (v :: l))
      | r => r
    | none => match homeRead (perfRun s a 1) a t .clean with
      | (s, .ok c) => match rkCells h t q n s (a + 1) with
        | (s, .ok l) => (s, .ok (c.val :: l))
        | r => r
      | (s, _) => (s, .error (readFailStatus a))

/-- The failure of a read, as memory counts it. -/
def rkBadRead (s : State) (a : Addr) : State × BitVec 6 :=
  match regionOf a with
  | .sram k => (sramFail s k a, eUncorrectable)
  | .nvm k => (nvmFail s k a, eIntegrity)
  | _ => (s, eUncorrectable)

/-- A reference of `n` cells is checked and read; `bad` marks that its memory fails. -/
def rkRead (s : State) (h : HalfId) (c : RkCmd) (bad : Bool) (m : Cell) (n : Nat) : State × Except (BitVec 6) (List Cell) :=
  match rkRef s h c m n pLD with
  | .error e => (s, .error e)
  | .ok (a, t) =>
    if bad && n != 0 then
      let r := rkBadRead s a
      (r.1, .error r.2)
    else rkCells h t (queuedWrites s h) n s a

/-- Writes of cells from an address. -/
def cellWrites (a : Addr) (t : BitVec 10) : List Cell → List (Addr × BitVec 10 × Cell)
  | [] => []
  | c :: l => (a, t, c) :: cellWrites (a + 1) t l

/-- What a start leaves: the state after its reads, and the command with its results, or the code with which it fails. -/
abbrev Prep := State × Except (BitVec 6) RkCmd

/-! ## Register and control commands (R345, R355, R366) -/

/-- The tenant of the owning context, the issuer's when none owns the reckoner. -/
def ownerTenant (s : State) (h : HalfId) (c : RkCmd) : BitVec 10 :=
  let r := (s.half h).rkn
  if r.ownValid then (s.bank h r.ownCtx).tenant else c.stamp.tenant

/-- The registers hold another tenant's state. -/
def heldOther (r : Reckoner) (c : RkCmd) : Bool := r.held && r.tenant != c.stamp.tenant

/-- Zero in every register. -/
def zeroRegs : List (Nat × List Cell) := (List.range 8).map fun w => (w, List.replicate 128 0)

/-- The image that SAVE writes (R366). -/
def saveImage (s : State) (h : HalfId) : List Cell :=
  let r := (s.half h).rkn
  (atBits (0o5230 : BitVec 12) 24 ||| atBits r.tenant 0) :: atBits (s.genOf h r.tenant) 0 :: List.replicate 6 0 ++
    (List.range 8).flatMap fun w => wideCells r w 128

/-- SAVE (R355). -/
def prepSave (s : State) (h : HalfId) (c : RkCmd) : Prep :=
  if !(s.half h).rkn.held then (s, .error kForeign)
  else match rkRef s h c (c.ops.getD 0 0) 1032 pST with
    | .error e => (s, .error e)
    | .ok (a, t) =>
      (s, .ok { c with writes := cellWrites a t (saveImage s h), regs := zeroRegs, own := some (false, (s.half h).rkn.tenant) })

/-- An image's header is one that LOAD takes (R366). -/
def headerOk (l : List Cell) (t : BitVec 10) : Bool :=
  fld (l.getD 0 0) 24 12 == (0o5230 : BitVec 12) && fld (l.getD 0 0) 10 14 == (0 : BitVec 14) && fld (l.getD 0 0) 0 10 == t &&
    fld (l.getD 1 0) 4 32 == (0 : BitVec 32) && ((l.drop 2).take 6).all fun x => x == 0

/-- LOAD (R355, R366). -/
def prepLoad (s : State) (h : HalfId) (bad : Bool) (c : RkCmd) : Prep :=
  if heldOther (s.half h).rkn c then (s, .error kForeign)
  else match rkRead s h c bad (c.ops.getD 0 0) 1032 with
    | (s, .error e) => (s, .error e)
    | (s, .ok l) =>
      let t := ownerTenant s h c
      if !headerOk l t then (s, .error eOperand)
      else (s, .ok { c with regs := (List.range 8).map fun w => (w, (l.drop (8 + 128 * w)).take 128), own := some (true, t) })

/-- CLEAR (R355). -/
def prepClear (s : State) (h : HalfId) (c : RkCmd) : Prep :=
  if heldOther (s.half h).rkn c then (s, .error kForeign)
  else (s, .ok { c with regs := zeroRegs, own := some (true, ownerTenant s h c) })

/-- WLD (R355). -/
def prepWld (s : State) (h : HalfId) (bad : Bool) (c : RkCmd) : Prep :=
  match rkRead s h c bad (c.ops.getD 0 0) (c.ops.getD 2 0).toNat with
  | (s, .error e) => (s, .error e)
  | (s, .ok l) => (s, .ok { c with regs := [((c.ops.getD 1 0).toNat, fullReg l)] })

/-- WST (R355). -/
def prepWst (s : State) (h : HalfId) (c : RkCmd) : Prep :=
  let n := (c.ops.getD 2 0).toNat
  match rkRef s h c (c.ops.getD 1 0) n pST with
  | .error e => (s, .error e)
  | .ok (a, t) => (s, .ok { c with writes := cellWrites a t (wideCells (s.half h).rkn (c.ops.getD 0 0).toNat n) })

/-- MMUL and MEXP (R355). -/
def prepMul (s : State) (h : HalfId) (c : RkCmd) : Prep :=
  let r := (s.half h).rkn
  let o (i : Nat) : Nat := (c.ops.getD i 0).toNat
  let sz := o 4
  let x := limbs (wideCells r (o 0) sz)
  let y := limbs (wideCells r (o 1) sz)
  let m := limbs (wideCells r (o 2) sz)
  let exp := c.sel == 0o14
  if m % 2 = 0 ∨ m ≤ x ∨ (exp = false ∧ m ≤ y) then (s, .error kInvalid)
  else
    let v := if exp then powBits m (32 * sz) (x % m) y else montRed m (32 * sz) (x * y)
    (s, .ok { c with regs := [(o 3, fullReg (limbCells sz v))] })

/-- AESKS (R355): the octets of the schedule as its cells, the rounds in cell 60; cells that a schedule of 10 rounds does not
reach are not stated. -/
def prepKeys (s : State) (h : HalfId) (c : RkCmd) : Prep :=
  let o (i : Nat) : Nat := (c.ops.getD i 0).toNat
  let ks := aesSchedule (regOctets (s.half h).rkn (o 0) (if o 2 = 0 then 16 else 32))
  let l := octetCells ks
  let rest := (List.range (60 - l.length)).map fun i => Config.freeCell (s.free + i)
  ({ s with free := s.free + 16 }, .ok { c with regs := [(o 1, l ++ rest ++ [cellOf (if o 2 = 0 then 10 else 14)])] })

/-- The schedule in a register and its rounds; none when cell 60 holds no number of rounds. -/
def scheduleIn (r : Reckoner) (w : Nat) : Option (List Octet × Nat) :=
  let n := (wideCell r w 60).toNat
  if n = 10 ∨ n = 14 then some (octetsOfCells (wideCells r w 60), n) else none

/-- `n` octets that the spec does not state, from a number of a draw. DESIGN CHOICE: log 53. -/
def freeOctets (k n : Nat) : List Octet :=
  (octetsOfCells ((List.range ((n + 3) / 4)).map fun i => Config.freeCell (k + i))).take n

/-- AESBLK (R355). -/
def prepBlock (s : State) (h : HalfId) (c : RkCmd) : Prep :=
  let r := (s.half h).rkn
  let o (i : Nat) : Nat := (c.ops.getD i 0).toNat
  let b := regOctets r (o 1) 16
  match scheduleIn r (o 0) with
  | none => ({ s with free := s.free + 4 }, .ok { c with regs := [(o 1, octetCells (freeOctets s.free 16))] })
  | some (ks, n) =>
    (s, .ok { c with regs := [(o 1, octetCells (if o 2 = 0 then aesEncrypt ks n b else aesDecrypt ks n b))] })

/-- KECCAK (R355). -/
def prepKeccak (s : State) (h : HalfId) (c : RkCmd) : Prep :=
  let w := (c.ops.getD 0 0).toNat
  let l := wideCells (s.half h).rkn w 50
  let lanes := (List.range 25).map fun i => (fld (l.getD (2 * i + 1) 0) 0 32 ++ fld (l.getD (2 * i) 0) 0 32 : BitVec 64)
  (s, .ok { c with regs := [(w, (keccakF lanes).flatMap fun x => [atBits (fld x 0 32) 0, atBits (fld x 32 32) 0])] })

/-- NTT, INTT and PMUL (R355). -/
def prepPoly (s : State) (h : HalfId) (c : RkCmd) : Prep :=
  let r := (s.half h).rkn
  let o (i : Nat) : Nat := (c.ops.getD i 0).toNat
  if c.sel = 0o17 then
    let f := o 3 == 1
    (s, .ok { c with regs := polyRegs f (o 2) (polyMul f (polyOf r f (o 0)) (polyOf r f (o 1))) })
  else
    let f := o 1 == 1
    let p := polyOf r f (o 0)
    (s, .ok { c with regs := polyRegs f (o 0) (if c.sel = 0o15 then ntt f p else intt f p) })

/-! ## GCM (R356) -/

/-- The octets of an output reference. -/
def outWrites (a : Addr × BitVec 10) (l : List Octet) : List (Addr × BitVec 10 × Cell) := cellWrites a.1 a.2 (octetCells l)

/-- The operands of a GCM block once read: its flags, IV, additional data, input, tag and references to output, tag and
state. -/
structure GcmIn where
  init : Bool
  final : Bool
  reg : Nat
  iv : List Octet
  aad : List Octet
  input : List Octet
  tag : List Octet
  out : Addr × BitVec 10
  tagOut : Addr × BitVec 10
  state : Addr × BitVec 10

/-- `n` octets of a reference, checked and read. -/
def rkOctets (s : State) (h : HalfId) (c : RkCmd) (bad : Bool) (m : Cell) (n : Nat) : State × Except (BitVec 6) (List Octet) :=
  match rkRead s h c bad m ((n + 3) / 4) with
  | (s, .error e) => (s, .error e)
  | (s, .ok l) => (s, .ok ((octetsOfCells l).take n))

/-- An output reference of `n` octets, where it is used. -/
def rkOut (s : State) (h : HalfId) (c : RkCmd) (used : Bool) (m : Cell) (n : Nat) : Except (BitVec 6) (Addr × BitVec 10) :=
  if used then rkRef s h c m ((n + 3) / 4) pST else .ok (0, 0)

/-- The message that state cells stand for, where a command of the same kind wrote them (R356). DESIGN CHOICE: log 91. -/
def messageOf (s : State) (sel : BitVec 6) (variant : Bool) (l : List Cell) : Option Message :=
  match s.messages.find? fun e => e.2.sel == sel && e.2.variant == variant &&
      ((List.range l.length).map fun i => Config.freeCell (e.1 + i)) == l with
  | none => none
  | some e => some e.2

/-- The octets that a part puts out after `n` octets of text: whole blocks, and all that is left in the final part. -/
def partLen (n : Nat) (final : Bool) (m : Nat) : Nat := if final then n % 16 + m else (n % 16 + m) / 16 * 16

/-- The references of a GCM block, in the order of its cells, for a message of which `n` octets have gone before. -/
def gcmIn (s : State) (h : HalfId) (c : RkCmd) (bad : Bool) (b : List Cell) (n : Nat) : State × Except (BitVec 6) GcmIn :=
  let f := b.getD 0 0
  let x (i : Nat) : Cell := b.getD i 0
  let init := bit f 1
  let final := bit f 0
  let dec := c.sel == 0o23
  if f &&& ~~~0o3403 ≠ 0 ∨ 4096 < (x 3).toNat + (x 5).toNat ∨ (x 3 ≠ 0 ∧ init = false) then (s, .error eOperand)
  else match rkOctets s h c bad (x 1) 12 with
    | (s, .error e) => (s, .error e)
    | (s, .ok iv) => match rkOctets s h c bad (x 2) (x 3).toNat with
      | (s, .error e) => (s, .error e)
      | (s, .ok aad) => match rkOctets s h c bad (x 4) (x 5).toNat with
        | (s, .error e) => (s, .error e)
        | (s, .ok inp) => match rkOut s h c true (x 6) (max (x 5).toNat (partLen n final (x 5).toNat)) with
          | .error e => (s, .error e)
          | .ok out => match (if final && dec then rkOctets s h c bad (x 7) 16 else (s, .ok [])) with
            | (s, .error e) => (s, .error e)
            | (s, .ok tag) => match rkOut s h c (final && !dec) (x 7) 16, rkOut s h c (!final) (c.ops.getD 0 0 + 8) 64 with
              | .ok t, .ok st => (s, .ok ⟨init, final, (fld f 8 3).toNat, iv, aad, inp, tag, out, t, st⟩)
              | .error e, _ => (s, .error e)
              | _, .error e => (s, .error e)

/-- The output, tag and tag match of a part, and the message so far. A part that continues from state cells that no part
wrote yields numbers of draws. PRESUMED: log 52. -/
def gcmRun (r : Reckoner) (sel : BitVec 6) (prior : Option Message) (k : Nat) (g : GcmIn) :
    List Octet × List Octet × Bool × Option Message :=
  match scheduleIn r g.reg, (if g.init then some ⟨sel, false, g.iv, g.aad, []⟩ else prior) with
  | some (ks, n), some p =>
    let enc := aesEncrypt ks n
    let text := p.text ++ g.input
    let o := gcmStream enc p.iv text
    let t := gcmTag enc p.iv p.aad (if sel == 0o23 then text else o)
    let done := p.text.length / 16 * 16
    (((o.drop done).take (partLen p.text.length g.final g.input.length)), t, t == g.tag, some { p with text := text })
  | _, _ =>
    (freeOctets k (partLen 0 g.final g.input.length), freeOctets (k + 1024) 16, bit (Config.freeCell (k + 1028)) 0, none)

/-- The message so far is remembered under the draw of the state cells that a part leaves. DESIGN CHOICE: log 91. -/
def keepMessage (s : State) (n : Nat) (m : Option Message) : State :=
  match m with
  | none => s
  | some m => { s with messages := (n, m) :: s.messages }

/-- GCMENC and GCMDEC (R356, R369). -/
def prepGcm (s : State) (h : HalfId) (bad : Bool) (c : RkCmd) : Prep :=
  match rkRead s h c bad (c.ops.getD 0 0) 24 with
  | (s, .error e) => (s, .error e)
  | (s, .ok b) =>
    let prior := if bit (b.getD 0 0) 1 then none else messageOf s c.sel false ((b.drop 8).take 16)
    match gcmIn s h c bad b ((prior.map fun p => p.text.length).getD 0) with
    | (s, .error e) => (s, .error e)
    | (s, .ok g) =>
      let dec := c.sel == 0o23
      let r := gcmRun (s.half h).rkn c.sel prior s.free g
      let data := if g.final && dec && !r.2.2.1 then [] else outWrites g.out r.1
      let w := if g.final then (if dec then data else data ++ outWrites g.tagOut r.2.1)
               else data ++ cellWrites g.state.1 g.state.2 ((List.range 16).map fun i => Config.freeCell (s.free + 1029 + i))
      let s := if g.final then s else keepMessage s (s.free + 1029) r.2.2.2
      ({ s with free := s.free + 1045 },
       .ok { c with writes := w, result := if g.final && dec && r.2.2.1 then 1 else 0 })

/-! ## Hashes (R356) -/

/-- The octets that a hash command puts out. -/
def hashLen (sel : BitVec 6) (b : List Cell) : Nat :=
  if sel = 0o30 then (if bit (b.getD 0 0) 2 then 48 else 32) else if sel = 0o31 then 32 else (b.getD 4 0).toNat

/-- The hash of a whole message. -/
def hashOf (sel : BitVec 6) (variant : Bool) (n : Nat) (m : List Octet) : List Octet :=
  if sel = 0o30 then (if variant then sha384 m else sha256 m)
  else if sel = 0o31 then sponge 136 6 32 m
  else sponge (if variant then 136 else 168) 0x1f n m

/-- A hash block that keeps the rules of R356. -/
def hashBlockOk (sel : BitVec 6) (b : List Cell) : Bool :=
  let x (i : Nat) : Cell := b.getD i 0
  (x 0 &&& ~~~(if sel = 0o31 then (3 : Cell) else 7)) == 0 && decide ((x 2).toNat ≤ 4096) && x 5 == 0 && x 6 == 0 && x 7 == 0 &&
    (sel != 0o32 || decide (1 ≤ (x 4).toNat ∧ (x 4).toNat ≤ 4096))

/-- SHA2, SHA3 and SHAKE (R356): what a message of several parts leaves in the state cells is not stated, nor what a part
yields that continues from cells that no part wrote. DESIGN CHOICE: log 91. -/
def prepHash (s : State) (h : HalfId) (bad : Bool) (c : RkCmd) : Prep :=
  match rkRead s h c bad (c.ops.getD 0 0) 64 with
  | (s, .error e) => (s, .error e)
  | (s, .ok b) =>
    let init := bit (b.getD 0 0) 1
    let final := bit (b.getD 0 0) 0
    let n := hashLen c.sel b
    if !hashBlockOk c.sel b then (s, .error eOperand)
    else match rkOctets s h c bad (b.getD 1 0) (b.getD 2 0).toNat with
      | (s, .error e) => (s, .error e)
      | (s, .ok m) => match rkOut s h c final (b.getD 3 0) n, rkOut s h c (!final) (c.ops.getD 0 0 + 8) 224 with
        | .error e, _ => (s, .error e)
        | _, .error e => (s, .error e)
        | .ok o, .ok st =>
          let v := bit (b.getD 0 0) 2
          let before : Option Message :=
            if init then some ⟨c.sel, v, [], [], []⟩ else messageOf s c.sel v ((b.drop 8).take 56)
          let after := before.map fun p => { p with text := p.text ++ m }
          let out := match after with
            | none => freeOctets s.free n
            | some p => hashOf c.sel v n p.text
          let w := if final then outWrites o out
            else cellWrites st.1 st.2 ((List.range 56).map fun i => Config.freeCell (s.free + i))
          let s := if final then s else keepMessage s s.free after
          ({ s with free := s.free + 1024 }, .ok { c with writes := w })

/-! ## Algorithm blocks (R356, R517, R518) -/

/-- What a cell of an algorithm block names: an input, an output, a key that is read, or one that is made. -/
inductive BlkKind where
  | inp | out | keyIn | keyOut
deriving DecidableEq, Repr

/-- The block of an algorithm command: its cells by number, kind and octets, for a parameter set and a message length. -/
def blockCells (sel : BitVec 6) (p len : Nat) : List (Nat × BlkKind × Nat) :=
  let pick (l : List Nat) : Nat := l.getD p 0
  let c := pick [32, 48]
  let m := pick [256, 384, 512]
  match sel.toNat with
  | 0o40 => [(0, .keyIn, c), (1, .inp, c), (2, .out, 2 * c)]
  | 0o41 => [(0, .inp, 2 * c), (1, .inp, c), (2, .inp, 2 * c)]
  | 0o42 => [(0, .keyIn, 32), (1, .inp, len), (3, .out, 64)]
  | 0o43 => [(0, .inp, 32), (1, .inp, len), (3, .inp, 64)]
  | 0o44 => [(0, .keyIn, 32), (1, .inp, 32), (2, .out, 32)]
  | 0o45 => [(0, .keyOut, pick [32, 48, 32, 32]), (1, .out, pick [64, 96, 32, 32])]
  | 0o50 => [(0, .inp, 5 * (m / 2) + 4), (1, .inp, m), (2, .out, m)]
  | 0o51 => [(0, .inp, m), (1, .inp, 4), (2, .inp, m), (3, .out, m)]
  | 0o60 => [(0, .out, pick [1184, 1568]), (1, .keyOut, pick [2400, 3168])]
  | 0o61 => [(0, .inp, pick [1184, 1568]), (1, .out, pick [1088, 1568]), (2, .out, 32)]
  | 0o62 => [(0, .keyIn, pick [2400, 3168]), (1, .inp, pick [1088, 1568]), (2, .out, 32)]
  | 0o63 => [(0, .out, pick [1952, 2592]), (1, .keyOut, pick [4032, 4896])]
  | 0o64 => [(0, .keyIn, pick [4032, 4896]), (1, .inp, 64), (2, .out, pick [3309, 4627])]
  | 0o65 => [(0, .inp, pick [1952, 2592]), (1, .inp, 64), (2, .inp, pick [3309, 4627])]
  | _ => []

/-- The cells of an algorithm command's block (R356). -/
def blockLen (sel : BitVec 6) : Nat :=
  match sel.toNat with
  | 0o42 => 4
  | 0o43 => 4
  | 0o45 => 2
  | 0o51 => 4
  | 0o60 => 2
  | 0o63 => 2
  | _ => 3

/-- The vault type that a key cell of a command needs (R517). -/
def vaultType (sel : BitVec 6) (p : Nat) : BitVec 4 :=
  match sel.toNat with
  | 0o42 => 3
  | 0o44 => 4
  | 0o60 => BitVec.ofNat 4 (5 + p)
  | 0o62 => BitVec.ofNat 4 (5 + p)
  | 0o63 => BitVec.ofNat 4 (7 + p)
  | 0o64 => BitVec.ofNat 4 (7 + p)
  | _ => BitVec.ofNat 4 (1 + p)

/-- The energy that expanding a vault seed adds (R517). -/
def unwrapEnergy (t : BitVec 4) : Nat :=
  if t = 5 then 30 else if t = 6 then 47 else if t = 7 then 120 else if t = 8 then 190 else 0

/-- What has been gathered of a block: inputs in order (none: a vault key that no one outside the vault knows), outputs with
their octets, and what the command has of the vault. -/
structure Gather where
  ins : List (Option (List Octet))
  outs : List ((Addr × BitVec 10) × Nat)
  fill : Option (BitVec 10 × BitVec 4)
  vault : Bool
  extra : Nat

/-- A key cell that names a vault slot is well formed (R352). -/
def vaultRef (m : Cell) : Bool := fld m 24 9 == (0 : BitVec 9) && fld m 10 14 == (0 : BitVec 14)

/-- The key that a slot holds, where its octets are known. -/
def VltKey.known : VltKey → Option (List Octet)
  | .octets l => some l
  | _ => none

/-- The key of a slot of a type, `n` octets of it: the lattice keys are expanded from their seeds (R517). -/
def expandKey (t : BitVec 4) (n : Nat) (l : List Octet) : List Octet :=
  if t = 5 ∨ t = 6 then (kemKeys (t.toNat - 5) (l.take 32) ((l.drop 32).take 32)).2
  else if t = 7 ∨ t = 8 then (dsaKeys (t.toNat - 7) (l.take 32)).2
  else l.take n

/-- A key read from the vault (R363, R517). -/
def vaultKey (s : State) (c : RkCmd) (m : Cell) (t : BitVec 4) (n : Nat) (g : Gather) : Except (BitVec 6) Gather :=
  let v := vltSlot s (fld m 0 10)
  if !vaultRef m then .error eOperand
  else if s.vlt.locked then .error kKeyLocked
  else if (v.state ≠ .filled ∧ v.state ≠ .identity) ∨ v.type ≠ t then .error eOperand
  else if v.owner ≠ c.stamp.tenant then .error ePermission
  else .ok { g with ins := g.ins ++ [match v.key.known with
                                     | none => none
                                     | some l => some (expandKey t n l)]
                    vault := true, extra := g.extra + unwrapEnergy t }

/-- A key made into the vault (R518). -/
def vaultMake (s : State) (h : HalfId) (c : RkCmd) (m : Cell) (t : BitVec 4) (g : Gather) : Except (BitVec 6) Gather :=
  let i : BitVec 10 := fld m 0 10
  let v := vltLatest s i
  if !vaultRef m then .error eOperand
  else if s.vlt.locked then .error kKeyLocked
  else if s.lockedMode h then .error eModeLocked
  else if v.state ≠ .assigned ∨ v.type ≠ t then .error eOperand
  else if v.owner ≠ c.stamp.tenant then .error ePermission
  else .ok { g with fill := some (i, t), vault := true }

/-- One cell of a block is taken up. -/
def gatherOne (s : State) (h : HalfId) (c : RkCmd) (bad : Bool) (b : List Cell) (e : Nat × BlkKind × Nat) (g : Gather) :
    State × Except (BitVec 6) Gather :=
  let m := b.getD e.1 0
  let input : State × Except (BitVec 6) Gather := match rkOctets s h c bad m e.2.2 with
    | (s, .error x) => (s, .error x)
    | (s, .ok l) => (s, .ok { g with ins := g.ins ++ [some l] })
  let output : State × Except (BitVec 6) Gather := match rkOut s h c true m e.2.2 with
    | .error x => (s, .error x)
    | .ok a => (s, .ok { g with outs := g.outs ++ [(a, e.2.2)] })
  match e.2.1 with
  | .inp => input
  | .out => output
  | .keyIn => if bit m 33 then (s, vaultKey s c m (vaultType c.sel c.param) e.2.2 g) else input
  | .keyOut => if bit m 33 then (s, vaultMake s h c m (vaultType c.sel c.param) g) else output

/-- The cells of a block are taken up in order. DESIGN CHOICE: log 53. -/
def gatherAll (h : HalfId) (c : RkCmd) (bad : Bool) (b : List Cell) :
    List (Nat × BlkKind × Nat) → State → Gather → State × Except (BitVec 6) Gather
  | [], s, g => (s, .ok g)
  | e :: l, s, g => match gatherOne s h c bad b e g with
    | (s, .error x) => (s, .error x)
    | (s, .ok g) => gatherAll h c bad b l s g

/-- What an algorithm yields. -/
inductive AlgoOut where
  /-- Its outputs and its result. -/
  | done (outs : List (List Octet)) (result : Bool)
  /-- A key pair: what a vault slot would hold of it, and its private and public keys. -/
  | made (seed priv pub : List Octet)
  /-- DSASIGN's private key, μ and hedge. -/
  | sign (sk mu rnd : List Octet)
  /-- An input outside its domain (R357). -/
  | invalid
  /-- The result fails the check of R364, whatever is repeated. -/
  | wrong
  /-- Outputs that the spec does not state. -/
  | open_

/-- RSAPUB (R356, R357, R369). -/
def rsaPublic (n e x : List Octet) : AlgoOut :=
  let m := beNat n
  if m % 2 = 0 ∨ beNat e % 2 = 0 ∨ beNat e < 3 ∨ m ≤ beNat x then .invalid
  else .done [beOctets n.length (powMod (beNat x) (beNat e) m)] false

/-- RSAPRIV: the key block holds p, q, dp, dq, qinv and e; the result is verified with e (R356, R364). -/
def rsaSecret (key x : List Octet) : AlgoOut :=
  let k := x.length / 2
  let f (i : Nat) : Nat := beNat ((key.drop (i * k)).take k)
  let n := f 0 * f 1
  let e := beNat (key.drop (5 * k))
  if f 0 % 2 = 0 ∨ f 1 % 2 = 0 ∨ e % 2 = 0 ∨ e < 3 ∨ n ≤ beNat x then .invalid
  else
    let y := rsaCrt (f 0) (f 1) (f 2) (f 3) (f 4) (beNat x)
    if powMod y e n = beNat x then .done [beOctets x.length y] false else .wrong

/-- The encapsulation-key check of FIPS 203: every coefficient is reduced. -/
def kemKeyOk (ek : List Octet) : Bool :=
  (pieces 3 ek.length (ek.take (ek.length - 32))).all fun t =>
    let v := leNat t
    decide (v % 4096 < kemQ ∧ v / 4096 < kemQ)

/-- The decapsulation-key check of FIPS 203: the key holds the hash of its encapsulation key. -/
def kemHashOk (dk : List Octet) : Bool :=
  let n := (dk.length - 96) / 2
  sponge 136 6 32 ((dk.drop n).take (n + 32)) == (dk.drop (2 * n + 32)).take 32

/-- 32 octets drawn. -/
def drawOctets (k : Nat) : List Octet := leOctets 32 (Config.randomBits k).toNat

/-- 512 bits drawn. -/
def drawWide (k : Nat) : Nat := (Config.randomBits k).toNat + 2 ^ 256 * (Config.randomBits (k + 1)).toNat

/-- ECSIGN with a drawn nonce (R365). -/
def ecSignRun (c : Curve) (n k : Nat) (key digest : List Octet) : AlgoOut :=
  if beNat key = 0 ∨ c.n ≤ beNat key then .invalid
  else match ecdsaSign c n key digest (drawWide k) with
    | none => .open_
    | some l => .done [l] false

/-- ECKEY from drawn bits. -/
def ecKeyRun (p k : Nat) : AlgoOut :=
  let x := drawOctets k
  if p = 0 then
    let r := ecKeys curveP256 32 (drawWide k)
    .made r.1 r.1 r.2
  else if p = 1 then
    let r := ecKeys curveP384 48 (drawWide k)
    .made r.1 r.1 r.2
  else if p = 2 then .made x x (edPublic x)
  else .made x x (x25519Public x)

/-- What an algorithm yields from its inputs, and from draws numbered from `k`. -/
def algoRun (sel : BitVec 6) (p k : Nat) (ins : List (List Octet)) : AlgoOut :=
  let x (i : Nat) : List Octet := ins.getD i []
  let c := if p = 0 then curveP256 else curveP384
  let n := if p = 0 then 32 else 48
  match sel.toNat with
  | 0o40 => ecSignRun c n k (x 0) (x 1)
  | 0o41 => .done [] (ecdsaVerify c n (x 0) (x 1) (x 2))
  | 0o42 => .done [edSign (x 0) (x 1)] false
  | 0o43 => .done [] (edVerify (x 0) (x 1) (x 2))
  | 0o44 => .done [x25519 (x 0) (x 1)] false
  | 0o45 => ecKeyRun p k
  | 0o50 => rsaSecret (x 0) (x 1)
  | 0o51 => rsaPublic (x 0) (x 1) (x 2)
  | 0o60 =>
    let r := kemKeys p (drawOctets k) (drawOctets (k + 1))
    .made (drawOctets k ++ drawOctets (k + 1)) r.2 r.1
  | 0o61 =>
    let r := kemEncaps p (x 0) (drawOctets k)
    if kemKeyOk (x 0) then .done [r.1, r.2] false else .invalid
  | 0o62 => if kemHashOk (x 0) then .done [kemDecaps p (x 0) (x 1)] false else .invalid
  | 0o63 =>
    let r := dsaKeys p (drawOctets k)
    .made (drawOctets k) r.2 r.1
  | 0o64 => .sign (x 0) (x 1) (drawOctets k)
  | 0o65 => .done [] (dsaVerify p (x 0) (x 1) (x 2))
  | _ => .open_

/-- The outputs of a key pair: the public key, and the private key where it goes to memory (R518). -/
def pairOuts (sel : BitVec 6) (vault : Bool) (priv pub : List Octet) : List (List Octet) :=
  if vault then [pub] else if sel = 0o45 then [priv, pub] else [pub, priv]

/-- The inputs of a block, when all are known. -/
def knownIns : List (Option (List Octet)) → Option (List (List Octet))
  | [] => some []
  | none :: _ => none
  | some l :: t => match knownIns t with
    | none => none
    | some r => some (l :: r)

/-- The octets that each output of a block takes: those computed, or values not stated from a number of a draw.
DESIGN CHOICE: log 53. -/
def outputsOf (k : Nat) : List ((Addr × BitVec 10) × Nat) → List (List Octet) → List (Addr × BitVec 10 × Cell)
  | [], _ => []
  | (a, n) :: t, [] => outWrites a (freeOctets k n) ++ outputsOf (k + 2048) t []
  | (a, _) :: t, l :: r => outWrites a l ++ outputsOf k t r

/-- The energy that a message adds to an Ed25519 command (R358). -/
def messageEnergy (len : Nat) : Nat := 2 * ((len - 64 + 511) / 512)

/-- A block's command with its outputs. DESIGN CHOICE: log 53. -/
def algoEnd (s : State) (c : RkCmd) (g : Gather) : Prep :=
  let c := { c with fill := g.fill, vault := g.vault, extra := c.extra + g.extra }
  let out := match knownIns g.ins with
    | none => AlgoOut.open_
    | some l => algoRun c.sel c.param s.free l
  let s' := { s with free := s.free + 6145 }
  match out with
  | .invalid => (s, .error kInvalid)
  | .wrong => (s', .ok { c with writes := outputsOf s.free g.outs [], wrong := true })
  | .done l r => (s', .ok { c with writes := outputsOf s.free g.outs l, result := if r then 1 else 0 })
  | .made seed priv pub =>
    (s', .ok { c with writes := outputsOf s.free g.outs (pairOuts c.sel g.fill.isSome priv pub), keys := [seed] })
  | .sign sk mu rnd => (s', .ok { c with writes := outputsOf s.free g.outs [], keys := [sk, mu, rnd] })
  | .open_ => (s', .ok { c with writes := outputsOf s.free g.outs [] })

/-- The algorithm commands (R356). -/
def prepAlgo (s : State) (h : HalfId) (bad : Bool) (c : RkCmd) : Prep :=
  match rkRead s h c bad (c.ops.getD 0 0) (blockLen c.sel) with
  | (s, .error e) => (s, .error e)
  | (s, .ok b) =>
    let len := if c.sel = 0o42 ∨ c.sel = 0o43 then (b.getD 2 0).toNat else 0
    if 4096 < len then (s, .error eOperand)
    else match gatherAll h c bad b (blockCells c.sel c.param len) s ⟨[], [], none, false, 0⟩ with
      | (s, .error e) => (s, .error e)
      | (s, .ok g) => algoEnd s { c with extra := messageEnergy len } g

/-! ## The start -/

/-- The command fails FOREIGN at its start: the registers hold nothing, or another tenant's state (R345). -/
def startsForeign (r : Reckoner) (c : RkCmd) : Bool :=
  !(c.sel == 0o02 || c.sel == 0o03 || c.sel == 0o04) && (!r.held || r.tenant != c.stamp.tenant)

/-- A command's checks and results as it starts; `bad` marks that the memory it reads first fails. DEDUCED: log 54. -/
def prepare (s : State) (h : HalfId) (bad : Bool) (c : RkCmd) : Prep :=
  let c := { c with writes := [], regs := [], own := none, fill := none, vault := false, keys := [], wrong := false, extra := 0,
                    result := 0 }
  if startsForeign (s.half h).rkn c then (s, .error kForeign)
  else match c.sel.toNat with
    | 0o02 => prepSave s h c
    | 0o03 => prepLoad s h bad c
    | 0o04 => prepClear s h c
    | 0o10 => prepWld s h bad c
    | 0o11 => prepWst s h c
    | 0o12 => (s, .ok { c with regs := [((c.ops.getD 1 0).toNat, wideCells (s.half h).rkn (c.ops.getD 0 0).toNat 128)] })
    | 0o13 => prepMul s h c
    | 0o14 => prepMul s h c
    | 0o15 => prepPoly s h c
    | 0o16 => prepPoly s h c
    | 0o17 => prepPoly s h c
    | 0o20 => prepKeys s h c
    | 0o21 => prepBlock s h c
    | 0o22 => prepGcm s h bad c
    | 0o23 => prepGcm s h bad c
    | 0o24 => prepKeccak s h c
    | 0o30 => prepHash s h bad c
    | 0o31 => prepHash s h bad c
    | 0o32 => prepHash s h bad c
    | _ => prepAlgo s h bad c

end Sys2Proof.Machine
end

