-- ==== Sys2Proof/Machine/RkRun.lean ====
section
/-! DEFINITION. How reckoner commands start, run in slices, finish, fail and are locked out, and the RKN registers
(R344, R345, R349, R358-R365, R370). -/

namespace Sys2Proof.Machine

/-- The queue with a command replaced by its sequence number. -/
def Reckoner.put (r : Reckoner) (c : RkCmd) : Reckoner := { r with queue := r.queue.map fun q => if q.seq = c.seq then c else q }

/-- A command and its held status are set to a state (R350). -/
def rkSet (s : State) (h : HalfId) (c : RkCmd) (st : BitVec 3) : State :=
  s.onRkn h fun r => (r.put c).onStatus c.seq fun e => { e with state := st, result := if rkSliced c.sel then BitVec.ofNat 24 c.slices else e.result }

/-! ## Charges (R358, R359, R391) -/

/-- The lease of a command is released (R391). -/
def rkRelease (s : State) (h : HalfId) (c : RkCmd) : State × RkCmd :=
  match c.lease with
  | none => (s, c)
  | some l => (leaseBack s h c.entry l, { c with lease := none })

/-- A light command is charged to the lease of the context that issued it under one, else to the remaining energy and its
entry's allowance while that entry is current (R391). -/
def chargeLight (s : State) (h : HalfId) (c : RkCmd) : State :=
  let k := gLocal c.stamp.ctx
  let n := rkEnergy c
  match c.leaseWanted, leaseOf (s.half h).gov k with
  | true, some l => s.onGov h fun g => { g with leases := sput none g.leases k.toNat (some { l with used := l.used + n }) }
  | _, _ => spendAllow (spend s h n) h (if c.entry.isSome && (s.half h).sch.cur == c.entry then c.entry else none) n

/-- A command, or its slice, has used its energy (R358, R391). -/
def rkCharge (s : State) (h : HalfId) (c : RkCmd) : State × RkCmd :=
  match c.lease with
  | none => (chargeLight s h c, c)
  | some l => (s, { c with lease := some { l with used := l.used + rkEnergy c } })

/-! ## Failure (R350, R362-R364) -/

/-- Counts of a command's failure, and the end of its vault key in the latch (R363, R370). -/
def Reckoner.countFail (r : Reckoner) (c : RkCmd) (code : BitVec 6) : Reckoner :=
  { r with failed := satInc r.failed, latch := r.latch && !(c.begun && c.vault)
           selfchk := if code = kSelfCheck then satInc r.selfchk else r.selfchk }

/-- A SELF-CHECK failure makes a daybook entry (R364, R537). -/
def rkReport (s : State) (h : HalfId) (c : RkCmd) (code : BitVec 6) : State :=
  if code = kSelfCheck then
    reportHalf s h .rkn 18 (some (gLocal c.stamp.ctx)) none (ticketOf c.sel c.stamp.ctx c.seq)
      (atBits c.sel 10 ||| atBits c.stamp.tenant 0)
  else s

/-- A command fails: its lease is released, its writes are discarded, and its completion follows (R360, R362). -/
def rkFail (s : State) (h : HalfId) (c : RkCmd) (code : BitVec 6) : State :=
  let r := rkRelease s h c
  let f := c
  let c := { r.2 with code := code, writes := [], regs := [], own := none, fill := none, vault := false, keys := [], leaseWanted := false
                      result := if code = kAttempts then r.2.result else 0 }
  cmdFinished (rkReport (r.1.onRkn h fun q => q.countFail f code) h c code) h c

/-- The commands of a list fail. -/
def rkFailAll (h : HalfId) (code : BitVec 6) (l : List RkCmd) (s : State) : State := l.foldl (fun s c => rkFail s h c code) s

/-- Entry to READING-ROOM fails every signing command that has not completed (R362). -/
def rkReading (s : State) (h : HalfId) : State :=
  rkFailAll h eModeLocked ((s.half h).rkn.queue.filter fun c => c.live && rkSigns c.sel) s

/-- A queued command's block names a vault key where its key cell lies (R363). DEDUCED: log 56. -/
def namesVault (s : State) (h : HalfId) (c : RkCmd) : Bool :=
  c.vault ||
  match (blockCells c.sel c.param 0).find? fun e => e.2.1 == .keyIn || e.2.1 == .keyOut with
  | none => false
  | some e => match rkRef s h c (c.ops.getD 0 0) (blockLen c.sel) pLD with
    | .error _ => false
    | .ok (a, t) => match rkCells h t (queuedWrites s h) 1 s (a + BitVec.ofNat 24 e.1) with
      | (_, .ok [m]) => bit m 33
      | _ => false

/-- A lock of the vault fails the commands of a half that name a key (R363). DEDUCED: log 56. -/
def rkVaultLock (s : State) (h : HalfId) : State :=
  (rkFailAll h kKeyLocked ((s.half h).rkn.queue.filter fun c => c.state != .finished && namesVault s h c) s).onRkn h fun r =>
    { r with latch := false }

/-! ## Start (R345, R349, R359) -/

/-- The lease that a command holds is of at least its class, or it needs none (R359). -/
def leased (s : State) (h : HalfId) (c : RkCmd) : Bool :=
  !heavy (rkClass c) ||
  match c.lease with
  | none => false
  | some l => decide (ceilingOf (s.half h).gov (rkClass c) ≤ ceilingOf (s.half h).gov l.cls)

/-- The class is declared for the entry under which the command was issued (R359). -/
def declared (s : State) (h : HalfId) (c : RkCmd) : Option (BitVec 7) :=
  match c.entry with
  | none => none
  | some i => if bit ((s.half h).sch.active.entry i).decl (rkClass c).toNat then some i else none

/-- A heavy command, or its next slice, asks for its lease: granted and running, standing, or failed (R359, R392).
DEDUCED: log 54. -/
def rkLease (s : State) (h : HalfId) (c : RkCmd) : State :=
  match declared s h c with
  | none => rkFail s h c kUndeclared
  | some i =>
    let cls := rkClass c
    let r := rkRelease s h c
    if leaseFits (r.1.half h) i (ceilingOf (r.1.half h).gov cls) then
      rkSet (leaseCharge r.1 h i cls) h { r.2 with state := .running, lease := some ⟨cls, 0⟩, leaseWanted := false } 3
    else rkSet r.1 h { r.2 with state := .deferred, leaseWanted := true } 2

/-- The head command begins, under its lease: its checks and reads are made (R345, R352). -/
def rkBegin (s : State) (h : HalfId) (bad : Bool) (c : RkCmd) : State :=
  match prepare s h bad c with
  | (s, .error e) => rkFail s h c e
  | (s, .ok c) =>
    let s := rkSet s h { c with state := .running, begun := true } 3
    if c.vault then s.onRkn h fun r => { r with latch := true } else s

/-- The command that has the sequence number. -/
def Reckoner.cmd (r : Reckoner) (seq : BitVec 12) : Option RkCmd := r.queue.find? fun c => c.seq == seq

/-- The half's reckoner works: the half runs or is halted. DEDUCED: log 55. -/
def rkWorks (s : State) (h : HalfId) : Bool := s.running h || s.mode h == mHalt

/-- COMMAND_START: the head command starts once its lease, if it needs one, is held (R349, R359). DEDUCED: log 54. -/
def commandStart (s : State) (h : HalfId) (bad : Bool) : State :=
  match (s.half h).rkn.headCmd with
  | none => s
  | some c =>
    if !rkWorks s h || c.begun || c.state == .deferred then s
    else if leased s h c then rkBegin s h bad c
    else
      let s := rkLease s h c
      match (s.half h).rkn.cmd c.seq with
      | some c' => if c'.state == .running then rkBegin s h bad c' else s
      | none => s

/-- COMMAND_START (R359). -/
def execCommandStart (h : HalfId) (bad : Bool) (s : State) : Host.Outcome State Fault Refusal := .next (commandStart s h bad)

/-! ## Slices (R361) -/

/-- The slices of RSAPRIV (R358). DEDUCED: log 55. -/
def rsaSlices (p : Nat) : Nat := [6, 16, 36].getD p 0

/-- The fewest slices of a MEXP on sz limbs: its time at 600 MHz in slices of at most 500 µs (R358, R361).
DEDUCED: log 55. -/
def mexpSlices (sz : Nat) : Nat := ((40 * sz + 20) * ((sz * sz + 1) / 2 + 52) + 299999) / 300000

/-- The slice that runs is one after which another may follow (R361): of DSASIGN, the last is attempt 814. -/
def sliceEnds (c : RkCmd) : Bool :=
  if c.sel = 0o50 then decide (c.slices + 1 < rsaSlices c.param) else rkSliced c.sel

/-- The slice that runs may be the last. -/
def lastSlice (c : RkCmd) : Bool :=
  match c.sel.toNat with
  | 0o14 => decide (mexpSlices (c.ops.getD 4 0).toNat ≤ c.slices + 1)
  | 0o50 => decide (rsaSlices c.param ≤ c.slices + 1)
  | 0o64 => decide (1 ≤ c.slices)
  | _ => true

/-- Why the outputs of a command can no longer be written: their mapping is checked again at each slice and at the finish, and
a partition fails them (R352, R353); 0: they can. -/
def outputsLost (s : State) (h : HalfId) (c : RkCmd) : BitVec 6 :=
  ((c.writes.map fun w => dataMapped s h w.1.toNat).find? fun e => e != 0).getD 0

/-- The head command while one of its slices runs. -/
def runningCmd (s : State) (h : HalfId) : Option RkCmd :=
  match (s.half h).rkn.headCmd with
  | none => none
  | some c => if c.begun && c.state == .running then some c else none

/-- SLICE_END: the slice is charged, its lease released, and the next one asks for its own (R360, R361). -/
def sliceEnd (s : State) (h : HalfId) : State :=
  match runningCmd s h with
  | none => s
  | some c =>
    if !sliceEnds c then s
    else
      let r := rkCharge s h c
      let r : State × RkCmd := rkRelease r.1 h r.2
      let c : RkCmd := { r.2 with slices := r.2.slices + 1 }
      let lost := outputsLost s h c
      if c.sel = 0o64 ∧ 815 ≤ c.slices then rkFail r.1 h { c with result := 814 } kAttempts
      else if lost ≠ 0 then rkFail r.1 h c lost
      else rkLease (rkSet r.1 h c 3) h c

/-- SLICE_END (R361). -/
def execSliceEnd (h : HalfId) (s : State) : Host.Outcome State Fault Refusal := .next (sliceEnd s h)

/-! ## Finish (R345, R346, R362, R364, R365) -/

/-- The cells of the memory queue that finished commands hold. -/
def queueUsed (r : Reckoner) : Nat :=
  (r.queue.filter fun c => c.state == .finished).foldl (fun n c => n + c.writes.length) 0

/-- The command's writes fit in the free part of the memory queue (R362); an empty queue takes them all.
DEDUCED: log 55. -/
def writesFit (r : Reckoner) (c : RkCmd) : Bool := queueUsed r == 0 || decide (queueUsed r + c.writes.length ≤ 1088)

/-- The command draws from its half's DRBG: masks, nonces, hedges and what its algorithm draws (R365). DEDUCED: log 79. -/
def rkDraws (sel : BitVec 6) : Bool :=
  [0o20, 0o21, 0o22, 0o23, 0o40, 0o42, 0o44, 0o45, 0o50, 0o60, 0o61, 0o62, 0o63, 0o64].contains sel.toNat

/-- The command's draws are made; none while it stalls (R365). -/
def drawFor (s : State) (h : HalfId) (c : RkCmd) : Option State := if rkDraws c.sel then drbgCall s h else some s

/-- The registers and the ownership that a finished command leaves (R345). -/
def Reckoner.take (r : Reckoner) (c : RkCmd) : Reckoner :=
  { r with
    wide := c.regs.foldl (fun w e => wideSet w e.1 0 e.2) r.wide
    held := match c.own with
            | none => r.held
            | some (v, _) => v
    tenant := match c.own with
              | none => r.tenant
              | some (_, t) => t
    latch := false }

/-- The check of a command fails: it restarts once from its start, or fails (R364). -/
def checkFailed (s : State) (h : HalfId) (c : RkCmd) : State :=
  if c.restarts = 0 then
    rkSet (s.onRkn h fun r => { r with restarts := satInc r.restarts, latch := false }) h
      { c with restarts := 1, begun := false, slices := 0 } 3
  else rkFail s h c kSelfCheck

/-- Cells placed over the writes of a command. -/
def cellsOver : List (Addr × BitVec 10 × Cell) → List Cell → List (Addr × BitVec 10 × Cell)
  | w :: l, c :: t => (w.1, w.2.1, c) :: cellsOver l t
  | l, _ => l

/-- DSASIGN with the signature of its latest attempt; where that attempt yields none, the values of its start stay
(R356, R361). DEDUCED: log 55. -/
def withSignature (c : RkCmd) : RkCmd :=
  match c.keys with
  | [sk, mu, rnd] => match dsaAttempt c.param sk mu rnd c.slices with
    | none => { c with keys := [] }
    | some l => { c with writes := cellsOver c.writes (octetCells l), keys := [] }
  | _ => c

/-- The tenant whose state the registers hold once CLEAR finishes is that of the context that owns them then (R345). -/
def clearsFor (s : State) (h : HalfId) (c : RkCmd) : RkCmd :=
  if c.sel = 0o04 then { c with own := some (true, ownerTenant s h c) } else c

/-- COMMAND_FINISH: the command, or its last slice, is charged and finishes, or a check fails (R345, R352, R353, R364). -/
def commandFinish (s : State) (h : HalfId) (checkFails : Bool) : State :=
  match runningCmd s h with
  | none => s
  | some c =>
    if !lastSlice c || !writesFit (s.half h).rkn c then s
    else match drawFor s h c with
      | none => s
      | some s =>
        let lost := outputsLost s h c
        if lost ≠ 0 then rkFail s h c lost
        else if checkFails || c.wrong then checkFailed s h c
        else
          let r := rkCharge s h c
          let r : State × RkCmd := rkRelease r.1 h r.2
          let c : RkCmd := if r.2.sel = 0o64 then { withSignature r.2 with result := BitVec.ofNat 24 r.2.slices } else r.2
          let c := clearsFor s h c
          cmdFinished (r.1.onRkn h fun q => q.take c) h c

/-- COMMAND_FINISH (R362). -/
def execCommandFinish (h : HalfId) (checkFails : Bool) (s : State) : Host.Outcome State Fault Refusal :=
  .next (commandFinish s h checkFails)

/-! ## Registers (R344, R370) -/

/-- RKN_OWN (R370). -/
def rknOwn (r : Reckoner) : Cell :=
  atBit r.ownValid 35 ||| atBit r.held 33 ||| atBits r.ownCtx 23 ||| atBits r.tenant 0

/-- The commands that hold a place of the queue. -/
def Reckoner.places (r : Reckoner) : List RkCmd := r.queue.filter RkCmd.live

/-- A command's state as its status codes it (R350). -/
def RkCmd.code3 (c : RkCmd) : BitVec 3 :=
  match c.state with
  | .queued => 1
  | .deferred => 2
  | .running => 3
  | .finished => 3
  | .done => 4
  | .failed => 5

/-- RKN_STAT (R370). -/
def rknStat (r : Reckoner) : Cell :=
  atBits (BitVec.ofNat 4 r.places.length) 32 ||| atBit r.latch 10 |||
  match r.places with
  | [] => 0
  | c :: _ => atBits c.code3 29 ||| atBits c.sel 23 ||| atBits c.seq 11

/-- Reads of RKN at offset `o` of 0o120000 (R370). -/
def rknRead (s : State) (h : HalfId) (o : Nat) : Option (Cell × Cell) :=
  let r := (s.half h).rkn
  if o = 0 then some (rknOwn r, 0)
  else if o = 1 then some (rknStat r, 0)
  else if o = 2 then some (atBits r.restarts 18 ||| atBits r.selfchk 0, atBits r.refused 18 ||| atBits r.failed 0)
  else none

/-- A write of RKN_OWN: the new owner applies at a forced close, which falls at the next boundary (R344, R370). -/
def rknOwnWrite (s : State) (w : Writer) (h : HalfId) (x0 : Cell) : State :=
  let s := s.onRkn h fun r => { r with ownNext := some (bit x0 35, if bit x0 34 then w.ctx else fld x0 23 5) }
  if (s.half h).win.blank then ownApply s h
  else if closeBlocked s h then s.onWin h fun w => { w with closeDue := true }
  else closeNow s h

/-- RKN_OWN (R344). -/
def execRknOwn (w h : HalfId) (v : Cell) (s : State) : Host.Outcome State Fault Refusal :=
  .next (regCommand s w h true fun wr => rknOwnWrite s wr h v)

end Sys2Proof.Machine
end

