-- ==== Sys2Proof/Machine/Span.lean ====
section
/-! DEFINITION. The span: its paths and states, its registers, generations across the halves and migration
(R286-R300, R306, R308). -/

namespace Sys2Proof.Machine

/-! ## Span states (R289) -/

/-- UP. -/
def spUp : BitVec 2 := 0
/-- DEGRADED. -/
def spDegraded : BitVec 2 := 1
/-- DOWN. -/
def spDown : BitVec 2 := 2
/-- RECOVERING. -/
def spRecovering : BitVec 2 := 3

/-- The state a half's span is in by its paths: out of DOWN it first recovers (R289, R310). -/
def spanWants (s : State) (h : HalfId) : BitVec 2 :=
  let p := (s.half h).spn
  if s.heldInReset h.other || !(p.pa.up || p.pb.up) then spDown
  else if p.state = spDown ∨ p.state = spRecovering then spRecovering
  else if p.pa.up && p.pb.up then spUp else spDegraded

/-- A read that crosses the span and has no reply. -/
def OutRead.unanswered (r : OutRead) : Bool := r.remote.isSome && !r.granted

/-- The tenants of the generation updates not yet acknowledged. -/
def unacknowledged (l : List Flit) : List (BitVec 10) := l.filterMap fun f => match f with
  | .genUpdate t _ => some t
  | .genAnswer t _ => some t
  | _ => none

/-- The entry brings a value that the other half has set: it is exchanged at Recovery instead (R306, R308). -/
def GenKind.brings : GenKind → Bool
  | .update => true
  | .answer => true
  | _ => false

/-- A flit that stays in the replay buffer when the span goes DOWN (R306). DEDUCED: log 50. -/
def Flit.stays : Flit → Bool
  | .read _ _ _ => false
  | .genUpdate _ _ => false
  | .genAnswer _ _ => false
  | _ => true

/-- The work in progress ends as the half's span goes DOWN (R305, R306). DEDUCED: log 50. -/
def spanCut (s : State) (h : HalfId) : State :=
  let s := s.onEx h fun e => { e with
    revoking := none
    reads := e.reads.map fun r => if r.unanswered then { r with granted := true, failed := true, cut := true } else r }
  let sent := ((s.half h.other).spn.applyGen.filter fun e => e.2.2.brings).map fun e => e.1
  let s := s.onSpn h.other fun p => { p with applyGen := p.applyGen.filter fun e => !e.2.2.brings }
  s.onSpn h fun p => { p with
    peer := 0
    watch := some 0
    changed := p.changed ++ unacknowledged p.out ++ sent
    out := p.out.filter Flit.stays }

/-- The half's span changes state: a daybook entry, and the span source (R289). -/
def spanTo (s : State) (h : HalfId) (new : BitVec 2) : State :=
  let p := (s.half h).spn
  if p.state = new then s
  else
    let s := s.onSpn h fun p => { p with state := new }
    let s := raiseHalf (reportHalf s h .spn 11 none none (atBits p.state 2 ||| atBits new 0) (atBit p.pa.up 1 ||| atBit p.pb.up 0)) h 204
    if new = spDown then spanCut s h else s

/-- A half that is held in reset has no span of its own to report. -/
def spanRefreshHalf (s : State) (h : HalfId) : State := if s.heldInReset h then s else spanTo s h (spanWants s h)

/-- Both halves' spans follow their paths. -/
def spanRefresh (s : State) : State := spanRefreshHalf (spanRefreshHalf s .h0) .h1

/-! ## Paths (R288, R289, R291, R294) -/

/-- A path of an endpoint: A, or B. -/
def SpanEnd.path (p : SpanEnd) (b : Bool) : PathState := if b then p.pb else p.pa

/-- An endpoint with a path changed. -/
def SpanEnd.onPath (p : SpanEnd) (b : Bool) (f : PathState → PathState) : SpanEnd :=
  if b then { p with pb := f p.pb } else { p with pa := f p.pa }

/-- A disable in either half takes the path out of service (R294). -/
def pathDisabled (s : State) (b : Bool) : Bool := (s.h0.spn.path b).dis || (s.h1.spn.path b).dis

/-- A path goes down as a half sees it (R289, R295). -/
def PathState.fall (p : PathState) : PathState :=
  if p.up then { p with up := false, good := 0, fails := [], downs := satInc p.downs } else { p with good := 0, fails := [] }

/-- A path goes down in both directions (R289). DEDUCED: log 48. -/
def pathFall (s : State) (b : Bool) : State :=
  let f (p : SpanEnd) : SpanEnd := p.onPath b PathState.fall
  spanRefresh ((s.onSpn .h0 f).onSpn .h1 f)

/-- A flit of a path fails its CRC in a half (R289, R295). DEDUCED: log 48. -/
def pathFail (s : State) (h : HalfId) (b : Bool) : State :=
  let s := s.onSpn h fun p => p.onPath b fun q => { q with crc := satInc q.crc, fails := 0 :: q.fails }
  let p := (s.half h).spn
  if (p.path b).up && decide (p.crcLim.toNat ≤ (p.path b).fails.length) then pathFall s b else s

/-- A heartbeat interval of 64 cycles passes: a CRC failure counts for 64 of them (R289). DEDUCED: log 48. -/
def PathState.passes (p : PathState) : PathState := { p with fails := (p.fails.filter fun n => n < 63).map fun n => n + 1 }

/-- A good heartbeat: the sixteenth in a row brings a training path up (R289). DEDUCED: log 48. -/
def PathState.beat (p : PathState) (disabled : Bool) : PathState :=
  let p := p.passes
  if p.up || disabled then p
  else if 15 ≤ p.good then { p with up := true, good := 0, fails := [] } else { p with good := p.good + 1 }

/-- The heartbeat's content (R291): the sender's mode, the low 12 bits of its frame counter and its span state. -/
def heartbeatContent (s : State) (h : HalfId) (p : SpanEnd) : SpanEnd :=
  { p with peerMode := s.mode h.other, peerFrame := fld (s.half h.other).sch.frame 0 12,
           peerState := (s.half h.other).spn.state }

/-- SPAN_HEARTBEAT: half h receives a heartbeat of a path (R289, R291). -/
def spanHeartbeat (s : State) (h : HalfId) (b good : Bool) : State :=
  if s.heldInReset h || s.heldInReset h.other || s.isolated then s
  else if good then
    spanRefresh (s.onSpn h fun p => heartbeatContent s h (p.onPath b fun q => q.beat (pathDisabled s b)))
  else
    pathFail (s.onSpn h fun p => p.onPath b fun q => if q.up then q.passes else { q.passes with good := 0 }) h b

/-! ## Registers (R292-R296, R298, R302) -/

/-- SPN_STAT (R293). -/
def spnStat (s : State) (h : HalfId) : Cell :=
  let p := (s.half h).spn
  atBits p.state 34 ||| atBit p.pa.up 33 ||| atBit p.pb.up 32 ||| atBits p.peer 30 |||
    atBits (if p.state = spDown then 0 else p.peerMode) 27 ||| atBit (p.mig.state == 1) 26 ||| atBits s.keep.parts 0

/-- Home bits of 32 tenants (R296). -/
def homeBits (t : TenantTables) (k : Nat) : Cell :=
  (List.range 32).foldl (fun m j => if sget false t.home (32 * k + j) then setBit m j true else m) 0

/-- Generations of 8 tenants (R296). -/
def genBits (t : TenantTables) (k : Nat) : Cell :=
  (List.range 8).foldl (fun m j => m ||| atBits (sget 0 t.gen (8 * k + j)) (4 * j)) 0

/-- SPN_MIGST (R298). -/
def migStatus (m : Migration) : Cell := atBits m.state 34 ||| atBits m.code 28 ||| atBits m.gen 10 ||| atBits m.tenant 0

/-- Reads of SPN at offset `o` of 0o134000 (R292). -/
def spnRead (s : State) (h : HalfId) (o : Nat) : Option (Cell × Cell) :=
  let p := (s.half h).spn
  if o = 0 then some (spnStat s h, 0)
  else if o = 1 then some (atBit p.pa.dis 35 ||| atBit p.pb.dis 34 ||| atBits p.crcLim 16, 0)
  else if o = 2 then
    some (atBits p.pa.crc 18 ||| atBits p.pb.crc 0, atBits p.retries 18 ||| atBits p.pa.downs 9 ||| atBits p.pb.downs 0)
  else if o = 4 then some (p.mig.c0, p.mig.c1)
  else if o = 6 then some (atBit (p.mig.state == 1) 35, 0)
  else if o = 7 then some (migStatus p.mig, 0)
  else if o = 0o10 then some (atBits p.ringTable 0, atBits p.ringWritten 18 ||| atBits p.ringLost 0)
  else if 0o100 ≤ o ∧ o < 0o140 then some (homeBits p.tables (o - 0o100), 0)
  else if 0o200 ≤ o ∧ o < 0o400 then some (genBits p.tables (o - 0o200), 0)
  else none

/-- A write of SPN_CTRL (R294). -/
def spnCtrl (s : State) (h : HalfId) (v : Cell) : State :=
  let s := s.onSpn h fun p => { p with
    pa := { p.pa with dis := bit v 35 }
    pb := { p.pb with dis := bit v 34 }
    crcLim := if fld v 16 8 = 0 then 1 else fld v 16 8 }
  let s := if pathDisabled s false then pathFall s false else s
  if pathDisabled s true then pathFall s true else s

/-! ## Migration (R298, R299) -/

/-- The cells of an image. -/
def imageLen (m : Migration) : Nat := if bit m.c1 0 then 72 else 60

/-- The tenant named in SPN_MIG. -/
def migTenant (m : Migration) : BitVec 10 := fld m.c0 24 10

/-- An address lies in the SRAM or NVM of a half. -/
def ownMemory (h : HalfId) (a : Nat) : Bool :=
  decide (a < 2 ^ 24) && (match regionOf (BitVec.ofNat 24 a) with
    | .sram k => k == h
    | .nvm k => k == h
    | _ => false)

/-- A valid context of the half holds the tenant. -/
def tenantHeld (s : State) (h : HalfId) (t : BitVec 10) : Bool :=
  (s.ex h).banks.any fun b => b.2.valid && b.2.tenant == t

/-- The refusal of a migration; 0: none (R299). -/
def migRefusal (s : State) (h : HalfId) : BitVec 6 :=
  let p := (s.half h).spn
  let t := migTenant p.mig
  let a := (fld p.mig.c0 0 24).toNat
  if p.mig.state = 1 ∨ (s.half h.other).spn.mig.state = 1 then eBusy
  else if !spanOpen s h then eSpanDown
  else if t = 0 ∨ s.homeOf h t ≠ h ∨ tenantHeld s h t = true then eOperand
  else if a % 2 = 1 then eAlign
  else if !ownMemory h a || !ownMemory h (a + imageLen p.mig - 1) then eUnmapped
  else 0

/-- A write of SPN_MIGGO.go (R299). DEDUCED: log 50. A refusal keeps gen.
DESIGN CHOICE: log 107. -/
def migrationStart (s : State) (h : HalfId) : State :=
  let m := (s.half h).spn.mig
  let c := migRefusal s h
  let t := migTenant m
  if m.state = 1 then s
  else if c ≠ 0 then s.onSpn h fun p => { p with mig := { m with state := 3, code := c, tenant := t } }
  else
    let g := s.genOf h t
    s.onSpn h fun p => { p with
      mig := { m with state := 1, code := 0, tenant := t, old := g, gen := g + 1, acked := false }
      out := p.out ++ [.migrate t (g + 1)]
      tables := p.tables.untaken t, store := p.store.untaken t }

/-- The image of the migration that SPN_MIG names lies in NVM. -/
def migInNvm (m : Migration) : Bool := (regionOf (fld m.c0 0 24)).isNvm

/-- MIGRATION_START (R298): the restamp of an image in NVM is a write of NVM, which EARLY and READING-ROOM refuse
(R6, R7, R115). DEDUCED: log 31. -/
def execMigrationStart (w : HalfId) (s : State) : Host.Outcome State Fault Refusal :=
  .next (regCommand s w w true fun _ => if s.lockedMode w && migInNvm (s.half w).spn.mig then s else migrationStart s w)

/-- The tenant whose key a cell of NVM is under. DEDUCED: log 51. -/
def keyTenant (s : State) (a : Addr) : BitVec 10 :=
  match regionOf a with
  | .nvm h => match youngest (s.half h).mem (nvmLine a) with
    | some e => e.tenant
    | none => match storedLine s h (nvmLine a) with
      | some l => l.tenant
      | none => 0
  | _ => 0

/-- The image's pair at an address is rewritten when it is of the tenant's old generation (R299 step 3).
DEDUCED: log 51. -/
def restampPair (m : Migration) (s : State) (a : Addr) : State :=
  let t := keyTenant s a
  match homeReads s a t 2 with
  | (s, some [x0, x1]) =>
    let c := capOf true x0.val x1.val
    if x0.tag && x1.tag && c.tenant == m.tenant && c.gen == m.old then
      homeWrite (homeWrite s a t ⟨x0.val, true⟩) (a + 1) t ⟨{ c with gen := m.gen }.cell1, true⟩
    else s
  | (s, _) => s

/-- The whole image is restamped (R299 step 3). -/
def restamp (s : State) (m : Migration) : State :=
  ((List.range (imageLen m / 2)).map fun i => fld m.c0 0 24 + BitVec.ofNat 24 (2 * i)).foldl (restampPair m) s

/-- MIGRATION_DONE: the restamp of an acknowledged migration ends (R299). -/
def migrationDone (s : State) (h : HalfId) : State :=
  let m := (s.half h).spn.mig
  if m.state = 1 ∧ m.acked = true then
    (restamp s m).onSpn h fun p => { p with mig := { p.mig with state := 2, code := 0 } }
  else s

/-- MIGRATION_DONE (R299). -/
def execMigrationDone (h : HalfId) (s : State) : Host.Outcome State Fault Refusal := .next (migrationDone s h)

/-- Writes of SPN (R292). -/
def spnWrite (s : State) (h : HalfId) (o : Nat) (x0 x1 : Cell) : State :=
  if o = 1 then spnCtrl s h x0
  else if o = 4 then s.onSpn h fun p => { p with mig := { p.mig with c0 := fld x0 0 34 |>.setWidth 36, c1 := atBit (bit x1 0) 0 } }
  else if o = 6 then if bit x0 35 then migrationStart s h else s
  else if o = 0o10 then s.onSpn h fun p => { p with ringTable := fld x0 0 24 }
  else s

/-- PATH_DISABLE: a write of SPN_CTRL (R294). -/
def execPathDisable (w h : HalfId) (v : Cell) (s : State) : Host.Outcome State Fault Refusal :=
  .next (regCommand s w h true fun _ => spnCtrl s h v)

/-- SPAN_HEARTBEAT (R289). -/
def execSpanHeartbeat (h : HalfId) (pathB good : Bool) (s : State) : Host.Outcome State Fault Refusal :=
  .next (spanHeartbeat s h pathB good)

/-- PATH_HEARTBEAT_TIMEOUT (R289). -/
def execPathHeartbeatTimeout (pathB : Bool) (s : State) : Host.Outcome State Fault Refusal := .next (pathFall s pathB)

/-- SPAN_REPLAY: half h resends from its replay buffer (R288). -/
def execSpanReplay (h : HalfId) (s : State) : Host.Outcome State Fault Refusal :=
  .next (s.onSpn h.other fun p => { p with replay := false })

/-! ## Generations across the halves (R297, R299) -/

/-- A tenant's generation, and its home for a migration, changes in a half. -/
def applyGenTo (s : State) (h : HalfId) (t : BitVec 10) (g : BitVec 4) : GenKind → State
  | .update => s.onSpn h fun p => p.setGen t g
  | .answer =>
    (s.onSpn h fun p => p.setGen t g).onEx h fun e => { e with revoking := if e.revoking = some t then none else e.revoking }
  | .request =>
    let v := s.genOf h t + 1
    s.onSpn h fun p => { p.setGen t v with out := p.out ++ [.genAnswer t v] }
  | .migrate => s.onSpn h fun p =>
      let q := (p.setGen t g).setHome t h
      { q with out := p.out ++ [.migrateAck t g], tables := q.tables.takes t, store := q.store.takes t }
  | .ack => s.onSpn h fun p =>
      let q := (p.setGen t g).setHome t h.other
      { q with mig := { q.mig with acked := q.mig.state == 1 && q.mig.tenant == t } }

/-- The close that the other half's change forces at the next boundary; none while it may not fall. -/
def forcedClose (s : State) (h : HalfId) : Option State :=
  if !lanesRun s h || (s.ex h).waiting.isSome then some s
  else if closeBlocked s h then none else some (closeNow s h)

/-- The home half advances a generation once its own CREVOKEs of the tenant have been accepted: it performs every advance in
turn (R297). -/
def advanceWaits (s : State) (h : HalfId) (t : BitVec 10) (k : GenKind) : Bool :=
  k == .request && (s.half h).win.sb.any fun e => match e.target with
    | .gen u _ => u == t
    | _ => false

/-- GENERATION_APPLY: the oldest change applies at a forced close (R297, R299). -/
def generationApply (s : State) (h : HalfId) : State :=
  match (s.half h).spn.applyGen with
  | [] => s
  | (t, g, k) :: l =>
    if advanceWaits s h t k then s
    else match forcedClose s h with
    | none => s
    | some s => applyGenTo (s.onSpn h fun p => { p with applyGen := l }) h t g k

end Sys2Proof.Machine
end

