-- ==== Sys2Proof/Machine/Reset.lean ====
section
/-! DEFINITION. The resets: what each clears and leaves, and the release of a reset up to the boot ROM's first slot
(R287, R311, R330, R479-R481, R502, R514). -/

namespace Sys2Proof.Machine

/-! ## A half held in reset (R479) -/

/-- An image pair after a reset: what its metadata holds, whose new side takes effect once its program has completed; swap
and err read 0 (R331, R332). -/
def ImgPair.kept (p : ImgPair) : ImgPair := { p with swap := false, err := false, prog := false, side := p.side ^^ p.prog }

/-- A half's MEM unit after a half reset: NVM's own tables, the merge buffer and the writes that the other half has sent
stay, a request to exchange does not, and new SRAM keys are drawn (R314, R331). DEDUCED: log 46. -/
def MemUnit.kept (m : MemUnit) : MemUnit :=
  { MemUnit.reset with
    merge := m.merge.filter fun e => e.isLine || e.prog
    allocs := m.allocs, spares := m.spares, locked := m.locked, lockedLines := m.lockedLines
    remapped := m.remapped, wear := m.wear
    imgs := m.imgs.foldl (fun t e => sput ImgPair.zero t e.1 e.2.kept) []
    arb := m.arb.filter fun r => r.source == .span && !r.work.reads
    keys := m.keys + 1 }

/-- A path after a half reset: up or down as before, its settings and counts cleared. -/
def PathState.kept (p : PathState) : PathState := { PathState.reset with up := p.up, good := p.good }

/-- A span endpoint after a half reset: what waits in the replay buffer stays, and the tables are restored from the
commons store (R287). -/
def SpanEnd.kept (p : SpanEnd) : SpanEnd :=
  { SpanEnd.reset with
    pa := p.pa.kept, pb := p.pb.kept, out := p.out, nextId := p.nextId, applyGen := p.applyGen
    tables := p.store, store := p.store, changed := p.changed }

/-- A half after a half reset, held in it (R479). DEDUCED: log 46. -/
def Half.kept (x : Half) : Half := { Half.reset with mem := x.mem.kept, spn := x.spn.kept, rng := x.rng }

/-- SRAM cells of a half are scrubbed to zero with tags clear (R314). -/
def scrub (s : State) (h : HalfId) : State := { s with ram := s.ram.filter fun e => e.1 / 262144 != h.toNat }

/-- The local context numbers. -/
def localNos : List (BitVec 5) := (List.range 32).map (BitVec.ofNat 5)

/-- Every bank of a half is reset, with the effects of R153: channels of its tenants, and what is held for its global
contexts. -/
def banksGone (s : State) (h : HalfId) : State :=
  let s := localNos.foldl (fun s k => mbxContextGone s (s.bank h k)) s
  localNos.foldl (fun s k => clearHeld (clearResults s (gctx h k).toNat) (gctx h k).toNat) s

/-- The half's mode becomes OFF (R37, R405). -/
def modeOff (s : State) (h : HalfId) (old : BitVec 3) : State :=
  if old = mOff then s
  else
    let s := raiseHalf s h 230
    if old = mReading then reportHalf s h .tly 8 none none (atBits old 3) (atBits (fenceMarks s h) 0) else s

/-- A half is reset and held (R479): its daybook entries are lost, and the other half sees the span DOWN.
DEDUCED: log 46. -/
def holdHalf (s : State) (h : HalfId) : State :=
  let old := s.mode h
  let s := scrub (banksGone (dbkDiscard s h) h) h
  let s := (prtHalfReset (s.onHalf h Half.kept) h).onDbgHalf h fun _ => DbgHalf.reset
  spanRefresh (modeOff s h old)

/-- A half reset, after which the half takes the half-start path (R480, R496, R502). -/
def halfReset (s : State) (h : HalfId) : State :=
  (holdHalf s h).onUp h fun _ => { BringUp.reset with halfStart := true, verified := s.cht.slot != 0 }

/-! ## Both halves' tables (R310 step 2, R311) -/

/-- The view of half 1 is adopted for a tenant: the home half's, and where the home maps disagree the destination's, which took
the tenant by the first commit step (R310). DEDUCED: log 49. -/
def adoptsSecond (a b : TenantTables) (t : Nat) : Bool :=
  let ha := sget false a.home t
  if ha = sget false b.home t then ha else b.taken.contains (BitVec.ofNat 10 t)

/-- One tenant's view adopted. -/
def adoptOne (a b : TenantTables) (r : TenantTables) (t : Nat) : TenantTables :=
  let v := if adoptsSecond a b t then b else a
  { r with gen := sput 0 r.gen t (sget 0 v.gen t), home := sput false r.home t (sget false v.home t) }

/-- The tables that both halves adopt. DEDUCED: log 49. -/
def adoptTables (a b : TenantTables) : TenantTables :=
  let keys := a.gen.map (·.1) ++ b.gen.map (·.1) ++ a.home.map (·.1) ++ b.home.map (·.1)
  keys.foldl (adoptOne a b) ⟨[], [], []⟩

/-! ## Block reset (R479) -/

/-- A half at a block reset. DEDUCED: log 46. -/
def Half.blockHold (x : Half) (t : TenantTables) : Half :=
  { Half.reset with mem := { x.mem.kept with arb := [] }, spn := { SpanEnd.reset with tables := t, store := t } }

/-- The debug unit at a block reset: the lock, the exchange and the counts stay (R556-R558, R576). -/
def Dbg.blockReset (d : Dbg) : Dbg :=
  { Dbg.reset with lock := d.lock, fails := d.fails, unlocks := d.unlocks, chalValid := d.chalValid, chal := d.chal
                   resp := d.resp }

/-- The time base is loaded from the RTC (R423). -/
def timeFromRtc (rtc : BitVec 48) : BitVec 72 := BitVec.ofNat 72 (rtc.toNat * 1171875 / 64)

/-- The event controller at a block reset (R423, R429). -/
def evcReset (s : State) : State :=
  { s with evc := { Evc.reset with wake := s.evc.wake, level := s.evc.level, timeBase := timeFromRtc s.keep.rtc } }

/-- The commons units at a block reset. -/
def unitsReset (s : State) (kind : ResetKind) : State :=
  { s with
    crd := { Crd.reset with detect := s.crd.detect }
    cht := { Cht.reset with kind := kind }
    mct := { s.mct with res := [] }
    flt := { s.flt with member := 0, res := [] }
    vlt := { Vault.reset with roots := s.vlt.roots, slots := s.vlt.slots }
    rng := Rng.reset
    dbk := { s.dbk with tenantPut := false, put := ⟨0, 0⟩ }
    prt := Prt.reset
    dbg := s.dbg.blockReset
    tick := TickGen.reset
    bnd := { s.bnd with pllLocked := false, holdover := false, loaded := s.bnd.fuses }
    host := { s.host with ready := false, isoAck := s.host.isoAck && !s.dbg.emulated }
    keep := { s.keep with keepReq := s.host.detach, inKeep := false, wakeReq := false } }

/-- A block reset: both halves and the commons are held as R479 lays down; a detach that was under way asks for KEEP
again. A tamper erase that has not been followed by a start supersedes every other kind (R528). DEDUCED: log 73. -/
def blockReset (s : State) (kind : ResetKind) : State :=
  let kind := if s.keep.erase then ResetKind.tamper else kind
  let s := dbkDiscard (dbkDiscard s .h0) .h1
  let t := adoptTables s.h0.spn.store s.h1.spn.store
  let s := mbxBlockReset { s with h0 := s.h0.blockHold t, h1 := s.h1.blockHold t }
  unitsReset (evcReset (scrub (scrub s .h0) .h1)) kind

/-! ## Zeroisation and bulk erase (R330, R514, R515) -/

/-- A half's MEM unit after a bulk erase. -/
def MemUnit.erase (m : MemUnit) : MemUnit := { m with merge := [], allocs := [], imgs := [], keyCache := [] }

/-- A commons-store program that writes a vault slot. -/
def StoreProg.fills (p : StoreProg) : Bool :=
  match p.op with
  | .slot _ _ _ => true
  | _ => false

/-- The vault roots are zeroised: every slot and every NVM line is lost, and the bulk erase tidies the array. -/
def eraseAll (s : State) : State :=
  let s := (s.onMem .h0 MemUnit.erase).onMem .h1 MemUnit.erase
  storePump { s with
    vlt := { s.vlt with roots := false, slots := [] }
    nvm := []
    store := s.store.filter fun p => !p.fills }

/-- The record of a lock or erase (R531). -/
def tampRecord (s : State) (cause : BitVec 3) (resp : BitVec 2) : State :=
  { s with keep := { s.keep with trec := ⟨true, cause, resp, s.keep.rtc⟩ } }

/-- A tamper erase (R514): the roots at once; then the tamper erase reset, in KEEP at the wake that the trip requests. -/
def tamperErase (s : State) (cause : BitVec 3) : State :=
  let s := eraseAll (tampRecord s cause 2)
  let s := { s with keep := { s.keep with erase := true } }
  if s.isolated then s else blockReset s .tamper

/-- The vault is locked, by an op, a sensor or an attack response; source 234 once per lock (R520). DEDUCED: log 77. -/
def vaultLock (s : State) (cause : BitVec 3) : State :=
  if s.vlt.locked then s
  else
    let s := tampRecord { s with vlt := { s.vlt with locked := true } } cause 1
    raiseSource (rkVaultLock (rkVaultLock s .h0) .h1) 234

/-! ## Release (R279, R481, R511, R560) -/

/-- The lanes without a fence mark, in letter order. -/
def unfenced (s : State) (h : HalfId) : List Lane := lanes.filter fun l => !((s.trec h).lane l).fenced

/-- A tally whose lanes in service are those of a list; a lane in audit stays there. -/
def Tally.serve (t : Tally) (l : List Lane) : Tally :=
  lanes.foldl (fun t x => t.onLane x fun v =>
    { v with work := if l.contains x then .inService else if v.work = .audit then .audit else .out }) t

/-- A half ends bring-up without a start, with a report of why (R279). -/
def stuckHalf (s : State) (h : HalfId) : State :=
  (reportHalf s h .tly 8 none none 0 (atBits (fenceMarks s h) 0)).onUp h fun u => { u with released := false, stuck := true }

/-- The address of the boot ROM's entry for a half (R496). -/
def bootEntry (u : BringUp) : Addr := if u.halfStart then 0o77600004 else 0o77600000

/-- The two lanes of R279 begin local context 0 in the boot ROM; with fewer than two the half stays OFF once no lane is in
audit. -/
def startLanes (s : State) (h : HalfId) : State :=
  let l := (unfenced s h).take 2
  if l.length = 2 then
    startBoot (s.onTal h fun t => t.serve l) h (bootEntry (s.half h).up)
  else if lanes.any fun x => ((s.half h).tal.lane x).work == .audit then s
  else stuckHalf s h

/-- Fenced lanes among A and B are audited as the reset is released (R279). DEDUCED: log 38. -/
def bringupAudits (s : State) (h : HalfId) : State :=
  let f (s : State) (l : Lane) : State :=
    if ((s.trec h).lane l).fenced then
      s.onTal h fun t => { t.onLane l fun x => { x with work := .audit } with auditTrig := some .bringup }
    else s
  f (f s .a) .b

/-- A half's reset is released (R481 step 1). -/
def releaseHalf (s : State) (h : HalfId) : State :=
  let u := (s.half h).up
  if u.released || u.stuck then s
  else startLanes (bringupAudits (s.onUp h fun u => { u with released := true }) h) h

/-- A half reset that waited for its close, which has fallen (R480). -/
def resetWaiting (s : State) (h : HalfId) : State :=
  let w := (s.half h).win
  if (s.half h).up.resetReq && w.slots == 0 && !w.group then halfReset s h else s

/-- The lowest wake cause that has arisen, as EVC_WAKE codes it (R510). -/
def wakeCause (c : BitVec 5) : BitVec 3 := BitVec.ofNat 3 ((firstBelow (bit c) 5).getD 0)

/-- The wake stamp (R422, R510). -/
def wakeStamp (s : State) : State :=
  if s.keep.causes = 0 then s
  else
    let c := wakeCause s.keep.causes
    { s with evc := { s.evc with wake := ⟨true, c, if c = 1 then s.keep.wakeInput else 0, s.keep.wakeRtc⟩ } }

/-- A detach begins (R433): the mailboxes apply their rule, and KEEP is requested. -/
def detachBegin (s : State) : State :=
  let s := mbxDetach s
  { s with host := { s.host with detach := true }, keep := { s.keep with keepReq := true } }

/-- A rise of ISO_REQ that came between an attach and the fall of ISO_ACK is acted on (R433). DEDUCED: log 75. -/
def attachEnd (s : State) : State :=
  let s := { s with host := { s.host with isoAck := false } }
  if bit s.keep.causes 3 && s.host.isoReq then detachBegin s else s

/-- The isolated block is woken or attached: the reset it is in ends with a block reset and ISO_ACK low (R434, R511,
R589). -/
def unisolate (s : State) : State :=
  let woken := s.keep.causes != 0 || (s.cht.kind == .cold && !s.host.isoReq)
  if s.host.isoAck && s.keep.vcoreOk && s.keep.vfieldOn && !s.dbg.emulated && woken then
    let kind := if s.keep.inKeep then ResetKind.wake else s.cht.kind
    attachEnd (wakeStamp (blockReset s kind))
  else s

/-- RELOCK ends at a block reset with an erase and LOCKED (R560). -/
def relockEnd (s : State) : State :=
  if s.dbg.lock = .relock ∧ s.h0.up = BringUp.reset ∧ s.h1.up = BringUp.reset then
    let s := eraseAll s
    { s with dbg := { s.dbg with lock := .locked } }
  else s

/-- The release of every reset that is in progress. -/
def resetRelease (s : State) : State :=
  let s := unisolate s
  if s.isolated then s
  else
    let s := relockEnd (resetWaiting (resetWaiting s .h0) .h1)
    spanRefresh (releaseHalf (releaseHalf s .h0) .h1)

/-- RESET_RELEASE (R481). DESIGN CHOICE: log 4, 13. -/
def execResetRelease (s : State) : Host.Outcome State Fault Refusal := .next (resetRelease s)

/-! ## Writes of CHT_CTL (R480) -/

/-- A half reset through CHT_CTL: of the other half at once, of the writing half at the window close that follows. -/
def halfResetWrite (s : State) (w h : HalfId) : State :=
  if w = h ∧ !((s.half h).win.slots = 0 ∨ noWindow s h = true) then s.onUp h fun u => { u with resetReq := true }
  else halfReset s h

/-- A write of CHT_CTL; a block reset takes precedence (R480). -/
def chtCtlWrite (s : State) (w : HalfId) (x : Cell) : State :=
  if bit x 35 then blockReset s .block
  else
    let s := if bit x 34 then halfResetWrite s w .h0 else s
    if bit x 33 then halfResetWrite s w .h1 else s

/-- BLOCK_RESET (R480). -/
def execBlockReset (w : HalfId) (s : State) : Host.Outcome State Fault Refusal :=
  .next (regCommand s w w true fun _ => blockReset s .block)

/-- HALF_RESET (R480). -/
def execHalfReset (w h : HalfId) (s : State) : Host.Outcome State Fault Refusal :=
  .next (regCommand s w w true fun _ => halfResetWrite s w h)

end Sys2Proof.Machine
end

