-- ==== Sys2Proof/Machine/Tally.lean ====
section
/-! DEFINITION. The tally: verdicts and their outcomes, mismatch events and attacks, resynchronisation, audits,
comparator injection, READING-ROOM and the TLY registers (R38-R40, R240, R241, R249-R285). -/

namespace Sys2Proof.Machine

/-! ## Verdicts (R250-R254, R548) -/

/-- The leading lane: the smallest stagger in service, the lowest letter of equals (R27). DEDUCED: log 36. -/
def leadLane (t : Tally) : Lane :=
  (t.inService.foldl (fun (o : Option Lane) l => match o with
    | none => some l
    | some m => if (t.lane l).stag.toNat < (t.lane m).stag.toNat then some l else o) none).getD .a

/-- A lane's report of a window. -/
def reportOf (v : VerdictInput) : Lane → Option LaneReport
  | .a => v.a
  | .b => v.b
  | .c => v.c

/-- The bit that PRT_SIG inverts in a lane's account: with lanes A and B both named, B's differs from A's (R548).
DEDUCED: log 81. -/
def prtFlip (m : BitVec 3) (l : Lane) : Nat :=
  match l with
  | .a => if bit m 2 then 1 else 0
  | .b => if bit m 1 then (if bit m 2 then 2 else 1) else 0
  | .c => if bit m 0 then 1 else 0

/-- What the tellers see of a lane, as a difference from the fault-free account. -/
def laneView (c : ClosedWin) (v : VerdictInput) (l : Lane) : Option LaneReport :=
  match reportOf v l with
  | none => none
  | some r =>
    let f := prtFlip c.prtLanes l
    some (if c.prtChk then { r with chk := r.chk ^^^ BitVec.ofNat 8 f } else { r with sig := r.sig ^^^ BitVec.ofNat 64 f })

/-- The lanes of a window that have a signature. -/
def signed (c : ClosedWin) (v : VerdictInput) : List Lane := c.lanes.filter fun l => (laneView c v l).isSome

/-- Two lanes agree: equal signatures and equal check bits (R251). -/
def agree (c : ClosedWin) (v : VerdictInput) (l m : Lane) : Bool := laneView c v l == laneView c v m

/-- The lanes that agree with no other lane of a window. -/
def odd (c : ClosedWin) (v : VerdictInput) : List Lane :=
  c.lanes.filter fun l => c.lanes.all fun m => m == l || !(laneView c v l).isSome || !agree c v l m

/-- The verdict that a sound teller gives (R251, R252). -/
def soundVerdict (c : ClosedWin) (v : VerdictInput) : Verdict :=
  match signed c v with
  | [] => .none
  | [l] => if c.lanes.length = 1 then .unanimous else .single l
  | _ =>
    if c.forced then .noMajority
    else match odd c v with
      | [] => .unanimous
      | [l] => .dissent l
      | _ => .noMajority

/-- A teller's verdict: its own, or the one a defect makes it give. DEDUCED: log 35. -/
def tellerVerdict (c : ClosedWin) (v : VerdictInput) (o : Option Verdict) : Verdict := o.getD (soundVerdict c v)

/-- The majority of the tellers, none where all three differ (R250). DEDUCED: log 35. -/
def majority (x y z : Verdict) : Option Verdict :=
  if x = y ∨ x = z then some x else if y = z then some y else none

/-- The verdict of the voter, and the tellers outvoted (R250). DESIGN CHOICE: log 33. -/
def voted (c : ClosedWin) (v : VerdictInput) : Verdict × BitVec 3 :=
  let x := tellerVerdict c v v.tellerA
  let y := tellerVerdict c v v.tellerB
  let z := tellerVerdict c v v.tellerC
  match majority x y z with
  | none => (.noMajority, 0)
  | some m => (m, (if x = m then 0 else 4) ||| (if y = m then 0 else 2) ||| (if z = m then 0 else 1))

/-- How a window ends. -/
inductive Outcome where
  /-- It drains; the named lane, if any, is resynchronised. -/
  | drains (dissent : Option Lane)
  | rollback
  /-- READING-ROOM on a lane, after a rollback. -/
  | room (l : Lane)
deriving DecidableEq, Repr

/-- The outcome of a verdict: with two lanes a dissent is no majority (R251, R252). DESIGN CHOICE: log 33. -/
def outcomeOf (c : ClosedWin) : Verdict → Outcome
  | .unanimous => .drains none
  | .dissent l => if c.lanes.length = 3 then .drains (some l) else .rollback
  | .noMajority => .rollback
  | .none => .rollback
  | .single l => if c.lanes.contains l then .room l else .rollback

/-- The lanes an outcome charges (R273). DEDUCED: log 34. -/
def chargedLanes (c : ClosedWin) : Outcome → BitVec 3
  | .drains none => 0
  | .drains (some l) => laneBits fun m => m == l
  | .rollback => laneBits c.lanes.contains
  | .room l => laneBits fun m => c.lanes.contains m && m != l

/-- Only check bits differ (R254). DEDUCED: log 34. -/
def checkOnly (c : ClosedWin) (v : VerdictInput) : Bool :=
  let views := (signed c v).filterMap (laneView c v)
  match views with
  | [] => false
  | r :: t => t.all (fun q => q.sig == r.sig) && t.any fun q => q.chk != r.chk

/-! ## Mismatch events and attacks (R272-R275) -/

/-- An audit of the lane is due or runs. -/
def auditPending (t : Tally) (l : Lane) : Bool := (t.lane l).work == .audit || t.audits.any fun a => a.1 == l

/-- An audit of a lane becomes due. -/
def auditDue (s : State) (h : HalfId) (l : Lane) (g : AuditTrigger) : State :=
  s.onTal h fun t => if t.audits.contains (l, g) then t else { t with audits := t.audits ++ [(l, g)] }

/-- The lanes of a three-bit mask, A highest. -/
def maskLanes (m : BitVec 3) : List Lane := lanes.filter fun l => bit m (2 - (laneNo l).toNat)

/-- A mismatch is charged to a lane: lifetime total and bucket; a bucket that reaches 4 makes an audit due (R272, R275).
DEDUCED: log 34. -/
def chargeLane (h : HalfId) (s : State) (l : Lane) : State :=
  let b := ((s.trec h).lane l).bucket
  let s := s.onTrec h fun r => r.onLane l fun x => { x with bucket := min 4 (b + 1), life := satInc x.life }
  if b = 3 ∧ ((s.half h).tal.lane l).work ≠ .audit then auditDue s h l .bucket else s

/-- The events of the current frame and the 15 before it (R274). -/
def burstCount (t : Tally) : Nat := t.burstHist.foldl (· + ·) 0

/-- One more event in the current frame. -/
def burstAdd : List Nat → List Nat
  | [] => [1]
  | n :: l => (n + 1) :: l

/-- The response of att_resp (R274). -/
def attackResponse (s : State) (r : BitVec 2) : State :=
  if r = 0 then s else if r = 1 then vaultLock s 5 else tamperErase s 5

/-- A detection: latched, counted and reported (R274, R537). -/
def attackDetected (s : State) (h : HalfId) (burst : Bool) : State :=
  let t := (s.half h).tal
  let s := s.onTal h fun t =>
    { t with burstBit := t.burstBit || burst, slowBit := t.slowBit || !burst, taken := t.attResp }
  let s := s.onTrec h fun r => { r with attacks := satInc r.attacks }
  raiseHalf (reportHalf s h .tly 5 none none (atBit burst 35 ||| atBit (!burst) 34 ||| atBits t.attResp 32)
    (atBits (satOf 8 (burstCount t)) 8 ||| atBits (satOf 8 (s.trec h).slow) 0)) h 226

/-- An event counts toward the burst and slow counts; how many detections it makes (R274). -/
def countEvent (s : State) (h : HalfId) : State × Nat :=
  let b := burstCount (s.half h).tal
  let n := (s.trec h).slow
  let s := s.onTal h fun t => { t with burstHist := burstAdd t.burstHist }
  let s := s.onTrec h fun r => { r with slow := min 255 (r.slow + 1) }
  let byBurst := b == 7
  let bySlow := decide (n + 1 = (s.half h).tal.slowThr.toNat ∧ n < 255)
  let s := if byBurst then attackDetected s h true else s
  let s := if bySlow then attackDetected s h false else s
  (s, byBurst.toNat + bySlow.toNat)

/-- The lane that a MISMATCH entry names, where exactly one is concerned. -/
def soleLane (m : BitVec 3) : Option Lane := match maskLanes m with
  | [l] => some l
  | _ => none

/-- PRT_SIG has inverted a bit of a lane in service (R548, R549). DEDUCED: log 34. -/
def ClosedWin.inserted (c : ClosedWin) : Bool := c.prtLanes &&& laneBits c.lanes.contains != 0

/-- A mismatch event: its entry and source, and what it charges and counts; true where a detection is to be answered
(R273, R549). DEDUCED: log 34. -/
def mismatch (s : State) (h : HalfId) (c : ClosedWin) (lanesC tellers : BitVec 3) (chk noMaj : Bool) : State × Bool :=
  let all := lanesC ||| tellers
  let c3 := atBits lanesC 33 ||| atBits tellers 30 ||| atBits (s.mode h) 27 ||| atBit c.inserted 26 |||
    atBit chk 25 ||| atBit noMaj 24
  let s := raiseHalf (reportHalf s h .tly 4 none (soleLane all) c.num c3) h 224
  if c.prtNoCharge && c.inserted then (s, false)
  else
    let quiet := (maskLanes all).all fun l => ((s.trec h).lane l).bucket == 4 && auditPending (s.half h).tal l
    let s := (maskLanes all).foldl (chargeLane h) s
    if quiet then (s, false) else let r := countEvent s h; (r.1, r.2 != 0)

/-! ## Outcomes (R251-R253, R255, R261) -/

/-- A trigger above a debug halt has fallen on the close the half stands at (R40). -/
def takesClose (s : State) (h : HalfId) : State := s.onWin h fun w => { w with taken := true }

/-- The half goes to READING-ROOM on a lane: the others are held in reset, and its signing commands fail (R38, R362).
DEDUCED: log 36. -/
def enterRoom (s : State) (h : HalfId) (l : Lane) : State :=
  let s := if (s.half h).win.closed.isEmpty then s else rollbackStart s h
  let s := takesClose (s.onTal h fun t => t.serve [l]) h
  if s.runMode h = mReading then s else rkReading (setRunMode s h mReading) h

/-- A fence that waits acts at the close the half stands at; one that leaves one lane takes the half to READING-ROOM
(R38, R284). -/
def fenceWork (s : State) (h : HalfId) : State :=
  let t := if (s.half h).win.blank then fenceAct s h else s
  if t.runMode h = mReading ∧ s.runMode h ≠ mReading then rkReading t h else t

/-- The input log once a window has agreed: its entries are released, and what is still to be replayed is counted from the
new bookmark (R255, R267). -/
def Windows.agreed (w : Windows) (c : ClosedWin) : Windows :=
  { w with
    closed := w.closed.drop 1
    mark := some c.mark
    sb := w.sb.map fun e => if e.win = c.num then { e with agreed := true } else e
    log := w.log.filter fun e => e.win != c.num
    replayPos := w.replayPos - c.slots
    replayLog := w.replayLog.map fun e => { e with pos := e.pos - c.slots } }

/-- A window agrees: its entries may leave, its close is the bookmark, and what waited for it is done (R33, R200, R255, R258,
R362). -/
def windowAgrees (s : State) (h : HalfId) (c : ClosedWin) : State :=
  let s := gensApply s h fun e => e.win == c.num && !e.agreed
  let s := completeFinished (s.onWin h fun w => w.agreed c) h c.num
  stepSpend (settled s h) h c.slots

/-- What stood in wait at an agreed close (R40, R142, R284). -/
def afterAgreed (s : State) (h : HalfId) : State := fenceDone (tryHalt (fenceWork s h) h) h

/-- A lane has dissented: it is held in reset and copied to, and has no voice in the windows still to be judged; with one
lane left the half goes to READING-ROOM (R38, R251, R261). DEDUCED: log 35. -/
def dissents (s : State) (h : HalfId) (l : Lane) : State :=
  let s := s.onWin h fun w => { w with closed := w.closed.map fun c => { c with lanes := c.lanes.filter fun m => m != l } }
  if ((s.half h).tal.lane l).work != .inService then s
  else
    let s := takesClose (s.onTal h fun t => t.onLane l fun x => { x with work := .copying }) h
    match (s.half h).tal.inService with
    | [m] => enterRoom (s.onTal h fun t => { t with cmpLost := true }) h m
    | _ => if s.runMode h = mTallied then setRunMode s h mPaired else s

/-- The outcome of a verdict takes place. -/
def settleVerdict (s : State) (h : HalfId) (c : ClosedWin) : Outcome → State
  | .drains none => afterAgreed (windowAgrees s h c) h
  | .drains (some l) => afterAgreed (dissents (windowAgrees s h c) h l) h
  | .rollback => rollbackStart s h
  | .room l => enterRoom (s.onTal h fun t => { t with cmpLost := true }) h l

/-- The verdict on the oldest closed window: its event, its outcome, and the answer to an attack (R250-R254, R273,
R274). DESIGN CHOICE: log 33. -/
def verdict (s : State) (h : HalfId) (v : VerdictInput) : State :=
  match (s.half h).win.closed with
  | [] => s
  | c :: _ =>
    let m := voted c v
    let o := outcomeOf c m.1
    let cl := chargedLanes c o
    let e := if cl = 0 ∧ m.2 = 0 then (s, false) else mismatch s h c cl m.2 (checkOnly c v) (o == .rollback)
    let s' := settleVerdict e.1 h c o
    if e.2 then attackResponse s' (s.half h).tal.attResp else s'

/-- The re-execution limit: what waits for a load is abandoned, and the re-executed window closes at the boundary reached, be
it before its first slot (R206, R244, R257). -/
def reexecutionLimit (s : State) (h : HalfId) : State :=
  let w := (s.half h).win
  if !w.rolling || w.redo.isSome || !closeRoom s h 1 then s
  else
    let s := (abandon s h).onWin h fun w => { w with group := true }
    (beforeClose s h).getD (closeRaw s h false)

/-! ## Resynchronisation (R261, R262) -/

/-- The bank copy into a lane is complete, and a close is forced. -/
def copyComplete (s : State) (h : HalfId) (l : Lane) : State :=
  if ((s.half h).tal.lane l).work = .copying then
    limitClose (s.onTal h fun t => t.onLane l fun x => { x with work := .copied }) h
  else s

/-- RESYNC_COPY_COMPLETE (R261). -/
def execResyncCopyComplete (h : HalfId) (l : Lane) (s : State) : Host.Outcome State Fault Refusal := .next (copyComplete s h l)

/-- The half may leave READING-ROOM: every lane that is resynchronised has its copy, and the compare path and the commons port
are there (R38, R282). -/
def roomLeaves (t : Tally) : Bool := (lanes.all fun l => (t.lane l).work != .copying) && !t.cmpLost && !t.portLost

/-- A lane may join at this close: from EARLY only once the PLL has locked (R38, R261, R282). -/
def mayJoin (s : State) (h : HalfId) (l : Lane) : Bool :=
  let w := (s.half h).win
  ((s.half h).tal.lane l).work == .copied && s.running h && w.blank && !w.rolling && w.redo.isNone &&
    ((s.ex h).onPll || s.bnd.pllLocked) && (s.mode h != mReading || roomLeaves (s.half h).tal)

/-- The mode that a join brings (R38, R261). -/
def joinMode (s : State) (h : HalfId) : State :=
  match (s.half h).tal.inService.length with
  | 3 => setMode s h mTallied
  | 2 => if s.mode h = mReading then setMode s h mPaired else s
  | _ => s

/-- A lane restarts from the close at its stagger, and counts (R241, R261). -/
def laneJoins (h : HalfId) (s : State) (l : Lane) : State :=
  (s.onTal h fun t => t.onLane l fun x => { x with work := .inService, stag := x.stagReg }).onWin h fun w =>
    { w with resyncs := satInc w.resyncs }

/-- The lanes that restart together: out of READING-ROOM all that have their copy, else the one named (R38, R282). -/
def joiners (s : State) (h : HalfId) (l : Lane) : List Lane :=
  if s.mode h = mReading then lanes.filter fun x => ((s.half h).tal.lane x).work == .copied else [l]

/-- The lane restarts from the close, and the half's mode follows (R38, R261). -/
def resyncJoin (s : State) (h : HalfId) (l : Lane) : State :=
  if mayJoin s h l then joinMode (((joiners s h l).foldl (laneJoins h) s).onEx h fun e => { e with onPll := true }) h else s

/-- RESYNC_JOIN (R261). -/
def execResyncJoin (h : HalfId) (l : Lane) (s : State) : Host.Outcome State Fault Refusal := .next (resyncJoin s h l)

/-! ## Comparator injection (R270, R282) -/

/-- The usable lanes that READING-ROOM left out. -/
def idleLanes (s : State) (h : HalfId) : List Lane :=
  lanes.filter fun l => ((s.half h).tal.lane l).work == .out && !((s.trec h).lane l).fenced

/-- The half may leave READING-ROOM once an injection passes (R38, R282). -/
def roomOpen (s : State) (h : HalfId) : Bool :=
  let t := (s.half h).tal
  s.runMode h == mReading && !t.cmpLost && !t.portLost && !t.failedInject

/-- The other usable lanes are resynchronised from the running lane (R282). -/
def leaveRoom (s : State) (h : HalfId) : State :=
  if roomOpen s h then
    (idleLanes s h).foldl (fun s l => s.onTal h fun t => t.onLane l fun x => { x with work := .copying }) s
  else s

/-- The result of an injection: TLY_INJECT, the entry of a failure and the source (R270, R271, R537). -/
def injectResult (s : State) (h : HalfId) (cases : BitVec 8) (occasion : BitVec 2) : State :=
  let ok := cases == BitVec.allOnes 8
  let s := s.onTal h fun t => { t with injGo := false, injState := if ok then 2 else 3, injCases := cases, injOk := ok }
  let s := if ok then s else reportHalf s h .tly 7 none none (atBits cases 0) (atBits occasion 0)
  raiseHalf s h 238

/-- An injection that warden firmware has requested: a pass restores the compare path that a failure has closed, and a
failure forces READING-ROOM on the leading lane (R270, R282). -/
def injectRequested (s : State) (h : HalfId) (cases : BitVec 8) : State :=
  let s := injectResult s h cases 1
  if (s.half h).tal.injOk then
    leaveRoom (s.onTal h fun t =>
      if t.failedInject then { t with failedInject := false, cmpLost := false } else t) h
  else enterRoom (s.onTal h fun t => { t with failedInject := true }) h (leadLane (s.half h).tal)

/-- The injection before a half leaves READING-ROOM (R270). DEDUCED: log 39. -/
def injectLeaving (s : State) (h : HalfId) (cases : BitVec 8) : State :=
  let s := injectResult s h cases 2
  if (s.half h).tal.injOk then leaveRoom s h else s.onTal h fun t => { t with failedInject := true }

/-- An injection of a half that runs: one requested, or the one before leaving READING-ROOM. -/
def injectRunning (s : State) (h : HalfId) (cases : BitVec 8) : State :=
  let t := (s.half h).tal
  if t.injGo && t.injState == 1 then injectRequested s h cases
  else if roomOpen s h && !(idleLanes s h).isEmpty then injectLeaving s h cases
  else s

/-! ## Audits (R277-R280) -/

/-- The half is at a close at which an audit may start (R40, R277). -/
def auditTime (s : State) (h : HalfId) : Bool :=
  let w := (s.half h).win
  s.running h && s.mode h != mReading && w.blank && !w.rolling && w.redo.isNone && auditFree (s.half h).tal

/-- The tally as an audit starts: every audit due for the lane is met by it, and a rotation audit reloads the countdown and
moves on (R277, R280). -/
def Tally.auditBegins (t : Tally) (l : Lane) (g : AuditTrigger) : Tally :=
  let t := t.onLane l fun x => { x with work := .audit }
  let t := { t with audits := t.audits.filter fun a => a.1 != l, auditTrig := some g
                    auditNow := t.auditNow && !t.audits.contains (l, .request) }
  if g = .rotation then
    { t with countdown := BitVec.ofNat 22 (t.period.toNat / 3), auditNext := if t.auditNext = 2 then 0 else t.auditNext + 1 }
  else t

/-- The lane leaves service and runs BIST: with two lanes left the half is PAIRED, with one in READING-ROOM (R278).
DEDUCED: log 38. -/
def auditBegin (s : State) (h : HalfId) (l : Lane) (g : AuditTrigger) : State :=
  let s := takesClose (s.onTal h fun t => t.auditBegins l g) h
  match (s.half h).tal.inService with
  | [_] => rkReading (setMode (s.onTal h fun t => { t with cmpLost := true }) h mReading) h
  | _ => if s.mode h = mTallied then setMode s h mPaired else s

/-- The first due audit that may start does; one that leaves a single lane waits for the verdicts outstanding (R277,
R278). -/
def auditStart (s : State) (h : HalfId) : State :=
  if !auditTime s h then s
  else match (s.half h).tal.audits.find? (auditStarts s h) with
    | none => s
    | some (q, g) =>
      let l := if g = .rotation then laneOf (s.half h).tal.auditNext else q
      let left := (s.half h).tal.inService.filter fun m => m != l
      if left.length < 2 && !(s.half h).win.closed.isEmpty then s
      else auditBegin (if g = .rotation then s.onTal h fun t => { t with audits := t.audits.erase (q, g) } else s) h l g

/-- AUDIT_START (R278). -/
def execAuditStart (h : HalfId) (s : State) : Host.Outcome State Fault Refusal := .next (auditStart s h)

/-- What an AUDIT entry says made the audit due (R537). -/
def triggerCode : AuditTrigger → BitVec 2
  | .rotation => 0
  | .bucket => 1
  | .request => 2
  | .bringup => 3

/-- The end of a lane's BIST in bring-up: the boot lanes begin once two lanes can run (R279). -/
def auditBringUp (s : State) (h : HalfId) : State :=
  if (s.half h).tal.inService.isEmpty then startLanes s h else s

/-- Lanes held out of READING-ROOM are usable again: the compare path is back (R278, R282). -/
def roomRestored (s : State) (h : HalfId) : State :=
  if s.runMode h = mReading ∧ (idleLanes s h).isEmpty = false then s.onTal h fun t => { t with cmpLost := false } else s

/-- The lane has passed: in READING-ROOM it waits for comparator injection, else it is resynchronised (R278). -/
def auditPassed (s : State) (h : HalfId) (l : Lane) : State :=
  let s := s.onTrec h fun r => r.onLane l fun x => { x with bucket := 0, fenced := false }
  let work : LaneWork := if s.mode h = mOff ∨ s.runMode h = mReading then .out else .copying
  let s := s.onTal h fun t => t.onLane l fun x => { x with work := work }
  if s.mode h = mOff then auditBringUp s h else roomRestored s h

/-- The lane has failed: it is fenced (R278). -/
def auditFailed (s : State) (h : HalfId) (l : Lane) : State :=
  let s := s.onTrec h fun r => r.onLane l fun x => { x with fenced := true }
  let s := s.onTal h fun t => t.onLane l fun x => { x with work := .out }
  if s.mode h = mOff then auditBringUp s h else roomRestored (afterFence s h) h

/-- BIST of a lane ends (R278, R537). -/
def auditComplete (s : State) (h : HalfId) (l : Lane) (pass : Bool) : State :=
  let t := (s.half h).tal
  if (t.lane l).work ≠ .audit then s
  else
    let g := triggerCode (t.auditTrig.getD .request)
    let s := raiseHalf (reportHalf s h .tly 6 none (some l) (atBits (laneNo l) 0 ||| atBit pass 2 ||| atBits g 4) 0) h 228
    let s := s.onTal h fun t => { t with auditLast := laneNo l, auditPass := pass }
    if pass then auditPassed s h l else auditFailed s h l

/-- AUDIT_COMPLETE (R278). -/
def execAuditComplete (h : HalfId) (l : Lane) (pass : Bool) (s : State) : Host.Outcome State Fault Refusal :=
  .next (auditComplete s h l pass)

/-- AUDIT_COUNTDOWN_EXPIRY: at countdown 0 a rotation audit is due (R277). DEDUCED: log 38. -/
def execAuditCountdownExpiry (h : HalfId) (s : State) : Host.Outcome State Fault Refusal :=
  let t := (s.half h).tal
  .next (if t.countdown = 0 ∧ s.running h = true ∧ (t.audits.any fun a => a.2 == .rotation) = false then
    auditDue s h (laneOf t.auditNext) .rotation else s)

/-- BUCKET_DRAIN: each bucket above 0 loses 1 (R272). -/
def execBucketDrain (h : HalfId) (s : State) : Host.Outcome State Fault Refusal :=
  .next (if (s.half h).tal.drainDue && s.runMode h != mReading then
    let f (l : LaneRec) : LaneRec := { l with bucket := l.bucket - 1 }
    (s.onTal h fun t => { t with drainDue := false }).onTrec h fun r => { r with a := f r.a, b := f r.b, c := f r.c }
  else s)

/-- SLOW_COUNT_DRAIN: the slow count falls by 1 (R274). -/
def execSlowCountDrain (h : HalfId) (s : State) : Host.Outcome State Fault Refusal :=
  .next (if (s.half h).tal.slowDue && s.runMode h != mReading then
    (s.onTal h fun t => { t with slowDue := false }).onTrec h fun r => { r with slow := r.slow - 1 }
  else s)

/-! ## READING-ROOM and the clocks (R38, R39, R481) -/

/-- A copy under way ends without a join: the lanes are held in reset again (R38). -/
def Tally.copiesEnd (t : Tally) : Tally :=
  lanes.foldl (fun t l => t.onLane l fun x => if x.work = .copying ∨ x.work = .copied then { x with work := .out } else x) t

/-- The tellers lose the second signature, or the half its commons port: READING-ROOM at once (R38). DEDUCED: log 36. -/
def readingRoom (s : State) (h : HalfId) (loss : PathLoss) : State :=
  if !runningMode (s.runMode h) then s
  else
    let s := s.onTal h fun t => match loss with
      | .compare => { t with cmpLost := true }
      | .commonsPort => { t with portLost := true }
    if s.runMode h = mReading then s.onTal h Tally.copiesEnd else enterRoom s h (leadLane (s.half h).tal)

/-- READING_ROOM_ENTRY (R38). -/
def execReadingRoomEntry (h : HalfId) (loss : PathLoss) (s : State) : Host.Outcome State Fault Refusal :=
  .next (readingRoom s h loss)

/-- The path is back: comparator injection runs before the half leaves READING-ROOM (R38, R282). -/
def pathRestored (s : State) (h : HalfId) (loss : PathLoss) (cases : BitVec 8) : State :=
  let t := (s.half h).tal
  let was := match loss with
    | .compare => t.cmpLost
    | .commonsPort => t.portLost
  if !was then s
  else
    let s := s.onTal h fun t => match loss with
      | .compare => { t with cmpLost := false }
      | .commonsPort => { t with portLost := false }
    if roomOpen s h then injectLeaving s h cases else s

/-- COMPARE_PATH_RESTORED (R38). -/
def execComparePathRestored (h : HalfId) (loss : PathLoss) (cases : BitVec 8) (s : State) : Host.Outcome State Fault Refusal :=
  .next (pathRestored s h loss cases)

/-- The audit of the third lane at EARLY (R481 step 9): it begins once the PLL has locked. -/
def thirdAudit (s : State) (h : HalfId) : State :=
  if s.mode h = mEarly ∧ s.bnd.pllLocked = true ∧ auditFree (s.half h).tal = true then
    match lanes.filter fun l => ((s.half h).tal.lane l).work == .out with
    | [l] => s.onTal h fun t => t.auditBegins l .bringup
    | _ => s
  else s

/-- PLL_LOCK (R39, R481): the third lanes' audits begin. -/
def execPllLock (s : State) : Host.Outcome State Fault Refusal :=
  .next (if s.bnd.pllLocked || s.isolated || (s.heldInReset .h0 && s.heldInReset .h1) then s
    else thirdAudit (thirdAudit { s with bnd := { s.bnd with pllLocked := true } } .h0) .h1)

/-! ## The TLY registers (R240, R249, R271, R276, R280, R283-R285) -/

/-- TLY_CTRL (R284). -/
def tlyCtrl (s : State) (h : HalfId) : Cell :=
  let t := (s.half h).tal
  atBits t.slowThr 16 ||| atBits t.attResp 14 ||| atBit t.auditEn 13 ||| atBits (fenceMarks s h) 3

/-- TLY_STAT (R285). DEDUCED: log 40. -/
def tlyStat (s : State) (h : HalfId) : Cell :=
  let t := (s.half h).tal
  let is (w : LaneWork) : BitVec 3 := laneBits fun l => (t.lane l).work == w
  let off := s.mode h == mOff
  atBits (s.mode h) 33 ||| atBits (if off then 0 else is .inService) 30 ||| atBits (fenceMarks s h) 27 |||
    atBits (is .copying ||| is .copied) 24 ||| atBits (is .audit) 21 |||
    atBits (if off then (3 : BitVec 2) else laneNo (leadLane t)) 19 |||
    atBit (!off && decide (t.inService.length < 2)) 18 |||
    atBit ((s.half h).win.rolling || (s.half h).win.redo.isSome) 17 ||| atBit t.injOk 16

/-- TLY_WIN cell 1 (R249). -/
def tlyWin (w : Windows) : Cell := atBits w.rollbacks 24 ||| atBits w.resyncs 12 ||| atBits (BitVec.ofNat 12 w.slots) 0

/-- TLY_STAGGER (R240). -/
def tlyStagger (t : Tally) : Cell := atBits t.la.stagReg 6 ||| atBits t.lb.stagReg 3 ||| atBits t.lc.stagReg 0

/-- TLY_BUCKET (R276). -/
def tlyBucket (t : Tally) (r : TallyRec) : Cell × Cell :=
  (atBits t.drain 12 ||| atBits (BitVec.ofNat 3 r.a.bucket) 6 ||| atBits (BitVec.ofNat 3 r.b.bucket) 3 |||
    atBits (BitVec.ofNat 3 r.c.bucket) 0, atBits r.a.life 24 ||| atBits r.b.life 12 ||| atBits r.c.life 0)

/-- TLY_AUDIT (R280). -/
def tlyAudit (t : Tally) : Cell × Cell :=
  (atBit t.auditNow 35 ||| atBits t.auditNext 33 ||| atBits t.auditLast 31 ||| atBit t.auditPass 30 ||| atBits t.period 0,
    atBits t.countdown 0)

/-- TLY_ATTACK (R276). -/
def tlyAttack (t : Tally) (r : TallyRec) : Cell × Cell :=
  (atBit t.burstBit 35 ||| atBit t.slowBit 34 ||| atBits t.taken 32 ||| atBits (satOf 8 (burstCount t)) 24 |||
    atBits (satOf 8 r.slow) 0, atBits r.attacks 0)

/-- Reads of the TLY unit at offset `o` (R283). -/
def tlyRead (s : State) (h : HalfId) (o : Nat) : Option (Cell × Cell) :=
  let t := (s.half h).tal
  match o with
  | 0 => some (tlyCtrl s h, 0)
  | 1 => some (tlyStat s h, 0)
  | 2 => some ((s.half h).win.num, tlyWin (s.half h).win)
  | 4 => some (tlyStagger t, 0)
  | 5 => some (atBit t.injGo 35 ||| atBits t.injState 33 ||| atBits t.injCases 0, 0)
  | 6 => some (tlyBucket t (s.trec h))
  | 8 => some (tlyAudit t)
  | 10 => some (tlyAttack t (s.trec h))
  | _ => none

/-- slow_thr and the other settings of TLY_CTRL are written; att_resp is never lowered (R284). -/
def Tally.ctrl (t : Tally) (x : Cell) : Tally :=
  let thr : Octet := fld x 16 8
  let r : BitVec 2 := fld x 14 2
  { t with slowThr := if thr.toNat < 2 then 2 else thr, attResp := if t.attResp.toNat ≤ r.toNat then r else t.attResp
           auditEn := bit x 13 }

/-- Fence bits are set; with no window open they act at once (R245, R284). -/
def fenceRequest (s : State) (h : HalfId) (m : BitVec 3) : State :=
  let s := s.onTal h fun t => { t with fenceReq := t.fenceReq ||| m }
  if noWindow s h && agreedClose s h then fenceWork s h else s

/-- An audit of the lane in `next` is requested (R280). -/
def auditRequest (s : State) (h : HalfId) : State :=
  let l := laneOf (s.half h).tal.auditNext
  auditDue (s.onTal h fun t => { t with auditNow := true }) h l .request

/-- TLY_AUDIT cell 0 is written (R280). -/
def Tally.auditWrite (t : Tally) (x : Cell) : Tally :=
  let n : BitVec 2 := fld x 33 2
  let p : BitVec 22 := fld x 0 22
  { t with auditNext := if n = 3 then 0 else n, period := if p.toNat < 3072 then 3072 else p }

/-- A tally whose programmed staggers are the fields of a cell (R240). -/
def Tally.stagger (t : Tally) (x : Cell) : Tally :=
  { t with la := { t.la with stagReg := fld x 6 3 }, lb := { t.lb with stagReg := fld x 3 3 }
           lc := { t.lc with stagReg := fld x 0 3 } }

/-- A requested injection starts at the next close, at once where no window is open (R245, R271). -/
def injectRequest (s : State) (h : HalfId) : State :=
  let s := s.onTal h fun t => { t with injGo := true }
  if noWindow s h then injectStart s h else s

/-- Writes of the TLY unit at offset `o` (R283). -/
def tlyWrite (s : State) (h : HalfId) (o : Nat) (x : Cell) : State :=
  match o with
  | 0 => fenceRequest (s.onTal h fun t => t.ctrl x) h (fld x 3 3)
  | 4 => s.onTal h fun t => t.stagger x
  | 5 => if bit x 35 then injectRequest s h else s
  | 8 =>
    let s := s.onTal h fun t => t.auditWrite x
    if bit x 35 then auditRequest s h else s
  | 10 => s.onTal h fun t => { t with burstBit := t.burstBit && !bit x 35, slowBit := t.slowBit && !bit x 34 }
  | _ => s

/-- TLY_INJECT (R271). -/
def execTlyInject (w h : HalfId) (s : State) : Host.Outcome State Fault Refusal :=
  .next (regCommand s w h true fun _ => injectRequest s h)

/-- TLY_AUDIT_NOW (R280). -/
def execTlyAuditNow (w h : HalfId) (s : State) : Host.Outcome State Fault Refusal :=
  .next (regCommand s w h true fun _ => auditRequest s h)

/-- TLY_FENCE (R284). -/
def execTlyFence (w h : HalfId) (lanes : BitVec 3) (s : State) : Host.Outcome State Fault Refusal :=
  .next (regCommand s w h true fun _ => fenceRequest s h lanes)

end Sys2Proof.Machine
end

