-- ==== Sys2Proof/Machine/Charter.lean ====
section
/-! DEFINITION. The charter: acceptance and charter fault, comparator injection, installation, image states and updates
(R270, R483, R491-R504, R526, R559). -/

namespace Sys2Proof.Machine

/-! ## Acceptance and fault (R483, R491-R494, R559) -/

/-- The halves that verify the charter: released, and not kept OFF. -/
def verifiers (s : State) : List HalfId := [HalfId.h0, HalfId.h1].filter fun h => (s.half h).up.released

/-- The choice that a set of halves makes of what was read. DEDUCED: log 70. -/
def choiceOf (s : State) (p : List HalfId) (c : CharterInput) : Choice :=
  chooseSlot (fuseHash s.bnd.loaded) s.rollback p c

/-- A slot as read. -/
def slotOf (c : CharterInput) (second : Bool) : SlotInput := if second then c.slot1 else c.slot0

/-- CHT_REJ and the digest as verification leaves them (R490, R492). DEDUCED: log 72. -/
def recordChoice (s : State) (c : CharterInput) (r : Choice) : State :=
  { s with cht := { s.cht with rej0 := r.rej0, rej1 := r.rej1, digest := (slotImage (slotOf c r.last)).digest } }

/-- An armed unlock is checked after the charter is accepted: it opens the block at the price of every secret, or fails
(R557-R559). -/
def unlockCheck (s : State) (ok : Bool) : State :=
  if s.dbg.lock ≠ .armed then s
  else
    let s := { s with dbg := { s.dbg with chalValid := false, chal := 0, resp := [] } }
    if ok && bit (chtCell s 1 6) 0 then
      let s := eraseAll (tampRecord s 7 2)
      { s with dbg := { s.dbg with lock := .open_, unlocks := satInc s.dbg.unlocks } }
    else { s with dbg := { s.dbg with lock := .locked, fails := satInc s.dbg.fails } }

/-- A slot is accepted: its cells are the charter buffer (R486, R504). -/
def acceptSlot (s : State) (p : List HalfId) (c : CharterInput) (second : Bool) : State :=
  let m := slotImage (slotOf c second)
  let s := { s with cht := { s.cht with
    buf := cellTable 0 ((slotOf c second).cells.take m.length), slot := if second then 2 else 1, quad := m.quad
    fault := false, ver := m.version } }
  unlockCheck (p.foldl (fun s h => s.onUp h fun u => { u with verified := true }) s) c.unlockOk

/-- A half is held in reset by the boot ROM. DEDUCED: log 73. -/
def bootHold (s : State) (h : HalfId) : State :=
  let s := (s.onTal h fun t => t.serve []).onEx h fun e => { e with running := none }
  s.onUp h fun u => { u with released := false, stuck := true }

/-- Charter fault: the host is asked for a reset, a daybook entry is committed, and both halves are held (R494). -/
def charterFault (s : State) : State :=
  let s := { s with cht := { s.cht with fault := true, slot := 0 }, mbx := { s.mbx with hostReset := true } }
  let s := reportCommons s .cht 2 (atBits s.cht.rej0 32 ||| atBits s.cht.rej1 28) 0
  bootHold (bootHold s .h0) .h1

/-- A half that has not yet been tested may yet leave a set of halves that accepts. DEDUCED: log 71. -/
def mayAccept (s : State) (p : List HalfId) (c : CharterInput) : Bool :=
  p.any fun h => (choiceOf s [h] c).slot.isSome && p.any fun k => k != h && !(s.half k).up.injected

/-- The charter is accepted once every half that may start accepts it; when none can be, the block is in charter fault
(R483, R494). DEDUCED: log 71. -/
def charterDecide (s : State) : State :=
  match s.cht.seen with
  | none => s
  | some c =>
    let p := verifiers s
    if p.isEmpty then s
    else
      let r := choiceOf s p c
      let s := recordChoice s c r
      match r.slot with
      | some second => acceptSlot s p c second
      | none => if mayAccept s p c then s else charterFault s

/-- CHARTER_VERIFIED: both slots have been read, and the signatures checked (R491, R492). -/
def charterVerified (s : State) (c : CharterInput) : State :=
  if s.cht.installed || s.cht.fault || s.cht.slot != 0 || s.cht.seen.isSome || (verifiers s).isEmpty then s
  else charterDecide { s with cht := { s.cht with seen := some c } }

/-- CHARTER_VERIFIED (R492). DEDUCED: log 70. -/
def execCharterVerified (c : CharterInput) (s : State) : Host.Outcome State Fault Refusal := .next (charterVerified s c)

/-! ## Comparator injection at bring-up (R270, R481) -/

/-- The half is at step 4 of its bring-up. -/
def injectDue (s : State) (h : HalfId) : Bool :=
  let u := (s.half h).up
  s.mode h == mOff && u.released && !u.injected && (s.half h).tal.inService.length == 2 &&
    (s.cht.seen.isSome || s.cht.slot != 0)

/-- Injection at bring-up: a half that fails stays OFF (R270, R483). DEDUCED: log 80. -/
def injectBringUp (s : State) (h : HalfId) (cases : BitVec 8) : State :=
  let s := injectResult s h cases 0
  charterDecide (if (s.half h).tal.injOk then s.onUp h fun u => { u with injected := true } else bootHold s h)

/-- COMPARATOR_INJECTION (R270). -/
def injection (s : State) (h : HalfId) (cases : BitVec 8) : State :=
  if injectDue s h then injectBringUp s h cases else injectRunning s h cases

/-- COMPARATOR_INJECTION (R270). -/
def execComparatorInjection (h : HalfId) (cases : BitVec 8) (s : State) : Host.Outcome State Fault Refusal :=
  .next (injection s h cases)

/-! ## Installation of the global units (R488, R495, R526) -/

/-- Section k is in the charter. -/
def chtHas (s : State) (k : Nat) : Bool := chtOff s k != 0

/-- The length of section k. -/
def chtLen (s : State) (k : Nat) : Nat := (fld (sget 0 s.cht.buf (9 + 2 * k)) 0 15).toNat

/-- A source's route, priority and coalescer are set. -/
def installSource (s : State) (n : Nat) : State :=
  evcCoalWrite (evcPriWrite (evcRouteWrite s n (fld (chtCell s 6 (3 * n)) 0 6)) n (chtCell s 6 (3 * n + 1))) n
    (chtCell s 6 (3 * n + 2))

/-- The enables of vector index k are set. -/
def installEnable (s : State) (k : Nat) : State :=
  { s with evc := { s.evc with en := vecOr s.evc.en k (fld (chtCell s 6 (768 + k)) 0 32 &&& evcExisting s k) } }

/-- Section EVENTS (R426-R429). -/
def installEvents (s : State) : State :=
  if chtHas s 6 then (List.range 8).foldl installEnable ((List.range 256).foldl installSource s) else s

/-- Section MAILBOX (R440). -/
def installMail (s : State) : State :=
  if chtHas s 7 then
    chanNos.foldl (fun s c => s.onChan c fun x => x.config (chtCell s 7 (2 * c.toNat)) (chtCell s 7 (2 * c.toNat + 1))) s
  else s

/-- The global registers of section BLOCK (R371, R404, R440, R452, R474). -/
def installBlock (s : State) : State :=
  if chtHas s 1 then
    let c := chtCell s 1
    let s := { s with
      tick := { s.tick with ext := bit (c 0) 35, period := fld (c 0) 0 14 }
      evc := { s.evc with split := if fld (c 9) 0 2 = (0 : BitVec 2) then 1 else fld (c 9) 0 2 }
      mbx := { s.mbx with hostReset := bit (c 8) 35, hostKeep := bit (c 8) 34 } }
    let s := (List.range 4).foldl (fun s k => mbxGrantWrite s k (fld (c (10 + k)) 0 32)) s
    crdInstall s (c 7)
  else s

/-- The fleet data of section 9 replace those stored (R525). -/
def fleetReplace (s : State) : State :=
  let map := (List.range 512).foldl (fun m k =>
    sput 0 m k (if chtLen s 9 = 522 then fld (chtCell s 9 (10 + k)) 0 32 else (0 : HostWord))) []
  { s with flt := { s.flt with
      head := chtCell s 9 0, version := chtCell s 9 1
      keys := (List.range 8).foldl (fun m k => sput 0 m k (chtCell s 9 (2 + k))) []
      stored := map, mirror := map } }

/-- The fleet data at installation: an older section is recorded and never replaces a newer one (R526, R527). -/
def installFleet (s : State) : State :=
  let v := chtCell s 9 1
  let kept : State := { s with flt := { s.flt with mirror := s.flt.stored } }
  if !chtHas s 9 || !bit (chtCell s 9 0) 35 then kept
  else if !bit s.flt.head 35 ∨ s.flt.version.toNat < v.toNat then fleetReplace s
  else if v.toNat < s.flt.version.toNat then
    reportCommons kept .cht 2 (atBits s.cht.rej0 32 ||| atBits s.cht.rej1 28 ||| 1) v
  else kept

/-- KEP_TREC (R531). -/
def trecCells (r : TampRec) : Pair :=
  ⟨atBit r.valid 35 ||| atBits r.cause 32 ||| atBits r.resp 30 ||| atBits (fld r.rtc 36 12) 0, fld r.rtc 0 36⟩

/-- A sensor's report: its entry and its source (R513, R537). -/
def tampReport (s : State) (sensor : BitVec 3) (resp : BitVec 2) (rtc : BitVec 48) : State :=
  let c := trecCells ⟨true, sensor, resp, rtc⟩
  raiseSource (reportCommons s .kep 21 c.c0 c.c1) (if sensor.toNat < 3 then 232 else 233)

/-- The sources of the latched inputs, then source 236, are raised at the bring-up that follows a wake (R421, R422). -/
def wakeDeliver (s : State) : State :=
  if s.keep.causes = 0 then s
  else
    let l := (List.range 128).filter fun n => bit s.keep.latches n
    let s := raiseSource (l.foldl raiseSource s) 236
    { s with keep := { s.keep with latches := 0, causes := 0 } }

/-- What the keep domain has to report: a tamper erase, the reports that waited, and the entries lost at KEEP entry
(R513, R514, R537, R543). -/
def keepReports (s : State) : State :=
  let s := if s.keep.erase then
      let c := trecCells s.keep.trec
      reportCommons { s with keep := { s.keep with erase := false } } .kep 21 c.c0 c.c1
    else s
  let s := s.keep.held.foldl (fun s e => tampReport s e.1 e.2.1 e.2.2) s
  let s := { s with keep := { s.keep with held := [] } }
  match s.dbk.keepLost with
  | none => s
  | some (n, rtc) => reportCommons { s with dbk := { s.dbk with keepLost := none } } .kep 25 n rtc

/-- The start half installs the global units (R495). -/
def installGlobal (s : State) : State :=
  let s := installFleet (installBlock (installMail (installEvents s)))
  let s := { s with
    vlt := { s.vlt with roots := true }
    cht := { s.cht with installed := true, seen := none }
    host := { s.host with ready := true } }
  keepReports (wakeDeliver s)

/-! ## Installation of a half (R374, R380, R495) -/

/-- The tally's charter values (R240, R280, R284). audit_en and
next are the images' too. DEDUCED: log 105. -/
def Tally.install (t : Tally) (c : Nat → Cell) : Tally :=
  let t := ((t.stagger (c 1)).ctrl (c 3)).auditWrite (c 2)
  let f (x : LaneState) : LaneState := { x with stag := x.stagReg }
  { t with la := f t.la, lb := f t.lb, lc := f t.lc, countdown := BitVec.ofNat 22 (t.period.toNat / 3) }

/-- The half-local registers of section BLOCK. DEDUCED: log 71, 72. -/
def installTally (s : State) (h : HalfId) : State :=
  if chtHas s 1 then
    let c := chtCell s 1
    let s := s.onTal h fun t => t.install c
    let s := s.onSpn h fun p => { p with ringTable := fld (c 4) 0 24 }
    s.onSch h fun q => { q with en := bit (c 5) (35 - h.toNat) }
  else s

/-- Section ENERGY (R390, R402). -/
def installEnergy (s : State) (h : HalfId) : State :=
  if chtHas s 5 then
    let c := chtCell s 5
    s.onGov h fun g =>
      { g with
        sagThr := clampOctet 30 240 (fld (c h.toNat) 16 8), cap := clampOctet 30 160 (fld (c h.toNat) 0 8)
        run := fld (c 2) 9 9, runEarly := fld (c 2) 0 9, standing := fld (c 3) 0 9
        costs := (List.range 8).foldl (fun m k => sput 0 m (8 + k) (fld (c (4 + k)) 0 16 : BitVec 16).toNat) g.costs }
  else s

/-- The charter's schedule table of a half (R399-R401). -/
def chtTable (s : State) (h : HalfId) : SchTable :=
  let c := chtCell s (3 + h.toNat)
  { entries := (List.range 128).foldl (fun m i =>
      sput SchEntry.zero m i { SchEntry.zero.ofCells (c (3 * i)) (c (3 * i + 1)) with allow := fld (c (3 * i + 2)) 0 16 }) []
    evReserve := fld (c 384) 0 24, sysAllow := fld (c 385) 0 16 }

/-- The charter's table passes through admission: one that fails leaves no valid entry active (R374, R495). -/
def installTable (s : State) (h : HalfId) : State :=
  if chtHas s (3 + h.toNat) then
    let t := chtTable s h
    let r := admission s h t (s.half h).gov.cap
    s.onSch h fun c =>
      if r.1 = 0 then { c with active := t, shadow := t }
      else { c with active := { t with entries := [] }, shadow := t, adm := 3, code := r.1, bad := r.2 }
  else s

/-- The home map after a block reset; a half reset keeps the map restored (R286, R287, R311). DEDUCED: log 71. Tenant 0's bit is the charter's.
DESIGN CHOICE: log 106. -/
def installHomes (s : State) (h : HalfId) : State :=
  if chtHas s 2 && !(s.half h).up.halfStart then
    (List.range 1024).foldl (fun s t => s.onSpn h fun p =>
      p.setHome (BitVec.ofNat 10 t) (if bit (chtCell s 2 (2 * t)) 33 then .h1 else .h0)) s
  else s

/-- The kind of a reset, as a RESET entry gives it (R537). DEDUCED: log 80. -/
def resetCode (s : State) (h : HalfId) : BitVec 4 :=
  if (s.half h).up.halfStart then 3
  else match s.cht.kind with
    | .cold => 1
    | .block => 2
    | .half => 3
    | .tamper => 4
    | .wake => 5

/-- The warden image of a half fails the routine of R498: an IMAGE entry, and the half is held in reset (R496, R537).
DEDUCED: log 14. -/
def imageFails (s : State) (h : HalfId) : State :=
  let base : BitVec 24 := fld (chtCell s 1 (14 + h.toNat)) 0 24
  bootHold (setMode (reportHalf s h .firmware 3 none none 0 (atBits base 0)) h mOff) h

/-- Tenant 0's image state after the check of a half's warden image (R497, R498). DEDUCED: log 14. -/
def wardenChecked (s : State) (pass : Bool) : State :=
  let old : BitVec 2 := sget 0 s.cht.imgs 0
  { s with cht := { s.cht with imgs := sput 0 s.cht.imgs 0 (if pass || old == 1 then 1 else 2) } }

/-- The half enters EARLY on two lanes, with its RESET entry, and goes on where its warden image passes: the third lane is
audited once the PLL has locked (R38, R279, R481, R496, R537). -/
def enterEarly (s : State) (h : HalfId) (pass : Bool) : State :=
  let s := s.onTal h fun t => t.serve ((unfenced s h).take 2)
  let s := reportHalf s h .firmware 1 none none (atBits (resetCode s h) 0 ||| atBits s.evc.wake.cause 4) (fld s.keep.rtc 0 36)
  let s := setMode (s.onEx h fun e => { e with onPll := false }) h mEarly
  let s := wardenChecked (firstMark (scrub s h) h) pass
  if pass then tryHalt (thirdAudit s h) h else imageFails s h

/-- A half installs its own units (R495). -/
def installHalf (s : State) (h : HalfId) (pass : Bool) : State :=
  enterEarly (installHomes (installTable (installEnergy (installTally s h) h) h) h) h pass

/-- The half has come to step 7 of its bring-up (R481). DEDUCED: log 71. -/
def installDue (s : State) (h : HalfId) : Bool :=
  let x := s.half h
  s.mode h == mOff && x.up.released && x.up.injected && x.up.verified && s.cht.slot != 0 && s.rng.state != 0 &&
    auditFree x.tal

/-- A half comes to step 7: the start half, the lowest that passes injection, installs the global units first (R483,
R495). -/
def installStep (s : State) (h : HalfId) (pass : Bool) : State :=
  if !installDue s h then s
  else if s.cht.installed then installHalf s h pass
  else if h = .h0 ∨ s.h0.up.stuck = true ∨ (s.h0.up.released = false) then installHalf (installGlobal s) h pass
  else s

/-- CHARTER_INSTALL (R495). DESIGN CHOICE: log 4, 13. DEDUCED: log 14. -/
def execCharterInstall (p0 p1 : Bool) (s : State) : Host.Outcome State Fault Refusal :=
  .next (spanRefresh (installStep (installStep s .h0 p0) .h1 p1))

/-! ## Image states (R497, R499) -/

/-- The tenant has no image to verify: not valid, or without one (R497). -/
def imageAbsent (s : State) (t : BitVec 10) : Bool :=
  t != 0 && (!bit (chtCell s 2 (2 * t.toNat)) 35 || fld (chtCell s 2 (2 * t.toNat)) 28 4 == (0 : BitVec 4))

/-- The image state of a tenant (R497). -/
def imageState (s : State) (t : BitVec 10) : BitVec 2 := if imageAbsent s t then 3 else sget 0 s.cht.imgs t.toNat

/-- A write of CHT_TST (R504). -/
def chtTstWrite (s : State) (x : Cell) : State :=
  let t : BitVec 10 := fld x 0 10
  let v : BitVec 2 := fld x 34 2
  let s := { s with cht := { s.cht with tstTenant := t } }
  if v = 3 ∨ imageAbsent s t = true then s else { s with cht := { s.cht with imgs := sput 0 s.cht.imgs t.toNat v } }

/-- CHT_TST (R499). -/
def execChtTst (w : HalfId) (v : Cell) (s : State) : Host.Outcome State Fault Refusal :=
  .next (regCommand s w w true fun _ => chtTstWrite s v)

/-! ## Updates (R500, R501) -/

/-- The state and code of CHT_UST. -/
def setUst (s : State) (st : BitVec 3) (code : BitVec 6) : State := { s with cht := { s.cht with ustState := st, ustCode := code } }

/-- The image that an update offers does not pass the checks made before it starts (R500). DEDUCED: log 72. -/
def updateRejects (s : State) (m : Image) : Bool :=
  m.headerReason true true != 0 || !m.directoryOk || m.ownerHash != fuseHash s.bnd.loaded ||
    decide (m.version.toNat ≤ s.cht.ver.toNat)

/-- The image is read from data space: its cells, or the code that refuses the update (R500). DEDUCED: log 72. -/
def updateImage (s : State) (snap : CapSnap) : State × Except (BitVec 6) Image :=
  let n := s.cht.updLen.toNat
  let x : CrdXfer := ⟨0, snap, ⟨0, 0, 0⟩, s.cht.updOff, 0, n, false, 0, []⟩
  if n < 180 ∨ 65520 < n then (s, .error eOperand)
  else if !snap.genOk then (s, .error eGeneration)
  else match crdCheck s x pLD n with
    | .error e => (s, .error e)
    | .ok a => match crdRead snap.cap.tenant (cellsFor n) s a with
      | (s, .error e) => (s, .error e)
      | (s, .ok l) => (s, .ok (cellTable 0 (flashCells ((octetsOfCells l).take n))))

/-- An accepted update erases the header's sector first (R501). DEDUCED: log 50. -/
def updateStart (s : State) : State :=
  setUst { s with cht := { s.cht with upd := some ⟨1, 1, s.cht.updLen.toNat⟩ } } 1 0

/-- A write of CHT_UGO.go, with the issuer's Cn as copied (R500). -/
def chtUpdate (s : State) (w : Writer) (snap : CapSnap) : State :=
  if s.cht.upd.isSome then s
  else if s.lockedMode w.half then setUst s 6 eModeLocked
  else if !bit (chtCell s 2 (2 * w.tenant.toNat)) 32 then setUst s 6 eOperand
  else match updateImage s snap with
    | (s, .error e) => setUst s 6 e
    | (s, .ok m) => if updateRejects s m then setUst s 6 eOperand else updateStart s

/-- CHARTER_UPDATE (R500). -/
def execCharterUpdate (w : HalfId) (s : State) : Host.Outcome State Fault Refusal :=
  .next (regCommand s w w false fun wr => chtUpdate s wr (s.snapCap w ((s.curBank w).cap s.cht.updN)))

/-- The operations of a step of R501: sectors erased, pages programmed. -/
def stepWork (len : Nat) : Nat → Nat
  | 1 => 1
  | 2 => (len + 4095) / 4096 - 1
  | 3 => (len + 255) / 256 - 1
  | 4 => 1
  | _ => 0

/-- The update at a step, or at the next that has work; step 5 is the comparison. -/
def ChtUpd.at (len : Nat) : Nat → Nat → ChtUpd
  | 0, k => ⟨k, stepWork len k, len⟩
  | n + 1, k => if 5 ≤ k ∨ stepWork len k ≠ 0 then ⟨k, stepWork len k, len⟩ else ChtUpd.at len n (k + 1)

/-- FLASH_STATUS_POLL: an operation that has ended is followed by the next (R501). -/
def execFlashStatusPoll (busy : Bool) (s : State) : Host.Outcome State Fault Refusal :=
  .next (match s.cht.upd with
    | none => s
    | some u =>
      if busy || 5 ≤ u.step then s
      else
        let u' := if 1 < u.left then { u with left := u.left - 1 } else ChtUpd.at u.len 5 (u.step + 1)
        { s with cht := { s.cht with upd := some u' } })

/-- The update ends, and source 198 is raised (R501). -/
def updateEnd (s : State) (st : BitVec 3) (code : BitVec 6) : State :=
  raiseSource (setUst { s with cht := { s.cht with upd := none } } st code) 198

/-- CHARTER_UPDATE_DONE: the image compares equal or not, or the flash does not respond (R501). -/
def execCharterUpdateDone (r : FlashResult) (s : State) : Host.Outcome State Fault Refusal :=
  .next (match s.cht.upd with
    | none => s
    | some u => match r with
      | .noResponse => updateEnd s 5 0o61
      | .compareOk => if u.step = 5 then updateEnd s 4 0 else s
      | .mismatch => if u.step = 5 then updateEnd s 5 0o60 else s)

/-! ## The CHT registers (R503, R504) -/

/-- Octets 4k to 4k + 3 of the digest, in octet packing (R504). -/
def digestCell (d : BitVec 256) (k : Nat) : Cell :=
  cellOfOctets ((List.range 4).map fun i => fld d (248 - 8 * (4 * k + i)) 8)

/-- Reads of the CHT unit at offset `o` of 0o040000 (R503). -/
def chtRead (s : State) (o : Nat) : Option (Cell × Cell) :=
  let c := s.cht
  if o = 0 then some (atBits c.slot 34 ||| atBit c.quad 33 ||| atBit c.fault 32 ||| atBits (fld c.ver 0 32) 0, 0)
  else if o = 1 then some (atBits c.rej0 32 ||| atBits c.rej1 28, 0)
  else if o = 2 then some (s.rollback, 0)
  else if o = 3 then some (0, 0)
  else if o = 4 then some (atBits c.bsel 0, 0)
  else if o = 5 then some (sget 0 c.buf c.bsel.toNat, 0)
  else if o = 6 then some (atBits (imageState s c.tstTenant) 34 ||| atBits c.tstTenant 0, 0)
  else if o = 0o10 then some (atBits c.updN 34 ||| atBits c.updOff 0, atBits c.updLen 0)
  else if o = 0o12 then some (atBit c.upd.isSome 35, 0)
  else if o = 0o13 then some (atBits c.ustState 33 ||| atBits c.ustCode 27, 0)
  else if 0o20 ≤ o ∧ o < 0o30 then some (digestCell c.digest (o - 0o20), 0)
  else none

/-- Writes of the CHT unit at offset `o`, with the issuer's Cn as copied (R503, R504). -/
def chtWrite (s : State) (w : Writer) (snap : CapSnap) (o : Nat) (x0 x1 : Cell) : State :=
  if o = 3 then chtCtlWrite s w.half x0
  else if o = 4 then
    let b : BitVec 14 := fld x0 0 14
    { s with cht := { s.cht with bsel := if 14559 < b.toNat then 14559 else b } }
  else if o = 6 then chtTstWrite s x0
  else if o = 0o10 then { s with cht := { s.cht with updN := fld x0 34 2, updOff := fld x0 0 24, updLen := fld x1 0 17 } }
  else if o = 0o12 then if bit x0 35 then chtUpdate s w snap else s
  else s

end Sys2Proof.Machine
end

