-- ==== Sys2Proof/Machine/Context.lean ====
section
/-! DEFINITION. The context image and the instructions that load and save it, CTXLD and CTXSV (R149, R174-R177, R286, R497,
R594). -/

namespace Sys2Proof.Machine

/-! ## The image (R174, R175) -/

/-- The cells of the image of a local context (R174). -/
def imageCells (n : BitVec 5) : Nat := if n.toNat < 8 then 72 else 60

/-- The control cell (R175). -/
def controlCell (b : Bank) : Cell :=
  atBit b.valid 35 ||| atBit b.lost 34 ||| atBit b.vtrap 33 ||| atBit b.tilmer 32 ||| atBit b.heldArith 31 |||
    atBit b.heldBudget 30 ||| atBits b.tenant 0

/-- The repeat register as a cell (R150, R174). -/
def repeatCell (b : Bank) : Cell := atBit b.repActive 24 ||| atBits b.repLeft 0

/-- The counts cell (R175). -/
def countsCell (b : Bank) : Cell :=
  atBits (BitVec.ofNat 2 b.levels) 16 ||| atBits (BitVec.ofNat 3 b.rv.length) 13 |||
    atBits (BitVec.ofNat 5 b.rs.length) 8 ||| atBits (BitVec.ofNat 5 b.ds.length) 0

/-- A list brought to `n` entries with zeros. -/
def padded (n : Nat) (l : List TCell) : List TCell := l ++ List.replicate (n - l.length) TCell.zero

/-- The two cells of a capability, with their tag. -/
def Cap.pair (c : Cap) : List TCell := [⟨c.cell0, c.tag⟩, ⟨c.cell1, c.tag⟩]

/-- The four registers of a loop level. -/
def LoopReg.cells (l : LoopReg) : List TCell := [TCell.plain l.ls, TCell.plain l.le, TCell.plain l.lc, TCell.plain l.ldp]

/-- The image of a bank whose status cell reads as given (R174). -/
def imageOf (b : Bank) (st : Cell) (n : BitVec 5) : List TCell :=
  b.pcc.pair ++ b.c0.pair ++ b.c1.pair ++ b.c2.pair ++ b.c3.pair ++ b.spd.pair ++ b.spt.pair ++
    [st, posCell b.resume, b.x, controlCell b, b.htb, b.sd, b.st, b.latch, repeatCell b, countsCell b].map TCell.plain ++
    padded 16 (b.ds.reverse.map TCell.plain) ++ padded 16 b.rs.reverse ++
    padded 4 (b.rv.reverse.map fun c => TCell.plain c.val) ++
    (if n.toNat < 8 then b.loop0.cells ++ b.loop1.cells ++ b.loop2.cells else [])

/-! ## What both instructions check (R149) -/

/-- The local context that the operand names: not the running one (R149). -/
def otherContext (k : BitVec 5) (x : Cell) : Option (BitVec 5) :=
  if x.toNat < 32 ∧ fld x 0 5 ≠ k then some (fld x 0 5) else none

/-- The check of an image's cells through C0 with two permissions (R149). -/
def checkImage (s : State) (h : HalfId) (b : Bank) (p q : Nat) (n : BitVec 5) : Except FaultInfo Addr :=
  checkTwo s h b.c0 ⟨0, spData, p, false, imageCells n⟩ q (b.at 1).toNat (bit (b.at 1) 0)

/-! ## CTXSV (R149, R177, R594) -/

/-- The groups of an image (R594). -/
def imageGroups (n : BitVec 5) : Nat := (imageCells n + 7) / 8

/-- The groups that a CTXSV still has to write: those a repeat register in progress counts, else all (R169, R594). -/
def groupsLeft (b : Bank) (n : BitVec 5) : Nat := if b.repActive then min (imageGroups n) b.repLeft.toNat else imageGroups n

/-- A group of the image is written: the last one retires the instruction (R594). -/
def saveGroup (s : State) (b : Bank) (dst : Pos) (n : BitVec 5) (a : Addr) (img : List TCell) : Res :=
  let left := groupsLeft b n
  let g := imageGroups n - left
  let st := entryStores (a + BitVec.ofNat 24 (8 * g)) b.c0.tenant ((img.drop (8 * g)).take 8)
  if left ≤ 1 then
    .done { doneOf s { b with ds := b.ds.drop 2, repActive := false, repLeft := 0 } dst with stores := st, close := true }
  else
    .done { doneOf s { b with repActive := true, repLeft := BitVec.ofNat 24 (left - 1) } b.resume with
            stores := st, close := true, group := true }

/-- CTXSV's effect (R149, R177, R594). -/
def runCtxsv (s : State) (h : HalfId) (k : BitVec 5) (b : Bank) (dst : Pos) : Res :=
  match otherContext k (b.at 0) with
  | none => .fault (illegal eOperand 0o51)
  | some n => match checkImage s h b pST pCS n with
    | .error f => .fault f
    | .ok a =>
      let img := imageOf (s.bank h n) (statusOf (s.half h) n) n
      let from_ := 8 * (imageGroups n - groupsLeft b n)
      match localPair b.c0.tenant from_ (img.drop from_) with
      | some i => .fault ⟨cCapability, eGlobal, 0, a + BitVec.ofNat 24 i, false⟩
      | none => if storeLocked s h a then .fault (lockedFault 0 a) else saveGroup s b dst n a img

/-- CTXSV (R149). -/
def opCtxsv : Op := ⟨0o51, .s, 2, 0, [0, 1], true, 1, runCtxsv⟩

/-! ## CTXLD (R149, R176) -/

/-- Cell i of an image. -/
def imgAt (l : List TCell) (i : Nat) : TCell := l.getD i TCell.zero

/-- The capability at offset i of an image. -/
def imgCap (l : List TCell) (i : Nat) : Cap := capOf (imgAt l i).tag (imgAt l i).val (imgAt l (i + 1)).val

/-- Loop level j of an image. -/
def imgLoop (l : List TCell) (j : Nat) : LoopReg :=
  ⟨(imgAt l (0o74 + 4 * j)).val, (imgAt l (0o75 + 4 * j)).val, (imgAt l (0o76 + 4 * j)).val, (imgAt l (0o77 + 4 * j)).val⟩

/-- An active loop level passes R176. -/
def loopLoads (l : LoopReg) : Bool :=
  decide (l.ls.toNat < 2 ^ 24 ∧ l.le.toNat < 2 ^ 24 ∧ l.lc.toNat < 2 ^ 24 ∧ l.ldp.toNat < 2 ^ 24 ∧ l.lc ≠ 0 ∧
    l.ls.toNat ≤ l.le.toNat ∧ l.le.toNat - l.ls.toNat ≤ 62)

/-- The counts of an image: levels, reserve, return entries, operand cells (R175). -/
def imgCounts (l : List TCell) : Nat × Nat × Nat × Nat :=
  let c := (imgAt l 0o27).val
  ((fld c 16 2).toNat, (fld c 13 3).toNat, (fld c 8 5).toNat, (fld c 0 5).toNat)

/-- The position entries of an image's reserve have slots (R176). -/
def reserveSlots (l : List TCell) (n : Nat) : Bool :=
  (List.range n).all fun i => !(i % 2 == 1 && badSlot (imgAt l (0o70 + i)).val)

/-- An image passes the checks of R176 for local context n. -/
def imageLoads (l : List TCell) (n : BitVec 5) : Bool :=
  let c := imgCounts l
  decide (c.2.2.2 ≤ 16 ∧ c.2.2.1 ≤ 16) && (c.2.1 == 0 || c.2.1 == 2 || c.2.1 == 4) &&
    (decide (n.toNat < 8) || c.1 == 0) && !badSlot (imgAt l 0o17).val && reserveSlots l c.2.1 &&
    ((List.range c.1).all fun j => loopLoads (imgLoop l j)) && decide ((imgAt l 0o24).val.toNat % 8 = 0)

/-- The offsets of the pairs whose tags have meaning: capabilities and return entries (R176). -/
def pairOffsets : List Nat := ((List.range 7).map fun i => 2 * i) ++ ((List.range 8).map fun i => 0o50 + 2 * i)

/-- The first pair with exactly one tag (R149, R176). -/
def mixedOffset (l : List TCell) : Option Nat := pairOffsets.find? fun i => (imgAt l i).tag != (imgAt l (i + 1)).tag

/-- `n` cells of an image from an offset, the last one first. -/
def imgTop (l : List TCell) (i n : Nat) : List TCell := ((l.drop i).take n).reverse

/-- The bank that an image loads (R174-R176). -/
def loadBank (l : List TCell) (n : BitVec 5) : Bank :=
  let c := imgCounts l
  let k := (imgAt l 0o21).val
  let z := decide (n.toNat < 8)
  { Bank.reset with
    pcc := imgCap l 0, c0 := imgCap l 2, c1 := imgCap l 4, c2 := imgCap l 6, c3 := imgCap l 8, spd := imgCap l 10, spt := imgCap l 12
    status := writableStatus (imgAt l 0o16).val
    resume := entryPos (imgAt l 0o17).val
    x := (imgAt l 0o20).val
    valid := true
    vtrap := bit k 33, tilmer := bit k 32, heldArith := bit k 31, heldBudget := bit k 30, tenant := fld k 0 10
    htb := (imgAt l 0o22).val, sd := (imgAt l 0o23).val, st := (imgAt l 0o24).val, latch := (imgAt l 0o25).val
    repActive := bit (imgAt l 0o26).val 24, repLeft := fld (imgAt l 0o26).val 0 24
    ds := (imgTop l 0o30 c.2.2.2).map fun x => x.val
    rs := imgTop l 0o50 c.2.2.1
    rv := (imgTop l 0o70 c.2.1).map fun x => TCell.plain x.val
    loop0 := if z then imgLoop l 0 else LoopReg.zero, loop1 := if z then imgLoop l 1 else LoopReg.zero
    loop2 := if z then imgLoop l 2 else LoopReg.zero, levels := c.1 }

/-- The tenant of an image may be loaded in the half: homed there, its image verified (R286, R497). -/
def tenantLoads (s : State) (h : HalfId) (t : BitVec 10) : Bool := s.homeOf h t == h && sget 0 s.cht.imgs t.toNat == (1 : BitVec 2)

/-- A bank that takes the place of a context's when the window in progress agrees (R258). -/
def loadLater (s : State) (h : HalfId) (n : BitVec 5) (b : Bank) : State :=
  s.onWin h fun w => { w with acts := w.acts ++ [(w.num + 1, .load n b)] }

/-- CTXLD's effect (R149, R176). -/
def runCtxld (errs : List (Nat × ReadOutcome)) (s : State) (h : HalfId) (k : BitVec 5) (b : Bank) (dst : Pos) : Res :=
  match otherContext k (b.at 0) with
  | none => .fault (illegal eOperand 0o50)
  | some n => match checkImage s h b pLD pCL n with
    | .error f => .fault f
    | .ok a =>
      if readsBlocked s h a (imageCells n) then .stall
      else match fetchCells errs (sealBuffer s h) h a b.c0.tenant 0 (imageCells n) with
      | (s', .error e) => .faultIn s' (fillFault 0 e)
      | (s, .ok l) =>
        if !(imageLoads l n && tenantLoads s h (loadBank l n).tenant) then .faultIn s (illegal eOperand 0o50)
        else match mixedOffset l with
          | some i => .faultIn s ⟨cCapability, eTaggedEntry, 0, a + BitVec.ofNat 24 i, false⟩
          | none =>
            .done { doneOf (loadLater s h n (loadBank l n)) { b with ds := b.ds.drop 2 } dst with close := true }

/-- CTXLD (R149). -/
def opCtxld (errs : List (Nat × ReadOutcome)) : Op := ⟨0o50, .s, 2, 0, [0, 1], false, 1, runCtxld errs⟩

/-- CTXLD (R176). DEDUCED: log 32. -/
def execCtxld (h : Fetching) (s : State) : Host.Outcome State Fault Refusal := .next (runWarden s h.half (opCtxld h.errs))

/-- CTXSV (R594). -/
def execCtxsv (h : HalfId) (s : State) : Host.Outcome State Fault Refusal :=
  .next (attempt s h (selectorForm 0o75) true (wardenEnc 0o51) opCtxsv)

end Sys2Proof.Machine
end

