-- ==== Sys2Proof/Machine/Keep.lean ====
section
/-! DEFINITION. The keep domain: KEEP entry and wake, attach and detach, the RTC, the witness, the tamper sensors, the
supplies and the KEP registers (R9, R41, R304, R305, R421, R433, R434, R505-R514, R530, R531, R562, R583, R589). -/

namespace Sys2Proof.Machine

/-- The keep domain changed. -/
def State.onKeep (s : State) (f : Keep → Keep) : State := { s with keep := f s.keep }

/-! ## Wake (R510, R511, R562) -/

/-- A wake cause joins those that have arisen: the first, and others of its RTC tick, make the stamp (R510).
DEDUCED: log 74. -/
def Keep.arise (k : Keep) (code : Nat) (input : Octet) : Keep :=
  let now := fld k.rtc 0 36
  let least (a : Octet) : Octet := if a.toNat ≤ input.toNat then a else input
  if k.causes = 0 then { k with causes := setBit k.causes code true, wakeRtc := now, wakeInput := input }
  else if k.wakeRtc = now then
    { k with
      causes := setBit k.causes code true
      wakeInput := if code = 1 then (if bit k.causes 1 then least k.wakeInput else input) else k.wakeInput }
  else k

/-- A wake cause arises in KEEP, emulated or not; the attach of an isolated block is one too (R434, R510).
DEDUCED: log 76. -/
def wakeArise (s : State) (code : Nat) (input : Octet) : State :=
  if s.keep.inKeep || s.dbg.emulated || (code == 3 && s.isolated) then s.onKeep fun k => k.arise code input else s

/-- The alarm is a wake cause when the RTC stands at or past it (R509, R510). -/
def alarmTest (s : State) : State :=
  if s.keep.alarmWake && decide (s.keep.alarm ≤ s.keep.rtc) then wakeArise s 2 0 else s

/-- A half that an emulated KEEP stopped returns to its mode (R562). -/
def modeBack (s : State) (h : HalfId) : State :=
  if s.mode h = mKeep then tryHalt (setMode s h (s.ex h).modeBefore) h else s

/-- An emulated KEEP ends: the halves return to their modes without a reset, with the stamp and what waited for the wake
(R9, R422, R513, R562). DEDUCED: log 76. -/
def emulationEnd (s : State) : State :=
  let s := wakeStamp s
  let s := { s with dbg := { s.dbg with emulated := false }, host := { s.host with isoAck := false } }
  keepReports (wakeDeliver (modeBack (modeBack s .h0) .h1))

/-- WAKE: WAKE_REQ rises for the causes that have arisen, and an emulated KEEP ends (R511, R562). -/
def wake (s : State) : State :=
  if s.keep.causes = 0 then s
  else if s.dbg.emulated then emulationEnd s
  else if s.keep.inKeep then s.onKeep fun k => { k with wakeReq := true }
  else s

/-- WAKE (R511). -/
def execWake (s : State) : Host.Outcome State Fault Refusal := .next (wake s)

/-! ## KEEP entry (R41, R421, R509, R543, R562) -/

/-- No line program of the half is in flight. -/
def noProgram (s : State) (h : HalfId) : Bool := !((s.half h).mem.merge.any fun e => e.prog)

/-- The half's daybook queue has been committed within the rate limit (R41, R539); a half in HALT or OFF delays nothing. -/
def dbkSettled (s : State) (h : HalfId) : Bool :=
  s.mode h == mHalt || s.mode h == mOff || (s.half h).dbk.queue.isEmpty || (decide (8 ≤ (s.half h).dbk.commits) && !dbkInFlight s h)

/-- The half lets KEEP begin, at an agreed close on which nothing of a higher rank falls (R40, R41). DEDUCED: log 74. -/
def keepReady (s : State) (h : HalfId) : Bool :=
  (!s.running h || (agreedClose s h && !outranked s h)) && noProgram s h && dbkSettled s h

/-- The entries of a half's queue that an entry to KEEP loses. -/
def dbkQueued (s : State) (h : HalfId) : Nat := (s.half h).dbk.queue.length - (if dbkInFlight s h then 1 else 0)

/-- The sense of each input as the keep domain copies it (R421). -/
def senseCopy (s : State) : Sparse (BitVec 2) :=
  (List.range 128).foldl (fun m n => sput 0 m n (senseOf s n)) []

/-- Isolation is complete: ISO_ACK rises, and a low ISO_REQ after a detach is an attach (R433). DEDUCED: log 75. -/
def isolate (s : State) : State :=
  let fell := s.host.detach && !s.host.isoReq
  let s := { s with host := { s.host with isoAck := true, detach := false } }
  if fell then wakeArise s 3 0 else s

/-- The block enters KEEP: the entries left are lost and counted, and both halves are in KEEP (R41, R543).
DEDUCED: log 74. -/
def keepEnter (s : State) : State :=
  let n := dbkQueued s .h0 + dbkQueued s .h1
  let sense := senseCopy s
  let s := dbkDiscard (dbkDiscard s .h0) .h1
  let s := { s with dbk := { s.dbk with keepLost := some (cellOf n, fld s.keep.rtc 0 36) }, dbg := { s.dbg with emulated := false } }
  let s := (s.onEx .h0 fun e => { e with mode := mKeep }).onEx .h1 fun e => { e with mode := mKeep }
  isolate (s.onKeep fun k => { k with inKeep := true, keepReq := false, latches := 0, sense := sense, causes := 0 })

/-- A running half stops in emulated KEEP as in HALT (R562). -/
def emulateHalf (s : State) (h : HalfId) : State :=
  if s.running h then
    let m := s.mode h
    setMode (s.onEx h fun e => { e with modeBefore := m }) h mKeep
  else s

/-- KEEP is emulated under a debugger (R9, R562). DEDUCED: log 76. -/
def keepEmulate (s : State) : State :=
  let s := emulateHalf (emulateHalf s .h0) .h1
  isolate (({ s with dbg := { s.dbg with emulated := true } }).onKeep fun k => { k with keepReq := false, causes := 0 })

/-- KEEP_ENTRY: once everything R41 asks for holds. -/
def keepEntry (s : State) : State :=
  if s.keep.keepReq && !s.isolated && !s.dbg.emulated && keepReady s .h0 && keepReady s .h1 then
    if attached s then keepEmulate s else keepEnter s
  else s

/-- KEEP_ENTRY (R41). -/
def execKeepEntry (s : State) : Host.Outcome State Fault Refusal := .next (keepEntry s)

/-- KEEP is requested (R41, R435, R509). -/
def keepAsk (s : State) : State := if s.isolated || s.dbg.emulated then s else s.onKeep fun k => { k with keepReq := true }

/-- KEEP_REQUEST: a write of KEP_CTRL.keep (R509). -/
def execKeepRequest (w : HalfId) (s : State) : Host.Outcome State Fault Refusal :=
  .next (regCommand s w w true fun _ => keepAsk s)

/-! ## Attach and detach (R433, R434) -/

/-- ISO_REQ_RISE: an attached block detaches; an isolated one has already acknowledged (R433, R434). DEDUCED: log 75. -/
def isoRise (s : State) : State :=
  if s.host.isoReq then s
  else
    let s := { s with host := { s.host with isoReq := true } }
    if s.host.isoAck then s else detachBegin s

/-- ISO_REQ_RISE (R433). -/
def execIsoReqRise (s : State) : Host.Outcome State Fault Refusal := .next (isoRise s)

/-- ISO_REQ_FALL: an attach once ISO_ACK is high (R433, R434). DEDUCED: log 75. -/
def isoFall (s : State) : State :=
  if !s.host.isoReq then s
  else
    let s := { s with host := { s.host with isoReq := false } }
    if s.host.isoAck then wakeArise s 3 0 else s

/-- ISO_REQ_FALL (R434). -/
def execIsoReqFall (s : State) : Host.Outcome State Fault Refusal := .next (isoFall s)

/-! ## Latches (R421, R510) -/

/-- KEEP_LATCH_EDGE: a latch catches the edge that its input's sense selected; an enabled one wakes (R421, R510).
DEDUCED: log 74. -/
def latchEdge (s : State) (n : BitVec 7) : State :=
  if !s.isolated || !s.keep.vfieldOn || decide (s.bnd.evin.toNat ≤ n.toNat) then s
  else
    let s := s.onKeep fun k => { k with latches := setBit k.latches n.toNat true }
    if bit s.keep.wen n.toNat then wakeArise s 1 (n.setWidth 8) else s

/-- KEEP_LATCH_EDGE (R421). -/
def execKeepLatchEdge (n : BitVec 7) (s : State) : Host.Outcome State Fault Refusal := .next (latchEdge s n)

/-! ## The witness (R304, R305) -/

/-- The witness's view of a half. -/
def Keep.wh (k : Keep) : HalfId → WitHalf
  | .h0 => k.w0
  | .h1 => k.w1

/-- The keep domain with the witness's view of a half changed. -/
def Keep.onWh (k : Keep) (h : HalfId) (f : WitHalf → WitHalf) : Keep :=
  match h with
  | .h0 => { k with w0 := f k.w0 }
  | .h1 => { k with w1 := f k.w1 }

/-- WITNESS_HEARTBEAT: the half's line toggles, and its latch catches the toggle (R304). -/
def witnessBeat (s : State) (h : HalfId) : State :=
  if s.mode h = mOff ∨ s.isolated = true ∨ (s.half h).tal.portLost = true then s
  else s.onKeep fun k => k.onWh h fun w => { w with line := !w.line, latch := true }

/-- WITNESS_HEARTBEAT (R304). -/
def execWitnessHeartbeat (h : HalfId) (s : State) : Host.Outcome State Fault Refusal := .next (witnessBeat s h)

/-- The judgement of an RTC tick: present after one tick with the latch set, absent after four clear (R304). -/
def WitHalf.judge (w : WitHalf) : WitHalf :=
  if w.latch then { w with latch := false, clear := 0, present := some true }
  else { w with clear := w.clear + 1, present := if 4 ≤ w.clear + 1 then some false else w.present }

/-- What the witness tells a half whose span is DOWN of the other (R305). -/
def peerOf (w : WitHalf) : BitVec 2 :=
  match w.present with
  | none => 0
  | some p => if p then 1 else 2

/-- A partition or a peer loss is recorded: its record, its entry, and source 235 (R305, R405, R537).
DEDUCED: log 77. -/
def witnessOpen (s : State) (kind : BitVec 2) : State :=
  let s := s.onKeep fun k => { k with
    wit := ⟨true, true, kind, k.rtc, 0⟩, parts := if kind = 1 then satInc k.parts else k.parts }
  let s := reportCommons s .kep (if kind = 1 then 12 else 13) (atBits kind 0) (fld s.keep.rtc 0 36)
  raiseSource s 235

/-- The kind of record that a half's view of its peer asks for. -/
def witnessKind (h : HalfId) (peer : BitVec 2) : BitVec 2 := if peer = 1 then 1 else if h = .h0 then 3 else 2

/-- The verdict on the peer of a half whose span went DOWN a number of ticks ago; 0: none yet. A peer is present once it has
toggled in an interval that began after that, and absent once its latch has stayed clear for four ticks (R304, R305).
DEDUCED: log 109. -/
def downVerdict (w : WitHalf) (ticks : Nat) : BitVec 2 :=
  if 4 ≤ w.clear then 2 else if 2 ≤ ticks ∧ w.clear = 0 then 1 else 0

/-- The witness reports to a half whose span went DOWN, once (R305). -/
def witnessReport (s : State) (h : HalfId) (n : Nat) : State :=
  let p := downVerdict (s.keep.wh h.other) (n + 1)
  let s := s.onSpn h fun q => { q with peer := p, watch := if p = 0 then some (n + 1) else none }
  if p = 0 ∨ (s.keep.wit.valid && s.keep.wit.isOpen) = true then s else witnessOpen s (witnessKind h p)

/-- The witness tells a half its view of the other (R293, R305). -/
def witnessTell (s : State) (h : HalfId) : State :=
  if s.isolated || s.heldInReset h || s.mode h == mOff then s
  else
    match (s.half h).spn.watch with
    | some n =>
      if (s.half h).spn.state = spDown then witnessReport s h n
      else s.onSpn h fun q => { q with watch := none, peer := peerOf (s.keep.wh h.other) }
    | none => s.onSpn h fun q => { q with peer := peerOf (s.keep.wh h.other) }

/-- The witness at an RTC tick. -/
def witnessTick (s : State) : State :=
  let s := s.onKeep fun k => { k with w0 := k.w0.judge, w1 := k.w1.judge }
  witnessTell (witnessTell s .h0) .h1

/-- The record is closed as recovery completes, with its entry (R305, R537). DEDUCED: log 77. -/
def witnessClose (s : State) : State :=
  if s.keep.wit.valid && s.keep.wit.isOpen then s.onKeep fun k => { k with wit := { k.wit with isOpen := false, stop := k.rtc } }
  else s

/-! ## The RTC (R506, R510) -/

/-- The RTC advances; a wrap raises source 222 (R424, R506). -/
def rtcCount (s : State) : State :=
  let t := s.keep.rtc + 1
  if t = 0 then
    let s := s.onKeep fun k => { k with rtc := t, rtcOvf := true }
    if s.isolated then s else commonsOverflow s
  else s.onKeep fun k => { k with rtc := t }

/-- RTC_TICK: the count, the witness and the alarm (R304, R506, R509). -/
def rtcTick (s : State) : State := if s.keep.vfieldOn then alarmTest (witnessTick (rtcCount s)) else s

/-- RTC_TICK (R506). DESIGN CHOICE: log 3. -/
def execRtcTick (s : State) : Host.Outcome State Fault Refusal := .next (rtcTick s)

/-- RTC_ALARM (R510). -/
def execRtcAlarm (s : State) : Host.Outcome State Fault Refusal := .next (if s.keep.vfieldOn then alarmTest s else s)

/-- A 48-bit value of two cells (R530). -/
def rtcOf (x0 x1 : Cell) : BitVec 48 := (fld x1 0 12 : BitVec 12) ++ x0

/-- The two cells of a 48-bit value (R530). -/
def rtcCells (v : BitVec 48) : Cell × Cell := (fld v 0 36, atBits (fld v 36 12 : BitVec 12) 0)

/-- A write of KEP_RTCSET (R506, R530). -/
def rtcSet (s : State) (x0 x1 : Cell) : State := s.onKeep fun k => { k with rtc := rtcOf x0 x1, rtcSet := rtcOf x0 x1 }

/-- KEP_RTCSET (R506). -/
def execKepRtcset (w : HalfId) (lo hi : Cell) (s : State) : Host.Outcome State Fault Refusal :=
  .next (regCommand s w w true fun _ => rtcSet s lo hi)

/-! ## Tamper (R512-R514, R583) -/

/-- The response of a sensor (R531). -/
def respOf (k : Keep) (sensor : BitVec 3) : BitVec 2 := fld k.resp (2 * sensor.toNat) 2

/-- A sensor's report: at once, or held through KEEP, where it wakes when tamper_wake allows (R510, R513).
DEDUCED: log 76. -/
def tampSay (s : State) (sensor : BitVec 3) (resp : BitVec 2) : State :=
  if s.isolated || s.dbg.emulated then
    let s := s.onKeep fun k => { k with held := k.held ++ [(sensor, resp, k.rtc)] }
    if s.keep.tamperWake then wakeArise s 4 0 else s
  else tampReport s sensor resp s.keep.rtc

/-- A sensor trips, and its response acts (R513, R514). -/
def tamperTrip (s : State) (sensor : BitVec 3) : State :=
  if !s.keep.vfieldOn || decide (4 < sensor.toNat) || (sensor == 4 && !s.keep.vcoreOk) then s
  else
    let s := s.onKeep fun k => { k with tripped := setBit k.tripped (4 - sensor.toNat) true }
    let r := respOf s.keep sensor
    if r = 0 then tampSay (s.onKeep fun k => { k with reports := satInc k.reports }) sensor 0
    else if r = 1 then tampSay (vaultLock s sensor) sensor 1
    else wakeArise (tamperErase s sensor) 4 0

/-- TAMPER_TRIP (R513). -/
def execTamperTrip (sensor : BitVec 3) (s : State) : Host.Outcome State Fault Refusal := .next (tamperTrip s sensor)

/-- MESH_CHECK: a pattern that differs is a trip of sensor 0 (R512). -/
def execMeshCheck (differs : Bool) (s : State) : Host.Outcome State Fault Refusal :=
  .next (if differs then tamperTrip s 0 else s)

/-- PLL_HOLDOVER: reported as a VCORE glitch (R583). -/
def execPllHoldover (s : State) : Host.Outcome State Fault Refusal :=
  .next (if s.isolated || s.bnd.holdover || !s.bnd.pllLocked then s
         else tamperTrip { s with bnd := { s.bnd with holdover := true } } 4)

/-- HOLDOVER_EXIT (R583). -/
def execHoldoverExit (s : State) : Host.Outcome State Fault Refusal :=
  .next { s with bnd := { s.bnd with holdover := false } }

/-! ## Supplies (R329, R332, R447, R505, R543, R589) -/

/-- VFIELD_LOSS: the power-on detector has tripped (R505). -/
def execVfieldLoss (s : State) : Host.Outcome State Fault Refusal := .next (s.onKeep fun k => { k with vfieldOn := false })

/-- The retained cells are cleared (R507). -/
def retainedClear (s : State) : State := { s with ram := s.ram.filter fun e => e.1 / 1024 != 512 }

/-- A cold reset (R479, R505, R507, R543, R557, R558). DEDUCED: log 78. -/
def coldReset (s : State) : State :=
  let s := s.onKeep fun k => { Keep.reset with vcoreOk := k.vcoreOk, vfield := k.vfield }
  let s := retainedClear s
  let s := { s with
    dbg := { s.dbg with chalValid := false, chal := 0, resp := [] } }
  let s := blockReset s .cold
  { s with dbk := { s.dbk with lost := 0, keepLost := none }, host := { s.host with isoAck := true, detach := false }, keep := { s.keep with keepReq := false },
           evc := { s.evc with wake := ⟨false, 0, 0, 0⟩ } }

/-- VFIELD_RISE: a cold reset (R505, R589). -/
def execVfieldRise (s : State) : Host.Outcome State Fault Refusal := .next (if s.keep.vfieldOn then s else coldReset s)

/-- VCORE_RISE (R589). -/
def execVcoreRise (s : State) : Host.Outcome State Fault Refusal := .next (s.onKeep fun k => { k with vcoreOk := true })

/-- A line that fails its integrity check until it is written again (R329). DEDUCED: log 47. -/
def breakLine (s : State) (h : HalfId) (e : MergeEntry) : State :=
  let k := nvmKey h (mapLine (s.half h).mem e.line)
  { s with nvm := sput none s.nvm k (some ⟨e.tenant, 1, zeroLine, true⟩) }

/-- A line program cut by the loss of VCORE leaves its line old, new or broken, which is not defined (R329).
DEDUCED: log 47. -/
def cutProgram (s : State) (h : HalfId) : State :=
  match (s.half h).mem.merge.find? fun e => e.prog with
  | none => s
  | some e =>
    let v : BitVec 2 := fld (Config.freeCell s.free) 0 2
    let s := s.draw
    match e.img with
    | some k => if v = 1 then s.onMem h fun m => metaProgram m k else s
    | none => if v = 1 then programLine s h e false else if v = 2 then breakLine s h e else s

/-- A half's memory after a loss of power: what had not been programmed is lost (R329, R332). DEDUCED: log 47. -/
def memPowerLoss (s : State) (h : HalfId) : State :=
  (cutProgram s h).onMem h fun m => { m with
    merge := [], allocs := []
    imgs := m.imgs.foldl (fun t e => sput ImgPair.zero t e.1 e.2.kept) [] }

/-- What any loss of VCORE loses (R329, R334, R447, R558). DEDUCED: log 77. -/
def powerLoss (s : State) : State :=
  let s := memPowerLoss (memPowerLoss { s with store := [] } .h0) .h1
  let s := mbxPowerLoss s
  { s with dbg := { s.dbg with resp := [] } }

/-- VCORE is lost while the block is attached: both halves and the commons stop at once, and the queued entries are lost
(R543, R589). -/
def attachedLoss (s : State) : State :=
  let sense := senseCopy s
  let s := blockReset (powerLoss s) .block
  { s with
    evc := { s.evc with wake := ⟨false, 0, 0, 0⟩ }
    host := { s.host with isoAck := true, detach := false }
    keep := { s.keep with keepReq := false, latches := 0, sense := sense, causes := 0 } }

/-- VCORE_LOSS (R447, R589). DEDUCED: log 77. -/
def vcoreLoss (s : State) : State :=
  if !s.keep.vcoreOk then s
  else
    let s' := s.onKeep fun k => { k with vcoreOk := false }
    if s.isolated then powerLoss s' else attachedLoss s'

/-- VCORE_LOSS (R589). -/
def execVcoreLoss (s : State) : Host.Outcome State Fault Refusal := .next (vcoreLoss s)

/-! ## The KEP registers (R529-R531) -/

/-- KEP_STAT (R530). -/
def kepStat (s : State) : Cell :=
  atBit s.dbg.emulated 35 ||| atBit s.keep.vcoreOk 34 ||| atBits s.keep.vfield 26

/-- KEP_WIT0 (R531). -/
def wit0 (w : WitRec) : Cell × Cell :=
  let c := rtcCells w.start
  (atBit w.valid 35 ||| atBit w.isOpen 34 ||| atBits w.kind 32 ||| c.2, c.1)

/-- KEP_WIT1 (R531). -/
def wit1 (w : WitRec) : Cell × Cell :=
  let c := rtcCells (if w.isOpen then 0 else w.stop)
  (c.2, c.1)

/-- A read at offset `o` of 0o050000 (R529). -/
def kepRead (s : State) (o : Nat) : Option (Cell × Cell) :=
  let k := s.keep
  if o = 0 then some (atBit k.alarmWake 34 ||| atBit k.tamperWake 33, 0)
  else if o = 1 then some (kepStat s, 0)
  else if o = 2 then some (rtcCells k.rtc)
  else if o = 4 then some (rtcCells k.alarm)
  else if o = 6 then some (atBits k.resp 0, atBits k.tripped 31 ||| atBits k.reports 0)
  else if o = 0o10 then some (rtcCells k.rtcSet)
  else if o = 0o12 then let c := trecCells k.trec; some (c.c0, c.c1)
  else if o = 0o14 then some (wit0 k.wit)
  else if o = 0o16 then some (wit1 k.wit)
  else if 0o20 ≤ o ∧ o < 0o24 then some (atBits (vecBits (k.wen.setWidth 256) (o - 0o20)) 0, 0)
  else none

/-- The response of sensor i after a write: a lower one is ignored, and 0b11 stores 0b10 (R513). -/
def respWrite (x : Cell) (r : BitVec 10) (i : Nat) : BitVec 10 :=
  let old : BitVec 2 := fld r (2 * i) 2
  let new : BitVec 2 := if fld x (2 * i) 2 = (3 : BitVec 2) then 2 else fld x (2 * i) 2
  if old.toNat ≤ new.toNat then (r &&& ~~~((3 : BitVec 10) <<< (2 * i))) ||| (new.setWidth 10 <<< (2 * i)) else r

/-- A write of KEP_TAMP (R513, R531). -/
def tampWrite (k : Keep) (x0 x1 : Cell) : Keep :=
  { k with resp := [0, 1, 2, 3, 4].foldl (respWrite x0) k.resp, tripped := k.tripped &&& ~~~(fld x1 31 5) }

/-- The wake enables of index k replaced (R530). -/
def wenWrite (v : BitVec 128) (k : Nat) (b : BitVec 32) : BitVec 128 :=
  let m : BitVec 128 := (BitVec.allOnes 32).setWidth 128 <<< (32 * k)
  (v &&& ~~~m) ||| (b.setWidth 128 <<< (32 * k))

/-- A write of KEP_CTRL (R530). -/
def kepCtrl (s : State) (x : Cell) : State :=
  let s := s.onKeep fun k => { k with alarmWake := bit x 34, tamperWake := bit x 33 }
  if bit x 35 then keepAsk s else s

/-- A write at offset `o` of 0o050000 (R530, R531). -/
def kepWrite (s : State) (o : Nat) (x0 x1 : Cell) : State :=
  if o = 0 then kepCtrl s x0
  else if o = 4 then s.onKeep fun k => { k with alarm := rtcOf x0 x1 }
  else if o = 6 then s.onKeep fun k => tampWrite k x0 x1
  else if o = 0o10 then rtcSet s x0 x1
  else if 0o20 ≤ o ∧ o < 0o24 then s.onKeep fun k => { k with wen := wenWrite k.wen (o - 0o20) (fld x0 0 32) }
  else s

end Sys2Proof.Machine
end

