-- ==== Sys2Proof/Machine/Vault.lean ====
section
/-! DEFINITION. The operations and registers of the key vault (R516-R520, R533). -/

namespace Sys2Proof.Machine

/-- The state code of a slot (R533). -/
def slotCode : SlotState → BitVec 2
  | .free => 0
  | .assigned => 1
  | .filled => 2
  | .identity => 3

/-- Who may ask for an operation: the refusal code, 0 if allowed (R519). -/
def vltAllowed (s : State) (w : Writer) (op : BitVec 3) (slot : BitVec 10) : BitVec 6 :=
  if w.warden then 0
  else if op = 1 then (if (vltLatest s slot).owner = w.tenant then 0 else ePermission)
  else eWardenOnly

/-- What an operation requires of its slot (R519). DEDUCED: log 78. -/
def vltRequires (s : State) (op : BitVec 3) (slot : BitVec 10) (type : BitVec 4) : Bool :=
  let r := vltLatest s slot
  if op = 0 then r.state == .free && decide (1 ≤ type.toNat ∧ type.toNat ≤ 8)
  else if op = 3 then r.state == .assigned && r.key == .empty
  else r.state == .assigned || r.state == .filled

/-- Why an operation is refused; 0: it is taken (R519, R520). DEDUCED: log 78. -/
def vltRefusal (s : State) (w : Writer) (op : BitVec 3) (slot : BitVec 10) (type : BitVec 4) : BitVec 6 :=
  if s.vlt.locked then kKeyLocked
  else if 5 ≤ op.toNat ∨ (op ≠ 4 ∧ slot.toNat < 2) then eOperand
  else if vltAllowed s w op slot ≠ 0 then vltAllowed s w op slot
  else if op = 4 then 0
  else if !vltRequires s op slot type then eOperand
  else if op ≠ 0 ∧ s.lockedMode w.half = true then eModeLocked
  else 0

/-- The 64 octets that an import reads, under the checks of R55 with LD, or the code of what failed (R519). -/
def vltFetch (s : State) (w : Writer) (snap : CapSnap) : State × Except (BitVec 6) (List Octet) :=
  let x : CrdXfer := ⟨0, snap, ⟨w.tenant, w.gen, gctx w.half w.ctx⟩, s.vlt.impOff, 0, 64, false, 0, []⟩
  if !snap.genOk then (s, .error eGeneration)
  else match crdCheck s x pLD 64 with
    | .error e => (s, .error e)
    | .ok a =>
      match crdRead snap.cap.tenant 16 s a with
      | (s, .error e) => (s, .error e)
      | (s, .ok l) => (s, .ok (octetsOfCells l))

/-- An operation is refused. -/
def vltRefuse (s : State) (w : Writer) (slot : BitVec 10) (code : BitVec 6) : State :=
  setVltRes s (gctx w.half w.ctx) ⟨3, code, slot⟩

/-- The slot's record is to be programmed; the result is pending (R518, R533). -/
def vltProgram (s : State) (w : Writer) (slot : BitVec 10) (r : VltSlot) : State :=
  let g := gctx w.half w.ctx
  storeAdd (setVltRes s g ⟨1, 0, slot⟩) ⟨.slot slot r (some g), w.half, false, false, false, false⟩

/-- An import that has been allowed (R519). -/
def vltImportGo (s : State) (w : Writer) (snap : CapSnap) (slot : BitVec 10) : State :=
  match vltFetch s w snap with
  | (s, .error e) => vltRefuse s w slot e
  | (s, .ok l) => vltProgram s w slot { vltLatest s slot with state := .filled, key := .octets l }

/-- Op 4 locks the vault at once (R520). -/
def vltLock (s : State) (w : Writer) (slot : BitVec 10) : State := setVltRes (vaultLock s 6) (gctx w.half w.ctx) ⟨2, 0, slot⟩

/-- An operation that has been allowed (R519). -/
def vltRun (s : State) (w : Writer) (snap : CapSnap) (op : BitVec 3) (slot : BitVec 10) (type : BitVec 4)
    (owner : BitVec 10) : State :=
  if op = 0 then vltProgram s w slot ⟨.assigned, type, owner, .empty⟩
  else if op = 1 then vltProgram s w slot { vltLatest s slot with state := .assigned, key := .empty }
  else if op = 2 then vltProgram s w slot VltSlot.zero
  else if op = 3 then vltImportGo s w snap slot
  else vltLock s w slot

/-- A write of VLT_GO (R519, R533). -/
def vltGoWrite (s : State) (w : Writer) (snap : CapSnap) (x : Cell) : State :=
  let op : BitVec 3 := fld x 32 3
  let type : BitVec 4 := fld x 28 4
  let owner : BitVec 10 := fld x 18 10
  let slot : BitVec 10 := fld x 0 10
  let s := { s with vlt := { s.vlt with op := op, type := type, owner := owner, slot := slot } }
  if !bit x 35 then s
  else
    let e := vltRefusal s w op slot type
    if e = 0 then vltRun s w snap op slot type owner else vltRefuse s w slot e

/-- A write at offset `o` of 0o052000 (R533). -/
def vltWrite (s : State) (w : Writer) (snap : CapSnap) (o : Nat) (x0 : Cell) : State :=
  if o = 2 then vltGoWrite s w snap x0
  else if o = 6 then { s with vlt := { s.vlt with impN := fld x0 34 2, impOff := fld x0 0 24 } }
  else s

/-- VLT_SLOTs as a context reads it (R533). -/
def vltSlotRead (s : State) (warden : Bool) (tenant : BitVec 10) (i : BitVec 10) : Cell :=
  let r := vltSlot s i
  if warden || r.owner == tenant then atBits (slotCode r.state) 34 ||| atBits r.type 30 ||| atBits r.owner 0 else 0

/-- A read at offset `o` of 0o052000 by a context (R533). -/
def vltRead (s : State) (warden : Bool) (tenant : BitVec 10) (g : BitVec 6) (o : Nat) : Option (Cell × Cell) :=
  let v := s.vlt
  if o = 0 then some (atBit v.locked 35 ||| atBit v.roots 34, 0)
  else if o = 2 then some (atBits v.op 32 ||| atBits v.type 28 ||| atBits v.owner 18 ||| atBits v.slot 0, 0)
  else if o = 4 then
    let r := sget VltRes.zero v.res g.toNat
    some (atBits r.state 34 ||| atBits r.code 28 ||| atBits r.slot 0, 0)
  else if o = 6 then some (atBits v.impN 34 ||| atBits v.impOff 0, 0)
  else if 0o1000 ≤ o ∧ o < 0o3000 then some (vltSlotRead s warden tenant (BitVec.ofNat 10 (o - 0o1000)), 0)
  else none

/-- The copy of Cn of a running context that an import carries (R519). -/
def vltSnap (s : State) (w : Writer) : CapSnap := s.snapCap w.half ((s.bank w.half w.ctx).cap s.vlt.impN)

/-- A VLT_GO written with go by the running context of half w. -/
def vltCommand (s : State) (w : HalfId) (op : BitVec 3) (slot : BitVec 10) (type : BitVec 4) (owner : BitVec 10) : State :=
  regCommand s w w false fun wr =>
    vltGoWrite s wr (vltSnap s wr) (atBit true 35 ||| atBits op 32 ||| atBits type 28 ||| atBits owner 18 ||| atBits slot 0)

/-- ASSIGN (R519). -/
def execAssign (w : HalfId) (slot : BitVec 10) (type : BitVec 4) (owner : BitVec 10) (s : State) :
    Host.Outcome State Fault Refusal := .next (vltCommand s w 0 slot type owner)

/-- ZEROISE (R519). -/
def execZeroise (w : HalfId) (slot : BitVec 10) (s : State) : Host.Outcome State Fault Refusal :=
  .next (vltCommand s w 1 slot 0 0)

/-- RELEASE (R519). -/
def execRelease (w : HalfId) (slot : BitVec 10) (s : State) : Host.Outcome State Fault Refusal :=
  .next (vltCommand s w 2 slot 0 0)

/-- IMPORT (R519). -/
def execVltImport (w : HalfId) (slot : BitVec 10) (s : State) : Host.Outcome State Fault Refusal :=
  .next (vltCommand s w 3 slot 0 0)

/-- LOCK_THE_VAULT (R519, R520). -/
def execLockTheVault (w : HalfId) (s : State) : Host.Outcome State Fault Refusal := .next (vltCommand s w 4 0 0 0)

end Sys2Proof.Machine
end

