-- ==== Sys2Proof/Machine/Trace.lean ====
section
/-! DEFINITION. Stimulus ports, trace packets and the debug registers that firmware reaches (R555, R571-R573, R576). -/

namespace Sys2Proof.Machine

/-- The debug unit changed. -/
def State.onDbg (s : State) (f : Dbg → Dbg) : State := { s with dbg := f s.dbg }

/-- Cell 0 of a packet (R572). -/
def packetHead (kind : BitVec 2) (h : HalfId) (port ctx : BitVec 5) (tenant : BitVec 10) (seq : BitVec 13) : Cell :=
  atBits kind 34 ||| atBit (h == .h1) 33 ||| atBits port 28 ||| atBits ctx 23 ||| atBits tenant 13 ||| atBits seq 0

/-- A packet joins the buffer, which is full at 256: with wrap the oldest goes (R573). -/
def Dbg.put (d : Dbg) (p : List Cell) : Dbg :=
  if d.buf.length < 256 then { d with buf := d.buf ++ [p] } else { d with buf := d.buf.drop 1 ++ [p], taken := 0 }

/-- The buffer has room for a packet and the overflow packet that must precede it (R573). -/
def Dbg.room (d : Dbg) : Bool := d.trcWrap || decide (d.buf.length + (if d.gap = 0 then 1 else 2) ≤ 256)

/-- The number of the next packet is used. -/
def Dbg.count (d : Dbg) : Dbg := { d with seq := d.seq + 1 }

/-- An overflow packet says how many were dropped; what its cell 0 says of a writer is not stated (R572, R573).
DESIGN CHOICE: log 87. -/
def overflowPacket (s : State) : State :=
  if s.dbg.gap = 0 then s
  else
    let w := Config.freeCell s.free
    let head := packetHead 2 (if bit w 33 then .h1 else .h0) (fld w 28 5) (fld w 23 5) (fld w 13 10) s.dbg.seq
    let p := [head, s.dbg.gap, fld s.evc.timeBase 0 36, fld s.evc.timeBase 36 36]
    s.draw.onDbg fun d => { (d.put p).count with gap := 0 }

/-- A packet that finds no room is dropped and counted (R573). DESIGN CHOICE: log 87. -/
def Dbg.drop (d : Dbg) : Dbg := { d.count with dropped := satInc d.dropped, gap := satInc d.gap }

/-- A write to a stimulus port forms one packet while trace is enabled (R571, R573). -/
def stimWrite (s : State) (w : Writer) (port : BitVec 5) (data : Cell) : State :=
  if !s.dbg.trcEn then s
  else if !s.dbg.room then s.onDbg Dbg.drop
  else
    let s := overflowPacket s
    let p := [packetHead 1 w.half port w.ctx w.tenant s.dbg.seq, data, fld s.evc.timeBase 0 36, fld s.evc.timeBase 36 36]
    s.onDbg fun d => (d.put p).count

/-- STIM (R571). -/
def execStim (w : HalfId) (port : BitVec 5) (data : Cell) (s : State) : Host.Outcome State Fault Refusal :=
  .next (regCommand s w w false fun wr => stimWrite s wr port data)

/-- TRACE_PACKET_SENT: the oldest packet has left on the trace port (R573). DESIGN CHOICE: log 87, 89. -/
def execTracePacketSent (s : State) : Host.Outcome State Fault Refusal :=
  .next (if s.dbg.trcPort && s.bnd.tieTrace && !s.isolated then s.onDbg fun d => { d with buf := d.buf.drop 1, taken := 0 } else s)

/-- A read of DBG_TRRD takes the next cell of the oldest packet (R573). DESIGN CHOICE: log 87. -/
def trrdRead (s : State) : State × Cell :=
  match s.dbg.buf with
  | [] => (s, 0)
  | p :: l =>
    let c := p.getD s.dbg.taken 0
    (s.onDbg fun d => if 3 ≤ d.taken then { d with buf := l, taken := 0 } else { d with taken := d.taken + 1 }, c)

/-- DBG_TRC.en may be set (R571). -/
def traceAllowed (s : State) : Bool := (s.cht.slot != 0 && bit (chtCell s 1 6) 1) || dbgOpen s.dbg

/-- A write of DBG_TRC (R571, R576). -/
def trcWrite (s : State) (x : Cell) : State :=
  s.onDbg fun d => { d with trcEn := bit x 35 && traceAllowed s, trcPort := bit x 34, trcWrap := bit x 33 }

/-- DBG_TRC (R576). -/
def trcCell (d : Dbg) : Cell := atBit d.trcEn 35 ||| atBit d.trcPort 34 ||| atBit d.trcWrap 33

/-- DBG_TRST (R576). -/
def trstCell (d : Dbg) : Cell := atBits d.dropped 24 ||| atBits (satOf 9 d.buf.length) 15 ||| atBits d.seq 0

/-- The lock state as DBG_STAT codes it (R576). -/
def lockCode : LockState → BitVec 2
  | .locked => 0
  | .armed => 1
  | .open_ => 2
  | .relock => 3

/-- Unlock is permitted by the charter (R556). -/
def unlockPermitted (s : State) : Bool := s.cht.slot != 0 && bit (chtCell s 1 6) 0

/-- DBG_STAT (R576). -/
def dbgStat (s : State) : Cell :=
  let d := s.dbg
  atBits (lockCode d.lock) 34 ||| atBit (attached s) 33 ||| atBit (unlockPermitted s) 32 |||
    atBit (s.mode .h1 == mHalt) 31 ||| atBit (s.mode .h0 == mHalt) 30 ||| atBit d.emulated 29 ||| atBit d.chalValid 28 |||
    atBits d.fails 16 ||| atBits d.unlocks 0

/-- A firmware read at offset `o` of 0o070000 (R555). -/
def dbgFwRead (s : State) (o : Nat) : Cell :=
  if o = 0 then dbgStat s else if o = 0o70 then trcCell s.dbg else if o = 0o71 then trstCell s.dbg else 0

/-- A firmware write at offset `o` of 0o070000 (R555). -/
def dbgFwWrite (s : State) (w : Writer) (o : Nat) (x : Cell) : State :=
  if o = 0o70 then trcWrite s x
  else if 0o1000 ≤ o ∧ o < 0o1040 then stimWrite s w (BitVec.ofNat 5 (o - 0o1000)) x
  else s

end Sys2Proof.Machine
end

