-- ==== Sys2Proof/Machine/Io.lean ====
section
/-! DEFINITION. Reads and writes of the I/O registers by a context (R23-R25, R66, R94-R97, R210). -/

namespace Sys2Proof.Machine

/-- Who reads a register: half, context, tenant and warden mode. -/
structure Reader where
  half : HalfId
  ctx : BitVec 5
  tenant : BitVec 10
  warden : Bool
deriving DecidableEq, Repr

/-- The global context of a reader. -/
def Reader.g (r : Reader) : BitVec 6 := gctx r.half r.ctx

/-- FEAT1 (R95). -/
def feat1 (s : State) : Cell :=
  atBit s.h1.up.injected 17 ||| atBit s.h0.up.injected 16 ||| atBit true 15 ||| atBit true 14 |||
    atBit s.bnd.tieTrace 13 ||| atBit s.bnd.tieFsync 12 ||| atBit s.bnd.tieSc7816 11 ||| atBit s.bnd.tieCard 10 |||
    atBits s.bnd.evin 0

/-- FEAT0-FEAT3 (R94-R97). -/
def featRead (s : State) (o : Nat) : Cell :=
  if o = 0 then 0o712713440100 else if o = 1 then feat1 s else if o = 2 then 0o222405120612 else 0o376374003777

/-- What a unit's read answers, or zero. -/
def orZero (s : State) (o : Option (Cell × Cell)) : State × Cell × Cell := (s, o.getD (0, 0))

/-- What a unit's read with an effect answers, or zero. -/
def orSame (s : State) (o : Option (State × Cell × Cell)) : State × Cell × Cell := o.getD (s, 0, 0)

/-- The units of 0o050000 to 0o057777 (R23, R333, R529). -/
def keepUnits (s : State) (r : Reader) (a : Nat) : State × Cell × Cell :=
  if a < 0o051000 then orZero s (kepRead s (a - 0o050000))
  else if a < 0o052000 then orSame s ((rngRead s r.half (a - 0o051000)).map fun x => (x.1, x.2, 0))
  else if a < 0o052100 ∨ (0o053000 ≤ a ∧ a < 0o055000) then orZero s (vltRead s r.warden r.tenant r.g (a - 0o052000))
  else if a < 0o056000 then orZero s (fltRead s r.g a)
  else orZero s (mctRead s r.g (a - 0o056000))

/-- A half-local register at its address below 0o140000 (R23); MEM_FAULT is the reader's own record (R226). -/
def halfRead (s : State) (h : HalfId) (r : Reader) (a : Nat) : State × Cell × Cell :=
  if a < 0o110000 then orZero s (tlyRead s h (a - 0o100000))
  else if a < 0o120000 then orZero s (schRead s h r.ctx (a - 0o110000))
  else if a < 0o130000 then orZero s (rknRead s h (a - 0o120000))
  else if a = 0o133776 then let x := recOf (s.ex r.half) r.ctx; (s, x.c0, x.c1)
  else if a < 0o134000 then orSame s (memRead s h r.ctx (a - 0o130000))
  else orZero s (spnRead s h (a - 0o134000))

/-- A register read at its even or only address: what is left, and its cells (R23, R24, R123). -/
def ioRead (s : State) (r : Reader) (a : Nat) : State × Cell × Cell :=
  if a < 0o010000 then (s, featRead s a, 0)
  else if a < 0o020000 then orZero s (evcRead s r.warden r.g (a - 0o010000))
  else if a < 0o030000 then orSame s (mbxRead s r.g (a - 0o020000))
  else if a < 0o040000 then orZero s (crdReadReg s (a - 0o030000))
  else if a < 0o050000 then orZero s (chtRead s (a - 0o040000))
  else if a < 0o060000 then keepUnits s r a
  else if a < 0o064000 then orZero s (dbkRead s r.half (a - 0o060000))
  else if a < 0o070000 then orZero s ((prtRead s (a - 0o064000)).map fun c => (c, 0))
  else if a < 0o100000 then (s, dbgFwRead s (a - 0o070000), 0)
  else if a < 0o140000 then halfRead s r.half r a
  else halfRead s r.half.other r (a - 0o040000)

/-- Writes of the units of 0o050000 to 0o057777. -/
def keepWrite (s : State) (w : Writer) (snap : CapSnap) (a : Nat) (x0 x1 : Cell) : State :=
  if a < 0o051000 then kepWrite s (a - 0o050000) x0 x1
  else if a < 0o052000 then (if a = 0o051002 then rngCtrlWrite s x0 else s)
  else if a < 0o052100 then vltWrite s w snap (a - 0o052000) x0
  else if a < 0o056000 then fltWrite s w a x0
  else mctWrite s w (a - 0o056000) x0

/-- A write of a half-local register at its address below 0o140000. -/
def halfWrite (s : State) (h : HalfId) (w : Writer) (a : Nat) (x0 x1 : Cell) : State :=
  if a < 0o110000 then tlyWrite s h (a - 0o100000) x0
  else if a < 0o120000 then schWrite s h (a - 0o110000) x0 x1
  else if a < 0o130000 then (if a = 0o120000 then rknOwnWrite s w h x0 else s)
  else if a < 0o134000 then memWrite s w h (a - 0o130000) x0 x1
  else spnWrite s h (a - 0o134000) x0 x1

/-- The absent copy of a capability: what a write that carries none brings. -/
def CapSnap.none : CapSnap := ⟨Cap.zero, false⟩

/-- A write that drains is accepted by its unit (R23, R24, R200). -/
def ioWrite (s : State) (w : Writer) (snap : CapSnap) (a : Nat) (x0 x1 : Cell) : State :=
  if a < 0o010000 then s
  else if a < 0o020000 then evcWrite s w (a - 0o010000) x0 x1
  else if a < 0o030000 then mbxWrite s w (a - 0o020000) x0 x1
  else if a < 0o040000 then crdWrite s w snap (a - 0o030000) x0 x1
  else if a < 0o050000 then chtWrite s w snap (a - 0o040000) x0 x1
  else if a < 0o060000 then keepWrite s w snap a x0 x1
  else if a < 0o064000 then dbkWrite s w (a - 0o060000) x0 x1
  else if a < 0o070000 then prtWrite s (a - 0o064000) x0
  else if a < 0o100000 then dbgFwWrite s w (a - 0o070000) x0
  else if a < 0o140000 then halfWrite s w.half w a x0 x1
  else halfWrite s w.half.other w (a - 0o040000) x0 x1

end Sys2Proof.Machine
end

