-- ==== Sys2Proof/Machine/InOut.lean ====
section
/-! DEFINITION. IN and OUT (R55, R115, R121-R123, R193, R210, R264-R269). -/

namespace Sys2Proof.Machine

/-! ## The register addressed -/

/-- The register at the effective address of an offset through C3 (R55, R100). -/
def ioAt (b : Bank) (off : Cell) : Option IoRun := ioRun (effAddr b.c3 off.toNat)

/-- The width in cells of the register at an offset; one where there is none (R100). DEDUCED: log 29. -/
def ioWidth (b : Bank) (off : Cell) : Nat := match ioAt b off with
  | none => 1
  | some r => if r.two then 2 else 1

/-- A tenant may not reach the register: it is warden-only, or DBK_PUT while tenant_put is 0 (R210, R538).
DEDUCED: log 31. -/
def ioWardenOnly (s : State) (b : Bank) (a : Nat) : Bool :=
  !stW b.status && (((ioRun a).map fun r => r.warden).getD false || (a == 0o060006 && !s.dbk.tenantPut))

/-- All steps of R55 and the check of R210 for an I/O access: the address and its register, or the fault.
DEDUCED: log 29. -/
def checkIo (s : State) (h : HalfId) (b : Bank) (perm : Nat) (off : Cell) : Except FaultInfo Nat :=
  let c := b.c3
  let ea := effAddr c off.toNat
  let acc : Access := ⟨3, spIo, perm, false, ioWidth b off⟩
  let odd := match ioAt b off with
    | none => false
    | some r => ioOdd r ea
  let st := capStatus c (s.genOk h c) acc off.toNat odd
  let st := if st ≠ 0 then st else ioMapped s h ea
  let st := if st ≠ 0 then st else if ioWardenOnly s b ea then eWardenOnly else 0
  if st ≠ 0 then .error (accessFault c acc ea st) else .ok ea

/-! ## IN -/

/-- An OUT of the context has not yet been accepted by its unit (R193). -/
def outPending (s : State) (h : HalfId) (k : BitVec 5) : Bool :=
  ((s.half h).win.sb.any fun e => e.writer.ctx == k &&
    (match e.target with
     | .io _ => true
     | _ => false)) ||
  ((s.half h).spn.out.any fun f => match f with
    | .ioWrite _ _ _ _ w _ => w.ctx == k
    | _ => false)

/-- The half's commons port is lost, and the address is behind it (R38). DEDUCED: log 28. -/
def portBlocks (s : State) (h : HalfId) (a : Nat) : Bool := decide (a < 0o100000) && (s.half h).tal.portLost

/-- The read has an effect at its target (R264). -/
def ioEffect (a : Nat) : Bool := ((ioRun a).map fun r => r.effect).getD false

/-- The cells of a read are pushed, the last on top (R123). -/
def inPush (b : Bank) (two : Bool) (v0 v1 : Cell) : Bank :=
  { b with ds := (if two then [v1, v0] else [v0]) ++ b.ds.drop 1 }

/-- The bitwise majority of three cells. -/
def majority3 (x y z : Cell) : Cell := x &&& y ||| x &&& z ||| y &&& z

/-- An exchange: the lanes' three samples, `d1` and `d2` time-base units apart, and their majority (R268).
DEDUCED: log 90. -/
def exchangeRead (s : State) (r : Reader) (a d1 d2 : Nat) : State × Cell × Cell :=
  let x := ioRead s r a
  let y := ioRead (advance x.1 d1) r a
  let z := ioRead (advance y.1 d2) r a
  (z.1, majority3 x.2.1 y.2.1 z.2.1, majority3 x.2.2 y.2.2 z.2.2)

/-- What an IN reads: in exchange mode the voted value, but a read with an effect is made once (R268, R269). -/
def inRead (b : Bank) (eff : Bool) (d1 d2 : Nat) (s : State) (r : Reader) (a : Nat) : State × Cell × Cell :=
  if b.tilmer && !eff then exchangeRead s r a d1 d2 else ioRead s r a

/-- IN's effect (R121, R123). -/
def runIn (d1 d2 : Nat) (s : State) (h : HalfId) (k : BitVec 5) (b : Bank) (dst : Pos) : Res :=
  match checkIo s h b pLD (b.at 0) with
  | .error f => .fault f
  | .ok a =>
    if outPending s h k || portBlocks s h a then .stall
    else
      let eff := ioEffect a
      match request s h k .io (cellOf a) eff fun s => inRead b eff d1 d2 s ⟨h, k, b.tenant, stW b.status⟩ a with
      | none => .clash
      | some (s, v0, v1) => .done { doneOf s (inPush b (ioWidth b (b.at 0) == 2) v0 v1) dst with close := eff }

/-- IN in a bank (R121). -/
def opIn (b : Bank) (d1 d2 : Nat) : Op :=
  ⟨0o54, .m, 1, ioWidth b (b.at 0), [0], ((ioAt b (b.at 0)).map fun r => r.effect).getD false, 1, runIn d1 d2⟩

/-- IN (R121). DEDUCED: log 28, 90. -/
def execInp (h : Sampling) (s : State) : Host.Outcome State Fault Refusal :=
  .next (runSlot s h.half (opIn (s.curBank h.half) h.d1 h.d2))

/-! ## OUT -/

/-- The cells that the address stands for are marked actuating (R7, R488). -/
def ioActuating (s : State) (a n : Nat) : Bool := (List.range n).any fun i => actuating s (a + i)

/-- What a register will hold once the OUTs before this one have drained. -/
def ioSoon (s : State) (h : HalfId) (a : IoAddr) (now : Cell) : Cell :=
  (((s.half h).win.sb.filterMap fun e => if e.target = .io a then some e.data else none).getLast?).getD now

/-- The write starts a write of NVM by a unit: an exchange of images, or a migration whose image lies in NVM (R299, R332). -/
def outNvm (s : State) (h : HalfId) (a : Nat) (x : Cell) : Bool :=
  let k := if ioFar a then h.other else h
  let n := if ioFar a then a - 0o040000 else a
  let m := (s.half k).spn.mig
  bit x 35 && (decide (0o130100 ≤ n ∧ n < 0o130140) ||
    (n == 0o134006 && migInNvm { m with c0 := ioSoon s h (BitVec.ofNat 16 (a - 2)) m.c0 }))

/-- The write carries an authority that the half's mode refuses (R6, R7, R115). DEDUCED: log 31. -/
def outLocked (s : State) (h : HalfId) (a n : Nat) (x : Cell) : Bool :=
  (s.lockedMode h && ((decide (0o056400 ≤ a ∧ a < 0o057000) && bit x 0) || (a == 0o052112 && bit x 35) || outNvm s h a x)) ||
    (s.runMode h == mReading && ioActuating s a n)

/-- The capability register that a start names for its unit to copy: the card port's, the charter update's, the vault
import's (R455, R500, R519). -/
def outSnapReg (s : State) (h : HalfId) (a : Nat) (x : Cell) : Option (BitVec 2) :=
  if a = 0o030006 then some (fld x 29 2)
  else if a = 0o040012 then some (fld (ioSoon s h 0o040010 (atBits s.cht.updN 34)) 34 2)
  else if a = 0o052002 then some (fld (ioSoon s h 0o052006 (atBits s.vlt.impN 34)) 34 2)
  else none

/-- The capability copy that a write carries. DEDUCED: log 30. -/
def outSnap (s : State) (h : HalfId) (b : Bank) (a : Nat) (x : Cell) : Option CapSnap :=
  (outSnapReg s h a x).map fun n => s.snapCap h (b.cap n)

/-- The store-buffer cells of a write (R194). -/
def outStores (a : Nat) (two : Bool) (x0 x1 : Cell) : List StoreCell :=
  if two then
    [⟨.io (BitVec.ofNat 16 a), x0, false, .first⟩, ⟨.io (BitVec.ofNat 16 (a + 1)), x1, false, .second⟩]
  else [⟨.io (BitVec.ofNat 16 a), x0, false, .single⟩]

/-- OUT's effect (R122, R123). -/
def runOut (s : State) (h : HalfId) (_ : BitVec 5) (b : Bank) (dst : Pos) : Res :=
  match checkIo s h b pST (b.at 0) with
  | .error f => .fault f
  | .ok a =>
    let two := ioWidth b (b.at 0) == 2
    let x0 := if two then b.at 2 else b.at 1
    let n := if two then 2 else 1
    if outLocked s h a n x0 then .fault (lockedFault 3 (BitVec.ofNat 24 a))
    else
      .done { doneOf s { b with ds := b.ds.drop (n + 1) } dst with
        stores := outStores a two x0 (b.at 1), snap := outSnap s h b a x0, close := true }

/-- OUT in a bank (R122). -/
def opOut (b : Bank) : Op :=
  ⟨0o55, .m, ioWidth b (b.at 0) + 1, 0, List.range (ioWidth b (b.at 0) + 1), false, 1, runOut⟩

/-- OUT (R122). DEDUCED: log 28. -/
def execOutp (h : HalfId) (s : State) : Host.Outcome State Fault Refusal := .next (runSlot s h (opOut (s.curBank h)))

end Sys2Proof.Machine
end

