-- ==== Sys2Proof/Machine/Flit.lean ====
section
/-! DEFINITION. What leaves a half: drains of the store buffer, the flits of the span and the recovery of the span
(R25, R31, R185, R200, R281, R287-R291, R297, R299, R305-R308, R310). -/

namespace Sys2Proof.Machine

/-! ## Drains (R49, R194, R200, R290, R297) -/

/-- The cell that an entry stores. -/
def SbEntry.cell (e : SbEntry) : TCell := ⟨e.data, e.tag⟩

/-- The oldest entry, with the entry linked to it, and the entries behind (R200). -/
def drainHead : List SbEntry → Option (SbEntry × Option SbEntry × List SbEntry)
  | e :: f :: l => if e.link = .first then some (e, some f, l) else some (e, none, f :: l)
  | [e] => some (e, none, [])
  | [] => none

/-- The data writes of an entry and of the one linked to it. -/
def dataWrites (e : SbEntry) (f : Option SbEntry) : List (Addr × BitVec 10 × TCell) :=
  ([e] ++ f.toList).filterMap fun e => match e.target with
    | .data a t => some (a, t, e.cell)
    | _ => none

/-- The place of the lane drain in the hierarchy is taken by a write that waits for a merge-buffer entry (R326, R335).
DEDUCED: log 41. -/
def laneWaits (m : MemUnit) : Bool := m.allocs.any fun w => w.lane

/-- The waits that a lane's write has added hold the lane's place. -/
def markLane (m : MemUnit) (n : Nat) : MemUnit :=
  { m with allocs := m.allocs.take n ++ (m.allocs.drop n).map fun w => { w with lane := true } }

/-- The half's own memory takes a drain (R325, R326). -/
def drainNear (s : State) (h : HalfId) (ws : List (Addr × BitVec 10 × TCell)) (r : ReadOutcome) : State :=
  let n := (s.half h).mem.allocs.length
  (homeWritesMeet s ws r).onMem h fun m => markLane m n

/-- A flit joins a half's outbound queue. -/
def sendFlit (s : State) (h : HalfId) (f : Flit) : State := s.onSpn h fun p => { p with out := p.out ++ [f] }

/-- An entry for a generation is still to be acknowledged by the other half: when the span goes DOWN it is accepted at once
(R297, R306). -/
def genInFlight (s : State) (h : HalfId) (t : BitVec 10) (g : BitVec 4) : Bool :=
  spanOpen s h && ((s.half h).spn.out.contains (.genUpdate t g) || (s.half h.other).spn.applyGen.contains (t, g, .update))

/-- A generation at the head of the store buffer goes to the other half, once; during a partition the tenant is marked
changed (R297, R308). -/
def offerGen (s : State) (h : HalfId) (t : BitVec 10) (g : BitVec 4) : State :=
  if (s.half h).spn.genSent = some (t, g) then s
  else
    let s := s.onSpn h fun p => { p with genSent := some (t, g) }
    if spanOpen s h then sendFlit s h (.genUpdate t g) else s.onSpn h fun p => { p with changed := p.changed ++ [t] }

/-- What an entry does before its target accepts it. -/
def offerEntry (s : State) (h : HalfId) (e : SbEntry) : State :=
  match e.target with
  | .gen t g => offerGen s h t g
  | _ => s

/-- The target accepts an entry now (R200): the other half acknowledges a generation (R297). -/
def accepts (s : State) (h : HalfId) (e : SbEntry) : Bool :=
  match e.target with
  | .data a _ => (farData h a || !laneWaits (s.half h).mem) && !(regionOf a == .retained && (s.half h).tal.portLost)
  | .io a => ioFar a.toNat || !portBlocks s h a.toNat
  | .gen t g => !genInFlight s h t g
  | .genAsk _ => true

/-- An accepted entry, with the entry linked to it, acts on its target (R49, R200, R290). -/
def takeEntry (s : State) (h : HalfId) (e : SbEntry) (f : Option SbEntry) (r : ReadOutcome) : State :=
  match e.target with
  | .data a _ => if farData h a then sendFlit s h (.write (dataWrites e f)) else drainNear s h (dataWrites e f) r
  | .io a =>
    let x1 := (f.map fun q => q.data).getD 0
    if ioFar a.toNat then sendFlit s h (.ioWrite a e.data x1 f.isSome e.writer e.snap)
    else ioWrite s e.writer (e.snap.getD CapSnap.none) a.toNat e.data x1
  | .gen _ _ => s.onSpn h fun p => { p with genSent := none }
  | .genAsk t => sendFlit s h (.genRequest t)

/-- The oldest entry is offered to its target, and freed once it is accepted. -/
def drainEntry (s : State) (h : HalfId) (e : SbEntry) (f : Option SbEntry) (l : List SbEntry) (r : ReadOutcome) : State :=
  let s := offerEntry s h e
  if accepts s h e then takeEntry (s.onWin h fun w => { w with sb := l }) h e f r else s

/-- STORE_DRAIN: the oldest entry of an agreed window leaves, if its target accepts it (R200). -/
def storeDrain (s : State) (h : HalfId) (r : ReadOutcome) : State :=
  if s.isolated then s
  else match drainHead (s.half h).win.sb with
    | none => s
    | some (e, f, l) => if e.agreed then fenceDone (drainEntry s h e f l r) h else s

/-! ## Flits (R25, R288-R291, R299) -/

/-- A request of the other half takes the span's place in the hierarchy (R290, R335). -/
def spanRequest (s : State) (h : HalfId) (a : Addr) (w : ArbWork) : State :=
  s.onMem h fun m => { m with arb := m.arb ++ [⟨.span, bankOf a, 0, 0, w, false⟩] }

/-- The reply to a remote read: its data is captured, unless the read has been voided (R290, R306). -/
def takeReply (s : State) (h : HalfId) (id : Nat) (v : TCell) (bad : Bool) : State :=
  s.onEx h fun e => { e with
    reads := e.reads.map fun r =>
      if r.remote = some id ∧ r.granted = false then { r with granted := true, data := v, failed := bad } else r }

/-- A change of a tenant's generation or home waits for the close that it forces (R297, R299). -/
def queueGen (s : State) (h : HalfId) (t : BitVec 10) (g : BitVec 4) (k : GenKind) : State :=
  s.onSpn h fun p => { p with applyGen := p.applyGen ++ [(t, g, k)] }

/-- A half applies a flit of the other half (R288-R291). -/
def applyFlit (s : State) (h : HalfId) : Flit → State
  | .read a t id => spanRequest s h a (.remoteRead a t id)
  | .reply id v bad => takeReply s h id v bad
  | .write ws => match ws with
    | [] => s
    | w :: _ => spanRequest s h w.1 (.writes ws)
  | .ioWrite a x0 x1 _ w snap => ioWrite s w (snap.getD CapSnap.none) a.toNat x0 x1
  | .lineNotice line => lineNotice s h line
  | .genUpdate t g => queueGen s h t g .update
  | .genAnswer t g => queueGen s h t g .answer
  | .genRequest t => queueGen s h t 0 .request
  | .migrate t g => queueGen s h t g .migrate
  | .migrateAck t g => queueGen s h t g .ack

/-- The copies of a flit that pass their CRC are usable: at least one path that is up carries a good one, and two good
ones agree (R288). -/
def flitTaken (p : SpanEnd) (goodA goodB same : Bool) : Bool :=
  let a := p.pa.up && goodA
  let b := p.pb.up && goodB
  (a || b) && (!(a && b) || same)

/-- The CRC failures of a flit's copies are counted on the paths that carry them (R289, R295). -/
def flitFails (s : State) (h : HalfId) (goodA goodB : Bool) : State :=
  let p := (s.half h).spn
  let s := if p.pa.up && !goodA then pathFail s h false else s
  if p.pb.up && !goodB then pathFail s h true else s

/-- A flit is rejected: the receiver asks for a replay (R288, R295). -/
def flitReject (s : State) (h : HalfId) : State :=
  s.onSpn h fun p => { p with retries := satInc p.retries, replay := true }

/-- FLIT_RECEIVE: half h receives the oldest flit that the other half has sent and it has not applied (R288).
DEDUCED: log 51. -/
def flitReceive (s : State) (h : HalfId) (goodA goodB same : Bool) : State :=
  let p := (s.half h).spn
  if s.isolated || !spanOpen s h || !spanOpen s h.other || p.replay || s.mode h == mOff then s
  else match (s.half h.other).spn.out with
    | [] => s
    | f :: _ =>
      let s' := flitFails s h goodA goodB
      if flitTaken p goodA goodB same then
        applyFlit (s'.onSpn h.other fun q => { q with out := q.out.erase f }) h f
      else flitReject s' h

/-! ## Recovery (R310) -/

/-- Half h's migration that did not reach the other half is refused (R310 step 2). -/
def refuseMigration (s : State) (h : HalfId) (t : BitVec 10) : State :=
  s.onSpn h fun p =>
    if p.mig.state = 1 ∧ p.mig.tenant = t then { p with mig := { p.mig with state := 3, code := eSpanDown } } else p

/-- A flit of the replay buffer of half h is applied by the other half at Recovery (R306, R310 step 1). -/
def recoverFlit (h : HalfId) (s : State) : Flit → State
  | .write ws => homeWrites s ws
  | .ioWrite a x0 x1 _ w snap => ioWrite s w (snap.getD CapSnap.none) a.toNat x0 x1
  | .genRequest t => queueGen s h.other t 0 .request
  | .migrate t _ => refuseMigration s h t
  | _ => s

/-- Half h resends its replay buffer (R310 step 1). DEDUCED: log 49. -/
def resend (s : State) (h : HalfId) : State :=
  let l := (s.half h).spn.out
  l.foldl (recoverFlit h) (s.onSpn h fun p => { p with out := [], replay := false })

/-- What a half had been sent and not applied: a request of the other half stays, a migration's step 1 is refused in its
source, and the tables that are exchanged replace the rest (R310 step 2). DEDUCED: log 49. -/
def recoverQueue (s : State) (h : HalfId) : State :=
  let l := (s.half h).spn.applyGen
  let s := l.foldl (fun s e => if e.2.2 = .migrate then refuseMigration s h.other e.1 else s) s
  s.onSpn h fun p => { p with applyGen := p.applyGen.filter fun e => e.2.2 == .request }

/-- A half adopts the exchanged tables in itself and in its copy in the commons store, and completes a migration whose
step 1 did apply (R310 steps 2 and 3). -/
def adopt (s : State) (h : HalfId) (t : TenantTables) : State :=
  s.onSpn h fun p => { p with tables := t, store := t, changed := [], mig := { p.mig with acked := p.mig.acked || p.mig.state == 1 } }

/-- Line buffers and fill registers that hold a line of the other half's NVM are marked stale (R310 step 4). -/
def staleFar (s : State) (h : HalfId) : State :=
  s.onHalf h fun x => { x with line := x.line.staleIf fun n => n / 131072 == h.other.toNat }

/-- The state of a recovered span (R310 step 5). -/
def recovered (s : State) (h : HalfId) : State :=
  let p := (s.half h).spn
  spanTo s h (if p.pa.up && p.pb.up then spUp else spDegraded)

/-- SPAN_RECOVERY_COMPLETE: both halves' spans are recovering, and the five steps run (R310). DEDUCED: log 49. -/
def spanRecovery (s : State) : State :=
  if s.h0.spn.state = spRecovering ∧ s.h1.spn.state = spRecovering then
    let s := recoverQueue (recoverQueue s .h0) .h1
    let s := resend (resend s .h0) .h1
    let t := adoptTables s.h0.spn.tables s.h1.spn.tables
    let s := adopt (adopt s .h0 t) .h1 t
    witnessClose (recovered (recovered (staleFar (staleFar s .h0) .h1) .h0) .h1)
  else s

end Sys2Proof.Machine
end

