-- ==== Sys2Proof/Machine/Repeat.lean ====
section
/-! DEFINITION. The simple slot instructions by opcode, and the prefixes REP and REPU that repeat them
(R73, R77-R79, R167-R169). -/

namespace Sys2Proof.Machine

/-! ## Simple opcodes (R73, R74) -/

/-- The simple instructions 0o00-0o17. -/
def lowOp (code : Nat) : Option Op :=
  match code with
  | 0o00 => some opNop | 0o01 => some opDup | 0o02 => some opDrop | 0o03 => some opSwap
  | 0o04 => some opOver | 0o05 => some opRot | 0o06 => some opNip | 0o07 => some opTuck
  | 0o10 => some opAdd | 0o11 => some opSub | 0o12 => some opAnd | 0o13 => some opOr
  | 0o14 => some opXor | 0o15 => some opNot | 0o16 => some opNeg | 0o17 => some opAddc
  | _ => none

/-- The simple instructions 0o20-0o37. -/
def midOp (code : Nat) : Option Op :=
  match code with
  | 0o20 => some opShl | 0o21 => some opShr | 0o22 => some opSar | 0o23 => some opRol
  | 0o24 => some opEq | 0o25 => some opLt | 0o26 => some opUlt | 0o27 => some opZeq
  | 0o30 => some opMul | 0o31 => some opDivm | 0o32 => some opUdivm | 0o33 => some opPk12
  | 0o34 => some opUp12 | 0o35 => some opOget | 0o36 => some opOput | 0o37 => some opTor
  | _ => none

/-- The simple instructions 0o40-0o57, IN and OUT as a bank has them. -/
def memOp (code : Nat) (b : Bank) : Option Op :=
  match code with
  | 0o40 => some (opLdn 0) | 0o41 => some (opLdn 1) | 0o42 => some (opLdn 2) | 0o43 => some (opLdn 3)
  | 0o44 => some (opStn 0) | 0o45 => some (opStn 1) | 0o46 => some (opStn 2) | 0o47 => some (opStn 3)
  | 0o50 => some (opCld []) | 0o51 => some opCst | 0o52 => some opCnar | 0o53 => some opCget
  | 0o54 => some (opIn b 0 0) | 0o55 => some (opOut b) | 0o56 => some opIfetch | 0o57 => some opFromr
  | _ => none

/-- The simple instruction of class L, A, A-long or M that an opcode names (R73, R78). -/
def simpleOp (code : BitVec 6) (b : Bank) : Option Op :=
  let n := code.toNat
  if n < 0o20 then lowOp n else if n < 0o40 then midOp n else memOp n b

/-! ## Prefixes (R77-R79, R167-R169) -/

/-- Where an iteration of a prefix stands: the prefix's position, the target's, and the position after it. -/
structure RepPlace where
  prefixAt : Pos
  target : Pos
  after : Pos

/-- A bank that repeats `n` more times (R169). -/
def Bank.repeats (b : Bank) (n : Nat) : Bank :=
  if n = 0 then { b with repActive := false, repLeft := 0 } else { b with repActive := true, repLeft := BitVec.ofNat 24 n }

/-- The retirement of an iteration, with `n` iterations left after it: while one is left the prefix's position stays
(R167, R169). -/
def repRetire (d : Done) (pl : RepPlace) (first : Option Bank) (n : Nat) (h : HalfId) (uninterrupted : Bool) : Done :=
  { d with
    s := if uninterrupted then d.s.onEx h fun e => { e with repu := decide (n ≠ 0) } else d.s
    b := d.b.repeats n
    dst := if n = 0 then pl.after else pl.prefixAt
    iter := some ⟨pl.target, first⟩ }

/-- One iteration of the target in a bank from which the prefix has taken its count; `n` iterations remain with it
(R168, R169). -/
def repIterate (o : Op) (s : State) (h : HalfId) (k : BitVec 5) (b : Bank) (pl : RepPlace) (first : Option Bank)
    (n : Nat) (uninterrupted : Bool) : Res :=
  match runChecked o s h k { b with repActive := false, repLeft := 0 } pl.after with
  | .fault f => .iterFault s (b.repeats n) f pl.target
  | .faultIn s' f => .iterFault s' (b.repeats n) f pl.target
  | .done d => .done (repRetire d pl first (n - 1) h uninterrupted)
  | r => r

/-- A prefix with a count that has been taken: iterations, or none at all (R77). -/
def repRun (target : BitVec 6) (s : State) (h : HalfId) (k : BitVec 5) (b : Bank) (pl : RepPlace) (first : Bool) (n : Nat)
    (uninterrupted : Bool) : Res :=
  match simpleOp target b with
  | none => .stall
  | some o =>
    if n = 0 then .done (doneOf s (b.repeats 0) pl.after)
    else repIterate o s h k b pl (if first then some b else none) n uninterrupted

/-- REP's effect: the count of a first iteration is popped, that of a resumed one stands in the bank (R77, R167, R169). -/
def runRep (target : BitVec 6) (s : State) (h : HalfId) (k : BitVec 5) (b : Bank) (dst : Pos) : Res :=
  let pl : RepPlace := ⟨b.resume, slotsOn b.resume 1, dst⟩
  if b.repActive then repRun target s h k b pl false b.repLeft.toNat false
  else if 2 ^ 24 ≤ (b.at 0).toNat then .fault (illegal eOperand 0o70)
  else repRun target s h k { b with ds := b.ds.drop 1 } pl true (b.at 0).toNat false

/-- REPU's effect (R77, R169). -/
def runRepu (count : BitVec 6) (target : BitVec 6) (s : State) (h : HalfId) (k : BitVec 5) (b : Bank) (dst : Pos) : Res :=
  let pl : RepPlace := ⟨b.resume, slotsOn b.resume 2, dst⟩
  if b.repActive then repRun target s h k b pl false b.repLeft.toNat true
  else repRun target s h k b pl true count.toNat true

/-- The target's isolation in a bank (R264). -/
def targetIsolated (target : BitVec 6) (b : Bank) : Bool := ((simpleOp target b).map fun o => o.isolated).getD false

/-- REP in a bank. -/
def opRep (target : BitVec 6) (b : Bank) : Op :=
  let b1 := if b.repActive then b else { b with ds := b.ds.drop 1 }
  ⟨0o70, .s, if b.repActive then 0 else 1, 0, if b.repActive then [] else [0], targetIsolated target b1,
    if b.repActive then 1 else 2, runRep target⟩

/-- REPU in a bank. -/
def opRepu (count : BitVec 6) (target : BitVec 6) (b : Bank) : Op :=
  ⟨0o71, .s, 0, 0, [], targetIsolated target b, if b.repActive then 1 else 2, runRepu count target⟩

/-- A forbidden target is ILLEGAL at the prefix (R78). -/
def targetEnc (target : BitVec 6) (_ : BitVec 5) (b : Bank) : Option FaultInfo :=
  if (simpleOp target b).isSome then none else some (illegal eEncoding target)

/-- The form of REP: slots 0-4, the slot after the target follows (R74). -/
def repForm : Form := ⟨fun p => roomFor p 1, fun p => slotsOn p 2, none⟩

/-- The form of REPU: slots 0-3 (R74). -/
def repuForm : Form := ⟨fun p => roomFor p 2, fun p => slotsOn p 3, none⟩

/-- REP, one iteration of its target at a time (R77, R167-R169). DEDUCED: log 22. -/
def execRep (h : HalfId) (target : BitVec 6) (s : State) : Host.Outcome State Fault Refusal :=
  .next (attempt s h repForm true (targetEnc target) (opRep target (s.curBank h)))

/-- REPU, one iteration of its target at a time (R77, R168, R169). DEDUCED: log 22. -/
def execRepu (h : HalfId) (count target : BitVec 6) (s : State) : Host.Outcome State Fault Refusal :=
  .next (attempt s h repuForm true (targetEnc target) (opRepu count target (s.curBank h)))

end Sys2Proof.Machine
end

