-- ==== Sys2Proof/Machine/Feed.lean ====
section
/-! DEFINITION. Code words fed to a halted half: their decoding and their execution as voted windows (R70-R89, R566,
R567). -/

namespace Sys2Proof.Machine

/-! ## Decoding (R70-R75, R86-R88) -/

/-- Slot i of a code word, 0 past its end (R70). -/
def wordSlot (w : Cell) (i : Nat) : BitVec 6 := if i ≤ 5 then fld w (30 - 6 * i) 6 else 0

/-- What a slot of a code word spells: an encoding fault, or an instruction with its form and its own encoding check. -/
inductive Spelled where
  | bad (f : FaultInfo)
  | op (form : Form) (enc : BitVec 5 → Bank → Option FaultInfo) (o : Op)

/-- A simple instruction. -/
def Spelled.simple (o : Op) : Spelled := .op simpleForm noEnc o

/-- The EXT selectors that any mode may run (R134-R148). -/
def extOpen (x : BitVec 6) : Option Op :=
  match x.toNat with
  | 0o00 => some opClz | 0o01 => some opPopc | 0o02 => some opXch | 0o03 => some opXget | 0o04 => some opXput
  | 0o10 => some opSpilld | 0o11 => some (opFilld []) | 0o12 => some opSpillt | 0o13 => some (opFillt [])
  | 0o14 => some opDepth | 0o15 => some opRdepth | 0o20 => some opGetst | 0o22 => some (opReti 0)
  | 0o23 => some (opYield 0) | 0o24 => some opFence | 0o30 => some opLease | 0o31 => some opUnlease
  | 0o32 => some opTenant | 0o33 => some (opTimel 0) | 0o34 => some opTimeh | 0o35 => some opFleetchk
  | 0o42 => some opCinv
  | _ => none

/-- The warden-only EXT selectors (R86). -/
def extWarden (x : BitVec 6) : Option Op :=
  match x.toNat with
  | 0o21 => some opSetst | 0o40 => some opSeal | 0o41 => some opUnseal | 0o43 => some opCrevoke
  | 0o50 => some (opCtxld []) | 0o51 => some opCtxsv
  | _ => none

/-- EXT with a selector. -/
def spellExt (x : BitVec 6) : Spelled :=
  match extOpen x, extWarden x with
  | some o, _ => .op (selectorForm 0o75) noEnc o
  | none, some o => .op (selectorForm 0o75) (wardenEnc x) o
  | none, none => .op (selectorForm 0o75) (illEnc x) (opIll x)

/-- The operands that an RK command pops (R355, R356). -/
def rkPops (x : BitVec 6) : Option Nat :=
  match x.toNat with
  | 0o02 => some 1 | 0o03 => some 1 | 0o04 => some 0 | 0o10 => some 3 | 0o11 => some 3 | 0o12 => some 2 | 0o13 => some 5
  | 0o14 => some 5 | 0o15 => some 2 | 0o16 => some 2 | 0o17 => some 4 | 0o20 => some 3 | 0o21 => some 3 | 0o22 => some 1
  | 0o23 => some 1 | 0o24 => some 1 | 0o30 => some 1 | 0o31 => some 1 | 0o32 => some 1 | 0o40 => some 2 | 0o41 => some 2
  | 0o42 => some 2 | 0o43 => some 2 | 0o44 => some 2 | 0o45 => some 2 | 0o50 => some 2 | 0o51 => some 2 | 0o60 => some 2
  | 0o61 => some 2 | 0o62 => some 2 | 0o63 => some 2 | 0o64 => some 2 | 0o65 => some 2
  | _ => none

/-- RK with a selector; SYNC may not be fed (R88, R567). -/
def spellRk (x : BitVec 6) : Spelled :=
  if x = 1 then .op (selectorForm 0o73) noEnc opStat
  else match rkPops x with
    | some n => .op (selectorForm 0o73) (if x = 2 ∨ x = 3 then wardenEnc x else noEnc) (opRk x n)
    | none => .op (selectorForm 0o73) (illEnc x) (opIll x)

/-- A transfer or literal of opcodes 0o60 to 0o67 at a slot; LIT in slot 5 may not be fed (R83, R567). -/
def spellLong (w : Cell) (i : Nat) : Spelled :=
  let a : Addr := fld w 0 24
  let f : BitVec 30 := fld w 0 30
  let n := wordSlot w (i + 1)
  match (wordSlot w i).toNat with
  | 0o60 => .op jmpForm (jmpEnc n) (opJmp a)
  | 0o61 => .op longForm noEnc (opBranch 0o61 true f)
  | 0o62 => .op longForm noEnc (opBranch 0o62 false f)
  | 0o63 => .op callForm (maskEnc 0o63 n) (opCall n a)
  | 0o64 => .op calliForm (maskEnc 0o64 n) (opCalli n)
  | 0o65 => .simple opRet
  | 0o66 => if i = 5 then .bad (illegal eEncoding 0o66) else .op litForm noEnc (opLit w)
  | _ => .op longForm noEnc (opLith f)

/-- The instruction at slot i of a fed word, in a bank; LOOP and WAIT may not be fed (R567). DEDUCED: log 86. -/
def spell (w : Cell) (i : Nat) (b : Bank) : Spelled :=
  let c := wordSlot w i
  let n := wordSlot w (i + 1)
  let m := wordSlot w (i + 2)
  match simpleOp c b with
  | some o => .simple o
  | none =>
    if 0o60 ≤ c.toNat ∧ c.toNat < 0o70 then spellLong w i
    else match c.toNat with
      | 0o70 => .op repForm (targetEnc n) (opRep n b)
      | 0o71 => .op repuForm (targetEnc m) (opRepu n m b)
      | 0o73 => spellRk n
      | 0o75 => spellExt n
      | 0o76 => .op (selectorForm 0o76) noEnc (opTrap n)
      | _ => .bad (illegal eEncoding c)

/-! ## How a fed word ends (R567) -/

/-- DBG_FEEDST after a word that is done. -/
def fedDone (b : Bank) : Pair := ⟨atBits (4 : BitVec 3) 33, b.ds.headD 0⟩

/-- DBG_FEEDST after a fault. -/
def fedFaulted (f : FaultInfo) : Pair := ⟨atBits (5 : BitVec 3) 33 ||| atBits f.cause 29 ||| atBits f.status 23, 0⟩

/-- The window of a fed word closes, if it may. -/
def fedClose (s : State) (h : HalfId) : State := if closeBlocked s h then s else closeRaw s h false

/-- The fed word has ended, with what DBG_FEEDST will read once it has been voted. -/
def fedEnd (s : State) (h : HalfId) (f : Fed) (r : Pair) : State :=
  fedClose (s.onEx h fun e => { e with fed := some { f with result := some r }, groupOpen := none, repu := false }) h

/-- The context's bank after the word, where no transfer took it: the resume position, the repeat register and W are its
own again. -/
def Fed.give (f : Fed) (b : Bank) : Bank :=
  { b with resume := f.home, repActive := f.rep.1, repLeft := f.rep.2, status := setBit b.status 35 f.wasW }

/-- A fault in the word: no handler is entered, the record is written, and the status copied (R230, R567).
DEDUCED: log 86. -/
def fedFault (s : State) (h : HalfId) (f : Fed) (g : FaultInfo) (imprecise : Bool) (p : Pos) : State :=
  fedEnd ((setRec s h f.ctx (recordOf g imprecise p)).onBank h f.ctx f.give) h f (fedFaulted g)

/-- Every slot has retired (R567). -/
def fedWhole (s : State) (h : HalfId) (f : Fed) : State :=
  let s := s.onBank h f.ctx f.give
  fedEnd s h f (fedDone (s.bank h f.ctx))

/-- A taken transfer: its target is the resume position; RETI and CINV bring the status they restore (R567). -/
def fedTransfer (s : State) (h : HalfId) (f : Fed) (o : Op) (d : Done) : State :=
  let s := s.onBank h f.ctx fun b =>
    { b with resume := d.dst, status := if o.code.toNat < 0o60 then b.status else setBit b.status 35 f.wasW }
  let s := match d.after with
    | .unwind => debugReturn s h f.ctx
    | _ => s
  let s := fedEnd s h f (fedDone (s.bank h f.ctx))
  match d.after with
  | .unwind => if (s.ex h).running = some f.ctx then unwind s h else s
  | _ => s

/-! ## Reads of a fed word -/

/-- The hierarchy and the span are rid of the half's lane reads. -/
def dropReads (s : State) (h : HalfId) : State :=
  let s := s.onMem h fun m => { m with arb := m.arb.filter fun r => r.source != .laneRead }
  let s := s.onSpn h fun p => { p with out := p.out.filter fun f => match f with
    | .read _ _ _ => false
    | _ => true }
  s.onEx h fun e => { e with reads := [] }

/-- The data of the word's read is delivered before its next slot; the fault of a read that fails (R225). -/
def fedRead (s : State) (h : HalfId) (k : BitVec 5) : State × Option (FaultInfo × Pos) :=
  match (s.ex h).reads with
  | [] => (s, none)
  | o :: _ =>
    let s := dropReads s h
    let r := if o.granted then (s, ReadRes.ok o.data) else homeRead (perfAccess s o.addr true) o.addr o.tenant .clean
    match r with
    | (s, .ok c) => ((s.onBank h k fun b => b.setPlace o.place c.val).onWin h fun w => w.fillItems o.place c.val, none)
    | (s, _) =>
      let v := Config.freeCell s.free
      (((s.onBank h k fun b => b.setPlace o.place v).onWin h fun w => w.fillItems o.place v).draw,
       some (⟨cBus, readFailStatus o.addr, o.reg, o.info, false⟩, o.at_))

/-! ## Slots of a fed word -/

/-- What the loop over a word's slots does next. -/
inductive FedNext where
  /-- The next slot follows. -/
  | go (s : State) (f : Fed)
  /-- The word has ended, or waits for its window. -/
  | stop (s : State)

/-- The word waits: its window closes so that what it waits for can happen. -/
def fedPause (s : State) (h : HalfId) (f : Fed) : State := fedClose (s.onEx h fun e => { e with fed := some f }) h

/-- The slot after a retirement in the same word, 6 when there is none. -/
def fedSlot (p dst : Pos) : Nat := if dst.addr = p.addr then dst.slot.toNat else 6

/-- A YIELD of the running context ends its entry. -/
def fedYield (s : State) (h : HalfId) (k : BitVec 5) : After → State
  | .yield used => if (s.ex h).running = some k then yieldEntry s h k used else s
  | _ => s

/-- The word goes on after a slot; a group of a CTXSV has its window, and a FENCE or CREVOKE waits (R567, R594). -/
def fedOn (s : State) (h : HalfId) (f : Fed) (p : Pos) (d : Done) : FedNext :=
  let f := { f with slot := fedSlot p d.dst }
  let s := if f.slot ≤ 5 then s.onBank h f.ctx fun b => { b with resume := ⟨p.addr, BitVec.ofNat 3 f.slot⟩ } else s
  if d.group || (s.ex h).fencing || (s.ex h).revoking.isSome then .stop (fedPause s h f) else .go s f

/-- A slot of the word retires (R247, R567). -/
def fedRetire (s : State) (h : HalfId) (f : Fed) (wr : Writer) (p : Pos) (o : Op) (d : Done) : FedNext :=
  let s := signSlots (s.setBank h f.ctx d.b) h p d
  let s := putStores s h wr d.snap d.stores
  match fedRead s h f.ctx with
  | (s, some (g, q)) => .stop (fedFault s h f g true q)
  | (s, none) =>
    match d.arith, d.after with
    | some z, _ =>
      .stop (fedFault s h f (faultOf cArith (if z then eDivideZero else eOverflow) 0) (!stPrec d.b.status) p)
    | none, .fault g imprecise => .stop (fedFault s h f g imprecise p)
    | none, a => if d.taken then .stop (fedTransfer s h f o d) else fedOn (fedYield s h f.ctx a) h f p d

/-- A slot of the word has run. -/
def fedSettleRes (s : State) (h : HalfId) (f : Fed) (wr : Writer) (p : Pos) (o : Op) : Res → FedNext
  | .fault g => .stop (fedFault s h f g false p)
  | .faultIn s' g => .stop (fedFault s' h f g false p)
  | .iterFault s' b g q => .stop (fedFault (s'.setBank h f.ctx b) h f g false q)
  | .stall => .stop (fedPause s h f)
  | .bus _ => .stop (fedPause s h f)
  | .clash => .stop (clashClose s h)
  | .lost g =>
    let s := fedFault s h f g false p
    .stop (contextLost s h f.ctx (recordOf g false p))
  | .whole s' => .stop s'
  | .done d =>
    if storesOverflow (s.half h).win d.stores || !storesFit s h d.stores then .stop (fedPause s h f)
    else fedRetire d.s h f wr p o d

/-- One slot of the word (R74, R75, R101). -/
def fedStep (s : State) (h : HalfId) (f : Fed) : FedNext :=
  let b := s.bank h f.ctx
  let p := b.resume
  if 6 ≤ f.slot then .stop (fedWhole s h f)
  else if windowFull (s.half h).win then .stop (fedPause s h f)
  else match spell f.word f.slot b with
    | .bad g => .stop (fedFault s h f g false p)
    | .op form enc o =>
      if !form.fits p then .stop (fedFault s h f (illegal eEncoding (form.opcode.getD o.code)) false p)
      else match enc f.ctx b with
        | some g => .stop (fedFault s h f g false p)
        | none =>
          fedSettleRes s h f ⟨h, f.ctx, b.tenant, s.genOf h b.tenant, stW b.status⟩ p o
            (runChecked o s h f.ctx b (form.next p))

/-- The slots of the word, as many as a window holds. -/
def fedLoop (h : HalfId) : Nat → State → Fed → State
  | 0, s, f => fedPause s h f
  | n + 1, s, f => match fedStep s h f with
    | .stop s => s
    | .go s f => fedLoop h n s f

/-- A fed word under way goes on: no rollback holds the lanes, and the window in progress is its own (R566).
DEDUCED: log 86. -/
def fedRun (s : State) (h : HalfId) : State :=
  match (s.ex h).fed with
  | none => s
  | some f =>
    let e := s.ex h
    if f.result.isSome || (s.half h).win.redo.isSome || e.fencing || e.revoking.isSome || !closeRoom s h 1 then s
    else fedLoop h 2052 s f

/-- A code word starts in the bank of context k of a half (R566): the bookmark of its close holds it as its input.
DEDUCED: log 86. -/
def fedBegin (s : State) (h : HalfId) (k : BitVec 5) (warden : Bool) (w : Cell) : State :=
  let b := s.bank h k
  let f : Fed := ⟨k, w, warden, stW b.status, b.resume, (b.repActive, b.repLeft), 0, none⟩
  let s := s.onBank h k fun b => { b with
    status := setBit b.status 35 (stW b.status || warden), repActive := false, repLeft := 0, resume := ⟨b.resume.addr, 0⟩ }
  fedRun (firstMark (s.onEx h fun e => { e with fed := some f }) h) h

end Sys2Proof.Machine
end

