-- ==== Sys2Proof/Machine/Debug.lean ====
section
/-! DEFINITION. The debug unit: the scan register and the registers behind it, unlocking, attachment, halt, step and
breakpoints, feeding, memory and mailbox access, and the fuse array (R553-R576, R592). What a fed word waits for, a
verdict, a restart or a drain, is commanded here. -/

namespace Sys2Proof.Machine

/-! ## Attachment (R561, R562, R574) -/

/-- Attachment has changed since a state: source 237; an end of it withdraws PRT, and completes an emulated KEEP
(R547, R561, R562). -/
def attachChange (s t : State) : State :=
  if attached s = attached t then t
  else
    let t := raiseSource t 237
    if attached t then t
    else
      let t := prtCheck t
      if t.dbg.emulated then keepEnter t else t

/-! ## Resume and step (R564) -/

/-- A halted half returns to its mode before HALT, and what waited for it goes on (R362, R460, R563-R565). -/
def resumeNow (s : State) (h : HalfId) : State :=
  let s := setMode s h (s.ex h).modeBefore
  let s := (s.onEx h fun e => { e with dbgSkip := true }).onDbgHalf h fun d => { d with resume := false }
  storePump (dbkKick (completeIdle (crdResume s h) h) h)

/-- A selected half that is halted resumes, for a step of `n` slots or for good; a fed word under way comes first. -/
def resumeHalf (s : State) (h : HalfId) (n : Option Nat) : State :=
  if s.mode h ≠ mHalt then s
  else
    let s := s.onDbgHalf h fun _ => ⟨false, n, true⟩
    if (s.ex h).fed.isSome then s else resumeNow s h

/-- A selected half is marked, and halts at its next agreed close; a half that is held in reset is not marked (R563).
DEDUCED: log 84. -/
def haltHalf (s : State) (h : HalfId) : State :=
  if s.running h ∨ s.mode h = mKeep then tryHalt (s.onDbgHalf h fun d => { d with halt := true }) h else s

/-! ## The end of a fed word (R566, R567) -/

/-- A fed word that has ended and been voted: DBG_FEEDST reads its outcome, and what waited for it acts.
DEDUCED: log 86. -/
def fedSettle (s : State) (h : HalfId) : State :=
  match (s.ex h).fed with
  | none => s
  | some f => match f.result with
    | none => s
    | some r =>
      if agreedClose s h then
        let t := firstMark ((s.onDbg fun d => { d with feedSt := r }).onEx h fun e => { e with fed := none }) h
        let t := attachChange s t
        if (t.dbgHalf h).resume then resumeNow t h else t
      else s

/-- A fed word goes on as far as it can. -/
def fedGo (s : State) (h : HalfId) : State := fedSettle (fedRun s h) h

/-- TELLER_VERDICT (R250). DESIGN CHOICE: log 33. -/
def execTellerVerdict (h : HalfId) (v : VerdictInput) (s : State) : Host.Outcome State Fault Refusal := .next (fedGo (verdict s h v) h)

/-- ROLLBACK_RESTART (R256); a fed word executes again from its bookmark (R566). -/
def execRollbackRestart (h : HalfId) (s : State) : Host.Outcome State Fault Refusal := .next (fedGo (restartWindow s h) h)

/-- REEXECUTION_LIMIT (R257). DESIGN CHOICE: log 3. -/
def execReexecutionLimit (h : HalfId) (s : State) : Host.Outcome State Fault Refusal := .next (fedGo (reexecutionLimit s h) h)

/-- STORE_DRAIN (R200). -/
def execStoreDrain (h : Draining) (s : State) : Host.Outcome State Fault Refusal :=
  .next (fedGo (storeDrain s h.half h.outcome) h.half)

/-- A FENCE that waits for its writes ends once they have their memory (R142). -/
def fenceOn (s : State) (h : HalfId) : State := if (s.ex h).fencing then fedGo (fenceDone s h) h else s

/-- The FENCEs of both halves go on. -/
def fencesOn (s : State) : State := fenceOn (fenceOn s .h0) .h1

/-- MEMORY_GRANT (R336). DESIGN CHOICE: log 23. -/
def execMemoryGrant (h : HalfId) (bank : BitVec 4) (cycles : GrantInput) (s : State) : Host.Outcome State Fault Refusal :=
  .next (fencesOn (memoryGrant s h bank cycles))

/-- LINE_PROGRAM_COMPLETE (R327). -/
def execLineProgramComplete (h : HalfId) (verified again : Bool) (s : State) : Host.Outcome State Fault Refusal :=
  .next (fencesOn (programComplete s h verified again))

/-- FLIT_RECEIVE (R288). -/
def execFlitReceive (h : HalfId) (goodA goodB same : Bool) (s : State) : Host.Outcome State Fault Refusal :=
  .next (fencesOn (flitReceive s h goodA goodB same))

/-- SPAN_RECOVERY_COMPLETE (R310). -/
def execSpanRecoveryComplete (s : State) : Host.Outcome State Fault Refusal := .next (fencesOn (spanRecovery s))

/-- GENERATION_APPLY (R297). -/
def execGenerationApply (h : HalfId) (s : State) : Host.Outcome State Fault Refusal := .next (fedGo (generationApply s h) h)

/-! ## What a scan op answers (R553, R554) -/

/-- The state that an op leaves, its data and its st field: 0 done, 2 refused, 3 no register. -/
structure ScanAns where
  s : State
  data : Cell
  st : BitVec 2

/-- A write that is done, or a read. -/
def scanDone (s : State) (x : Cell) : ScanAns := ⟨s, x, 0⟩

/-- An op that is refused has no effect. -/
def scanRefused (s : State) : ScanAns := ⟨s, 0, 2⟩

/-- No DBG register at the address. -/
def scanNone (s : State) : ScanAns := ⟨s, 0, 3⟩

/-- The half and context that a fed word runs in (R566). -/
def feedHalf (d : Dbg) : HalfId := if bit d.ctx 34 then .h1 else .h0

/-- The addresses that hold a DBG register reached through DBG_SCAN (R575). DESIGN CHOICE: log 82. -/
def scanMapped (a : Nat) : Bool :=
  decide (0o070000 ≤ a ∧ a ≤ 0o070004) || a == 0o070006 || a == 0o070007 || decide (0o070010 ≤ a ∧ a ≤ 0o070021) ||
    decide (0o070030 ≤ a ∧ a ≤ 0o070042) || decide (0o070050 ≤ a ∧ a ≤ 0o070060) || decide (0o070070 ≤ a ∧ a ≤ 0o070072)

/-- The registers reachable while the block is locked (R556). -/
def scanLocked (a : Nat) : Bool := a == 0o070000 || a == 0o070001 || decide (0o070010 ≤ a ∧ a ≤ 0o070021)

/-- The lock state lets the op through. -/
def scanAllowed (s : State) (a : Nat) : Bool := dbgOpen s.dbg || scanLocked a

/-- DBG_FEEDST: running while a fed word is under way (R576). -/
def feedStatus (s : State) : Pair := if feeding s then ⟨atBits (1 : BitVec 3) 33, 0⟩ else s.dbg.feedSt

/-- Challenge octets 4k to 4k + 3 (R576). -/
def chalCell (d : Dbg) (k : Nat) : Cell := atBits (fld d.chal (224 - 32 * k) 32 : BitVec 32) 0

/-- DBG_HALT (R576). -/
def haltCell (d : Dbg) : Cell := atBits d.halves 31 ||| atBits d.n 0

/-- The cell at an address of the first 64 registers, without the trace registers. -/
def scanCell (s : State) (a : Nat) : Cell :=
  let d := s.dbg
  if a = 0o070000 then dbgStat s
  else if a = 0o070001 then atBit d.attach 32
  else if a = 0o070002 then haltCell d
  else if a = 0o070003 then d.ctx
  else if a = 0o070004 then d.feed
  else if a = 0o070006 then (feedStatus s).c0
  else if a = 0o070007 then (feedStatus s).c1
  else if a < 0o070020 then chalCell d (a - 0o070010)
  else if a = 0o070020 then atBits d.rsel 0
  else if a = 0o070021 then sget 0 d.resp d.rsel.toNat
  else if a < 0o070040 then sget 0 d.bp (a - 0o070030)
  else if a = 0o070040 then d.maddr
  else if a = 0o070041 then d.mdat
  else if a = 0o070042 then d.mst
  else if a < 0o070060 then sget 0 d.mstg (a - 0o070050)
  else if a = 0o070060 then atBits d.mpost 0
  else if a = 0o070070 then trcCell d
  else trstCell d

/-- A read through DBG_SCAN (R554, R575). -/
def scanRead (s : State) (a : Nat) : ScanAns :=
  if !scanMapped a then scanNone s
  else if !scanAllowed s a then scanRefused s
  else if a = 0o070072 then scanDone (trrdRead s).1 (trrdRead s).2
  else scanDone s (scanCell s a)

/-! ## DBG_CTRL (R556-R561) -/

/-- The RNG has valid output (R557). -/
def rngValid (s : State) : Bool := s.rng.state == 1 && !s.rng.raw

/-- A part of a write of DBG_CTRL is refused (R556, R557, R559). DEDUCED: log 83. -/
def ctrlRefused (s : State) (x : Cell) : Bool :=
  (bit x 35 && !(unlockPermitted s && rngValid s)) ||
    (bit x 34 && !(unlockPermitted s && (s.dbg.chalValid || bit x 35))) ||
    ((bit x 33 || bit x 32) && !dbgOpen s.dbg)

/-- A new challenge is drawn (R557). -/
def drawChal (s : State) : State :=
  (s.onDbg fun d => { d with chalValid := true, chal := Config.randomBits s.free }).draw

/-- The lock state after a write of DBG_CTRL (R559, R560). -/
def ctrlLock (l : LockState) (x : Cell) : LockState :=
  if bit x 34 then .armed else if bit x 33 && l == .open_ then .relock else l

/-- A write of DBG_CTRL. DESIGN CHOICE: log 82. -/
def ctrlWrite (s : State) (x : Cell) : ScanAns :=
  if ctrlRefused s x then scanRefused s
  else
    let t := if bit x 35 then drawChal s else s
    scanDone (attachChange s (t.onDbg fun d => { d with lock := ctrlLock d.lock x, attach := bit x 32 })) 0

/-! ## DBG_HALT (R563, R564) -/

/-- A selected half by DBG_HALT: a halted one steps or resumes, another is marked for a halt. -/
def haltAct (x : Cell) (n : BitVec 11) (s : State) (h : HalfId) : State :=
  if !bit x (31 + h.toNat) then s
  else if s.mode h = mHalt then
    if bit x 33 then resumeHalf s h (some n.toNat) else if bit x 34 then resumeHalf s h none else s
  else if bit x 35 then haltHalf s h else s

/-- A write of DBG_HALT: halting, and so a step, requires attachment (R561). DEDUCED: log 83. -/
def haltWrite (s : State) (x : Cell) : ScanAns :=
  if (bit x 35 || bit x 33) && !attached s then scanRefused s
  else
    let n : BitVec 11 := if fld x 0 11 = (0 : BitVec 11) then 1 else fld x 0 11
    let s := s.onDbg fun d => { d with halves := fld x 31 2, n := n }
    scanDone (haltAct x n (haltAct x n s .h0) .h1) 0

/-! ## Feeding (R566, R567) -/

/-- DBG_FEEDST reads refused, unless a fed word is under way. -/
def feedRefused (s : State) : ScanAns :=
  scanRefused (if feeding s then s else s.onDbg fun d => { d with feedSt := ⟨atBits (6 : BitVec 3) 33, 0⟩ })

/-- A write of DBG_FEED: the word runs in the half and context of DBG_CTX, if that half is halted (R566, R567). -/
def feedWrite (s : State) (w : Cell) : ScanAns :=
  let h := feedHalf s.dbg
  if !attached s || s.mode h != mHalt || feeding s || !agreedClose s h then feedRefused s
  else
    let s := s.onDbg fun d => { d with feed := w, feedSt := ⟨0, 0⟩ }
    scanDone (fedSettle (fedBegin s h (fld s.dbg.ctx 0 5) (bit s.dbg.ctx 35) w) h) 0

/-! ## Memory access (R568) -/

/-- The access has ended: DBG_MST, and DBG_MDAT with what was read. -/
def accessEnd (s : State) (x : Cell) (st : Cell) : State := s.onDbg fun d => { d with mdat := x, mst := st }

/-- The access ended in an error. -/
def accessFail (s : State) (code : BitVec 6) : State := s.onDbg fun d => { d with mst := atBits (3 : BitVec 2) 34 ||| atBits code 27 }

/-- The code of a read that failed at home. -/
def accessCode : ReadRes → BitVec 6
  | .uncorrectable => eUncorrectable
  | _ => eIntegrity

/-- One data-space access in the owning half's hierarchy (R48, R49, R321, R568). -/
def memAccess (s : State) (write : Bool) (t : BitVec 10) (a : Addr) (r : ReadOutcome) : State :=
  if regionOf a = .unmapped then accessFail s eUnmapped
  else if write then
    let s := homeWrites s [(a, t, TCell.plain s.dbg.mdat)]
    accessEnd s s.dbg.mdat (atBits (2 : BitVec 2) 34)
  else match homeRead (perfAccess s a true) a t r with
    | (s, .ok c) => accessEnd s c.val (atBits (2 : BitVec 2) 34 ||| atBit c.tag 33)
    | (s, e) => accessFail s (accessCode e)

/-- A write of DBG_MADDR (R561, R568). DEDUCED: log 83. -/
def maddrWrite (s : State) (x : Cell) (r : ReadOutcome) : ScanAns :=
  if bit x 35 && !attached s then scanRefused s
  else
    let s := s.onDbg fun d => { d with maddr := setBit x 35 false }
    scanDone (if bit x 35 then memAccess s (bit x 34) (fld x 24 10) (fld x 0 24) r else s) 0

/-! ## Mailbox access (R441, R569) -/

/-- A post by the debugger, with origin 0b11 and id 0; a disabled channel takes none (R441, R569). -/
def debugPost (s : State) (c : BitVec 6) : State :=
  if (s.chan c).en then postEntry s c true ((List.range 8).map fun i => sget 0 s.dbg.mstg i) 3 0 else s

/-- A write of DBG_MPOST (R561, R569). DEDUCED: log 83. -/
def mpostWrite (s : State) (x : Cell) : ScanAns :=
  let c : BitVec 6 := fld x 0 6
  if bit x 35 && (!attached s || !(s.chan c).en) then scanRefused s
  else
    let s := s.onDbg fun d => { d with mpost := c }
    scanDone (if bit x 35 then debugPost s c else s) 0

/-! ## Writes through DBG_SCAN -/

/-- A write of a breakpoint register: slots 6 and 7 store 5 (R561, R576). DEDUCED: log 83. -/
def bpWrite (s : State) (k : Nat) (x : Cell) : ScanAns :=
  if !attached s then scanRefused s
  else
    let x := if 5 < (fld x 24 3).toNat then (x &&& ~~~(atBits (7 : BitVec 3) 24)) ||| atBits (5 : BitVec 3) 24 else x
    scanDone (s.onDbg fun d => { d with bp := sput 0 d.bp k x }) 0

/-- A write of the response's selection: 843 at most (R558, R576). -/
def rselWrite (s : State) (x : Cell) : State :=
  let n : BitVec 10 := fld x 0 10
  s.onDbg fun d => { d with rsel := if 843 < n.toNat then 843 else n }

/-- A write of a register that the lock state lets through. -/
def scanPut (s : State) (a : Nat) (x : Cell) (r : ReadOutcome) : ScanAns :=
  if a = 0o070001 then ctrlWrite s x
  else if a = 0o070002 then haltWrite s x
  else if a = 0o070003 then scanDone (s.onDbg fun d => { d with ctx := atBits (fld x 34 2 : BitVec 2) 34 ||| atBits (fld x 0 5 : BitVec 5) 0 }) 0
  else if a = 0o070004 then feedWrite s x
  else if a = 0o070020 then scanDone (rselWrite s x) 0
  else if a = 0o070021 then scanDone (s.onDbg fun d => { d with resp := sput 0 d.resp d.rsel.toNat x }) 0
  else if 0o070030 ≤ a ∧ a < 0o070040 then bpWrite s (a - 0o070030) x
  else if a = 0o070040 then maddrWrite s x r
  else if a = 0o070041 then scanDone (s.onDbg fun d => { d with mdat := x }) 0
  else if 0o070050 ≤ a ∧ a < 0o070060 then scanDone (s.onDbg fun d => { d with mstg := sput 0 d.mstg (a - 0o070050) x }) 0
  else if a = 0o070060 then mpostWrite s x
  else if a = 0o070070 then scanDone (trcWrite s x) 0
  else scanDone s 0

/-- A write through DBG_SCAN: one of a read-only register changes nothing (R554, R576). -/
def scanWrite (s : State) (a : Nat) (x : Cell) (r : ReadOutcome) : ScanAns :=
  if !scanMapped a then scanNone s else if !scanAllowed s a then scanRefused s else scanPut s a x r

/-- The results of an op stand for the next capture (R553). DESIGN CHOICE: log 82. -/
def scanLatch (a : IoAddr) (q : ScanAns) : State :=
  q.s.onDbg fun d => { d with scanAddr := a, scanSt := q.st, scanData := q.data }

/-- An op at Update-DR, complete before the next one (R553, R554); an isolated block has no debug unit.
DESIGN CHOICE: log 82. -/
def scanOp (s : State) (op : BitVec 2) (a : IoAddr) (x : Cell) (r : ReadOutcome) : State :=
  if s.isolated then s
  else if op = 1 then scanLatch a (scanRead s a.toNat)
  else if op = 2 then scanLatch a (scanWrite s a.toNat x r)
  else s

/-! ## Breakpoints (R565, R574) -/

/-- Breakpoint k is armed for the slot that the running context of a half is about to issue (R565). DEDUCED: log 84. -/
def bpMatches (s : State) (h : HalfId) (k : BitVec 3) (c : BitVec 5) (b : Bank) : Bool :=
  let x := sget 0 s.dbg.bp k.toNat
  bit x 35 && bit x 34 == (h == .h1) && (bit x 32 || fld x 27 5 == c) && fld x 24 3 == b.resume.slot &&
    fld x 0 24 == b.resume.addr && !b.repActive && !(s.ex h).dbgSkip

/-- Action 0: the window closes before the slot, and the half halts there (R565). -/
def bpHalt (s : State) (h : HalfId) : State :=
  if (s.ex h).arith.isSome then enterArith s h
  else tryHalt (closeRaw (s.onDbgHalf h fun d => { d with halt := true }) h false) h

/-- DEBUG: what its info field holds is not stated (R225, R228). DESIGN CHOICE: log 85. -/
def debugFault (s : State) : FaultInfo := faultOf cDebug 0 (fld (Config.freeCell s.free) 0 24)

/-- The frame of DEBUG will be placed in the reserve or the cache, and its handler entered. -/
def debugPlace (s : State) (h : HalfId) (k : BitVec 5) : Option (Bool × Nat) :=
  let b := s.bank h k
  if (handlerAt s h k cDebug).isNone ∨ faultLevel (s.ex h) cDebug ≤ stMask b.status then none
  else match placeFor b cDebug with
    | .reserve => some (true, b.rv.length)
    | .cache => some (false, b.depthD)
    | _ => none

/-- The DEBUG frame of a context is remembered until its RETI; older ones at its depth or above are gone. -/
def noteDebug (s : State) (h : HalfId) (k : BitVec 5) : State :=
  match debugPlace s h k with
  | none => s
  | some (r, n) => s.onEx h fun e =>
      { e with dbgFrames := (k, r, n) :: e.dbgFrames.filter fun f => !(f.1 == k && f.2.1 == r && decide (n ≤ f.2.2)) }

/-- Action 1: DEBUG is raised, precise, at the slot (R565). -/
def bpRaise (s : State) (h : HalfId) (k : BitVec 5) (p : Pos) : State :=
  if (s.ex h).arith.isSome then enterArith s h
  else enterFault (noteDebug s.draw h k) h k (debugFault s) false p p

/-- A breakpoint acts at the slot reached. -/
def bpAct (s : State) (h : HalfId) (k : BitVec 3) : State :=
  match s.runBank h with
  | none => s
  | some (c, b) =>
    if !bpMatches s h k c b || (fetchFault s h b).isSome || closeBlocked s h then s
    else if bit (sget 0 s.dbg.bp k.toNat) 33 then bpRaise s h c b.resume
    else bpHalt s h

/-- BREAKPOINT_MATCH: what the boundary holds, and an event entry that is due, come first (R565, R574).
DEDUCED: log 84. -/
def breakpointMatch (s : State) (h : HalfId) (k : BitVec 3) : State :=
  if !attached s || !takesInstr s h then s
  else match boundary s h with
    | some s' => s'
    | none => if (bestRequest s h).isSome then s else bpAct s h k

/-! ## Fuses (R592) -/

/-- The fuse port takes frames: FUSE_VPP is at 1.8 V and the lock bit is clear. DEDUCED: log 88. -/
def fusePort (b : Boundary) : Bool := b.vpp && !bit (sget 0 b.fuses 8) 0

/-- A frame has been shifted in: one that names a row above 8 is ignored. DEDUCED: log 88. -/
def fuseFrame (s : State) (f : BitVec 40) : State :=
  if fusePort s.bnd && decide ((fld f 32 8).toNat ≤ 8) then { s with bnd := { s.bnd with frame := some f } } else s

/-- The row of the frame is programmed: a bit once blown stays 1. DEDUCED: log 88. -/
def fuseProgram (s : State) : State :=
  match s.bnd.frame with
  | none => s
  | some f =>
    let r := (fld f 32 8 : Octet).toNat
    { s with bnd := { s.bnd with fuses := sput 0 s.bnd.fuses r (sget 0 s.bnd.fuses r ||| fld f 0 32), frame := none } }

/-! ## The commands -/

/-- SCAN_UPDATE (R553, R554). -/
def execScanUpdate (scan : BitVec 56) (s : State) : Host.Outcome State Fault Refusal :=
  .next (scanOp s (fld scan 54 2) (fld scan 38 16) (fld scan 0 36) .clean)
/-- CHAL_REQ: a write of DBG_CTRL.chal_req (R557). -/
def execChalReq (s : State) : Host.Outcome State Fault Refusal :=
  .next (scanOp s 2 0o070001 (atBit true 35 ||| atBit s.dbg.attach 32) .clean)
/-- UNLOCK: a write of DBG_CTRL.unlock (R559). -/
def execUnlock (s : State) : Host.Outcome State Fault Refusal :=
  .next (scanOp s 2 0o070001 (atBit true 34 ||| atBit s.dbg.attach 32) .clean)
/-- RELOCK: a write of DBG_CTRL.relock (R560). -/
def execRelock (s : State) : Host.Outcome State Fault Refusal :=
  .next (scanOp s 2 0o070001 (atBit true 33 ||| atBit s.dbg.attach 32) .clean)
/-- HALT: a write of DBG_HALT.halt (R563). -/
def execHalt (halves : BitVec 2) (s : State) : Host.Outcome State Fault Refusal :=
  .next (scanOp s 2 0o070002 (atBit true 35 ||| atBits halves 31 ||| atBits s.dbg.n 0) .clean)
/-- RESUME: a write of DBG_HALT.resume (R564). -/
def execResume (halves : BitVec 2) (s : State) : Host.Outcome State Fault Refusal :=
  .next (scanOp s 2 0o070002 (atBit true 34 ||| atBits halves 31 ||| atBits s.dbg.n 0) .clean)
/-- STEP: a write of DBG_HALT.step (R564). -/
def execStep (halves : BitVec 2) (n : BitVec 11) (s : State) : Host.Outcome State Fault Refusal :=
  .next (scanOp s 2 0o070002 (atBit true 33 ||| atBits halves 31 ||| atBits n 0) .clean)
/-- BREAKPOINT_MATCH (R565). -/
def execBreakpointMatch (h : HalfId) (k : BitVec 3) (s : State) : Host.Outcome State Fault Refusal := .next (breakpointMatch s h k)
/-- FEED: a write of DBG_FEED (R566). -/
def execFeed (word : Cell) (s : State) : Host.Outcome State Fault Refusal := .next (scanOp s 2 0o070004 word .clean)
/-- DBG_MADDR: a write of go (R568). -/
def execDbgMaddr (v : Cell) (r : ReadOutcome) (s : State) : Host.Outcome State Fault Refusal :=
  .next (scanOp s 2 0o070040 (setBit v 35 true) r)
/-- DBG_MPOST: a write of go (R569). -/
def execDbgMpost (c : BitVec 6) (s : State) : Host.Outcome State Fault Refusal :=
  .next (scanOp s 2 0o070060 (atBit true 35 ||| atBits c 0) .clean)
/-- DBG_TRRD: a read through DBG_SCAN (R573). -/
def execDbgTrrd (s : State) : Host.Outcome State Fault Refusal := .next (scanOp s 1 0o070072 0 .clean)
/-- FUSE_FRAME (R592). -/
def execFuseFrame (f : BitVec 40) (s : State) : Host.Outcome State Fault Refusal := .next (fuseFrame s f)
/-- FUSE_PROGRAM (R592). -/
def execFuseProgram (s : State) : Host.Outcome State Fault Refusal := .next (fuseProgram s)

end Sys2Proof.Machine
end

