-- ==== Sys2Proof/Machine/HostBus.lean ====
section
/-! DEFINITION. The host port: beats and the registers of its window (R67-R69, R430-R453). -/

namespace Sys2Proof.Machine

/-- The answer to one access: the state it leaves, the data read and the error kind (R430, R432). -/
structure HostAns where
  s : State
  data : HostWord
  err : HostErr

/-- A read of a register. -/
def hostData (s : State) (d : HostWord) : HostAns := ⟨s, d, .okay⟩

/-- A write that completes OKAY. -/
def hostDone (s : State) : HostAns := ⟨s, 0, .okay⟩

/-- An access that completes with an error has no effect (R432). -/
def hostFail (s : State) (e : HostErr) : HostAns := ⟨s, 0, e⟩

/-! ## Nibble words (R69) -/

/-- The nibble word of eight cells. -/
def nibbles (l : List Cell) : HostWord :=
  (List.range 8).foldl (fun m i => m ||| hAt (fld (l.getD i 0) 32 4 : BitVec 4) (4 * i)) 0

/-- A staging cell's low word replaced. -/
def stageWord (l : List Cell) (i : Nat) (d : HostWord) : List Cell :=
  l.set i ((fld (l.getD i 0) 32 4 : BitVec 4) ++ d)

/-- The staging cells' nibbles replaced. -/
def stageNibbles (l : List Cell) (d : HostWord) : List Cell :=
  (List.range 8).map fun i => (fld d (4 * i) 4 : BitVec 4) ++ (fld (l.getD i 0) 0 32 : BitVec 32)

/-! ## Block registers (R435) -/

/-- HP_STAT (R435). -/
def hpStat (s : State) (iid : Octet) : HostWord :=
  hAt (if s.host.ready then (2 : BitVec 2) else 1) 30 ||| hBit s.host.lost 29 ||| hAt iid 0

/-- A write of HP_CTL: refused when any bit is not permitted; a reset drops a KEEP request (R435). -/
def hpCtl (s : State) (d : HostWord) : HostAns :=
  if (bit d 1 && !s.mbx.hostReset) || (bit d 0 && !s.mbx.hostKeep) then hostFail s .refused
  else if bit d 1 then hostDone (blockReset s .block)
  else if bit d 0 then hostDone (keepAsk s)
  else hostDone s

/-- Reads below 0x0200. -/
def hpRead (s : State) (a : Nat) (iid : Octet) : HostAns :=
  if a = 0 then hostData s 0xE572E410
  else if a = 4 then hostData s (hpStat s iid)
  else if a = 0x100 then hostData s 0
  else hostFail s .decode

/-- Writes below 0x0200. -/
def hpWrite (s : State) (a : Nat) (d : HostWord) : HostAns :=
  if a = 0 then hostDone s
  else if a = 4 then hostDone (if bit d 29 then { s with host := { s.host with lost := false } } else s)
  else if a = 0x100 then hpCtl s d
  else hostFail s .decode

/-! ## Channels (R437, R438) -/

/-- A read of a channel at a byte offset (R437). -/
def hchRead (s : State) (c : BitVec 6) (o : Nat) : HostAns :=
  let x := s.chan c
  if o < 0x20 then hostData s (fld (headCell x.outp (o / 4)) 0 32)
  else if o = 0x20 then hostData s (nibbles ((List.range 8).map (headCell x.outp)))
  else if o = 0x24 then hostData s (headStamp x.outp)
  else if o = 0x28 then hostData s 0
  else if o = 0x2C then hostData s x.inp.ack
  else if o = 0x30 then hostData s (hchStat x)
  else if o = 0x34 then hostData s (hchCnt x)
  else hostFail s .decode

/-- A write of HCH_CTL, its bits in order (R438). -/
def hchCtl (s : State) (c : BitVec 6) (d : HostWord) : State :=
  let s := if bit d 3 then mbxRx s c false else s
  let s := if bit d 2 then mbxTx s c true else s
  let s := if bit d 1 then s.onChan c fun x => { x with collIn := false } else s
  if bit d 0 then popEntry s c false else s

/-- A post by the host (R441). -/
def hchPost (s : State) (c : BitVec 6) (iid : Octet) : HostAns :=
  match hostPost s c iid with
  | none => hostFail s .refused
  | some s' => hostDone s'

/-- A write of a channel at a byte offset (R437). -/
def hchWrite (s : State) (c : BitVec 6) (o : Nat) (d : HostWord) (iid : Octet) : HostAns :=
  if o < 0x20 then hostDone (s.onChan c fun x => { x with hostStage := stageWord x.hostStage (o / 4) d })
  else if o = 0x20 then hostDone (s.onChan c fun x => { x with hostStage := stageNibbles x.hostStage d })
  else if o = 0x24 then hchPost s c iid
  else if o = 0x28 then hostDone (hchCtl s c d)
  else if o = 0x2C then hostDone (ackWrite s c false 0 (fld d 0 12))
  else if o = 0x30 ∨ o = 0x34 then hostDone s
  else hostFail s .decode

/-! ## Doorbells (R451) -/

/-- The interrupt mask an offset from 0x2100 names: 8 n + j. -/
def maskNo (a : Nat) : Option Nat :=
  if 0x2100 ≤ a ∧ a < 0x2180 ∧ (a - 0x2100) / 4 % 8 < 5 then some ((a - 0x2100) / 4) else none

/-- A doorbell register j: DB_OUT0, DB_OUT1, DB_ACK0, DB_ACK1, DB_SW. -/
def dbReg (m : Mbx) (j : Nat) : HostWord :=
  if j = 0 then fld m.dbOut 0 32 else if j = 1 then fld m.dbOut 32 32 else if j = 2 then fld m.dbAck 0 32
  else if j = 3 then fld m.dbAck 32 32 else m.dbSw

/-- A write of ones clears bits of doorbell register j. -/
def dbClear (m : Mbx) (j : Nat) (d : HostWord) : Mbx :=
  let low : BitVec 64 := d.setWidth 64
  if j = 0 then { m with dbOut := m.dbOut &&& ~~~low } else if j = 1 then { m with dbOut := m.dbOut &&& ~~~(low <<< 32) }
  else if j = 2 then { m with dbAck := m.dbAck &&& ~~~low } else if j = 3 then { m with dbAck := m.dbAck &&& ~~~(low <<< 32) }
  else { m with dbSw := m.dbSw &&& ~~~d }

/-- The output HP_IRQn (R451). DESIGN CHOICE: log 89. -/
def hpIrq (s : State) (n : Nat) : Bool :=
  !s.isolated && (List.range 5).any fun j => (dbReg s.mbx j &&& sget 0 s.mbx.masks (8 * n + j)) != 0

/-- Reads of 0x2000 to 0x2FFF. -/
def dbRead (s : State) (a : Nat) : HostAns :=
  if a < 0x2014 then hostData s (dbReg s.mbx ((a - 0x2000) / 4))
  else match maskNo a with
    | none => hostFail s .decode
    | some i => hostData s (sget 0 s.mbx.masks i)

/-- Writes of 0x2000 to 0x2FFF. -/
def dbWrite (s : State) (a : Nat) (d : HostWord) : HostAns :=
  if a < 0x2014 then hostDone { s with mbx := dbClear s.mbx ((a - 0x2000) / 4) d }
  else match maskNo a with
    | none => hostFail s .decode
    | some i => hostDone { s with mbx := { s.mbx with masks := sput 0 s.mbx.masks i d } }

/-! ## Event bridge and mirror (R452, R453) -/

/-- The grants of index k. -/
def grantBits (s : State) (k : Nat) : BitVec 32 := s.mbx.grants.extractLsb' (32 * k) 32

/-- The host sets granted sources of index k pending (R452). -/
def bridgeSet (s : State) (k : Nat) (b : BitVec 32) : State := evcSet s k (b &&& grantBits s k)

/-- Reads of 0x3000 to 0x3FFF. -/
def bridgeRead (s : State) (a : Nat) : HostAns :=
  if a < 0x3010 then
    let k := (a - 0x3000) / 4
    hostData s (vecBits s.evc.pend k &&& grantBits s k)
  else if a < 0x3020 then hostData s (grantBits s ((a - 0x3010) / 4))
  else hostFail s .decode

/-- Writes of 0x3000 to 0x3FFF. -/
def bridgeWrite (s : State) (a : Nat) (d : HostWord) : HostAns :=
  if a < 0x3010 then hostDone (bridgeSet s ((a - 0x3000) / 4) d)
  else if a < 0x3020 then hostDone s
  else hostFail s .decode

/-- An attack bit is set in either half. -/
def attackSeen (s : State) : Bool :=
  s.h0.tal.burstBit || s.h0.tal.slowBit || s.h1.tal.burstBit || s.h1.tal.slowBit

/-- The first word of the mirror (R453). -/
def mirror0 (s : State) : HostWord :=
  hAt (s.mode .h0) 29 ||| hAt (s.mode .h1) 26 ||| hAt s.h0.spn.state 24 ||| hBit s.vlt.locked 23 ||| hBit (attackSeen s) 22 |||
    hBit s.tick.fallback 21

/-- Reads of 0x4000 to 0x4FFF. -/
def mirrorRead (s : State) (a : Nat) : HostAns :=
  if a = 0x4000 then hostData s (mirror0 s)
  else if a = 0x4004 then hostData s (fld s.h0.sch.frame 0 32)
  else if a = 0x4008 then hostData s (fld s.h1.sch.frame 0 32)
  else if a = 0x400C then hostData s (hAt s.dbk.head 20)
  else if a = 0x4010 then hostData s (fld s.dbk.lost 0 32)
  else if a = 0x4014 then hostData s (hAt s.dbk.lastClass 26 ||| hAt s.dbk.lastFrame 0)
  else hostFail s .decode

/-- A write of the mirror is ignored where a register stands (R15, R453). DEDUCED: log 64. -/
def mirrorWrite (s : State) (a : Nat) : HostAns := if a < 0x4018 then hostDone s else hostFail s .decode

/-! ## Accesses and beats (R67, R68, R430-R432) -/

/-- A read of the window. -/
def windowRead (s : State) (a : Nat) (iid : Octet) : HostAns :=
  if a < 0x200 then hpRead s a iid
  else if a < 0x1000 then hostFail s .decode
  else if a < 0x2000 then hchRead s (BitVec.ofNat 6 ((a - 0x1000) / 64)) (a % 64)
  else if a < 0x3000 then dbRead s a
  else if a < 0x4000 then bridgeRead s a
  else if a < 0x5000 then mirrorRead s a
  else hostFail s .decode

/-- A write of the window. -/
def windowWrite (s : State) (a : Nat) (d : HostWord) (iid : Octet) : HostAns :=
  if a < 0x200 then hpWrite s a d
  else if a < 0x1000 then hostFail s .decode
  else if a < 0x2000 then hchWrite s (BitVec.ofNat 6 ((a - 0x1000) / 64)) (a % 64) d iid
  else if a < 0x3000 then dbWrite s a d
  else if a < 0x4000 then bridgeWrite s a d
  else if a < 0x5000 then mirrorWrite s a
  else hostFail s .decode

/-- The port takes no new transaction: ISO_ACK is high, or a detach has begun (R432, R433). DEDUCED: log 64. -/
def hostAbsent (s : State) : Bool := s.host.isoAck || s.host.detach || s.isolated

/-- The beats of a transaction by HP_BURST; none for the reserved code (R431). -/
def burstLen (b : BitVec 2) : Option Nat := if b = 0 then some 1 else if b = 1 then some 4 else if b = 2 then some 8 else none

/-- A beat of a transaction that R430 and R431 allow. DEDUCED: log 64. -/
def beatFits (b : HostBeat) : Bool :=
  match burstLen b.burst with
  | none => false
  | some n => decide (b.start.toNat % (4 * n) = 0) && decide (b.beat.toNat < n) && (!b.write || b.strobe == 15)

/-- What a beat answers. -/
def beatAnswer (s : State) (b : HostBeat) : HostAns :=
  let a := (b.start + BitVec.ofNat 16 (4 * b.beat.toNat)).toNat
  if hostAbsent s then hostFail s .absent
  else if !beatFits b then hostFail s .decode
  else if b.write then windowWrite s a b.data b.iid else windowRead s a b.iid

/-- A beat is taken, and its response stands at the port (R430, R431). DEDUCED: log 64. -/
def hostBeat (s : State) (b : HostBeat) : State :=
  let r := beatAnswer s b
  { r.s with host := { r.s.host with resp := ⟨r.data, r.err⟩ } }

/-- HOST_BEAT (R431). -/
def execHostBeat (b : HostBeat) (s : State) : Host.Outcome State Fault Refusal := .next (hostBeat s b)

/-- A single write of a host word by an initiator. -/
def hostPut (s : State) (a : Nat) (d : HostWord) (iid : Octet) : State :=
  hostBeat s ⟨true, BitVec.ofNat 16 a, 0, 0, d, 15, iid⟩

/-- The byte address of a channel's register (R437). -/
def hchAddr (c : BitVec 6) (o : Nat) : Nat := 0x1000 + 64 * c.toNat + o

/-- HOST_RESET: HP_CTL.reset (R435). -/
def execHostReset (s : State) : Host.Outcome State Fault Refusal := .next (hostPut s 0x100 2 0)
/-- HOST_KEEP: HP_CTL.keep (R435). -/
def execHostKeep (s : State) : Host.Outcome State Fault Refusal := .next (hostPut s 0x100 1 0)
/-- IN_POST (R441). -/
def execInPost (c : BitVec 6) (iid : Octet) (s : State) : Host.Outcome State Fault Refusal :=
  .next (hostPut s (hchAddr c 0x24) 0 iid)
/-- HCH_RX_RESET (R447). -/
def execHchRxReset (c : BitVec 6) (s : State) : Host.Outcome State Fault Refusal := .next (hostPut s (hchAddr c 0x28) 8 0)
/-- HCH_TX_RESET (R447). -/
def execHchTxReset (c : BitVec 6) (s : State) : Host.Outcome State Fault Refusal := .next (hostPut s (hchAddr c 0x28) 4 0)
/-- CLR_COLL (R438). -/
def execClrColl (c : BitVec 6) (s : State) : Host.Outcome State Fault Refusal := .next (hostPut s (hchAddr c 0x28) 2 0)
/-- HCH_POP (R442). -/
def execHchPop (c : BitVec 6) (s : State) : Host.Outcome State Fault Refusal := .next (hostPut s (hchAddr c 0x28) 1 0)
/-- HCH_ACK (R444). -/
def execHchAck (c : BitVec 6) (v : HostWord) (s : State) : Host.Outcome State Fault Refusal :=
  .next (hostPut s (hchAddr c 0x2C) v 0)
/-- EB_SET (R452). -/
def execEbSet (k : BitVec 2) (bits : BitVec 32) (s : State) : Host.Outcome State Fault Refusal :=
  .next (hostPut s (0x3000 + 4 * k.toNat) bits 0)

end Sys2Proof.Machine
end

