-- ==== Sys2Proof/Machine/Rows.lean ====
section
/-! DEFINITION. Register accesses commanded directly: a write as its unit accepts it, a read with an effect
(R15, R122, R200, R210, R264). -/

namespace Sys2Proof.Machine

/-- The register at an address takes a write of the half's running context: it exists at that address, the context may
reach it, the mode allows the write, and the span or the commons port carries it (R66, R115, R123, R210).
DESIGN CHOICE: log 17. -/
def writeTakes (s : State) (h : HalfId) (b : Bank) (a : Nat) (x0 : Cell) : Bool :=
  match ioRun a with
  | none => false
  | some r =>
    !ioOdd r a && !ioWardenOnly s b a && !(ioFar a && !spanOpen s h) && !portBlocks s h a &&
      !outLocked s h a (if r.two then 2 else 1) x0

/-- A register write of the half's running context is accepted by its unit. DESIGN CHOICE: log 17. -/
def registerWrite (s : State) (h : HalfId) (a : Nat) (x0 x1 : Cell) : State :=
  match s.runBank h, s.writer h with
  | some (_, b), some w => if writeTakes s h b a x0 then ioWrite s w ((outSnap s h b a x0).getD CapSnap.none) a x0 x1 else s
  | _, _ => s

/-- A register read with an effect by the half's running context. DESIGN CHOICE: log 17. -/
def registerRead (s : State) (h : HalfId) (a : Nat) : State :=
  match s.runBank h with
  | none => s
  | some (k, b) =>
    if ioWardenOnly s b a || portBlocks s h a then s else (ioRead s ⟨h, k, b.tenant, stW b.status⟩ a).1

/-- REGISTER_WRITE (R122, R200). -/
def execRegisterWrite (h : HalfId) (a : IoAddr) (x0 x1 : Cell) (s : State) : Host.Outcome State Fault Refusal :=
  .next (registerWrite s h a.toNat x0 x1)

/-! ## Event controller (R407, R408, R419, R423) -/

/-- EVC_SETPEND (R408). -/
def execEvcSetpend (w : HalfId) (k : BitVec 3) (bits : BitVec 32) (s : State) : Host.Outcome State Fault Refusal :=
  .next (registerWrite s w (0o010010 + k.toNat) (atBits bits 0) 0)
/-- EVC_CLRPEND (R408). -/
def execEvcClrpend (w : HalfId) (k : BitVec 3) (bits : BitVec 32) (s : State) : Host.Outcome State Fault Refusal :=
  .next (registerWrite s w (0o010020 + k.toNat) (atBits bits 0) 0)
/-- EVC_DONE (R408). -/
def execEvcDone (w : HalfId) (src : BitVec 8) (s : State) : Host.Outcome State Fault Refusal :=
  .next (registerWrite s w 0o010051 (atBits src 0) 0)
/-- EVC_ROUTE (R407). -/
def execEvcRoute (w : HalfId) (src : BitVec 8) (ctx : BitVec 6) (s : State) : Host.Outcome State Fault Refusal :=
  .next (registerWrite s w (0o010400 + src.toNat) (atBits ctx 0) 0)
/-- EVC_COAL (R419). -/
def execEvcCoal (w : HalfId) (src : BitVec 8) (v : Cell) (s : State) : Host.Outcome State Fault Refusal :=
  .next (registerWrite s w (0o011400 + src.toNat) v 0)
/-- EVC_TCMP (R423). -/
def execEvcTcmp (w : HalfId) (n : BitVec 2) (lo hi : Cell) (s : State) : Host.Outcome State Fault Refusal :=
  .next (registerWrite s w (0o010060 + 2 * n.toNat) lo hi)

/-! ## Mailboxes (R439-R451) -/

/-- The I/O address of a channel's register (R439). -/
def chanAddr (c : BitVec 6) (o : Nat) : Nat := 0o020000 + 32 * c.toNat + o

/-- MBX_POST (R441). -/
def execMbxPost (w : HalfId) (c : BitVec 6) (s : State) : Host.Outcome State Fault Refusal :=
  .next (registerWrite s w (chanAddr c 0o30) (atBit true 35) 0)
/-- MBX_POP (R442). -/
def execMbxPop (w : HalfId) (c : BitVec 6) (s : State) : Host.Outcome State Fault Refusal :=
  .next (registerRead s w (chanAddr c 0o11))
/-- MBX_ACK (R444). -/
def execMbxAck (w : HalfId) (c : BitVec 6) (code : BitVec 12) (s : State) : Host.Outcome State Fault Refusal :=
  .next (registerWrite s w (chanAddr c 0o12) (atBits code 0) 0)

/-- MBX_CFG's first cell as it stands, with a reset bit set (R440). -/
def cfgWith (s : State) (c : BitVec 6) (n : Nat) : Cell := (mbxCfg (s.chan c)).1 ||| atBit true n

/-- MBX_RX_RESET: MBX_CFG.rx_reset (R447). -/
def execMbxRxReset (w : HalfId) (c : BitVec 6) (s : State) : Host.Outcome State Fault Refusal :=
  .next (registerWrite s w (chanAddr c 0o14) (cfgWith s c 34) (mbxCfg (s.chan c)).2)
/-- MBX_TX_RESET: MBX_CFG.tx_reset (R447). -/
def execMbxTxReset (w : HalfId) (c : BitVec 6) (s : State) : Host.Outcome State Fault Refusal :=
  .next (registerWrite s w (chanAddr c 0o14) (cfgWith s c 33) (mbxCfg (s.chan c)).2)
/-- MBX_RING (R451). -/
def execMbxRing (w : HalfId) (bits : BitVec 32) (s : State) : Host.Outcome State Fault Refusal :=
  .next (registerWrite s w 0o024001 (atBits bits 0) 0)

/-! ## Counters, daybook, fleet and random numbers (R334, R523, R524, R527, R538) -/

/-- MCT_INC (R334). -/
def execMctInc (w : HalfId) (k : Octet) (s : State) : Host.Outcome State Fault Refusal :=
  .next (registerWrite s w (0o056400 + k.toNat) 1 0)
/-- DBK_PUT (R538). -/
def execDbkPut (w : HalfId) (x0 x1 : Cell) (s : State) : Host.Outcome State Fault Refusal :=
  .next (registerWrite s w 0o060006 x0 x1)
/-- FLT_REV (R527). -/
def execFltRev (w : HalfId) (member : BitVec 14) (s : State) : Host.Outcome State Fault Refusal :=
  .next (registerWrite s w 0o052112 (atBit true 35 ||| atBits member 0) 0)
/-- RNG_OUT (R523). -/
def execRngOut (h : HalfId) (s : State) : Host.Outcome State Fault Refusal := .next (registerRead s h 0o051000)
/-- RNG_RAW (R524). -/
def execRngRaw (h : HalfId) (s : State) : Host.Outcome State Fault Refusal := .next (registerRead s h 0o051003)

end Sys2Proof.Machine
end

