-- ==== Sys2Proof/Machine/Dispatch.lean ====
section
/-! DEFINITION. The dispatcher: one arm for every command, a direct call of its meaning. -/

namespace Sys2Proof.Machine

/-- The effect of a command on everything but the queue. -/
def exec (i : Instr) (s : State) : Host.Outcome State Fault Refusal :=
  match i with
  | .nop h => Sys2Proof.Machine.execNop h s
  | .dup h => Sys2Proof.Machine.execDup h s
  | .drop h => Sys2Proof.Machine.execDrop h s
  | .swap h => Sys2Proof.Machine.execSwap h s
  | .over h => Sys2Proof.Machine.execOver h s
  | .rot h => Sys2Proof.Machine.execRot h s
  | .nip h => Sys2Proof.Machine.execNip h s
  | .tuck h => Sys2Proof.Machine.execTuck h s
  | .add h => Sys2Proof.Machine.execAdd h s
  | .sub h => Sys2Proof.Machine.execSub h s
  | .and h => Sys2Proof.Machine.execAnd h s
  | .or h => Sys2Proof.Machine.execOr h s
  | .xor h => Sys2Proof.Machine.execXor h s
  | .not h => Sys2Proof.Machine.execNot h s
  | .neg h => Sys2Proof.Machine.execNeg h s
  | .addc h => Sys2Proof.Machine.execAddc h s
  | .shl h => Sys2Proof.Machine.execShl h s
  | .shr h => Sys2Proof.Machine.execShr h s
  | .sar h => Sys2Proof.Machine.execSar h s
  | .rol h => Sys2Proof.Machine.execRol h s
  | .eq h => Sys2Proof.Machine.execEq h s
  | .lt h => Sys2Proof.Machine.execLt h s
  | .ult h => Sys2Proof.Machine.execUlt h s
  | .zeq h => Sys2Proof.Machine.execZeq h s
  | .mul h => Sys2Proof.Machine.execMul h s
  | .divm h => Sys2Proof.Machine.execDivm h s
  | .udivm h => Sys2Proof.Machine.execUdivm h s
  | .pk12 h => Sys2Proof.Machine.execPk12 h s
  | .up12 h => Sys2Proof.Machine.execUp12 h s
  | .oget h => Sys2Proof.Machine.execOget h s
  | .oput h => Sys2Proof.Machine.execOput h s
  | .tor h => Sys2Proof.Machine.execTor h s
  | .fromr h => Sys2Proof.Machine.execFromr h s
  | .ldn h n => Sys2Proof.Machine.execLdn h n s
  | .stn h n => Sys2Proof.Machine.execStn h n s
  | .cld h => Sys2Proof.Machine.execCld h s
  | .cst h => Sys2Proof.Machine.execCst h s
  | .cnar h => Sys2Proof.Machine.execCnar h s
  | .cget h => Sys2Proof.Machine.execCget h s
  | .inp h => Sys2Proof.Machine.execInp h s
  | .outp h => Sys2Proof.Machine.execOutp h s
  | .ifetch h => Sys2Proof.Machine.execIfetch h s
  | .jmp h slot1 target => Sys2Proof.Machine.execJmp h slot1 target s
  | .bz h field => Sys2Proof.Machine.execBz h field s
  | .bnz h field => Sys2Proof.Machine.execBnz h field s
  | .call h mask target => Sys2Proof.Machine.execCall h mask target s
  | .calli h mask => Sys2Proof.Machine.execCalli h mask s
  | .ret h => Sys2Proof.Machine.execRet h s
  | .lit h field => Sys2Proof.Machine.execLit h field s
  | .lith h field => Sys2Proof.Machine.execLith h field s
  | .rep h target => Sys2Proof.Machine.execRep h target s
  | .repu h count target => Sys2Proof.Machine.execRepu h count target s
  | .loop h len => Sys2Proof.Machine.execLoop h len s
  | .wait h => Sys2Proof.Machine.execWait h s
  | .waitEnd h timeUp => Sys2Proof.Machine.execWaitEnd h timeUp s
  | .trap h n => Sys2Proof.Machine.execTrap h n s
  | .ill h sel => Sys2Proof.Machine.execIll h sel s
  | .clz h => Sys2Proof.Machine.execClz h s
  | .popc h => Sys2Proof.Machine.execPopc h s
  | .xch h => Sys2Proof.Machine.execXch h s
  | .xget h => Sys2Proof.Machine.execXget h s
  | .xput h => Sys2Proof.Machine.execXput h s
  | .spilld h => Sys2Proof.Machine.execSpilld h s
  | .filld h => Sys2Proof.Machine.execFilld h s
  | .spillt h => Sys2Proof.Machine.execSpillt h s
  | .fillt h => Sys2Proof.Machine.execFillt h s
  | .depth h => Sys2Proof.Machine.execDepth h s
  | .rdepth h => Sys2Proof.Machine.execRdepth h s
  | .getst h => Sys2Proof.Machine.execGetst h s
  | .setst h => Sys2Proof.Machine.execSetst h s
  | .reti h evCycles => Sys2Proof.Machine.execReti h evCycles s
  | .yield h used => Sys2Proof.Machine.execYield h used s
  | .fence h => Sys2Proof.Machine.execFence h s
  | .lease h => Sys2Proof.Machine.execLease h s
  | .unlease h => Sys2Proof.Machine.execUnlease h s
  | .tenant h => Sys2Proof.Machine.execTenant h s
  | .timel h dt => Sys2Proof.Machine.execTimel h dt s
  | .timeh h => Sys2Proof.Machine.execTimeh h s
  | .fleetchk h => Sys2Proof.Machine.execFleetchk h s
  | .seal h => Sys2Proof.Machine.execSeal h s
  | .unseal h => Sys2Proof.Machine.execUnseal h s
  | .cinv h => Sys2Proof.Machine.execCinv h s
  | .crevoke h => Sys2Proof.Machine.execCrevoke h s
  | .ctxld h => Sys2Proof.Machine.execCtxld h s
  | .ctxsv h => Sys2Proof.Machine.execCtxsv h s
  | .sync h => Sys2Proof.Machine.execSync h s
  | .stat h => Sys2Proof.Machine.execStat h s
  | .save h => Sys2Proof.Machine.execSave h s
  | .load h => Sys2Proof.Machine.execLoad h s
  | .clear h => Sys2Proof.Machine.execClear h s
  | .wld h => Sys2Proof.Machine.execWld h s
  | .wst h => Sys2Proof.Machine.execWst h s
  | .wmov h => Sys2Proof.Machine.execWmov h s
  | .mmul h => Sys2Proof.Machine.execMmul h s
  | .mexp h => Sys2Proof.Machine.execMexp h s
  | .ntt h => Sys2Proof.Machine.execNtt h s
  | .intt h => Sys2Proof.Machine.execIntt h s
  | .pmul h => Sys2Proof.Machine.execPmul h s
  | .aesks h => Sys2Proof.Machine.execAesks h s
  | .aesblk h => Sys2Proof.Machine.execAesblk h s
  | .gcmenc h => Sys2Proof.Machine.execGcmenc h s
  | .gcmdec h => Sys2Proof.Machine.execGcmdec h s
  | .keccak h => Sys2Proof.Machine.execKeccak h s
  | .sha2 h => Sys2Proof.Machine.execSha2 h s
  | .sha3 h => Sys2Proof.Machine.execSha3 h s
  | .shake h => Sys2Proof.Machine.execShake h s
  | .ecsign h => Sys2Proof.Machine.execEcsign h s
  | .ecver h => Sys2Proof.Machine.execEcver h s
  | .edsign h => Sys2Proof.Machine.execEdsign h s
  | .edver h => Sys2Proof.Machine.execEdver h s
  | .x25519 h => Sys2Proof.Machine.execX25519 h s
  | .eckey h => Sys2Proof.Machine.execEckey h s
  | .rsapriv h => Sys2Proof.Machine.execRsapriv h s
  | .rsapub h => Sys2Proof.Machine.execRsapub h s
  | .kemgen h => Sys2Proof.Machine.execKemgen h s
  | .kemenc h => Sys2Proof.Machine.execKemenc h s
  | .kemdec h => Sys2Proof.Machine.execKemdec h s
  | .dsagen h => Sys2Proof.Machine.execDsagen h s
  | .dsasign h => Sys2Proof.Machine.execDsasign h s
  | .dsaver h => Sys2Proof.Machine.execDsaver h s
  | .commandStart h bad => Sys2Proof.Machine.execCommandStart h bad s
  | .sliceEnd h => Sys2Proof.Machine.execSliceEnd h s
  | .commandFinish h checkFails => Sys2Proof.Machine.execCommandFinish h checkFails s
  | .arithEntry h => Sys2Proof.Machine.execArithEntry h s
  | .eventEntry h => Sys2Proof.Machine.execEventEntry h s
  | .readDataReturn h r => Sys2Proof.Machine.execReadDataReturn h r s
  | .memoryGrant h bank cycles => Sys2Proof.Machine.execMemoryGrant h bank cycles s
  | .storeDrain h => Sys2Proof.Machine.execStoreDrain h s
  | .registerWrite h a x0 x1 => Sys2Proof.Machine.execRegisterWrite h a x0 x1 s
  | .windowTimerExpiry h => Sys2Proof.Machine.execWindowTimerExpiry h s
  | .windowSlotLimit h => Sys2Proof.Machine.execWindowSlotLimit h s
  | .inputLogLimit h => Sys2Proof.Machine.execInputLogLimit h s
  | .tellerVerdict h v => Sys2Proof.Machine.execTellerVerdict h v s
  | .rollbackRestart h => Sys2Proof.Machine.execRollbackRestart h s
  | .reexecutionLimit h => Sys2Proof.Machine.execReexecutionLimit h s
  | .resyncCopyComplete h l => Sys2Proof.Machine.execResyncCopyComplete h l s
  | .resyncJoin h l => Sys2Proof.Machine.execResyncJoin h l s
  | .auditStart h => Sys2Proof.Machine.execAuditStart h s
  | .auditComplete h l pass => Sys2Proof.Machine.execAuditComplete h l pass s
  | .auditCountdownExpiry h => Sys2Proof.Machine.execAuditCountdownExpiry h s
  | .bucketDrain h => Sys2Proof.Machine.execBucketDrain h s
  | .slowCountDrain h => Sys2Proof.Machine.execSlowCountDrain h s
  | .comparatorInjection h cases => Sys2Proof.Machine.execComparatorInjection h cases s
  | .tlyInject w h => Sys2Proof.Machine.execTlyInject w h s
  | .tlyAuditNow w h => Sys2Proof.Machine.execTlyAuditNow w h s
  | .tlyFence w h lanes => Sys2Proof.Machine.execTlyFence w h lanes s
  | .readingRoomEntry h loss => Sys2Proof.Machine.execReadingRoomEntry h loss s
  | .pllLock => Sys2Proof.Machine.execPllLock s
  | .pllHoldover => Sys2Proof.Machine.execPllHoldover s
  | .frameTick t => Sys2Proof.Machine.execFrameTick t s
  | .fsyncEdge since t => Sys2Proof.Machine.execFsyncEdge since t s
  | .budgetExpiry h => Sys2Proof.Machine.execBudgetExpiry h s
  | .eventAccountExhausted h => Sys2Proof.Machine.execEventAccountExhausted h s
  | .commit w h => Sys2Proof.Machine.execCommit w h s
  | .capWrite w h v => Sys2Proof.Machine.execCapWrite w h v s
  | .admissionDone h => Sys2Proof.Machine.execAdmissionDone h s
  | .leaseGrant h => Sys2Proof.Machine.execLeaseGrant h s
  | .vfieldCrossing level ns => Sys2Proof.Machine.execVfieldCrossing level ns s
  | .sagStart h => Sys2Proof.Machine.execSagStart h s
  | .sagEnd h => Sys2Proof.Machine.execSagEnd h s
  | .externalEdge n level dt => Sys2Proof.Machine.execExternalEdge n level dt s
  | .coalescerTimeExpiry src dt => Sys2Proof.Machine.execCoalescerTimeExpiry src dt s
  | .compareTimerFire n dt => Sys2Proof.Machine.execCompareTimerFire n dt s
  | .evcSetpend w k bits => Sys2Proof.Machine.execEvcSetpend w k bits s
  | .evcClrpend w k bits => Sys2Proof.Machine.execEvcClrpend w k bits s
  | .evcDone w src => Sys2Proof.Machine.execEvcDone w src s
  | .evcRoute w src ctx => Sys2Proof.Machine.execEvcRoute w src ctx s
  | .evcCoal w src v => Sys2Proof.Machine.execEvcCoal w src v s
  | .evcTcmp w n lo hi => Sys2Proof.Machine.execEvcTcmp w n lo hi s
  | .ebSet k bits => Sys2Proof.Machine.execEbSet k bits s
  | .hostBeat b => Sys2Proof.Machine.execHostBeat b s
  | .inPost c iid => Sys2Proof.Machine.execInPost c iid s
  | .hchRxReset c => Sys2Proof.Machine.execHchRxReset c s
  | .hchTxReset c => Sys2Proof.Machine.execHchTxReset c s
  | .clrColl c => Sys2Proof.Machine.execClrColl c s
  | .hchPop c => Sys2Proof.Machine.execHchPop c s
  | .hchAck c v => Sys2Proof.Machine.execHchAck c v s
  | .mbxPost w c => Sys2Proof.Machine.execMbxPost w c s
  | .mbxPop w c => Sys2Proof.Machine.execMbxPop w c s
  | .mbxAck w c code => Sys2Proof.Machine.execMbxAck w c code s
  | .mbxRxReset w c => Sys2Proof.Machine.execMbxRxReset w c s
  | .mbxTxReset w c => Sys2Proof.Machine.execMbxTxReset w c s
  | .mbxRing w bits => Sys2Proof.Machine.execMbxRing w bits s
  | .ackTimeout c inbound => Sys2Proof.Machine.execAckTimeout c inbound s
  | .ackDelayedEffect c inbound => Sys2Proof.Machine.execAckDelayedEffect c inbound s
  | .hostReset => Sys2Proof.Machine.execHostReset s
  | .hostKeep => Sys2Proof.Machine.execHostKeep s
  | .isoReqRise => Sys2Proof.Machine.execIsoReqRise s
  | .isoReqFall => Sys2Proof.Machine.execIsoReqFall s
  | .keepRequest w => Sys2Proof.Machine.execKeepRequest w s
  | .keepEntry => Sys2Proof.Machine.execKeepEntry s
  | .keepLatchEdge n => Sys2Proof.Machine.execKeepLatchEdge n s
  | .rtcAlarm => Sys2Proof.Machine.execRtcAlarm s
  | .rtcTick => Sys2Proof.Machine.execRtcTick s
  | .witnessHeartbeat h => Sys2Proof.Machine.execWitnessHeartbeat h s
  | .kepRtcset w lo hi => Sys2Proof.Machine.execKepRtcset w lo hi s
  | .resetRelease => Sys2Proof.Machine.execResetRelease s
  | .charterVerified c => Sys2Proof.Machine.execCharterVerified c s
  | .charterInstall p0 p1 => Sys2Proof.Machine.execCharterInstall p0 p1 s
  | .blockReset w => Sys2Proof.Machine.execBlockReset w s
  | .halfReset w h => Sys2Proof.Machine.execHalfReset w h s
  | .chtTst w v => Sys2Proof.Machine.execChtTst w v s
  | .charterUpdate w => Sys2Proof.Machine.execCharterUpdate w s
  | .flashStatusPoll busy => Sys2Proof.Machine.execFlashStatusPoll busy s
  | .charterUpdateDone r => Sys2Proof.Machine.execCharterUpdateDone r s
  | .contextReset w ctx => Sys2Proof.Machine.execContextReset w ctx s
  | .mint w n => Sys2Proof.Machine.execMint w n s
  | .kcFlush w h => Sys2Proof.Machine.execKcFlush w h s
  | .nvsyncFlush w h => Sys2Proof.Machine.execNvsyncFlush w h s
  | .holdExpiry h idx => Sys2Proof.Machine.execHoldExpiry h idx s
  | .lineProgramComplete h verified again => Sys2Proof.Machine.execLineProgramComplete h verified again s
  | .imageSwap w h k => Sys2Proof.Machine.execImageSwap w h k s
  | .sramPatrol h bank r => Sys2Proof.Machine.execSramPatrol h bank r s
  | .nvmPatrol h bank r twoBits => Sys2Proof.Machine.execNvmPatrol h bank r twoBits s
  | .mctInc w k => Sys2Proof.Machine.execMctInc w k s
  | .commonsStoreProgramComplete => Sys2Proof.Machine.execCommonsStoreProgramComplete s
  | .dbkPut w x0 x1 => Sys2Proof.Machine.execDbkPut w x0 x1 s
  | .rknOwn w h v => Sys2Proof.Machine.execRknOwn w h v s
  | .flitReceive h goodA goodB same => Sys2Proof.Machine.execFlitReceive h goodA goodB same s
  | .spanReplay h => Sys2Proof.Machine.execSpanReplay h s
  | .spanHeartbeat h pathB good => Sys2Proof.Machine.execSpanHeartbeat h pathB good s
  | .pathHeartbeatTimeout pathB => Sys2Proof.Machine.execPathHeartbeatTimeout pathB s
  | .pathDisable w h v => Sys2Proof.Machine.execPathDisable w h v s
  | .spanRecoveryComplete => Sys2Proof.Machine.execSpanRecoveryComplete s
  | .generationApply h => Sys2Proof.Machine.execGenerationApply h s
  | .migrationStart w => Sys2Proof.Machine.execMigrationStart w s
  | .migrationDone h => Sys2Proof.Machine.execMigrationDone h s
  | .command w n => Sys2Proof.Machine.execCommand w n s
  | .read w n => Sys2Proof.Machine.execRead w n s
  | .write w n => Sys2Proof.Machine.execWrite w n s
  | .tpdu w n => Sys2Proof.Machine.execTpdu w n s
  | .reset w n => Sys2Proof.Machine.execReset w n s
  | .abort w => Sys2Proof.Machine.execAbort w s
  | .folioResponse f => Sys2Proof.Machine.execFolioResponse f s
  | .folioDataBlock lines => Sys2Proof.Machine.execFolioDataBlock lines s
  | .folioReceipt f => Sys2Proof.Machine.execFolioReceipt f s
  | .folioTimeout => Sys2Proof.Machine.execFolioTimeout s
  | .folioBusyRetry => Sys2Proof.Machine.execFolioBusyRetry s
  | .cardCommitDone => Sys2Proof.Machine.execCardCommitDone s
  | .cardDetect level => Sys2Proof.Machine.execCardDetect level s
  | .atr octets => Sys2Proof.Machine.execAtr octets s
  | .ppsResponse octets => Sys2Proof.Machine.execPpsResponse octets s
  | .characterReceive o parityOk => Sys2Proof.Machine.execCharacterReceive o parityOk s
  | .workWaitingTimeout => Sys2Proof.Machine.execWorkWaitingTimeout s
  | .activationTimeout => Sys2Proof.Machine.execActivationTimeout s
  | .clockStop => Sys2Proof.Machine.execClockStop s
  | .tamperTrip sensor => Sys2Proof.Machine.execTamperTrip sensor s
  | .meshCheck differs => Sys2Proof.Machine.execMeshCheck differs s
  | .seedReady => Sys2Proof.Machine.execSeedReady s
  | .rngStartupDone pass => Sys2Proof.Machine.execRngStartupDone pass s
  | .rngOut h => Sys2Proof.Machine.execRngOut h s
  | .rngRaw h => Sys2Proof.Machine.execRngRaw h s
  | .rawModeEnter w src => Sys2Proof.Machine.execRawModeEnter w src s
  | .rawModeExit w => Sys2Proof.Machine.execRawModeExit w s
  | .assign w slot type owner => Sys2Proof.Machine.execAssign w slot type owner s
  | .zeroise w slot => Sys2Proof.Machine.execZeroise w slot s
  | .release w slot => Sys2Proof.Machine.execRelease w slot s
  | .vltImport w slot => Sys2Proof.Machine.execVltImport w slot s
  | .lockTheVault w => Sys2Proof.Machine.execLockTheVault w s
  | .fltRev w member => Sys2Proof.Machine.execFltRev w member s
  | .vfieldRise => Sys2Proof.Machine.execVfieldRise s
  | .vfieldLoss => Sys2Proof.Machine.execVfieldLoss s
  | .vcoreLoss => Sys2Proof.Machine.execVcoreLoss s
  | .wake => Sys2Proof.Machine.execWake s
  | .scanUpdate scan => Sys2Proof.Machine.execScanUpdate scan s
  | .chalReq => Sys2Proof.Machine.execChalReq s
  | .unlock => Sys2Proof.Machine.execUnlock s
  | .relock => Sys2Proof.Machine.execRelock s
  | .halt halves => Sys2Proof.Machine.execHalt halves s
  | .resume halves => Sys2Proof.Machine.execResume halves s
  | .step halves n => Sys2Proof.Machine.execStep halves n s
  | .breakpointMatch h k => Sys2Proof.Machine.execBreakpointMatch h k s
  | .feed word => Sys2Proof.Machine.execFeed word s
  | .dbgMaddr v r => Sys2Proof.Machine.execDbgMaddr v r s
  | .dbgMpost c => Sys2Proof.Machine.execDbgMpost c s
  | .dbgTrrd => Sys2Proof.Machine.execDbgTrrd s
  | .stim w port data => Sys2Proof.Machine.execStim w port data s
  | .fuseFrame f => Sys2Proof.Machine.execFuseFrame f s
  | .fuseProgram => Sys2Proof.Machine.execFuseProgram s
  | .comparePathRestored h loss cases => Sys2Proof.Machine.execComparePathRestored h loss cases s
  | .holdoverExit => Sys2Proof.Machine.execHoldoverExit s
  | .vcoreRise => Sys2Proof.Machine.execVcoreRise s
  | .tracePacketSent => Sys2Proof.Machine.execTracePacketSent s
  | .healthTestFailure stream adaptive => Sys2Proof.Machine.execHealthTestFailure stream adaptive s
  | .rawSample bits => Sys2Proof.Machine.execRawSample bits s
  | .commandLineRelease => Sys2Proof.Machine.execCommandLineRelease s
  | .ppsTimeout => Sys2Proof.Machine.execPpsTimeout s
  | .characterErrorSignal => Sys2Proof.Machine.execCharacterErrorSignal s
  | .folioWakeUpAnswer => Sys2Proof.Machine.execFolioWakeUpAnswer s

end Sys2Proof.Machine
end

