-- ==== Sys2Proof/WellFormed.lean ====
section
/-! DEFINITION. Which commands are well formed: operands that name what the block has (R72, R86-R88, R318, R430, R431, R462,
R465, R487, R564, R592). -/

namespace Sys2Proof

/-- ILL is named by an opcode of its own, or by a selector of EXT (`false`) or RK (`true`) that the tables leave unassigned
(R72, R87, R88). -/
def illNamed : Option (Bool × BitVec 6) → Bool
  | none => true
  | some (false, x) =>
    decide (0o52 ≤ x.toNat) ||
      [0o05, 0o06, 0o07, 0o16, 0o17, 0o25, 0o26, 0o27, 0o36, 0o37, 0o44, 0o45, 0o46, 0o47].contains x.toNat
  | some (true, x) =>
    decide (0o52 ≤ x.toNat ∧ x.toNat < 0o60 ∨ 0o66 ≤ x.toNat) ||
      [0o05, 0o06, 0o07, 0o25, 0o26, 0o27, 0o33, 0o34, 0o35, 0o36, 0o37, 0o46, 0o47].contains x.toNat

/-- The beat's index lies within its burst of 1, 4 or 8 beats; a burst code 0b11 is one beat (R430, R431). -/
def beatNumbered (b : HostBeat) : Bool :=
  if b.burst = 1 then decide (b.beat.toNat < 4) else if b.burst = 2 then true else b.beat == 0

/-- A data block is one frame of 512 octets or four of 128 (R462). -/
def blockShaped (l : List LineFrame) : Bool :=
  (l.length == 1 && l.all fun f => f.octets.length == 512) || (l.length == 4 && l.all fun f => f.octets.length == 128)

/-- The time base moves by fewer units than it holds (R423). -/
def tickTimed (t : TickInput) : Bool := decide (t.dt < 2 ^ 72)

/-- A command whose operands are of the sizes and ranges that the block has. -/
def Instr.wf (i : Instr) : Bool :=
  match i with
  | .ill _ sel => illNamed sel
  | .memoryGrant _ bank _ => decide (bank.toNat < 12)
  | .frameTick t => tickTimed t
  | .fsyncEdge _ t => tickTimed t
  | .hostBeat b => beatNumbered b
  | .charterVerified c => decide (c.slot0.cells.length ≤ 14560) && decide (c.slot1.cells.length ≤ 14560)
  | .folioDataBlock lines => blockShaped lines
  | .atr octets => decide (octets.length ≤ 33)
  | .ppsResponse octets => decide (octets.length ≤ 6)
  | .step _ n => n != 0
  | .fuseFrame f => decide ((f >>> 32).toNat ≤ 8)
  | .nop _ | .dup _ | .drop _ | .swap _ | .over _ | .rot _ | .nip _ | .tuck _ | .add _ | .sub _ | .and _ | .or _ |
    .xor _ | .not _ | .neg _ | .addc _ | .shl _ | .shr _ | .sar _ | .rol _ | .eq _ | .lt _ | .ult _ | .zeq _ |
    .mul _ | .divm _ | .udivm _ | .pk12 _ | .up12 _ | .oget _ | .oput _ | .tor _ | .fromr _ | .ldn _ _ | .stn _ _ |
    .cld _ | .cst _ | .cnar _ | .cget _ | .inp _ | .outp _ | .ifetch _ | .jmp _ _ _ | .bz _ _ | .bnz _ _ |
    .call _ _ _ | .calli _ _ | .ret _ | .lit _ _ | .lith _ _ | .rep _ _ | .repu _ _ _ | .loop _ _ | .wait _ |
    .waitEnd _ _ | .trap _ _ | .clz _ | .popc _ | .xch _ | .xget _ | .xput _ | .spilld _ | .filld _ | .spillt _ |
    .fillt _ | .depth _ | .rdepth _ | .getst _ | .setst _ | .reti _ _ | .yield _ _ | .fence _ | .lease _ |
    .unlease _ | .tenant _ | .timel _ _ | .timeh _ | .fleetchk _ | .seal _ | .unseal _ | .cinv _ | .crevoke _ |
    .ctxld _ | .ctxsv _ | .sync _ | .stat _ | .save _ | .load _ | .clear _ | .wld _ | .wst _ | .wmov _ | .mmul _ |
    .mexp _ | .ntt _ | .intt _ | .pmul _ | .aesks _ | .aesblk _ | .gcmenc _ | .gcmdec _ | .keccak _ | .sha2 _ |
    .sha3 _ | .shake _ | .ecsign _ | .ecver _ | .edsign _ | .edver _ | .x25519 _ | .eckey _ | .rsapriv _ | .rsapub _ |
    .kemgen _ | .kemenc _ | .kemdec _ | .dsagen _ | .dsasign _ | .dsaver _ | .commandStart _ _ | .sliceEnd _ |
    .commandFinish _ _ | .arithEntry _ | .eventEntry _ | .readDataReturn _ _ | .storeDrain _ |
    .registerWrite _ _ _ _ | .windowTimerExpiry _ | .windowSlotLimit _ | .inputLogLimit _ | .tellerVerdict _ _ |
    .rollbackRestart _ | .reexecutionLimit _ | .resyncCopyComplete _ _ | .resyncJoin _ _ | .auditStart _ |
    .auditComplete _ _ _ | .auditCountdownExpiry _ | .bucketDrain _ | .slowCountDrain _ | .comparatorInjection _ _ |
    .tlyInject _ _ | .tlyAuditNow _ _ | .tlyFence _ _ _ | .readingRoomEntry _ _ | .pllLock | .pllHoldover |
    .budgetExpiry _ | .eventAccountExhausted _ | .commit _ _ | .capWrite _ _ _ | .admissionDone _ | .leaseGrant _ |
    .vfieldCrossing _ _ | .sagStart _ | .sagEnd _ | .externalEdge _ _ _ | .coalescerTimeExpiry _ _ |
    .compareTimerFire _ _ | .evcSetpend _ _ _ | .evcClrpend _ _ _ | .evcDone _ _ | .evcRoute _ _ _ | .evcCoal _ _ _ |
    .evcTcmp _ _ _ _ | .ebSet _ _ | .inPost _ _ | .hchRxReset _ | .hchTxReset _ | .clrColl _ | .hchPop _ |
    .hchAck _ _ | .mbxPost _ _ | .mbxPop _ _ | .mbxAck _ _ _ | .mbxRxReset _ _ | .mbxTxReset _ _ | .mbxRing _ _ |
    .ackTimeout _ _ | .ackDelayedEffect _ _ | .hostReset | .hostKeep | .isoReqRise | .isoReqFall | .keepRequest _ |
    .keepEntry | .keepLatchEdge _ | .rtcAlarm | .rtcTick | .witnessHeartbeat _ | .kepRtcset _ _ _ | .resetRelease |
    .charterInstall _ _ | .blockReset _ | .halfReset _ _ | .chtTst _ _ | .charterUpdate _ | .flashStatusPoll _ |
    .charterUpdateDone _ | .contextReset _ _ | .mint _ _ | .kcFlush _ _ | .nvsyncFlush _ _ | .holdExpiry _ _ |
    .lineProgramComplete _ _ _ | .imageSwap _ _ _ | .sramPatrol _ _ _ | .nvmPatrol _ _ _ _ | .mctInc _ _ |
    .commonsStoreProgramComplete | .dbkPut _ _ _ | .rknOwn _ _ _ | .flitReceive _ _ _ _ | .spanReplay _ |
    .spanHeartbeat _ _ _ | .pathHeartbeatTimeout _ | .pathDisable _ _ _ | .spanRecoveryComplete | .generationApply _ |
    .migrationStart _ | .migrationDone _ | .command _ _ | .read _ _ | .write _ _ | .tpdu _ _ | .reset _ _ | .abort _ |
    .folioResponse _ | .folioReceipt _ | .folioTimeout | .folioBusyRetry | .cardCommitDone | .cardDetect _ |
    .characterReceive _ _ | .workWaitingTimeout | .activationTimeout | .clockStop | .tamperTrip _ | .meshCheck _ |
    .seedReady | .rngStartupDone _ | .rngOut _ | .rngRaw _ | .rawModeEnter _ _ | .rawModeExit _ | .assign _ _ _ _ |
    .zeroise _ _ | .release _ _ | .vltImport _ _ | .lockTheVault _ | .fltRev _ _ | .vfieldRise | .vfieldLoss |
    .vcoreLoss | .wake | .scanUpdate _ | .chalReq | .unlock | .relock | .halt _ | .resume _ | .breakpointMatch _ _ |
    .feed _ | .dbgMaddr _ _ | .dbgMpost _ | .dbgTrrd | .stim _ _ _ | .fuseProgram | .comparePathRestored _ _ _ |
    .holdoverExit | .vcoreRise | .tracePacketSent | .healthTestFailure _ _ | .rawSample _ | .commandLineRelease |
    .ppsTimeout | .characterErrorSignal | .folioWakeUpAnswer => true

end Sys2Proof
end

