-- ==== Sys2Proof/Safety.lean ====
section
/-! DEFINITION. What claims are stated in: when a half is ready for the next instruction of a context, what a plain
retirement leaves as it was, and the forms that the state keeps. -/

namespace Sys2Proof.Machine

/-! ## The forms that the state keeps -/

/-- The memories are canonical: cells and lines strictly rising by address, none listed that reads as an unlisted one. -/
def memWf (s : State) : Bool := swf TCell.zero s.ram && swf (none : Option NvmLine) s.nvm

/-- A mode code that R37 assigns. -/
def legalMode (m : BitVec 3) : Bool := m != 6

/-- Both halves' modes, and the modes that HALT and KEEP return to, are codes of R37. -/
def modesWf (s : State) : Bool :=
  legalMode s.h0.ex.mode && legalMode s.h0.ex.modeBefore && legalMode s.h1.ex.mode && legalMode s.h1.ex.modeBefore

/-! ## Ready halves -/

/-- A code word can be fetched and transferred to through a capability: tagged, instruction space, current generation, X,
within its bounds, and mapped (R54, R55, R91). -/
def executable (s : State) (h : HalfId) (c : Cap) (a : Nat) : Bool :=
  c.tag && c.space == spInstr && s.genOk h c && c.has pX && decide (c.base.toNat ≤ a) &&
  decide (a < c.base.toNat + c.len.toNat) && codeMapped s h a == 0

/-- Context k runs in half h, and its next instruction issues at once: the half's lanes run and no halt, KEEP, reset or
step waits for a close (R41, R248, R563); the context neither waits nor fences nor stalls for a generation (R129, R142,
R297); no read is outstanding and no fault or tick is due (R107, R160, R225, R259, R386); the window is below its limits
and no close is forced (R189, R248, R267, R548); nothing is being re-executed (R256); the context is in no repeat (R79);
the frame does not cut its entry (R395) and no requested fence leaves the half without two lanes (R284); no change, tick or context reset of an earlier window awaits its agreement (R33, R154,
R258), and neither an answer of an abandoned instruction nor the state before a load is kept (R205, R206); and its position lies inside PCC (R91). -/
def steady (s : State) (h : HalfId) (k : BitVec 5) : Bool :=
  let x := s.half h
  let e := x.ex
  let w := x.win
  let b := s.bank h k
  e.running == some k && s.running h && !x.tal.inService.isEmpty && w.redo.isNone && !w.rolling &&
  !(s.dbgHalf h).halt && (s.dbgHalf h).stepLeft.isNone && !s.keep.keepReq && !x.up.resetReq &&
  e.waiting.isNone && !e.fencing && e.revoking.isNone && e.reads.isEmpty && e.arith.isNone && !e.repu &&
  !bit e.escSrc 33 && !b.heldArith && !b.heldBudget && !x.sch.expired && w.held.isEmpty &&
  w.replay.isNone && w.replayLog.isEmpty && decide (w.closed.length < 4) && decide (w.slots < 2048) &&
  decide (w.logged < 64) && !w.prtOnce && !bit s.prt.close (34 + h.toNat) && !b.repActive &&
  !w.closeDue && w.items.isEmpty && w.acts.isEmpty && w.ticks.isEmpty && e.rstPend.isEmpty && e.kept.isEmpty && e.ckpt.isEmpty && !x.sch.cutDue &&
  !fenceStrands s h &&
  executable s h b.pcc b.resume.addr.toNat

/-- The bank of the context that leaves position `p` for `to` without a transfer: at the end of a code word the loop
levels are checked (R171). -/
def landed (b : Bank) (p dst : Pos) : Bank :=
  let q := sequential b p dst
  { q.1 with resume := q.2 }

/-- What a retirement without a store leaves as it was: every bank but the context's, the whole other half, and of its own
half everything but the bank, the open issue group, a pending ARITH, the window's signature, the items of it that wait for data
and its slot counts, the line buffer and the performance counters; all memories, both store buffers and every unit of the block. Only the overflow source of a
performance counter that wraps reaches the event controller (R342). -/
structure Unmoved (s t : State) (h : HalfId) (k : BitVec 5) : Prop where
  banks : ∀ j, j ≠ k → t.bank h j = s.bank h j
  otherHalf : t.half h.other = s.half h.other
  block : ({ t with h0 := s.h0, h1 := s.h1, evc := s.evc } : State) = s
  evc : (∀ n < 4, (perfVal (s.half h).mem n).toNat + 2 < 2 ^ 36) → t.evc = s.evc
  ex : t.ex h = { s.ex h with banks := (t.ex h).banks, arith := (t.ex h).arith, groupOpen := (t.ex h).groupOpen,
                              dbgSkip := false }
  win : (t.half h).win = { (s.half h).win with sig := (t.half h).win.sig, items := (t.half h).win.items, slots := (s.half h).win.slots + 1,
                                               replayPos := (s.half h).win.replayPos + 1 }
  mem : (t.half h).mem = { (s.half h).mem with pselOvf := (t.half h).mem.pselOvf, perf0 := (t.half h).mem.perf0,
                                               perf1 := (t.half h).mem.perf1, perf2 := (t.half h).mem.perf2,
                                               perf3 := (t.half h).mem.perf3 }
  rest : t.half h = { s.half h with ex := t.ex h, win := (t.half h).win, mem := (t.half h).mem, line := (t.half h).line }

/-- Command `c` retires as one slot of context k of half h, leaving its bank as `b`, its position at `dst`, the detected
overflow or zero divisor `a` waiting, and all else as in `s'`. -/
def RetiresFrom (c : Instr) (s s' : State) (h : HalfId) (k : BitVec 5) (b : Bank) (dst : Pos) (a : Option PendArith := none) :
    Prop :=
  ∃ t, exec c s = .next t ∧ t.bank h k = landed b (s.bank h k).resume dst ∧ (t.ex h).arith = a ∧ Unmoved s' t h k

/-- The same, with all else as it was. -/
abbrev Retires (c : Instr) (s : State) (h : HalfId) (k : BitVec 5) (b : Bank) (dst : Pos) (a : Option PendArith := none) : Prop :=
  RetiresFrom c s s h k b dst a

/-- Command `c` retires as one slot of context k of half h and continues at `p`, leaving its bank as `b` and all else as it
was: a taken transfer or a return. -/
def Jumps (c : Instr) (s : State) (h : HalfId) (k : BitVec 5) (b : Bank) (p : Pos) : Prop :=
  ∃ t, exec c s = .next t ∧ t.bank h k = { b with resume := p } ∧ (t.ex h).arith = none ∧ Unmoved s t h k

/-! ## Data space -/

/-- Steps 0 to 5 of R55 pass for an access of `w` cells at offset `off` through a capability. -/
def grants (s : State) (h : HalfId) (c : Cap) (space : BitVec 2) (perm off w : Nat) : Bool :=
  c.tag && c.space == space && s.genOk h c && c.has perm && decide (off + w ≤ c.len.toNat)

/-- The entry of a store buffer writes this data cell. -/
def writesCell (e : SbEntry) (a : Addr) : Bool :=
  match e.target with
  | .data b _ => b == a
  | _ => false

/-- The youngest entry of a half's store buffer for a data cell (R197). -/
def lastStore (s : State) (h : HalfId) (a : Addr) : Option SbEntry :=
  ((s.half h).win.sb.filter fun e => writesCell e a).getLast?

/-- A read of an instruction that waits for its cells finds `v` in a data cell under a tenant's key, where its line's code meets
what `r` says: in the youngest entry of the store buffer for it, else in a retained cell, an SRAM line that does not fail, or the
youngest merge-buffer entry of the NVM line, or the NVM line itself, of the tenant, undamaged and in a bank that is not
programming (R197, R315, R322, R325, R328). -/
def finds (s : State) (h : HalfId) (a : Addr) (t : BitVec 10) (r : ReadOutcome) (v : TCell) : Prop :=
  match lastStore s h a with
  | some e => v = ⟨e.data, e.tag⟩
  | none =>
    match regionOf a with
    | .sram j => (s.half j).mem.bad.contains (a.toNat / 2) = false ∧ r ≠ .failed ∧ v = sget TCell.zero s.ram a.toNat
    | .retained => (s.half h).tal.portLost = false ∧ v = sget TCell.zero s.ram a.toNat
    | .nvm j =>
      (∃ e, youngest (s.half j).mem (nvmLine a) = some e ∧ e.tenant = t ∧ v = e.cells.getD (a.toNat % 8) TCell.zero) ∨
      (youngest (s.half j).mem (nvmLine a) = none ∧ lineWaits (s.half j).mem (nvmLine a) = false ∧ r ≠ .failed ∧
        ((storedLine s j (nvmLine a) = none ∧ v = TCell.zero) ∨
         (∃ l, storedLine s j (nvmLine a) = some l ∧ l.broken = false ∧ l.tenant = t ∧ v = l.cells.getD (a.toNat % 8) TCell.zero)))
    | .unmapped => False

/-- What at most `n` reads that find their cells leave as it was: everything but the counts of corrected errors, the key caches and the
performance counters of the halves' memory units; only a counter that wraps raises a source (R315, R322, R323, R341, R342). -/
structure CountedUpTo (n : Nat) (s t : State) : Prop where
  halves : ∀ g, t.half g = { s.half g with mem := { (s.half g).mem with
    keyCache := (t.half g).mem.keyCache, sramCor := (t.half g).mem.sramCor, nvmCor := (t.half g).mem.nvmCor
    pselOvf := (t.half g).mem.pselOvf, perf0 := (t.half g).mem.perf0, perf1 := (t.half g).mem.perf1
    perf2 := (t.half g).mem.perf2, perf3 := (t.half g).mem.perf3 } }
  block : ({ t with h0 := s.h0, h1 := s.h1, evc := s.evc } : State) = s
  evc : (∀ g, ∀ j < 4, (perfVal (s.half g).mem j).toNat + n < 2 ^ 36) → t.evc = s.evc

/-- The same, for an instruction that reads at most 8 cells. -/
abbrev Counted (s t : State) : Prop := CountedUpTo 8 s t

/-- The block after a load has sealed the store buffer of its half (R198). -/
def sealed (s : State) (h : HalfId) : State :=
  s.onWin h fun w => { w with sb := w.sb.map fun e => { e with isSealed := true } }

/-- Context k of half h as the writer of a store (R200). -/
def writerOf (s : State) (h : HalfId) (k : BitVec 5) : Writer :=
  let b := s.bank h k
  ⟨h, k, b.tenant, s.genOf h b.tenant, stW b.status⟩

/-- The store buffer of half h takes these cells of the window in progress, in order (R194): target, data, tag, link. -/
def buffered (s : State) (h : HalfId) (k : BitVec 5) (snap : Option CapSnap) (l : List (Target × Cell × Bool × LinkKind)) : State :=
  s.onWin h fun w =>
    { w with sb := w.sb ++ l.map fun x => ⟨x.1, x.2.1, x.2.2.1, w.num, false, x.2.2.2, false, writerOf s h k, snap,
                                      entryCheck x.1 x.2.1 x.2.2.1 x.2.2.2⟩
             stores := w.stores + l.length }

/-- The store buffer, and the span's outbound queue where the cells go to the other half, take `n` more entries without a
close (R195, R196, R290). -/
def roomFor8 (s : State) (h : HalfId) (n : Nat) : Bool :=
  decide ((s.half h).win.stores + n ≤ 8) && decide ((s.half h).win.sb.length + n ≤ 8) &&
    decide (outboundUsed s h + n ≤ 64)

/-! ## Closing retirements -/

/-- Command `c` retires as one slot of context k of half h and closes the window: the bank, and all other banks; outside
READING-ROOM the store buffer and all memories are as in `s'` (R243, R244, R281). `P` says what else the block then holds. -/
def RetiresClosing (c : Instr) (s s' : State) (h : HalfId) (k : BitVec 5) (b : Bank) (dst : Pos)
    (P : State → Prop := fun _ => True) : Prop :=
  ∃ t, exec c s = .next t ∧ t.bank h k = landed b (s.bank h k).resume dst ∧
    (∀ j, j ≠ k → t.bank h j = s'.bank h j) ∧ (∀ j, t.bank h.other j = s'.bank h.other j) ∧
    (t.half h).win.num = (s.half h).win.num + 1 ∧ (t.half h).win.slots = 0 ∧
    (s.mode h ≠ mReading → (t.half h).win.sb = (s'.half h).win.sb ∧ t.ram = s'.ram ∧ t.nvm = s'.nvm) ∧ P t

/-- The block after an input of context k has been logged in the window in progress (R263). -/
def logged (s : State) (h : HalfId) (k : BitVec 5) (kind : LogKind) (req v0 v1 : Cell) : State :=
  s.onWin h fun w => { w with log := w.log ++ [⟨w.num, w.slots, kind, req, k, (s.bank h k).resume, false, v0, v1⟩], logged := w.logged + 1 }

/-- Command `c` retires as one slot whose input is logged in `u`; the window closes with it when its log is then full (R267). -/
def RetiresLogged (c : Instr) (s u : State) (h : HalfId) (k : BitVec 5) (b : Bank) (dst : Pos) : Prop :=
  ((s.half h).win.logged < 63 → RetiresFrom c s u h k b dst) ∧ ((s.half h).win.logged = 63 → RetiresClosing c s u h k b dst)

/-- Command `c` leads to the entry of a fault or event handler in context k of half h: the frame of position `p` and of the
status that reads `st` lies on the return stack above bank `b`, the context is at the handler, and the other banks and, outside
READING-ROOM, all memories are as they were (R166, R224, R415). -/
def EntersHandler (c : Instr) (s : State) (h : HalfId) (k : BitVec 5) (b : Bank) (p : Pos) (st : Cell) (target : Addr) (status : Cell)
    (P : State → Prop) : Prop :=
  ∃ t, exec c s = .next t ∧
    t.bank h k = { b with rs := TCell.plain (frameEntry p) :: TCell.plain (statusEntry st b.repActive b.repLeft) :: b.rs
                          status := status, resume := ⟨target, 0⟩, repActive := false, repLeft := 0 } ∧
    (∀ j, j ≠ k → t.bank h j = s.bank h j) ∧ (∀ j, t.bank h.other j = s.bank h.other j) ∧
    (s.mode h ≠ mReading → t.ram = s.ram ∧ t.nvm = s.nvm) ∧ P t

/-- An isolated instruction may issue in the window in progress: it has no slot yet, so no close comes first (R264). -/
def freshWindow (s : State) (h : HalfId) : Prop := (s.half h).win.slots = 0 ∧ (s.half h).win.group = false

end Sys2Proof.Machine
end

