-- ==== Sys2Proof/Certificates/Slice0/Obligations.lean ====
section
/-! DEFINITION. The statements for the provers: what a command does to the block, group by group of the opcode table, what
reset leaves, and what every step keeps. `steady s h k` says that context k of half h issues its next instruction at once;
`Retires` that a command retires as one slot and changes only what it names (Safety). -/

open Sys2Proof Sys2Proof.Machine

/-! ## The queue (the block's step) -/

/-- A step takes the command at the front of the queue and has its effect on the block with the rest of the queue; with
none waiting the block idles (the idle step is the model's choice, log entry 1). -/
def Obligations.StepTakesFrontCommand : Prop :=
  (∀ (c : Instr) (s : State) (rest : List Instr), s.pending = c :: rest → step s = exec c { s with pending := rest }) ∧
  (∀ s : State, s.pending = [] → step s = .next s)

/-! ## Slot instructions on the stacks and on data (R42-R45, R102-R112, R135-R139) -/

/-- The stack instructions of class L: their stack effects, with all else unmoved (R102, R100). -/
def Obligations.StackShuffles : Prop :=
  ∀ (s : State) (h : HalfId) (k : BitVec 5) (x y z : Cell) (l : List Cell), steady s h k = true →
    let b := s.bank h k
    let dst := slotsOn b.resume 1
    (b.ds.length ≤ 16 → Retires (.nop h) s h k b dst) ∧
    (b.ds = x :: l → l.length < 15 → Retires (.dup h) s h k { b with ds := x :: x :: l } dst) ∧
    (b.ds = x :: l → l.length ≤ 16 → Retires (.drop h) s h k { b with ds := l } dst) ∧
    (b.ds = y :: x :: l → l.length < 15 → Retires (.swap h) s h k { b with ds := x :: y :: l } dst) ∧
    (b.ds = y :: x :: l → l.length < 14 → Retires (.over h) s h k { b with ds := x :: y :: x :: l } dst) ∧
    (b.ds = z :: y :: x :: l → l.length < 14 → Retires (.rot h) s h k { b with ds := x :: z :: y :: l } dst) ∧
    (b.ds = y :: x :: l → l.length < 16 → Retires (.nip h) s h k { b with ds := y :: l } dst) ∧
    (b.ds = y :: x :: l → l.length < 14 → Retires (.tuck h) s h k { b with ds := y :: x :: y :: l } dst)

/-- What an instruction that detects signed overflow leaves waiting: ARITH at its position, where vtrap asks for it
(R105, R106). -/
def overflowTrap (b : Bank) (ovf : Prop) [Decidable ovf] : Option PendArith :=
  if ovf ∧ b.vtrap = true then some ⟨b.resume, false, 0, 0⟩ else none

/-- The status with carry `cy`, and V set where an overflow is detected and never cleared (R104, R105). -/
def carryStatus (b : Bank) (cy ovf : Prop) [Decidable cy] [Decidable ovf] : Cell :=
  setBit (setBit b.status 34 (decide cy)) 33 (stV b.status || decide ovf)

/-- The exact result does not fit in a signed cell (R105). -/
abbrev tooLarge (i : Int) : Prop := i < -2 ^ 35 ∨ 2 ^ 35 ≤ i

/-- ADD, SUB, ADDC and NEG: the modular result, C as the table of R104 has it, V set when the exact signed result does not
fit and never cleared, and ARITH left waiting only where vtrap is set (R42, R104-R107).
Where it rests on a reading or a choice of the model, log entry 18 says so. -/
def Obligations.CarryArithmetic : Prop :=
  ∀ (s : State) (h : HalfId) (k : BitVec 5) (x y : Cell) (l : List Cell), steady s h k = true → l.length < 16 →
    let b := s.bank h k
    let dst := slotsOn b.resume 1
    let c := (stC b.status).toNat
    (b.ds = y :: x :: l →
      Retires (.add h) s h k
        { b with ds := (x + y) :: l,
                 status := carryStatus b (2 ^ 36 ≤ x.toNat + y.toNat) (tooLarge (x.toInt + y.toInt)) }
        dst (overflowTrap b (tooLarge (x.toInt + y.toInt)))) ∧
    (b.ds = y :: x :: l →
      Retires (.sub h) s h k
        { b with ds := (x - y) :: l,
                 status := carryStatus b (x.toNat < y.toNat) (tooLarge (x.toInt - y.toInt)) }
        dst (overflowTrap b (tooLarge (x.toInt - y.toInt)))) ∧
    (b.ds = y :: x :: l →
      Retires (.addc h) s h k
        { b with ds := (x + y + BitVec.ofNat 36 c) :: l,
                 status := carryStatus b (2 ^ 36 ≤ x.toNat + y.toNat + c) (tooLarge (x.toInt + y.toInt + c)) }
        dst (overflowTrap b (tooLarge (x.toInt + y.toInt + c)))) ∧
    (b.ds = x :: l →
      Retires (.neg h) s h k
        { b with ds := (-x) :: l, status := carryStatus b (x ≠ 0) (tooLarge (-x.toInt)) }
        dst (overflowTrap b (tooLarge (-x.toInt))))

/-- Logic, shifts and comparisons: the result cell, no status bit and nothing else changed (R102, R109, R110). -/
def Obligations.LogicShiftsAndComparisons : Prop :=
  ∀ (s : State) (h : HalfId) (k : BitVec 5) (x y : Cell) (l : List Cell), steady s h k = true → l.length < 16 →
    let b := s.bank h k
    let dst := slotsOn b.resume 1
    let n := y.toNat % 36
    let yields (c : Instr) (v : Cell) : Prop := Retires c s h k { b with ds := v :: l } dst
    let truth (p : Bool) : Cell := if p then 0o777777777777 else 0
    (b.ds = y :: x :: l → yields (.and h) (x &&& y) ∧ yields (.or h) (x ||| y) ∧ yields (.xor h) (x ^^^ y)) ∧
    (b.ds = y :: x :: l → yields (.shl h) (x <<< n) ∧ yields (.shr h) (x >>> n) ∧
      yields (.sar h) (x.sshiftRight n) ∧ yields (.rol h) (x <<< n ||| x >>> (36 - n))) ∧
    (b.ds = y :: x :: l → yields (.eq h) (truth (x == y)) ∧ yields (.lt h) (truth (decide (x.toInt < y.toInt))) ∧
      yields (.ult h) (truth (decide (x.toNat < y.toNat)))) ∧
    (b.ds = x :: l → yields (.not h) (~~~x) ∧ yields (.zeq h) (truth (x == 0)))

/-- MUL, DIVM and UDIVM: the 72-bit product low cell first; remainder and quotient, truncated toward zero, with the cases
of the table of R112; ARITH waits after a zero divisor whatever vtrap holds (R105, R106, R111, R112).
Where it rests on a reading or a choice of the model, log entry 18 says so. -/
def Obligations.MultiplyAndDivide : Prop :=
  ∀ (s : State) (h : HalfId) (k : BitVec 5) (x y : Cell) (l : List Cell), steady s h k = true → l.length < 15 →
    let b := s.bank h k
    let dst := slotsOn b.resume 1
    b.ds = y :: x :: l →
    Retires (.mul h) s h k
      { b with ds := BitVec.ofNat 36 (x.toNat * y.toNat / 2 ^ 36) :: BitVec.ofNat 36 (x.toNat * y.toNat) :: l } dst ∧
    (y = 0 →
      Retires (.divm h) s h k { b with ds := 0 :: x :: l } dst (some ⟨b.resume, true, 0, 0⟩) ∧
      Retires (.udivm h) s h k { b with ds := 0 :: x :: l } dst (some ⟨b.resume, true, 0, 0⟩)) ∧
    (y ≠ 0 →
      Retires (.udivm h) s h k { b with ds := BitVec.ofNat 36 (x.toNat / y.toNat) :: BitVec.ofNat 36 (x.toNat % y.toNat) :: l } dst ∧
      Retires (.divm h) s h k
        { b with ds := BitVec.ofInt 36 (x.toInt.tdiv y.toInt) :: BitVec.ofInt 36 (x.toInt.tmod y.toInt) :: l,
                 status := if x = 0o400000000000 ∧ y = 0o777777777777 then setBit b.status 33 true else b.status }
        dst (overflowTrap b (x = 0o400000000000 ∧ y = 0o777777777777)))

/-- Field f of a cell in triple-12 packing: bits [12f + 11 : 12f] (R43). -/
def field12Of (c : Cell) (f : Nat) : Cell := BitVec.ofNat 36 (c.toNat / 2 ^ (12 * f) % 4096)

/-- Packings, bit counts and X: PK12, UP12, OGET, OPUT, CLZ, POPC, XCH, XGET and XPUT (R43-R45, R135). -/
def Obligations.PackingsCountsAndX : Prop :=
  ∀ (s : State) (h : HalfId) (k : BitVec 5) (x y z : Cell) (l : List Cell), steady s h k = true → l.length < 14 →
    let b := s.bank h k
    let dst := slotsOn b.resume 1
    (b.ds = z :: y :: x :: l →
      Retires (.pk12 h) s h k
        { b with ds := BitVec.ofNat 36 (x.toNat % 4096 * 2 ^ 24 + y.toNat % 4096 * 2 ^ 12 + z.toNat % 4096) :: l } dst) ∧
    (b.ds = x :: l →
      Retires (.up12 h) s h k { b with ds := field12Of x 0 :: field12Of x 1 :: field12Of x 2 :: l } dst) ∧
    (b.ds = y :: x :: l →
      Retires (.oget h) s h k { b with ds := BitVec.ofNat 36 (x.toNat / 2 ^ (8 * (y.toNat % 4)) % 256) :: l } dst) ∧
    (b.ds = z :: y :: x :: l → ∀ v : Cell, (∀ i < 36, v.getLsbD i =
        if 8 * (z.toNat % 4) ≤ i ∧ i < 8 * (z.toNat % 4) + 8 then y.getLsbD (i - 8 * (z.toNat % 4)) else x.getLsbD i) →
      Retires (.oput h) s h k { b with ds := v :: l } dst) ∧
    (b.resume.slot.toNat < 5 → b.ds = x :: l →
      (∀ n : Nat, n ≤ 36 → x.toNat < 2 ^ (36 - n) → (n < 36 → 2 ^ (35 - n) ≤ x.toNat) →
        Retires (.clz h) s h k { b with ds := BitVec.ofNat 36 n :: l } (nextWord b.resume)) ∧
      Retires (.popc h) s h k
        { b with ds := BitVec.ofNat 36 (((List.range 36).filter fun i => x.getLsbD i).length) :: l } (nextWord b.resume) ∧
      Retires (.xch h) s h k { b with ds := b.x :: l, x := x } (nextWord b.resume) ∧
      Retires (.xput h) s h k { b with ds := l, x := x } (nextWord b.resume)) ∧
    (b.resume.slot.toNat < 5 → b.ds = l → Retires (.xget h) s h k { b with ds := b.x :: l } (nextWord b.resume))

/-! ## Stacks, status and sealing (R57, R60, R103, R138-R146) -/

/-- The return stack, depths, status, tenant and time latch: TOR, FROMR, DEPTH, RDEPTH, GETST, SETST, TENANT and TIMEH
(R103, R138, R139, R144). -/
def Obligations.ReturnStackDepthsAndStatus : Prop :=
  ∀ (s : State) (h : HalfId) (k : BitVec 5) (x : Cell) (l : List Cell), steady s h k = true → l.length < 16 →
    let b := s.bank h k
    (b.ds = x :: l → b.rs.length < 16 → Retires (.tor h) s h k { b with ds := l, rs := ⟨x, false⟩ :: b.rs } (slotsOn b.resume 1)) ∧
    (∀ r, b.ds = l → b.rs = ⟨x, false⟩ :: r → r.length < 16 →
      Retires (.fromr h) s h k { b with ds := x :: l, rs := r } (slotsOn b.resume 1)) ∧
    (b.resume.slot.toNat < 5 → b.ds = l →
      Retires (.depth h) s h k { b with ds := (BitVec.ofNat 36 l.length + b.sd) :: l } (nextWord b.resume) ∧
      Retires (.rdepth h) s h k { b with ds := (BitVec.ofNat 36 (b.rs.length + b.rv.length) + b.st) :: l } (nextWord b.resume) ∧
      Retires (.getst h) s h k { b with ds := statusOf (s.half h) k :: l, status := setBit b.status 33 false } (nextWord b.resume) ∧
      Retires (.tenant h) s h k { b with ds := BitVec.ofNat 36 b.tenant.toNat :: l } (nextWord b.resume) ∧
      Retires (.timeh h) s h k { b with ds := b.latch :: l } (nextWord b.resume)) ∧
    (b.resume.slot.toNat < 5 → b.ds = x :: l → stW b.status = true →
      Retires (.setst h) s h k { b with ds := l, status := x &&& 0o776000000000 } (nextWord b.resume))

/-- A capability register read whole: base, length, permissions, tenant, space and generation, and in field 6 whether it is
tagged with a current generation (R60). -/
def capFieldOf (s : State) (h : HalfId) (c : Cap) (f : Nat) : Cell :=
  match f with
  | 0 => BitVec.ofNat 36 c.base.toNat
  | 1 => BitVec.ofNat 36 c.len.toNat
  | 2 => BitVec.ofNat 36 c.perm.toNat
  | 3 => BitVec.ofNat 36 c.tenant.toNat
  | 4 => BitVec.ofNat 36 c.space.toNat
  | 5 => BitVec.ofNat 36 c.gen.toNat
  | _ => if c.tag = true ∧ c.gen = s.genOf h c.tenant then 1 else 0

/-- CGET reads a field of C0-C3, PCC, SPD or SPT; CNAR narrows Cn in place: base + off, the new length and the permissions
masked, inside its bounds (R57, R60, R116, R119). -/
def Obligations.CapabilityReadsAndNarrowing : Prop :=
  ∀ (s : State) (h : HalfId) (k : BitVec 5) (l : List Cell), steady s h k = true → l.length ≤ 12 →
    let b := s.bank h k
    let dst := slotsOn b.resume 1
    (∀ (n f : Nat), n ≤ 6 → f ≤ 6 → b.ds = BitVec.ofNat 36 f :: BitVec.ofNat 36 n :: l →
      let c := [b.c0, b.c1, b.c2, b.c3, b.pcc, b.spd, b.spt].getD n Cap.zero
      Retires (.cget h) s h k { b with ds := capFieldOf s h c f :: l } dst) ∧
    (∀ (n : BitVec 2) (off len mask : Cell), b.ds = n.setWidth 36 :: mask :: len :: off :: l →
      (b.cap n).tag = true → (b.cap n).space ≠ spSealed → off.toNat + len.toNat ≤ (b.cap n).len.toNat →
      Retires (.cnar h) s h k
        (({ b with ds := l } : Bank).setCap n
          { (b.cap n) with base := BitVec.ofNat 24 ((b.cap n).base.toNat + off.toNat), len := BitVec.ofNat 24 len.toNat,
                           perm := (b.cap n).perm &&& mask.extractLsb' 24 8 }) dst)

/-- SEAL and UNSEAL of Cn in warden mode: what the table of R146 makes of its space, X, SE and WD, everything else of the
capability kept (R146). -/
def Obligations.SealingAndUnsealing : Prop :=
  ∀ (s : State) (h : HalfId) (k : BitVec 5) (n : BitVec 2) (wd : Cell) (l : List Cell), steady s h k = true → l.length ≤ 14 →
    let b := s.bank h k
    let c := b.cap n
    stW b.status = true → b.resume.slot.toNat < 5 → c.tag = true →
    (b.ds = n.setWidth 36 :: wd :: l → c.space = spInstr → c.has pX = true →
      ∃ c' : Cap, Retires (.seal h) s h k (({ b with ds := l } : Bank).setCap n c') (nextWord b.resume) ∧
        c'.space = spSealed ∧ c'.has pSE = true ∧ c'.has pWD = wd.getLsbD 0 ∧ (∀ i, 2 ≤ i → c'.perm.getLsbD i = c.perm.getLsbD i) ∧
        { c' with space := c.space, perm := c.perm } = c) ∧
    (b.ds = n.setWidth 36 :: wd :: l → c.space = spData →
      ∃ c' : Cap, Retires (.seal h) s h k (({ b with ds := l } : Bank).setCap n c') (nextWord b.resume) ∧
        c'.space = spSealed ∧ c'.has pX = false ∧ c'.has pSE = false ∧ c'.has pWD = false ∧
        (∀ i, 2 ≤ i → i ≠ 5 → c'.perm.getLsbD i = c.perm.getLsbD i) ∧ { c' with space := c.space, perm := c.perm } = c) ∧
    (b.ds = n.setWidth 36 :: l → c.space = spSealed →
      ∃ c' : Cap, Retires (.unseal h) s h k (({ b with ds := l } : Bank).setCap n c') (nextWord b.resume) ∧
        c'.space = (if c.has pX then spInstr else spData) ∧ c'.has pSE = false ∧ c'.has pWD = false ∧
        (∀ i, 2 ≤ i → c'.perm.getLsbD i = c.perm.getLsbD i) ∧ { c' with space := c.space, perm := c.perm } = c)

/-! ## Literals, transfers, calls and loops (R83, R91, R124-R126, R164-R173) -/

/-- LIT pushes its field sign-extended, or in slot 5 the whole next code word; LITH appends its field to the top cell; each
continues at the next code word not consumed (R74, R83). -/
def Obligations.LiteralsPushTheirFields : Prop :=
  ∀ (s : State) (h : HalfId) (k : BitVec 5) (f : Cell) (g : BitVec 30) (x : Cell) (l : List Cell), steady s h k = true →
    l.length < 16 →
    let b := s.bank h k
    let w := 6 * (5 - b.resume.slot.toNat)
    (b.resume.slot.toNat < 5 → b.ds = l →
      Retires (.lit h f) s h k { b with ds := (f.extractLsb' 0 w).signExtend 36 :: l } (nextWord b.resume)) ∧
    (b.resume.slot = 5 → b.ds = l → b.levels = 0 → executable s h b.pcc (b.resume.addr.toNat + 1) = true →
      Retires (.lit h f) s h k { b with ds := f :: l } ⟨b.resume.addr + 2, 0⟩) ∧
    (b.resume.slot.toNat < 5 → b.ds = x :: l →
      Retires (.lith h g) s h k { b with ds := (x <<< w ||| (g.extractLsb' 0 w).setWidth 36) :: l } (nextWord b.resume))

/-- The loop levels that stay after a taken jump to `a`: those enclosed by no level at the current depth whose body does not
hold `a` (R172). -/
def levelsAfterJump (b : Bank) (a : Addr) : Nat :=
  let leaves (l : LoopReg) : Bool := l.ldp.toNat == b.depthD && (decide (a.toNat < l.ls.toNat) || decide (l.le.toNat < a.toNat))
  if 1 ≤ b.levels ∧ leaves b.loop0 then 0 else if 2 ≤ b.levels ∧ leaves b.loop1 then 1
  else if 3 ≤ b.levels ∧ leaves b.loop2 then 2 else b.levels

/-- JMP, BZ and BNZ: the target's slot 0, the condition popped whether or not the branch is taken, and the loop levels left
by a taken jump ended (R83, R124, R172). -/
def Obligations.JumpsAndBranches : Prop :=
  ∀ (s : State) (h : HalfId) (k : BitVec 5) (a : Addr) (d : BitVec 30) (x : Cell) (l : List Cell), steady s h k = true →
    l.length ≤ 16 →
    let b := s.bank h k
    let p := { b with ds := l }
    let t : Int := b.resume.addr.toNat + (d.extractLsb' 0 (6 * (5 - b.resume.slot.toNat))).toInt
    (b.resume.slot.toNat ≤ 1 → b.ds = l → executable s h b.pcc a.toNat = true →
      Jumps (.jmp h 0 a) s h k { b with levels := levelsAfterJump b a } ⟨a, 0⟩ ∧
      (b.resume.slot = 1 → ∀ z, Jumps (.jmp h z a) s h k { b with levels := levelsAfterJump b a } ⟨a, 0⟩)) ∧
    (b.resume.slot.toNat < 5 → b.ds = x :: l →
      (x ≠ 0 → Retires (.bz h d) s h k p (nextWord b.resume)) ∧
      (x = 0 → Retires (.bnz h d) s h k p (nextWord b.resume)) ∧
      (0 ≤ t → executable s h b.pcc t.toNat = true →
        (x = 0 → Jumps (.bz h d) s h k { p with levels := levelsAfterJump b (BitVec.ofInt 24 t) } ⟨BitVec.ofInt 24 t, 0⟩) ∧
        (x ≠ 0 → Jumps (.bnz h d) s h k { p with levels := levelsAfterJump b (BitVec.ofInt 24 t) } ⟨BitVec.ofInt 24 t, 0⟩)))

/-- The cells that a save mask pushes, in order: each selected capability's first and second cell with its tag, then X
(R125, R164). -/
def savedCells (b : Bank) (m : BitVec 5) : List TCell :=
  let pair (c : Cap) : List TCell := [⟨c.cell0, c.tag⟩, ⟨c.cell1, c.tag⟩]
  (if m.getLsbD 1 then pair b.c0 else []) ++ (if m.getLsbD 2 then pair b.c1 else []) ++
  (if m.getLsbD 3 then pair b.c2 else []) ++ (if m.getLsbD 4 then pair b.c3 else []) ++
  (if m.getLsbD 0 then [⟨b.x, false⟩] else [])

/-- A return entry: mask in [31:27], slot in [26:24], code-word address in [23:0], untagged (R163). -/
def returnCell (m : BitVec 5) (p : Pos) : TCell := ⟨BitVec.ofNat 36 (m.toNat * 2 ^ 27 + p.slot.toNat * 2 ^ 24 + p.addr.toNat), false⟩

/-- CALL and CALLI push what the mask selects and then the return entry, keep the registers, and go to slot 0 of the
target; capabilities are saved only at an even return depth (R80, R81, R125, R163-R165).
Where it rests on a reading or a choice of the model, log entry 19 says so. -/
def Obligations.CallsSaveAndEnter : Prop :=
  ∀ (s : State) (h : HalfId) (k : BitVec 5) (m : BitVec 5) (a : Addr) (l : List Cell), steady s h k = true → l.length ≤ 16 →
    let b := s.bank h k
    let called (p : Pos) : Bank := { b with ds := l, rs := returnCell m p :: ((savedCells b m).reverse ++ b.rs) }
    (b.rs.length + (savedCells b m).length + 1 ≤ 16) → executable s h b.pcc a.toNat = true →
    (m.toNat < 2 ∨ b.depthD % 2 = 0) →
    (b.resume.slot = 0 → b.ds = l → Jumps (.call h (m.setWidth 6) a) s h k (called (nextWord b.resume)) ⟨a, 0⟩) ∧
    (b.resume.slot.toNat < 5 → b.ds = a.setWidth 36 :: l →
      Jumps (.calli h (m.setWidth 6)) s h k (called (slotsOn b.resume 2)) ⟨a, 0⟩)

/-- RET restores what a call with the entry's mask saved, from whatever bank it was saved, pops it all, and resumes at the
recorded slot; with the loop levels left by the smaller depth ended (R126, R163, R172). -/
def Obligations.ReturnRestoresWhatWasSaved : Prop :=
  ∀ (s : State) (h : HalfId) (k : BitVec 5) (m : BitVec 5) (p : Pos) (saved : Bank) (r : List TCell), steady s h k = true →
    let b := s.bank h k
    let back : Bank :=
      { b with c0 := if m.getLsbD 1 then saved.c0 else b.c0, c1 := if m.getLsbD 2 then saved.c1 else b.c1,
               c2 := if m.getLsbD 3 then saved.c2 else b.c2, c3 := if m.getLsbD 4 then saved.c3 else b.c3,
               x := if m.getLsbD 0 then saved.x else b.x, rs := r }
    b.rs = returnCell m p :: ((savedCells saved m).reverse ++ r) → b.rs.length ≤ 16 → b.ds.length ≤ 16 → p.slot.toNat ≤ 5 →
    executable s h b.pcc p.addr.toNat = true → b.levels = 0 → Jumps (.ret h) s h k back p

/-- LOOP in a privileged context opens a level from the next code word over `n` words with its count and return depth, or
skips them at count 0; the last slot of the body goes back while the count lasts and ends the level at 1 (R84, R170,
R171).
Where it rests on a reading or a choice of the model, log entry 20 says so. -/
def Obligations.HardwareLoops : Prop :=
  ∀ (s : State) (h : HalfId) (k : BitVec 5) (n : BitVec 6) (x : Cell) (l : List Cell), steady s h k = true → l.length ≤ 16 →
    let b := s.bank h k
    let a := b.resume.addr.toNat
    (b.resume.slot.toNat < 5 → k.toNat < 8 → n ≠ 0 → b.ds = x :: l → b.levels = 0 →
      (x ≠ 0 → x.toNat < 2 ^ 24 →
        Retires (.loop h n) s h k
          { b with ds := l, levels := 1,
                   loop0 := ⟨BitVec.ofNat 36 (a + 1), BitVec.ofNat 36 (a + n.toNat), x, BitVec.ofNat 36 b.depthD⟩ }
          (nextWord b.resume)) ∧
      (x = 0 → executable s h b.pcc (a + n.toNat + 1) = true →
        Jumps (.loop h n) s h k { b with ds := l } ⟨BitVec.ofNat 24 (a + n.toNat + 1), 0⟩)) ∧
    (b.resume.slot = 5 → b.ds = l → b.levels = 1 → b.loop0.ldp = BitVec.ofNat 36 b.depthD → b.depthD < 2 ^ 36 →
      b.loop0.le.toNat = a →
      (b.loop0.lc ≠ 1 →
        Jumps (.nop h) s h k { b with loop0 := { b.loop0 with lc := b.loop0.lc - 1 } } ⟨b.loop0.ls.extractLsb' 0 24, 0⟩) ∧
      (b.loop0.lc = 1 →
        Jumps (.nop h) s h k { b with levels := 0, loop0 := { b.loop0 with lc := 0 } } ⟨b.resume.addr + 1, 0⟩))

/-! ## Memory instructions (R54, R55, R114-R120, R136, R137, R186, R191, R194-R198) -/

/-- LDn and IFETCH read through Cn or PCC: the youngest entry of the store buffer answers (R197), a boot-ROM word answers at
once, and any other read goes out as one outstanding read of its place, with a placeholder on top and the state before it
kept for its abandonment; each seals the store buffer (R114, R120, R186, R191, R198, R205).
Where it rests on a reading or a choice of the model, log entry 23 says so. -/
def Obligations.LoadsReadDataSpace : Prop :=
  ∀ (s : State) (h : HalfId) (k : BitVec 5) (n : BitVec 2) (off : Cell) (l : List Cell), steady s h k = true →
    l.length < 16 →
    let b := s.bank h k
    let dst := slotsOn b.resume 1
    let back (v : Cell) : Bank := { b with ds := v :: l }
    let out (a : Addr) (t : BitVec 10) (reg : BitVec 3) (info : BitVec 24) : OutRead :=
      ⟨l.length + b.sd.toNat, a, t, false, TCell.zero, false, false, false, none, b.resume, reg, info⟩
    let started (o : OutRead) : State :=
      (startRead (sealed s h) h k o).onEx h fun e => { e with ckpt := e.ckpt ++ [ckptOf s h k] }
    b.ds = off :: l →
    (∀ a : Addr, a.toNat = (b.cap n).base.toNat + off.toNat → grants s h (b.cap n) spData pLD off.toNat 1 = true →
      dataMapped s h a.toNat = 0 →
      (∀ e, lastStore s h a = some e → RetiresFrom (.ldn h n) s (sealed s h) h k (back e.data) dst) ∧
      (lastStore s h a = none →
        RetiresFrom (.ldn h n) s (started (out a (b.cap n).tenant (n.setWidth 3) a)) h k (back 0) dst)) ∧
    (∀ a : Addr, a.toNat = b.pcc.base.toNat + off.toNat → grants s h b.pcc spInstr pLD off.toNat 1 = true →
      codeMapped s h a.toNat = 0 →
      (0o77600000 ≤ a.toNat → RetiresFrom (.ifetch h) s (sealed s h) h k (back (Config.bootRom a.toNat)) dst) ∧
      (a.toNat < 0o77600000 →
        (∀ e, lastStore s h (a + 0o04000000) = some e → RetiresFrom (.ifetch h) s (sealed s h) h k (back e.data) dst) ∧
        (lastStore s h (a + 0o04000000) = none →
          RetiresFrom (.ifetch h) s (started (out (a + 0o04000000) b.pcc.tenant 4 a)) h k (back 0) dst)))

/-- STn and CST put their cells into the store buffer, under the address that the capability gives: STn one untagged cell
of Cn's tenant, or in place of the entry of this window that it merges with; CST the two cells of Cn, tagged and linked,
through C0 (R49, R56, R114, R115, R118, R194, R198). Memory itself is not touched. -/
def Obligations.StoresEnterTheBuffer : Prop :=
  ∀ (s : State) (h : HalfId) (k : BitVec 5) (n : BitVec 2) (off v : Cell) (l : List Cell) (a : Addr), steady s h k = true →
    l.length ≤ 14 → roomFor8 s h 2 = true →
    let b := s.bank h k
    let dst := slotsOn b.resume 1
    (b.ds = off :: v :: l → a.toNat = (b.cap n).base.toNat + off.toNat →
      grants s h (b.cap n) spData pST off.toNat 1 = true → dataMapped s h a.toNat = 0 →
      ((regionOf a).isNvm && s.lockedMode h) = false →
      (wouldMerge (s.half h).win a = false →
        RetiresFrom (.stn h n) s (buffered s h k none [(.data a (b.cap n).tenant, v, false, .single)]) h k { b with ds := l } dst) ∧
      (∀ (e : SbEntry) (pre post : List SbEntry), (s.half h).win.sb = pre ++ e :: post →
        e.mergeable (s.half h).win.num a = true → (∀ x ∈ pre ++ post, x.mergeable (s.half h).win.num a = false) →
        RetiresFrom (.stn h n) s
          (s.onWin h fun w => { w with sb := pre ++ { e with target := .data a (b.cap n).tenant, data := v, tag := false,
                                                             chk := entryCheck (.data a (b.cap n).tenant) v false .single,
                                                             writer := writerOf s h k } :: post }) h k { b with ds := l } dst)) ∧
    (b.ds = n.setWidth 36 :: off :: l → a.toNat = b.c0.base.toNat + off.toNat → off.getLsbD 0 = false →
      grants s h b.c0 spData pCS off.toNat 2 = true → dataMapped s h a.toNat = 0 → dataMapped s h (a.toNat + 1) = 0 →
      (b.cap n).tag = true → ((b.cap n).has pGL = true ∨ (b.cap n).tenant = b.c0.tenant) →
      ((regionOf a).isNvm && s.lockedMode h) = false →
      RetiresFrom (.cst h) s
        (buffered s h k none [(.data a b.c0.tenant, (b.cap n).cell0, true, .first),
                              (.data (a + 1) b.c0.tenant, (b.cap n).cell1, true, .second)]) h k { b with ds := l } dst)

/-- CLD loads Cn from two tagged cells through C0; FILLD brings cells back beneath the cached ones, FILLT the 8 entries
saved last beneath the cached entries; each lowers its count by what it brings. They retire when every cell they read is found,
wherever it lies, with an error corrected or none, and the reads leave only counts (R117, R136, R137, R197, R315, R322).
Where it rests on a reading or a choice of the model, log entries 23 and 43 say so. -/
def Obligations.CapabilityLoadsAndFills : Prop :=
  ∀ (s : State) (f : Fetching) (k : BitVec 5), steady s f.half k = true →
    let h := f.half
    let b := s.bank h k
    let back (c : Instr) (b' : Bank) (dst : Pos) : Prop := ∃ s', Counted (sealed s h) s' ∧ RetiresFrom c s s' h k b' dst
    (∀ (n : BitVec 2) (off : Cell) (l : List Cell) (a : Addr) (x y : TCell), b.ds = n.setWidth 36 :: off :: l →
      l.length ≤ 14 → a.toNat = b.c0.base.toNat + off.toNat → off.getLsbD 0 = false →
      grants s h b.c0 spData pCL off.toNat 2 = true → dataMapped s h a.toNat = 0 → dataMapped s h (a.toNat + 1) = 0 →
      finds s h a b.c0.tenant (outcomeAt f.errs 0) x → finds s h (a + 1) b.c0.tenant (outcomeAt f.errs 1) y →
      x.tag = true → y.tag = true →
      back (.cld f) (({ b with ds := l } : Bank).setCap n (capOf true x.val y.val)) (slotsOn b.resume 1)) ∧
    (b.resume.slot.toNat < 5 → b.ds.length ≤ 16 → ∀ (v : List TCell) (a : Nat), v.length = min 8 (min b.sd.toNat (16 - b.ds.length)) →
      a = b.spd.base.toNat + (b.sd.toNat - v.length) →
      (∀ i < v.length, grants s h b.spd spData pLD (b.sd.toNat - v.length + i) 1 = true ∧ dataMapped s h (a + i) = 0 ∧
        finds s h (BitVec.ofNat 24 (a + i)) b.spd.tenant (outcomeAt f.errs i) (v.getD i TCell.zero)) →
      back (.filld f)
        { b with ds := b.ds ++ (v.map fun c => c.val).reverse, sd := b.sd - BitVec.ofNat 36 v.length } (nextWord b.resume)) ∧
    (b.resume.slot.toNat < 5 → b.ds.length ≤ 16 → 8 ≤ b.st.toNat → b.rs.length ≤ 8 → ∀ (v : List TCell) (a : Nat), v.length = 8 →
      a = b.spt.base.toNat + (b.st.toNat - 8) →
      (∀ i < 8, grants s h b.spt spData pLD (b.st.toNat - 8 + i) 1 = true ∧ b.spt.has pCL = true ∧ dataMapped s h (a + i) = 0 ∧
        finds s h (BitVec.ofNat 24 (a + i)) b.spt.tenant (outcomeAt f.errs i) (v.getD i TCell.zero)) →
      back (.fillt f) { b with rs := b.rs ++ v.reverse, st := b.st - 8 } (nextWord b.resume)) ∧
    (b.resume.slot.toNat < 5 → b.ds.length ≤ 16 → (b.st.toNat < 8 ∨ 8 < b.rs.length) →
      RetiresFrom (.fillt f) s (sealed s h) h k b (nextWord b.resume))

/-- SPILLD stores the oldest cells, 8 of them or all, through SPD above those stored before, and SPILLT the 8 oldest
entries through SPT, each tagged pair by one capability store; each raises its count (R136, R137). SPILLT with fewer than 8
entries does nothing. -/
def Obligations.SpillsStoreTheOldest : Prop :=
  ∀ (s : State) (h : HalfId) (k : BitVec 5), steady s h k = true →
    let b := s.bank h k
    let fresh (a n : Nat) : Prop := ∀ i < n, wouldMerge (s.half h).win (BitVec.ofNat 24 (a + i)) = false
    let plain (a n : Nat) : Prop := ∀ i < n, dataMapped s h (a + i) = 0 ∧
      ((regionOf (BitVec.ofNat 24 (a + i))).isNvm && s.lockedMode h) = false
    b.resume.slot.toNat < 5 → b.ds.length ≤ 16 →
    (∀ (v l : List Cell) (a : Nat), b.ds = l ++ v.reverse → v.length = min 8 b.ds.length → roomFor8 s h v.length = true →
      a = b.spd.base.toNat + b.sd.toNat → grants s h b.spd spData pST b.sd.toNat v.length = true →
      plain a v.length → fresh a v.length →
      RetiresFrom (.spilld h) s
        (buffered s h k none ((List.range v.length).map fun i =>
          (.data (BitVec.ofNat 24 (a + i)) b.spd.tenant, v.getD i 0, false, .single))) h k
        { b with ds := l, sd := b.sd + BitVec.ofNat 36 v.length } (nextWord b.resume)) ∧
    (∀ (v l : List TCell) (a : Nat), b.rs = l ++ v.reverse → v.length = 8 → roomFor8 s h 8 = true →
      a = b.spt.base.toNat + b.st.toNat → grants s h b.spt spData pST b.st.toNat 8 = true → b.spt.has pCS = true →
      plain a 8 → fresh a 8 →
      (∀ i < 4, (v.getD (2 * i) TCell.zero).tag = true → (v.getD (2 * i + 1) TCell.zero).tag = true →
        globalOk (capOf true (v.getD (2 * i) TCell.zero).val (v.getD (2 * i + 1) TCell.zero).val) b.spt.tenant = true) →
      let pair (i : Nat) : Bool := (v.getD (i / 2 * 2) TCell.zero).tag && (v.getD (i / 2 * 2 + 1) TCell.zero).tag
      RetiresFrom (.spillt h) s
        (buffered s h k none ((List.range 8).map fun i =>
          (.data (BitVec.ofNat 24 (a + i)) b.spt.tenant, (v.getD i TCell.zero).val, pair i,
            if pair i then (if i % 2 = 0 then .first else .second) else .single))) h k
        { b with rs := l, st := b.st + 8 } (nextWord b.resume)) ∧
    (b.rs.length < 8 → Retires (.spillt h) s h k b (nextWord b.resume))

/-- What a repeat leaves as its block: the half's slots signed, and nothing else beside the bank and a pending ARITH. -/
def Repeats (c : Instr) (s : State) (h : HalfId) (k : BitVec 5) (b : Bank) (dst : Pos) (a : Option PendArith) (slots : Nat) : Prop :=
  ∃ t, exec c s = .next t ∧ t.bank h k = landed b (s.bank h k).resume dst ∧ (t.ex h).arith = a ∧
    (∀ j, j ≠ k → t.bank h j = s.bank h j) ∧ t.half h.other = s.half h.other ∧
    ({ t with h0 := s.h0, h1 := s.h1, evc := s.evc } : State) = s ∧ (t.half h).win.slots = (s.half h).win.slots + slots ∧
    (t.half h).win.sb = (s.half h).win.sb

/-- REP and REPU run their target once in a step: the first time with the count taken from the top of the stack or the
prefix, afterwards from the repeat register; with the last iteration the position passes the target, before it the prefix
stays. Stated for targets that only change the bank; a count of 0 runs nothing (R77, R78, R167, R169).
Where it rests on a reading or a choice of the model, log entry 22 says so. -/
def Obligations.PrefixesRepeatTheirTarget : Prop :=
  ∀ (s : State) (h : HalfId) (k : BitVec 5) (target : BitVec 6) (o : Op) (b' : Bank) (z : Option Bool) (n : Nat),
    steady s h k = true →
    let b := { s.bank h k with repActive := false, repLeft := 0 }
    let pure (b₁ : Bank) (dst : Pos) : Prop := simpleOp target b₁ = some o ∧ o.isolated = false ∧
      runChecked o s h k b₁ dst = .done { doneOf s b' dst with arith := z }
    let det (at_ : Pos) : Option PendArith := z.map fun y => ⟨at_, y, 0, 0⟩
    (∀ l, b.resume.slot.toNat < 5 → b.ds = BitVec.ofNat 36 n :: l → b.ds.length ≤ 16 → n < 2 ^ 24 →
      (simpleOp target b).isSome = true → pure { b with ds := l } (slotsOn b.resume 2) →
      (n = 0 → Repeats (.rep h target) s h k { b with ds := l } (slotsOn b.resume 2) none 1) ∧
      (n = 1 → Repeats (.rep h target) s h k { b' with repActive := false, repLeft := 0 } (slotsOn b.resume 2)
        (det (slotsOn b.resume 1)) 2) ∧
      (2 ≤ n → Repeats (.rep h target) s h k { b' with repActive := true, repLeft := BitVec.ofNat 24 (n - 1) } b.resume
        (det (slotsOn b.resume 1)) 2)) ∧
    (∀ u : State, u = s.setBank h k { b with repActive := true, repLeft := BitVec.ofNat 24 n } → b.resume.slot.toNat < 5 →
      b.ds.length ≤ 16 → 0 < n → n < 2 ^ 24 →
      simpleOp target b = some o → o.isolated = false → runChecked o u h k b (slotsOn b.resume 2) =
        .done { doneOf u b' (slotsOn b.resume 2) with arith := z } →
      (n = 1 → Repeats (.rep h target) u h k { b' with repActive := false, repLeft := 0 } (slotsOn b.resume 2)
        (det (slotsOn b.resume 1)) 1) ∧
      (2 ≤ n → Repeats (.rep h target) u h k { b' with repActive := true, repLeft := BitVec.ofNat 24 (n - 1) } b.resume
        (det (slotsOn b.resume 1)) 1)) ∧
    (∀ count : BitVec 6, count.toNat = n → b.resume.slot.toNat < 4 → b.ds.length ≤ 16 → pure b (slotsOn b.resume 3) →
      (n = 0 → Repeats (.repu h count target) s h k b (slotsOn b.resume 3) none 1) ∧
      (n = 1 → Repeats (.repu h count target) s h k { b' with repActive := false, repLeft := 0 } (slotsOn b.resume 3)
        (det (slotsOn b.resume 2)) 2) ∧
      (2 ≤ n → ∃ t, Repeats (.repu h count target) s h k { b' with repActive := true, repLeft := BitVec.ofNat 24 (n - 1) } b.resume
        (det (slotsOn b.resume 2)) 2 ∧ exec (.repu h count target) s = .next t ∧ (t.ex h).repu = true))

/-! ## I/O space, leases, time and waiting (R115, R121-R123, R129-R132, R141-R145, R263, R264, R351) -/

/-- IN reads the register that C3 addresses, at both its cells for a two-cell register, and logs what it read; in exchange mode
it logs the bitwise majority of three samples, each at its own time; a read with an effect is made once, isolated in a window of
its own. OUT puts the write into the store buffer, with the capability copy that it carries, and closes the window (R121-R123,
R243, R263, R264, R267-R269).
Where it rests on a reading or a choice of the model, log entries 28, 30 and 90 say so. -/
def Obligations.InputsAndOutputs : Prop :=
  ∀ (s : State) (i : Sampling) (k : BitVec 5) (off v0 v1 : Cell) (l : List Cell) (a : Nat) (r : IoRun), steady s i.half k = true →
    l.length ≤ 13 →
    let h := i.half
    let b := s.bank h k
    let dst := slotsOn b.resume 1
    let w := if r.two then 2 else 1
    let me : Reader := ⟨h, k, b.tenant, stW b.status⟩
    let pushed (x0 x1 : Cell) : Bank := { b with ds := if r.two then x1 :: x0 :: l else x0 :: l }
    let voted (x y z v : Cell) : Prop := ∀ j, v.getLsbD j = ((x.getLsbD j && y.getLsbD j) || (x.getLsbD j && z.getLsbD j) || (y.getLsbD j && z.getLsbD j))
    a = b.c3.base.toNat + off.toNat → ioRun a = some r → a < 2 ^ 16 → (r.two = true → a % 2 = 0) →
    (0o140000 ≤ a → spanOpen s h = true) → ((r.warden || a == 0o060006 && !s.dbk.tenantPut) = true → stW b.status = true) →
    (b.ds = off :: l → grants s h b.c3 spIo pLD off.toNat w = true → outPending s h k = false →
      (a < 0o100000 → (s.half h).tal.portLost = false) → ∀ u : State, ioRead s me a = (u, v0, v1) →
      (r.effect = false → b.tilmer = false →
        RetiresLogged (.inp i) s (logged u h k .io (BitVec.ofNat 36 a) v0 v1) h k (pushed v0 v1) dst) ∧
      (r.effect = false → b.tilmer = true → ∀ (u₁ u₂ : State) (x0 x1 y0 y1 z0 z1 : Cell), ioRead (advance u i.d1) me a = (u₁, x0, x1) →
        ioRead (advance u₁ i.d2) me a = (u₂, y0, y1) → voted v0 x0 y0 z0 → voted v1 x1 y1 z1 →
        RetiresLogged (.inp i) s (logged u₂ h k .io (BitVec.ofNat 36 a) z0 z1) h k (pushed z0 z1) dst) ∧
      (r.effect = true → freshWindow s h → RetiresClosing (.inp i) s u h k (pushed v0 v1) dst)) ∧
    (grants s h b.c3 spIo pST off.toNat w = true → outLocked s h a w v0 = false → roomFor8 s h 2 = true →
      (r.two = false → b.ds = off :: v0 :: l →
        RetiresClosing (.outp h) s (buffered s h k (outSnap s h b a v0) [(.io (BitVec.ofNat 16 a), v0, false, .single)])
          h k { b with ds := l } dst) ∧
      (r.two = true → b.ds = off :: v1 :: v0 :: l →
        RetiresClosing (.outp h) s
          (buffered s h k (outSnap s h b a v0) [(.io (BitVec.ofNat 16 a), v0, false, .first),
                                                (.io (BitVec.ofNat 16 (a + 1)), v1, false, .second)])
          h k { b with ds := l } dst))

/-- LEASE pushes the first status of R143 that applies, in the order 2, 3, 1, and on 0 charges the ceiling of the class and
holds the lease; UNLEASE gives it back; both are isolated (R143, R264, R373, R391).
Where it rests on a reading or a choice of the model, log entry 57 says so. -/
def Obligations.LeasesAreChargedAndReturned : Prop :=
  ∀ (s : State) (h : HalfId) (k : BitVec 5) (cls : Cell) (l : List Cell), steady s h k = true → freshWindow s h → l.length < 16 →
    let b := s.bank h k
    let g := (s.half h).gov
    let c : BitVec 4 := cls.extractLsb' 0 4
    let n : Int := ((sget 0 g.costs c.toNat : Nat) : Int)
    let back (v : Cell) : Bank := { b with ds := v :: l }
    let dst := nextWord b.resume
    b.resume.slot.toNat < 5 →
    (b.ds = cls :: l → cls.toNat < 16 →
      ((leaseOf g k).isSome = true → RetiresClosing (.lease h) s s h k (back 2) dst) ∧
      (leaseOf g k = none → g.ticked = false → RetiresClosing (.lease h) s s h k (back 1) dst) ∧
      (leaseOf g k = none → g.ticked = true →
        (ownEntry s h k = none → RetiresClosing (.lease h) s s h k (back 3) dst) ∧
        (∀ i, ownEntry s h k = some i →
          (((s.half h).sch.active.entry i).decl.getLsbD c.toNat = false → RetiresClosing (.lease h) s s h k (back 3) dst) ∧
          (((s.half h).sch.active.entry i).decl.getLsbD c.toNat = true →
            ((g.remaining < n ∨ allowLeftOf (s.half h).sch i < n) → RetiresClosing (.lease h) s s h k (back 1) dst) ∧
            (n ≤ g.remaining → n ≤ allowLeftOf (s.half h).sch i → RetiresClosing (.lease h) s s h k (back 0) dst fun t =>
              leaseOf (t.half h).gov k = some ⟨c, 0⟩ ∧ (t.half h).gov.remaining = g.remaining - n ∧
              allowLeftOf (t.half h).sch i = allowLeftOf (s.half h).sch i - n))))) ∧
    (b.ds = l → RetiresClosing (.unlease h) s s h k b dst fun t => leaseOf (t.half h).gov k = none ∧
      (∀ x, leaseOf g k = some x → (t.half h).gov.remaining = g.remaining + ((sget 0 g.costs x.cls.toNat : Nat) : Int) - x.used))

/-- TIMEL pushes bits [35:0] of the time base and keeps [71:36]; FLEETCHK pushes ones for a member of the index that is not
revoked and else 0; STAT pushes the status of a ticket; each result is logged (R144, R145, R263, R267, R351). -/
def Obligations.LoggedReads : Prop :=
  ∀ (s : State) (h : HalfId) (k : BitVec 5) (dt : Nat) (x : Cell) (l : List Cell), steady s h k = true → l.length < 16 →
    let b := s.bank h k
    let dst := nextWord b.resume
    let now := (advance s dt).evc.timeBase
    let lo : Cell := now.extractLsb' 0 36
    let hi : Cell := now.extractLsb' 36 36
    let member : Cell := if x.toNat < fltSize s ∧ ¬ (sget 0 s.flt.mirror (x.toNat / 32)).getLsbD (x.toNat % 32) then 0o777777777777 else 0
    b.resume.slot.toNat < 5 →
    (b.ds = l → RetiresLogged (.timel h dt) s (logged (advance s dt) h k .timel 0 lo hi) h k { b with ds := lo :: l, latch := hi } dst) ∧
    (b.ds = x :: l → RetiresLogged (.fleetchk h) s (logged s h k .fleetchk x member 0) h k { b with ds := member :: l } dst) ∧
    (b.ds = x :: l →
      RetiresLogged (.stat h) s (logged s h k .stat x (statOf s h k x) 0) h k { b with ds := statOf s h k x :: l } dst)

/-- WAIT and SYNC end at once when an end condition holds or no time is given, pushing their status; else the lanes wait
with the bank unchanged, and the waiting instruction ends with its status once its time is up or its condition holds
(R129-R132, R245, R267, R351).
Where it rests on a reading or a choice of the model, log entries 25 and 26 say so. -/
def Obligations.WaitsEndWithAStatus : Prop :=
  ∀ (s : State) (h : HalfId) (k : BitVec 5) (time mask ticket : Cell) (l : List Cell), steady s h k = true → l.length < 15 →
    let b := s.bank h k
    let g := gctx h k
    let u : State := { s with mbx := { s.mbx with cross := sput none s.mbx.cross g.toNat none } }
    let waits (v : State) (w : Waiting) : State := v.onEx h fun e => { e with waiting := some w }
    let starts (c : Instr) (w : Waiting) : Prop := ∃ t, exec c s = .next t ∧ t.bank h k = b ∧ (t.ex h).waiting = some w ∧
      (∀ j, t.bank h j = s.bank h j) ∧ (∀ j, t.bank h.other j = s.bank h.other j)
    (b.ds = time :: mask :: l →
      (∀ c n, waitCause u h k mask false = some (c, n) → c ≠ 4 → RetiresLogged (.wait h) s
        (logged u h k .wait 0 (waitStatus u g c n) 0) h k { b with ds := waitStatus u g c n :: l } (slotsOn b.resume 1)) ∧
      (waitCause u h k mask false = none → (time.extractLsb' 0 32 : BitVec 32) = 0 → RetiresLogged (.wait h) s
        (logged u h k .wait 0 (waitStatus u g 0 0) 0) h k { b with ds := waitStatus u g 0 0 :: l } (slotsOn b.resume 1)) ∧
      (waitCause u h k mask false = none → (time.extractLsb' 0 32 : BitVec 32) ≠ 0 → freshWindow s h → (s.half h).rkn.queue = [] →
        starts (.wait h) ⟨false, mask, time, false⟩)) ∧
    (b.ds = time :: mask :: l → ∀ seen, waitCause (waits s ⟨false, mask, time, seen⟩) h k mask seen = none →
      (time.extractLsb' 0 32 : BitVec 32) ≠ BitVec.allOnes 32 →
      RetiresLogged (.waitEnd h true) (waits s ⟨false, mask, time, seen⟩) (logged s h k .wait 0 (waitStatus s g 0 0) 0) h k
        { b with ds := waitStatus s g 0 0 :: l } (slotsOn b.resume 1)) ∧
    (b.resume.slot.toNat < 5 → b.ds = ticket :: l →
      (statEnds (statOf s h k ticket) = true → RetiresLogged (.sync h) s (logged s h k .sync ticket (statOf s h k ticket) 0) h k
        { b with ds := statOf s h k ticket :: l } (nextWord b.resume)) ∧
      (statEnds (statOf s h k ticket) = false → entryDue s h = false → freshWindow s h →
        (∀ c ∈ (s.half h).rkn.queue, c.state ≠ .finished) → starts (.sync h) ⟨true, ticket, 0, false⟩) ∧
      (statEnds (statOf s h k ticket) = true → RetiresLogged (.sync h) (waits s ⟨true, ticket, 0, false⟩)
        (logged s h k .sync ticket (statOf s h k ticket) 0) h k { b with ds := statOf s h k ticket :: l } (nextWord b.resume)))

/-- YIELD closes the window and ends the schedule entry that runs, and in a context without one returns the half to its scheduler;
FENCE closes it and holds the lanes until the voted window
and every store before it are out, which in READING-ROOM may be so at once (R141, R142, R281).
Where it rests on a reading or a choice of the model, log entries 24 and 27 say so. -/
def Obligations.YieldAndFenceCloseTheWindow : Prop :=
  ∀ (s : State) (h : HalfId) (k : BitVec 5) (used : Nat), steady s h k = true →
    let b := s.bank h k
    b.resume.slot.toNat < 5 → b.ds.length ≤ 16 →
    (∀ i, (s.half h).rkn.queue = [] → ownEntry s h k = some i → i ∈ (s.half h).sch.started →
      RetiresClosing (.yield h used) s s h k b (nextWord b.resume) fun t => (t.half h).sch.cur ≠ some i) ∧
    ((s.half h).rkn.queue = [] → (s.ex h).chain = [] → ownEntry s h k = none →
      RetiresClosing (.yield h used) s s h k b (nextWord b.resume) fun t => ∀ i, (s.half h).sch.cur = some i → (t.half h).sch.cur = some i) ∧
    ((s.half h).rkn.queue = [] → (s.ex h).chain ≠ [] → RetiresClosing (.yield h used) s s h k b (nextWord b.resume) fun t =>
      (t.half h).sch = (s.half h).sch ∧ (t.ex h).running = some k) ∧
    (s.mode h ≠ mReading → RetiresClosing (.fence h) s s h k b (nextWord b.resume) fun t => (t.ex h).fencing = true) ∧
    (s.mode h = mReading → (s.ex h).mintPend = none → RetiresClosing (.fence h) s s h k b (nextWord b.resume) fun t =>
      (t.ex h).fencing = true ∨ ((t.half h).win.sb = [] ∧ writesSettled t h = true))

/-! ## Faults, events, returns and gates (R72, R89, R107, R140, R147, R157-R166, R215-R224, R413-R416) -/

/-- The fault of cause `c` can be entered in context k at `target`: its handler is present and inside PCC, its level above
MASK, and the frame fits on the cached return stack (R159, R221, R223, R232). -/
def enterable (s : State) (h : HalfId) (k : BitVec 5) (c : BitVec 4) (target : Addr) : Prop :=
  let b := s.bank h k
  handlerAt s h k c = some target ∧ (stMask b.status).toNat < (faultLevel (s.ex h) c).toNat ∧ b.rv = [] ∧ b.rs.length ≤ 14

/-- ILL and a reserved selector raise ILLEGAL at their own position; TRAP retires with its number pushed and raises TRAP
with the position after it; ARITH_ENTRY enters the ARITH that waits once its boundary has come, with the offending position in its
record. Each frame holds position and status, IE becomes 0, and the record says cause, position, status and info (R72, R89, R107,
R166, R203, R224, R227-R229).
Where it rests on a reading or a choice of the model, log entries 16, 18 and 19 say so. -/
def Obligations.FaultsEnterTheirHandlers : Prop :=
  ∀ (s : State) (h : HalfId) (k : BitVec 5) (target : Addr), steady s h k = true →
    let b := s.bank h k
    let st := statusOf (s.half h) k
    let after := setBit b.status 32 false
    let recorded (r : Pair) (t : State) : Prop := recOf (t.ex h) k = r
    (∀ (sel : Option (Bool × BitVec 6)) (op : BitVec 6), illNamed sel = true → op = (match sel with | none => 0o77 | some (_, x) => x) →
      (sel ≠ none → b.resume.slot.toNat < 5) → enterable s h k cIllegal target →
      EntersHandler (.ill h sel) s h k b b.resume st target after (recorded (recordOf ⟨cIllegal, eEncoding, 7, op.setWidth 24, false⟩ false b.resume))) ∧
    (∀ n : BitVec 6, b.resume.slot.toNat < 5 → b.ds.length < 16 → enterable s h k cTrap target →
      let b' := landed { b with ds := n.setWidth 36 :: b.ds } b.resume (nextWord b.resume)
      EntersHandler (.trap h n) s h k b' b'.resume st target after (recorded (recordOf ⟨cTrap, 0, 7, n.setWidth 24, false⟩ false b.resume))) ∧
    (∀ a : PendArith, (stPrec b.status = true ∨ 6 ≤ a.slots ∨ 3 < a.groups) → enterable s h k cArith target →
      EntersHandler (.arithEntry h) (s.onEx h fun e => { e with arith := some a }) h k b b.resume st target after
        (recorded (recordOf ⟨cArith, if a.divZero then eDivideZero else eOverflow, 7, 0, false⟩ (!stPrec b.status || a.slots != 0) a.at_))) ∧
    (∀ a : PendArith, stPrec b.status = false → a.slots < 6 → a.groups ≤ 3 →
      exec (.arithEntry h) (s.onEx h fun e => { e with arith := some a }) = .next (s.onEx h fun e => { e with arith := some a }))

/-- EVENT_ENTRY enters the EVENT handler of the context to which the best takeable source is routed, at the boundary: MASK
becomes the source's level, the frame holds the context's own position and status, and a context that did not run borrows
the half (R413-R416).
Where it rests on a reading or a choice of the model, log entries 16 and 61 say so. -/
def Obligations.EventsEnterTheRoutedContext : Prop :=
  ∀ (s : State) (h : HalfId) (k : BitVec 5) (src : Nat) (target : Addr), steady s h k = true → bestRequest s h = some src →
    let j := gLocal (routeOf s src)
    let b := s.bank h j
    handlerAt s h j cEvent = some target →
    EntersHandler (.eventEntry h) s h j b b.resume (statusOf (s.half h) j) target (withMask b.status (BitVec.ofNat 3 (levelOf s src)))
      fun t => (t.ex h).running = some j ∧
        (t.ex h).chain = (if j = k then (s.ex h).chain else ⟨some k, j, b.depthD⟩ :: (s.ex h).chain)

/-- RETI pops the frame on top, of the reserve first, and restores position, status and repeat; W is restored only in
warden mode (R140, R161, R166). -/
def Obligations.RetiRestoresTheFrame : Prop :=
  ∀ (s : State) (h : HalfId) (k : BitVec 5) (used : Nat) (pe se : Cell) (r : List TCell), steady s h k = true →
    let b := s.bank h k
    let c : Cell := (se >>> 28) <<< 28
    let back : Bank := { b with status := if stW b.status then c else setBit c 35 false
                                repActive := se.getLsbD 24, repLeft := if se.getLsbD 24 then se.extractLsb' 0 24 else 0 }
    let p : Pos := ⟨pe.extractLsb' 0 24, pe.extractLsb' 24 3⟩
    b.resume.slot.toNat < 5 → b.ds.length ≤ 16 → b.levels = 0 → (s.ex h).chain = [] → (s.ex h).dbgFrames = [] →
    (s.ex h).escSrc.getLsbD 34 = false → pe.getLsbD 32 = true → p.slot.toNat ≤ 5 → executable s h b.pcc p.addr.toNat = true →
    (b.rv = [] → b.rs = TCell.plain pe :: TCell.plain se :: r → Jumps (.reti h used) s h k { back with rs := r } p) ∧
    (b.rv = TCell.plain pe :: TCell.plain se :: r → Jumps (.reti h used) s h k { back with rv := r } p)

/-- CINV through an entry saves the return position and the status, gives the callee PCC unsealed and the caller's PCC as a
return capability in Cn, unseals the data beside it, and sets W by WD; through a return capability it undoes that (R147,
R215-R218). -/
def Obligations.GatesEnterAndReturn : Prop :=
  ∀ (s : State) (h : HalfId) (k : BitVec 5) (n : BitVec 2) (l : List Cell), steady s h k = true → l.length < 16 →
    let b := s.bank h k
    let c := b.cap n
    let d := b.cap (n ^^^ 1)
    b.resume.slot.toNat < 5 → b.ds = n.setWidth 36 :: l → grants s h c spSealed pSE 0 1 = true → codeMapped s h c.base.toNat = 0 →
    (c.has pX = true → b.rs.length ≤ 14 → (c.tenant ≠ 0 → c.has pWD = false ∧ stW b.status = false) →
      let opened : Bank := if d.tag = true ∧ d.space = spSealed ∧ d.has pX = false ∧ d.has pSE = false ∧ d.tenant = c.tenant
        then b.setCap (n ^^^ 1) { d with space := spData } else b
      let ret : Cap := { b.pcc with tag := true, space := spSealed, perm := setBit (setBit (setBit b.pcc.perm pX false) pSE true) pWD (stW b.status) }
      Jumps (.cinv h) s h k
        { (opened.setCap n ret) with
            ds := l, pcc := { c with space := spInstr, perm := setBit (setBit c.perm pSE false) pWD false }
            rs := TCell.plain (returnEntry 0 (nextWord b.resume)) :: TCell.plain (statusEntry (statusOf (s.half h) k) false 0) :: b.rs
            status := setBit b.status 35 (c.has pWD) } ⟨c.base, 0⟩) ∧
    (∀ (e st : TCell) (r : List TCell), c.has pX = false → b.rs = e :: st :: r → b.rs.length ≤ 16 → e.val.getLsbD 32 = false →
      (e.val.extractLsb' 27 5 : BitVec 5) = 0 →
      let p : Pos := ⟨e.val.extractLsb' 0 24, e.val.extractLsb' 24 3⟩
      let pcc : Cap := { c with space := spInstr, perm := setBit (setBit (setBit c.perm pX true) pSE false) pWD false }
      p.slot.toNat ≤ 5 → executable s h pcc p.addr.toNat = true →
      Jumps (.cinv h) s h k
        { (b.setCap n Cap.zero) with
            ds := l, rs := r, pcc := pcc
            status := setBit (setBit (withMask (setBit b.status 35 (c.has pWD)) (stMask st.val)) 32 (stIE st.val)) 28 (stPrec st.val) } p)

/-- CREVOKE of a tenant at home buffers its next generation, which the half's own checks use at once; of a tenant homed in the
other half it buffers the request and the lanes stall for the answer (R148, R297).
Where it rests on a reading or a choice of the model, log entry 50 says so. -/
def Obligations.RevocationAdvancesTheGeneration : Prop :=
  ∀ (s : State) (h : HalfId) (k : BitVec 5) (x : BitVec 10) (l : List Cell), steady s h k = true → l.length ≤ 16 →
    let b := s.bank h k
    let g := s.genOf h x + 1
    b.resume.slot.toNat < 5 → stW b.status = true → b.ds = x.setWidth 36 :: l → roomFor8 s h 1 = true →
    (s.homeOf h x = h → RetiresClosing (.crevoke h) s (buffered s h k none [(.gen x g, g.setWidth 36, false, .single)]) h k
      { b with ds := l } (nextWord b.resume) fun t => (s.mode h ≠ mReading → t.genOf h x = g)) ∧
    (s.homeOf h x ≠ h → spanOpen s h = true →
      RetiresClosing (.crevoke h) s (buffered s h k none [(.genAsk x, 0, false, .single)]) h k
        { b with ds := l } (nextWord b.resume) fun t => (t.ex h).revoking = some x)

/-- CTXLD takes an image in data space that passes the checks for the bank of another local context, which it becomes when the
window agrees, in READING-ROOM with its close; CTXSV stores an image in groups of 8 cells, each in a window of its own, and
passes on after the last (R149, R174-R177, R258, R281, R594).
Where it rests on a reading or a choice of the model, log entries 23, 32 and 43 say so. -/
def Obligations.ContextImages : Prop :=
  ∀ (s : State) (f : Fetching) (k : BitVec 5) (n : BitVec 5) (off : Cell) (l : List Cell) (a : Nat), steady s f.half k = true →
    l.length ≤ 14 →
    let h := f.half
    let b := s.bank h k
    let size := if n.toNat < 8 then 72 else 60
    b.resume.slot.toNat < 5 → stW b.status = true → b.ds = n.setWidth 36 :: off :: l → n ≠ k → off.getLsbD 0 = false →
    a = b.c0.base.toNat + off.toNat → dataMapped s h a = 0 → dataMapped s h (a + size - 1) = 0 →
    (∀ img : List TCell, img.length = size → grants s h b.c0 spData pLD off.toNat size = true → b.c0.has pCL = true →
      (∀ i < size, finds s h (BitVec.ofNat 24 (a + i)) b.c0.tenant (outcomeAt f.errs i) (img.getD i TCell.zero)) →
      imageLoads img n = true → tenantLoads s h (loadBank img n).tenant = true → mixedOffset img = none →
      ∃ s', CountedUpTo 72 (sealed s h) s' ∧
        (s.mode h ≠ mReading → RetiresClosing (.ctxld f) s s' h k { b with ds := l } (nextWord b.resume) fun t =>
          (t.half h).win.acts = [((s.half h).win.num + 1, .load n (loadBank img n))]) ∧
        (s.mode h = mReading → (s.half h).win.closed = [] →
          RetiresClosing (.ctxld f) s (s'.setBank h n (loadBank img n)) h k { b with ds := l } (nextWord b.resume) fun t =>
            recOf (t.ex h) n = Pair.zero)) ∧
    (let img := imageOf (s.bank h n) (statusOf (s.half h) n) n
     grants s h b.c0 spData pST off.toNat size = true → b.c0.has pCS = true → localPair b.c0.tenant 0 img = none →
     ((regionOf (BitVec.ofNat 24 a)).isNvm && s.lockedMode h) = false → freshWindow s h → roomFor8 s h 8 = true →
     let stores (g : Nat) : List (Target × Cell × Bool × LinkKind) :=
       (entryStores (BitVec.ofNat 24 (a + 8 * g)) b.c0.tenant ((img.drop (8 * g)).take 8)).map fun c => (c.target, c.data, c.tag, c.link)
     let groups := (size + 7) / 8
     RetiresClosing (.ctxsv h) s (buffered s h k none (stores 0)) h k
       { b with repActive := true, repLeft := BitVec.ofNat 24 (groups - 1) } b.resume ∧
     RetiresClosing (.ctxsv h) (s.setBank h k { b with repActive := true, repLeft := 1 })
       (buffered s h k none (stores (groups - 1))) h k { b with ds := l, repActive := false, repLeft := 0 } (nextWord b.resume))

/-! ## The reckoner (R88, R128, R343-R364, R392) -/

/-- The RK commands that queue: selector, operands popped, and whether warden mode is needed (R88, R102). -/
def rkRows (h : HalfId) : List (Instr × BitVec 6 × Nat × Bool) :=
  [(.save h, 0o02, 1, true), (.load h, 0o03, 1, true), (.clear h, 0o04, 0, false), (.wld h, 0o10, 3, false), (.wst h, 0o11, 3, false),
   (.wmov h, 0o12, 2, false), (.mmul h, 0o13, 5, false), (.mexp h, 0o14, 5, false), (.ntt h, 0o15, 2, false), (.intt h, 0o16, 2, false),
   (.pmul h, 0o17, 4, false), (.aesks h, 0o20, 3, false), (.aesblk h, 0o21, 3, false), (.gcmenc h, 0o22, 1, false),
   (.gcmdec h, 0o23, 1, false), (.keccak h, 0o24, 1, false), (.sha2 h, 0o30, 1, false), (.sha3 h, 0o31, 1, false),
   (.shake h, 0o32, 1, false), (.ecsign h, 0o40, 2, false), (.ecver h, 0o41, 2, false), (.edsign h, 0o42, 2, false),
   (.edver h, 0o43, 2, false), (.x25519 h, 0o44, 2, false), (.eckey h, 0o45, 2, false), (.rsapriv h, 0o50, 2, false),
   (.rsapub h, 0o51, 2, false), (.kemgen h, 0o60, 2, false), (.kemenc h, 0o61, 2, false), (.kemdec h, 0o62, 2, false),
   (.dsagen h, 0o63, 2, false), (.dsasign h, 0o64, 2, false), (.dsaver h, 0o65, 2, false)]

/-- Every RK command that queues, in the owning context: accepted, it pops its operands, pushes its ticket and joins the queue
with its operands, the stamp of its context and copies of C0-C3, under the next sequence number and with status queued; refused, it pushes
a refused ticket with the code and queues nothing; without ownership it raises RECKONER-UNAVAILABLE (R88, R128, R347-R350,
R352).
Where it rests on a reading or a choice of the model, log entries 10 and 54 say so. -/
def Obligations.ReckonerCommandsQueue : Prop :=
  ∀ (s : State) (h : HalfId) (k : BitVec 5) (c : Instr) (sel : BitVec 6) (n : Nat) (w : Bool) (o l : List Cell),
    steady s h k = true → freshWindow s h → (c, sel, n, w) ∈ rkRows h →
    let b := s.bank h k
    let r := (s.half h).rkn
    b.resume.slot.toNat < 5 → (w = true → stW b.status = true) → b.ds = o.reverse ++ l → o.length = n → b.ds.length < 16 → r.ownNext = none →
    ((r.ownValid = true ∧ r.ownCtx = k) → rkRefusal s h sel o = 0 → s.mode h ≠ mReading →
      RetiresClosing c s s h k { b with ds := ticketOf sel (gctx h k) r.seq :: l } (nextWord b.resume) fun t =>
        (t.half h).rkn.seq = r.seq + 1 ∧ (t.half h).rkn.wide = r.wide ∧
        (∃ q, (t.half h).rkn.queue = r.queue ++ [q] ∧ q.sel = sel ∧ q.seq = r.seq ∧ q.ops = o ∧ q.state = .queued ∧
          q.begun = false ∧ q.stamp = ⟨b.tenant, s.genOf h b.tenant, gctx h k⟩ ∧
          q.snaps.map (fun x => x.cap) = [b.c0, b.c1, b.c2, b.c3] ∧ q.entry = ownEntry s h k) ∧
        (t.half h).rkn.status.head? = some ⟨sel, r.seq, ⟨b.tenant, s.genOf h b.tenant, gctx h k⟩, 1, 0, 0⟩) ∧
    ((r.ownValid = true ∧ r.ownCtx = k) → rkRefusal s h sel o ≠ 0 → s.mode h ≠ mReading →
      RetiresClosing c s s h k { b with ds := refusedTicket sel k (rkRefusal s h sel o) :: l } (nextWord b.resume) fun t =>
        (t.half h).rkn = { r with refused := satInc r.refused }) ∧
    (∀ target, (r.ownValid = false ∨ r.ownCtx ≠ k) → enterable s h k cReckoner target →
      EntersHandler c s h k b b.resume (statusOf (s.half h) k) target (setBit b.status 32 false) fun t =>
        recOf (t.ex h) k = recordOf ⟨cReckoner, 0, 7, sel.setWidth 24, false⟩ false b.resume)

/-- The command `c` stands at the head of a half's queue, in a half whose reckoner works. -/
def heads (s : State) (h : HalfId) (c : RkCmd) (q : List RkCmd) : Prop :=
  (s.half h).rkn.queue = c :: q ∧ c.state ≠ .finished ∧ (∀ d ∈ q, d.seq ≠ c.seq) ∧ rkWorks s h = true

/-- The tenant that holds the registers issued the command (R345). -/
def holdsRegisters (s : State) (h : HalfId) (c : RkCmd) : Prop :=
  (s.half h).rkn.held = true ∧ (s.half h).rkn.tenant = c.stamp.tenant

/-- COMMAND_START of MMUL and of MEXP under its lease leaves the command running with its result for Wrd: the Montgomery
product, the one number below the modulus whose 2^(32 sz)-fold is the product of Wra and Wrb modulo Wrm, and the power; the
cells from sz on are zero (R346, R355).
Where it rests on a reading or a choice of the model, log entries 54 and 55 say so. -/
def Obligations.MultiplicationAndPowersModulo : Prop :=
  ∀ (s : State) (h : HalfId) (bad : Bool) (c : RkCmd) (q : List RkCmd) (ra rb rm rd sz : Nat), heads s h c q → holdsRegisters s h c →
    c.begun = false → c.state = .queued → c.ops = [ra, rb, rm, rd, sz].map (BitVec.ofNat 36) → (∀ r ∈ [ra, rb, rm, rd], r < 8) →
    1 ≤ sz → sz ≤ 128 →
    let x := limbs (wideCells (s.half h).rkn ra sz)
    let y := limbs (wideCells (s.half h).rkn rb sz)
    let m := limbs (wideCells (s.half h).rkn rm sz)
    let result (v : Nat → Prop) : Prop := ∃ t d l, exec (.commandStart h bad) s = .next t ∧ (t.half h).rkn.headCmd = some d ∧
      d.seq = c.seq ∧ d.begun = true ∧ d.state = .running ∧ d.regs = [(rd, l)] ∧ l.length = 128 ∧ (∀ i, sz ≤ i → l.getD i 0 = 0) ∧
      (∀ i, (l.getD i 0).toNat < 2 ^ 32) ∧ limbs (l.take sz) < m ∧ v (limbs (l.take sz)) ∧ (t.half h).rkn.wide = (s.half h).rkn.wide
    m % 2 = 1 → x < m →
    (c.sel = 0o13 → y < m → result fun v => v * 2 ^ (32 * sz) % m = x * y % m) ∧
    (c.sel = 0o14 → (∃ u, c.lease = some ⟨5, u⟩) → result fun v => v = x ^ y % m)

/-- COMMAND_START of a heavy command without a lease: undeclared, it fails; declared, it takes the ceiling of its class from
remaining energy and allowance, or stands deferred where that does not fit, until LEASE_GRANT grants it. SLICE_END releases the
slice's lease, and COMMAND_FINISH writes the registers and leaves the command finished in its window, fails it where its outputs
can no longer be written, and after a failed check restarts it once and then fails it (R352, R353, R359-R362, R364, R392).
Where it rests on a reading or a choice of the model, log entries 54, 55 and 57 say so. -/
def Obligations.CommandsTakeLeasesAndFinish : Prop :=
  ∀ (s : State) (h : HalfId) (c : RkCmd) (q : List RkCmd), heads s h c q →
    let g := (s.half h).gov
    let n : Int := ((ceilingOf g (rkClass c) : Nat) : Int)
    let short (i : BitVec 7) : Prop := g.remaining < n ∨ allowLeftOf (s.half h).sch i < n
    (∀ bad, c.begun = false → c.state = .queued → heavy (rkClass c) = true → c.lease = none → noWindow s h = false →
      (declared s h c = none → ∃ t d, exec (.commandStart h bad) s = .next t ∧ (t.half h).rkn.queue = d :: q ∧ d.seq = c.seq ∧
        d.state = .finished ∧ d.code = 0o40 ∧ d.fin = (s.half h).win.num ∧ (t.half h).gov = g ∧ t.ram = s.ram ∧ t.nvm = s.nvm) ∧
      (∀ i, declared s h c = some i → short i → ∃ t d, exec (.commandStart h bad) s = .next t ∧ (t.half h).rkn.queue = d :: q ∧
        d = { c with state := .deferred, leaseWanted := true } ∧ (t.half h).gov = g)) ∧
    (∀ i, c.state = .deferred → c.leaseWanted = true → c.lease = none → c.entry = some i →
      (¬ short i → ∃ t d, exec (.leaseGrant h) s = .next t ∧ (t.half h).rkn.queue = d :: q ∧ d.state = .running ∧
        d.lease = some ⟨rkClass c, 0⟩ ∧ (t.half h).gov.remaining = g.remaining - n ∧
        allowLeftOf (t.half h).sch i = allowLeftOf (s.half h).sch i - n ∧ (t.half h).gov.deferred = satInc g.deferred) ∧
      (short i → exec (.leaseGrant h) s = .next s)) ∧
    (∀ i l, c.begun = true → c.state = .running → outputsLost s h c = 0 → c.sel = 0o64 → c.slices < 813 → c.lease = some l → declared s h c = some i →
      ∃ t d, exec (.sliceEnd h) s = .next t ∧ (t.half h).rkn.queue = d :: q ∧ d.slices = c.slices + 1 ∧
        ((d.state = .running ∧ d.lease = some ⟨rkClass c, 0⟩) ∨ (d.state = .deferred ∧ d.lease = none))) ∧
    (∀ w v, c.begun = true → c.state = .running → lastSlice c = true → writesFit (s.half h).rkn c = true → rkDraws c.sel = false →
      noWindow s h = false → outputsLost s h c = 0 → c.wrong = false → c.regs = [(w, v)] → w < 8 → v.length = 128 → c.own = none →
      ∃ t d, exec (.commandFinish h false) s = .next t ∧ (t.half h).rkn.queue = d :: q ∧ d.state = .finished ∧ d.code = c.code ∧
        d.lease = none ∧ d.writes = c.writes ∧ d.fin = (s.half h).win.num ∧ wideCells (t.half h).rkn w 128 = v ∧
        (∀ u < 8, u ≠ w → wideCells (t.half h).rkn u 128 = wideCells (s.half h).rkn u 128) ∧ t.ram = s.ram ∧ t.nvm = s.nvm) ∧
    (∀ e, c.begun = true → c.state = .running → lastSlice c = true → writesFit (s.half h).rkn c = true → rkDraws c.sel = false →
      noWindow s h = false →
      (outputsLost s h c = e → e ≠ 0 → ∃ t d, exec (.commandFinish h false) s = .next t ∧ (t.half h).rkn.queue = d :: q ∧
        d.state = .finished ∧ d.code = e ∧ d.writes = [] ∧ (t.half h).rkn.wide = (s.half h).rkn.wide) ∧
      (outputsLost s h c = 0 → c.restarts = 0 → ∃ t d, exec (.commandFinish h true) s = .next t ∧ (t.half h).rkn.queue = d :: q ∧
        d.begun = false ∧ d.slices = 0 ∧ d.restarts = 1 ∧ (t.half h).rkn.restarts = satInc (s.half h).rkn.restarts ∧
        (t.half h).rkn.wide = (s.half h).rkn.wide) ∧
      (outputsLost s h c = 0 → c.restarts = 1 → ∃ t d, exec (.commandFinish h true) s = .next t ∧ (t.half h).rkn.queue = d :: q ∧
        d.state = .finished ∧ d.code = kSelfCheck ∧ d.writes = [] ∧ (t.half h).rkn.selfchk = satInc (s.half h).rkn.selfchk))

/-! ## Windows, verdicts and lanes (R189, R200, R225, R243-R285, R336) -/

/-- Half w's running context may make a write of half h, in warden mode where the register asks for it (R24, R25, R210). -/
def mayWrite (s : State) (w h : HalfId) (warden : Bool) : Prop :=
  ∃ k, (s.ex w).running = some k ∧ (warden = true → stW (s.bank w k).status = true) ∧ (w = h ∨ spanOpen s w = true)

/-- The window timer, 2,048 slots, 64 logged inputs and the limit of a re-execution each close the window at a boundary: it joins
those that await their verdicts with its number, slots, signature, lanes and bookmark, the next window opens, and no bank,
store or memory changes. Where no close may fall yet the close is due; in READING-ROOM it agrees at once (R189, R243, R244,
R247, R248, R255, R257, R267, R281).
Where it rests on a reading or a choice of the model, log entries 3 and 16 say so. -/
def Obligations.WindowsCloseAtTheirLimits : Prop :=
  ∀ (s : State) (h : HalfId), s.running h = true → (s.half h).win.redo = none → (s.ex h).waiting = none → (s.ex h).arith = none →
    (s.ex h).fed = none → voidRead (s.ex h) = none → settleWaits s h = false →
    let w := (s.half h).win
    let closes (c : Instr) : Prop := ∃ t x, exec c s = .next t ∧ (t.half h).win.closed = w.closed ++ [x] ∧ x.num = w.num ∧
      x.slots = w.slots ∧ x.sig = w.sig ∧ x.lanes = (s.half h).tal.inService ∧ x.mark = snapshot s h ∧
      (t.half h).win.num = w.num + 1 ∧ (t.half h).win.slots = 0 ∧ (t.half h).win.sb = w.sb ∧
      (∀ g j, t.bank g j = s.bank g j) ∧ t.ram = s.ram ∧ t.nvm = s.nvm
    let due (c : Instr) : Prop := exec c s = .next (s.onWin h fun w => { w with closeDue := true })
    (0 < w.slots → (s.half h).tal.inService ≠ [] →
      (s.mode h ≠ mReading → closeBlocked s h = false →
        closes (.windowTimerExpiry h) ∧ (2048 ≤ w.slots → closes (.windowSlotLimit h)) ∧ (64 ≤ w.logged → closes (.inputLogLimit h))) ∧
      (closeBlocked s h = true →
        due (.windowTimerExpiry h) ∧ (2048 ≤ w.slots → due (.windowSlotLimit h)) ∧ (64 ≤ w.logged → due (.inputLogLimit h))) ∧
      (s.mode h = mReading → closeBlocked s h = false → w.acts = [] → w.ticks = [] → (s.ex h).rstPend = [] →
        ∃ t, exec (.windowTimerExpiry h) s = .next t ∧ (t.half h).win.closed = w.closed ∧ (t.half h).win.num = w.num + 1 ∧
          (t.half h).win.slots = 0 ∧ (t.half h).win.mark = some (snapshot s h) ∧
          (t.half h).win.sb = w.sb.map fun e => { e with agreed := true })) ∧
    (s.mode h ≠ mReading → closeBlocked s h = false → w.rolling = true → (s.ex h).ckpt = [] → closes (.reexecutionLimit h))

/-- TELLER_VERDICT judges the oldest closed window. Equal accounts: it agrees, its entries may drain, its close is the
bookmark, and a bank loaded in it and a tick that closed it act. One lane of three differs or is silent: it agrees as well, the lane is copied to, charged, and the half is PAIRED. No
two agree: the windows without a verdict and their stores are discarded, and ROLLBACK_RESTART restores the bookmark for the
re-execution (R33, R200, R250-R258, R272, R273).
Where it rests on a reading or a choice of the model, log entries 33, 34 and 35 say so. -/
def Obligations.VerdictsSettleTheOldestWindow : Prop :=
  ∀ (s : State) (h : HalfId), (s.ex h).fed = none →
    let w := (s.half h).win
    let held : State → Prop := fun t => (∀ g j, t.bank g j = s.bank g j) ∧ t.ram = s.ram ∧ t.nvm = s.nvm
    (∀ (v : VerdictInput) (c : ClosedWin) (r : List ClosedWin), w.closed = c :: r → c.forced = false → c.prtLanes = 0 →
      c.lanes.Nodup → v.tellerA = none → v.tellerB = none → v.tellerC = none → s.mode h = mTallied → (s.half h).tal.attResp = 0 →
      (s.half h).tal.fenceReq = 0 → (s.dbgHalf h).halt = false →
      let agreed (t : State) (q : List ClosedWin) : Prop := (t.half h).win.closed = q ∧ (t.half h).win.mark = some c.mark ∧
        (t.half h).win.num = w.num ∧ (t.half h).win.sb = w.sb.map fun e => if e.win = c.num then { e with agreed := true } else e
      let charged (t : State) (l : Lane) : Prop := ((t.trec h).lane l).life = satInc ((s.trec h).lane l).life ∧
        ((t.trec h).lane l).bucket = min 4 (((s.trec h).lane l).bucket + 1)
      (∀ x, c.lanes ≠ [] → (∀ l ∈ c.lanes, reportOf v l = some x) →
        (w.acts = [] → w.ticks = [] → (s.ex h).rstPend = [] →
          ∃ t, exec (.tellerVerdict h v) s = .next t ∧ agreed t r ∧ t.keep = s.keep) ∧
        (∀ n j b, r = [] → w.acts = [(n, .load j b)] → n.toNat ≤ w.num.toNat → w.ticks = [] → (s.ex h).rstPend = [] →
          (s.ex h).fencing = false → (∃ k, (s.ex h).running = some k ∧ k ≠ j) →
          ∃ t, exec (.tellerVerdict h v) s = .next t ∧ t.bank h j = b ∧ recOf (t.ex h) j = Pair.zero ∧ (t.half h).win.acts = []) ∧
        (∀ n y, r = [] → w.ticks = [(some n, y)] → n.toNat ≤ w.num.toNat → w.acts = [] → (s.ex h).rstPend = [] →
          ∃ t, exec (.tellerVerdict h v) s = .next t ∧ (t.half h).sch.frame = (s.half h).sch.frame + 1 ∧
            (t.half h).gov.ticked = true ∧ (t.half h).win.ticks = [])) ∧
      (∀ l x, w.acts = [] → w.ticks = [] → (s.ex h).rstPend = [] → c.lanes = lanes → (s.half h).tal.inService = lanes → (∀ m, m ≠ l → reportOf v m = some x) → reportOf v l ≠ some x →
        ∃ t, exec (.tellerVerdict h v) s = .next t ∧ agreed t (r.map fun d => { d with lanes := d.lanes.filter fun m => m != l }) ∧
          ((t.half h).tal.lane l).work = .copying ∧ t.mode h = mPaired ∧ charged t l ∧
          ∀ m, m ≠ l → (t.trec h).lane m = (s.trec h).lane m) ∧
      (c.lanes = lanes → (∀ l, (reportOf v l).isSome = true) → (∀ l m, l ≠ m → reportOf v l ≠ reportOf v m) →
        ∃ t, exec (.tellerVerdict h v) s = .next t ∧ (t.half h).win.closed = [] ∧ (t.half h).win.rolling = true ∧
          (t.half h).win.redo = some c.slots ∧ (t.half h).win.num = c.num ∧
          (t.half h).win.sb = (w.sb.filter fun e => e.agreed) ∧
          (t.half h).win.rollbacks = satInc w.rollbacks ∧ held t ∧ ∀ l, charged t l)) ∧
    (∀ n m, w.redo = some n → w.mark = some m → m.fed = none →
      exec (.rollbackRestart h) s = .next (s.onHalf h fun x =>
        { x with ex := (s.ex h).restore m, line := ⟨none, false, none, false⟩, win := { w with redo := none, replay := some n } }))

/-- MEMORY_GRANT captures the cell of the oldest waiting lane read, or makes the writes granted; READ_DATA_RETURN puts the captured
cell in its place, voids a read that failed, and closes the window where the lanes asked differently with no majority;
STORE_DRAIN takes the oldest agreed entry to SRAM, the retained cells or the span, a linked pair in one access; a one-cell store
into an uncorrectable line leaves the other cell zero; REGISTER_WRITE is accepted by the unit at its address (R28, R62, R122,
R197, R200, R225, R290, R312, R316, R335, R336).
Where it rests on a reading or a choice of the model, log entries 23 and 44 say so. -/
def Obligations.ReadsReturnAndWritesDrain : Prop :=
  ∀ (s : State) (h : HalfId), (s.ex h).fed = none →
    let m := (s.half h).mem
    let kept (t : State) (a : Addr) : Prop := ∀ i, i ≠ a.toNat → sget TCell.zero t.ram i = sget TCell.zero s.ram i
    let mate (a : Addr) : Addr := a ^^^ 1#24
    let zeroes (t : State) (a : Addr) : Prop := sget TCell.zero t.ram (mate a).toNat = TCell.zero ∧
      ∀ i, i ≠ a.toNat → i ≠ (mate a).toNat → sget TCell.zero t.ram i = sget TCell.zero s.ram i
    ((s.ex .h0).fencing = false → (s.ex .h1).fencing = false →
      (∀ bank age ctx p x o l, bank.toNat < 4 → m.arb = [⟨.laneRead, bank, ctx, age, .laneRead, p⟩] → (s.ex h).reads = o :: l →
        o.granted = false → o.remote = none → regionOf o.addr = .sram h → bankOf o.addr = bank →
        m.bad.contains (o.addr.toNat / 2) = false → (∀ e ∈ m.merge, e.prog = false) →
        ∃ t, exec (.memoryGrant h bank x) s = .next t ∧ (t.half h).mem.arb = [] ∧ (t.half h).mem.lastServed = ctx ∧
          (t.ex h).reads.head? = some { o with granted := true, data := sget TCell.zero s.ram o.addr.toNat } ∧ t.ram = s.ram ∧
          t.nvm = s.nvm ∧ ∀ g j, t.bank g j = s.bank g j) ∧
      (∀ bank src age ctx p x a k c, bankOf a = bank → regionOf a = .sram h → m.arb = [⟨src, bank, ctx, age, .writes [(a, k, c)], p⟩] →
        ∃ t, exec (.memoryGrant h bank x) s = .next t ∧ (t.half h).mem.arb = [] ∧ sget TCell.zero t.ram a.toNat = c ∧ t.nvm = s.nvm ∧
          (m.bad.contains (a.toNat / 2) = false → x.outcome ≠ .failed → kept t a) ∧
          (m.bad.contains (a.toNat / 2) = true ∨ x.outcome = .failed → zeroes t a))) ∧
    (∀ k o l, (s.ex h).running = some k → (s.ex h).reads = o :: l → o.granted = true → o.void = false →
      (∀ r ∈ l, r.granted = true ∨ regionOf r.addr ≠ .retained) →
      let back (t : State) (v : Cell) : Prop := (∀ g j, t.bank g j = if g = h ∧ j = k then (s.bank h k).setPlace o.place v else s.bank g j) ∧
        (t.half h).win = (s.half h).win.fillItems o.place v ∧ t.ram = s.ram ∧ t.nvm = s.nvm
      (o.failed = false → ∃ t, exec (.readDataReturn h ⟨.same, .clean⟩) s = .next t ∧ (t.ex h).reads = l ∧ back t o.data.val) ∧
      (∀ r, o.failed = true ∨ r = .failed → ∃ t, exec (.readDataReturn h ⟨.same, r⟩) s = .next t ∧
        (t.ex h).reads.head? = some { o with void := true } ∧ back t (Config.freeCell s.free)) ∧
      (∀ r, (s.half h).tal.inService.length = 3 → closeRoom s h 1 = true → s.runMode h ≠ mReading →
        ∃ t c, exec (.readDataReturn h ⟨.split, r⟩) s = .next t ∧ (t.half h).win.closed = (s.half h).win.closed ++ [c] ∧
          c.forced = true ∧ (t.ex h).reads = (s.ex h).reads ∧ ∀ g j, t.bank g j = s.bank g j)) ∧
    (∀ e l a k r, s.isolated = false → (s.half h).win.sb = e :: l → e.agreed = true → e.target = .data a k →
      (s.ex h).fencing = false →
      (e.link = .single → laneWaits m = false →
        (regionOf a = .retained ∧ (s.half h).tal.portLost = false ∨ regionOf a = .sram h) →
        ∃ t, exec (.storeDrain ⟨h, r⟩) s = .next t ∧ (t.half h).win = { (s.half h).win with sb := l } ∧
          sget TCell.zero t.ram a.toNat = ⟨e.data, e.tag⟩ ∧ t.nvm = s.nvm ∧ (∀ g j, t.bank g j = s.bank g j) ∧
          (regionOf a = .retained ∨ (m.bad.contains (a.toNat / 2) = false ∧ r ≠ .failed) → kept t a) ∧
          (regionOf a = .sram h → m.bad.contains (a.toNat / 2) = true ∨ r = .failed → zeroes t a)) ∧
      (∀ f q, e.link = .first → l = f :: q → f.target = .data (mate a) k → laneWaits m = false → regionOf a = .sram h →
        regionOf (mate a) = .sram h →
        ∃ t, exec (.storeDrain ⟨h, r⟩) s = .next t ∧ (t.half h).win = { (s.half h).win with sb := q } ∧
          sget TCell.zero t.ram a.toNat = ⟨e.data, e.tag⟩ ∧ sget TCell.zero t.ram (mate a).toNat = ⟨f.data, f.tag⟩ ∧
          ∀ i, i ≠ a.toNat → i ≠ (mate a).toNat → sget TCell.zero t.ram i = sget TCell.zero s.ram i) ∧
      (regionOf a = .retained → (s.half h).tal.portLost = true → exec (.storeDrain ⟨h, r⟩) s = .next s) ∧
      (e.link = .single → farData h a = true → exec (.storeDrain ⟨h, r⟩) s =
        .next ((s.onWin h fun w => { w with sb := l }).onSpn h fun p =>
          { p with out := p.out ++ [.write [(a, k, ⟨e.data, e.tag⟩)]] }))) ∧
    (∀ k (a : IoAddr) x0 x1, (s.ex h).running = some k → writeTakes s h (s.bank h k) a.toNat x0 = true →
      exec (.registerWrite h a x0 x1) s = .next
        (ioWrite s (writerOf s h k) ((outSnap s h (s.bank h k) a.toNat x0).getD CapSnap.none) a.toNat x0 x1))

/-- A copied lane forces a close, or makes one due, and joins at a later close at its stagger, out of READING-ROOM with every lane
that has its copy, which makes the half TALLIED; an audit takes a lane out
of service; a lane that passes is copied to again with an empty bucket, one that fails is fenced; the rotation countdown, the
buckets and the slow count run down (R240, R241, R261, R272, R274, R277, R278, R280).
Where it rests on a reading or a choice of the model, log entries 36 to 39 say so. -/
def Obligations.LanesJoinAndAreAudited : Prop :=
  ∀ (s : State) (h : HalfId) (l : Lane),
    let t0 := (s.half h).tal
    let r := s.trec h
    ((t0.lane l).work = .copying → t0.fenceReq = 0 → lanesRun s h = true → s.mode h ≠ mReading → closeBlocked s h = false →
      (s.ex h).waiting = none → (s.ex h).arith = none → voidRead (s.ex h) = none → settleWaits s h = false →
      0 < (s.half h).win.slots → ∃ t, exec (.resyncCopyComplete h l) s = .next t ∧
      ((t.half h).tal.lane l).work = .copied ∧ (t.half h).win.num = (s.half h).win.num + 1 ∧ ∀ j, t.bank h j = s.bank h j) ∧
    ((t0.lane l).work = .copying → lanesRun s h = true → closeBlocked s h = true → (s.ex h).waiting = none →
      0 < (s.half h).win.slots → ∃ t, exec (.resyncCopyComplete h l) s = .next t ∧ ((t.half h).tal.lane l).work = .copied ∧
      (t.half h).win = { (s.half h).win with closeDue := true } ∧ ∀ j, t.bank h j = s.bank h j) ∧
    (mayJoin s h l = true → ∃ t, exec (.resyncJoin h l) s = .next t ∧ ((t.half h).tal.lane l).work = .inService ∧
      ((t.half h).tal.lane l).stag = (t0.lane l).stagReg ∧
      (s.mode h ≠ mReading → (t.half h).win.resyncs = satInc (s.half h).win.resyncs ∧
        ∀ m, m ≠ l → (t.half h).tal.lane m = t0.lane m) ∧
      (s.mode h = mReading → ∀ m, (t0.lane m).work = .copied → ((t.half h).tal.lane m).work = .inService) ∧
      ((∀ m, m = l ∨ (t0.lane m).work = .inService ∨ (s.mode h = mReading ∧ (t0.lane m).work = .copied)) → t.mode h = mTallied) ∧
      ∀ j, t.bank h j = s.bank h j) ∧
    (auditTime s h = true → s.mode h = mTallied → t0.inService = lanes →
      (t0.audits = [(l, .request)] → ∃ t, exec (.auditStart h) s = .next t ∧ ((t.half h).tal.lane l).work = .audit ∧
        (t.half h).tal.audits = [] ∧ (t.half h).tal.auditTrig = some .request ∧ t.mode h = mPaired) ∧
      (t0.auditEn = true → laneOf t0.auditNext = l → t0.audits = [(l, .rotation)] → ∃ t, exec (.auditStart h) s = .next t ∧
        ((t.half h).tal.lane l).work = .audit ∧ (t.half h).tal.countdown = BitVec.ofNat 22 (t0.period.toNat / 3) ∧
        (t.half h).tal.auditNext = (if t0.auditNext = 2 then 0 else t0.auditNext + 1) ∧ t.mode h = mPaired)) ∧
    (∀ pass, (t0.lane l).work = .audit → s.mode h ≠ mOff → s.runMode h ≠ mReading → ∃ t, exec (.auditComplete h l pass) s = .next t ∧
      (t.half h).tal.auditLast = laneNo l ∧ (t.half h).tal.auditPass = pass ∧
      (pass = true → ((t.half h).tal.lane l).work = .copying ∧ (t.trec h).lane l = { r.lane l with bucket := 0, fenced := false }) ∧
      (pass = false → ((t.half h).tal.lane l).work = .out ∧ ((t.trec h).lane l).fenced = true)) ∧
    (t0.countdown = 0 → s.running h = true → (∀ a ∈ t0.audits, a.2 ≠ .rotation) → exec (.auditCountdownExpiry h) s =
      .next (s.onTal h fun t => { t with audits := t.audits ++ [(laneOf t.auditNext, .rotation)] })) ∧
    (s.runMode h = mReading → exec (.bucketDrain h) s = .next s ∧ exec (.slowCountDrain h) s = .next s) ∧
    (t0.drainDue = true → s.runMode h ≠ mReading → exec (.bucketDrain h) s = .next ((s.onTal h fun t => { t with drainDue := false }).onTrec h fun q =>
      { q with a := { q.a with bucket := q.a.bucket - 1 }, b := { q.b with bucket := q.b.bucket - 1 },
               c := { q.c with bucket := q.c.bucket - 1 } })) ∧
    (t0.slowDue = true → s.runMode h ≠ mReading → exec (.slowCountDrain h) s =
      .next ((s.onTal h fun t => { t with slowDue := false }).onTrec h fun q => { q with slow := q.slow - 1 }))

/-- Comparator injection records its cases; one that a half has requested and that fails forces READING-ROOM on the leading lane;
a lost path does the same, and its return with a passed injection sets the idle lanes to copying. TLY_INJECT, TLY_AUDIT_NOW
and TLY_FENCE note their requests, and the lock of the PLL begins the third lane's audit (R38, R39, R270, R271, R280-R285,
R481).
Where it rests on a reading or a choice of the model, log entries 36 to 39 say so. -/
def Obligations.InjectionFencesAndReadingRoom : Prop :=
  ∀ (s : State) (h w : HalfId),
    let t0 := (s.half h).tal
    let room (t : State) : Prop := t.mode h = mReading ∧ (t.half h).tal.inService = [leadLane t0]
    (∀ cases, s.mode h = mOff → injectDue s h = true → s.cht.seen = none → cases = BitVec.allOnes 8 →
      ∃ t, exec (.comparatorInjection h cases) s = .next t ∧ (t.half h).up.injected = true ∧ (t.half h).tal.injState = 2 ∧
        (t.half h).tal.injCases = cases ∧ (t.half h).tal.injOk = true) ∧
    (∀ cases, s.running h = true → s.mode h ≠ mReading → t0.injGo = true → t0.injState = 1 → cases ≠ BitVec.allOnes 8 →
      ∃ t, exec (.comparatorInjection h cases) s = .next t ∧ room t ∧ (t.half h).tal.injState = 3 ∧
        (t.half h).tal.failedInject = true ∧ (t.half h).tal.injCases = cases ∧ (t.half h).tal.injGo = false) ∧
    (s.running h = true → s.mode h ≠ mReading → ∀ loss, ∃ t, exec (.readingRoomEntry h loss) s = .next t ∧ room t ∧
      (loss = .compare → (t.half h).tal.cmpLost = true) ∧ (loss = .commonsPort → (t.half h).tal.portLost = true)) ∧
    (s.mode h = mReading → t0.cmpLost = true → t0.portLost = false → t0.failedInject = false →
      ∃ t, exec (.comparePathRestored h .compare (BitVec.allOnes 8)) s = .next t ∧ (t.half h).tal.cmpLost = false ∧
        ∀ l ∈ idleLanes s h, ((t.half h).tal.lane l).work = .copying) ∧
    (mayWrite s w h true →
      exec (.tlyInject w h) s = .next (s.onTal h fun t =>
        { t with injGo := true, injState := if noWindow s h then 1 else t.injState }) ∧
      (t0.audits.contains (laneOf t0.auditNext, .request) = false → exec (.tlyAuditNow w h) s =
        .next (s.onTal h fun t => { t with auditNow := true, audits := t.audits ++ [(laneOf t.auditNext, .request)] })) ∧
      (∀ m, noWindow s h = false → exec (.tlyFence w h m) s = .next (s.onTal h fun t => { t with fenceReq := t.fenceReq ||| m })) ∧
      (∀ l, noWindow s h = true → agreedClose s h = true → s.mode h = mTallied → t0.inService = lanes → t0.fenceReq = 0 →
        fenceMarks s h = 0 → ∃ t, exec (.tlyFence w h (laneBits fun m => m == l)) s = .next t ∧ t.mode h = mPaired ∧
        ((t.half h).tal.lane l).work = .out ∧ ((t.trec h).lane l).fenced = true)) ∧
    (∀ l, s.bnd.pllLocked = false → s.isolated = false → s.heldInReset h = false → s.mode h = mEarly → auditFree t0 = true →
      (lanes.filter fun m => (t0.lane m).work == .out) = [l] →
      ∃ t, exec .pllLock s = .next t ∧ t.bnd.pllLocked = true ∧ ((t.half h).tal.lane l).work = .audit ∧
        (t.half h).tal.auditTrig = some .bringup)

/-! ## Time, schedule and supply (R32-R35, R371-R395) -/

/-- A tick advances the time base and closes the window of each half that runs; the half counts the frame and reloads its budget
once the close has agreed, at once where it waits or no verdict is outstanding; one that rolls back or may not close holds the tick.
The early edge of FSYNC is only counted; an exhausted budget enters BUDGET-OVERRUN and an exhausted
event account raises its source (R33-R35, R259, R371, R373, R386-R389).
Where it rests on a reading or a choice of the model, log entries 3 and 60 say so. -/
def Obligations.TicksCountFramesAndReload : Prop :=
  ∀ (s : State) (h : HalfId), tickRuns s = true →
    let ticked (x : TickInput) (t : State) : Prop := t.evc.timeBase = s.evc.timeBase + BitVec.ofNat 72 x.dt ∧
      (s.running h = true → let w := (s.half h).win
        let held : Prop := ∃ m, (t.half h).win.held = w.held ++ [⟨x, m⟩] ∧ (t.half h).sch.frame = (s.half h).sch.frame
        let acts : Prop := (t.half h).sch.frame = (s.half h).sch.frame + 1 ∧ (t.half h).gov.ticked = true ∧
          ((s.half h).sch.accepted = none →
            (t.half h).gov.beff = beffOf (s.half h).gov.cap (frame8 s.tick) (tfacOf (tickOf x h).2))
        (w.rolling = true ∨ w.redo ≠ none → held) ∧
        (w.rolling = false → w.redo = none →
          ((s.ex h).waiting ≠ none → acts) ∧
          ((s.ex h).waiting = none → inputsHeld s h = true → held) ∧
          ((s.ex h).waiting = none → inputsHeld s h = false → (s.ex h).arith = none → voidRead (s.ex h) = none → w.acts = [] →
            w.ticks = [] → (s.ex h).rstPend = [] →
            (w.closed = [] → s.mode h = mReading ∨ (w.slots = 0 ∧ w.group = false) → acts) ∧
            (s.mode h ≠ mReading → 0 < w.slots → w.oldest.toNat < (w.num + 1).toNat →
              (t.half h).win.ticks = [(some (w.num + 1), x)] ∧ (t.half h).win.slots = 0 ∧ (t.half h).win.num = w.num + 1 ∧
              (t.half h).win.closed.length = w.closed.length + 1 ∧ (t.half h).sch.frame = (s.half h).sch.frame))))
    (∀ x, ∃ t, exec (.frameTick x) s = .next t ∧ ticked x t) ∧
    (∀ x n, s.tick.ext = true → s.bnd.tieFsync = true →
      (8 * n < 7000 * s.tick.period.toNat → s.tick.fallback = false →
        exec (.fsyncEdge n x) s = .next { s with tick := { s.tick with early := satInc s.tick.early } }) ∧
      (7000 * s.tick.period.toNat ≤ 8 * n → ∃ t, exec (.fsyncEdge n x) s = .next t ∧ ticked x t ∧ t.tick.fallback = false ∧
        t.tick.inRow = 0)) ∧
    (∀ i, s.running h = true → (s.half h).sch.cur = some i → (s.half h).sch.expired = false → (s.half h).sch.starved = false →
      (s.ex h).waiting.isSome = true →
      exec (.budgetExpiry h) s = .next (s.onSch h fun c => { c with left := 0, expired := true })) ∧
    (∀ k i target, steady s h k = true → ownEntry s h k = some i → (s.half h).sch.starved = false → enterable s h k cBudget target →
      EntersHandler (.budgetExpiry h) s h k (s.bank h k) (s.bank h k).resume (statusOf (s.half h) k) target
        (setBit (s.bank h k).status 32 false) fun t =>
          recOf (t.ex h) k = recordOf (faultOf cBudget 0 (i.setWidth 24)) false (s.bank h k).resume ∧
          (t.half h).sch.overruns = satInc (s.half h).sch.overruns) ∧
    ((s.half h).sch.evOver = false → exec (.eventAccountExhausted h) s =
      .next (raiseHalf (s.onSch h fun c => { c with evLeft := 0, evOver := true }) h 212))

/-! ## Events, mailboxes and the host (R404-R453) -/

/-- Context k runs in half w, and a write of `x` to its I/O address `a` is taken there (R66, R115, R123, R210). -/
def takes (s : State) (w : HalfId) (k : BitVec 5) (a : Nat) (x : Cell) : Prop :=
  (s.ex w).running = some k ∧ writeTakes s w (s.bank w k) a x = true

/-- A change of an input that its sense selects counts in its coalescer, which fires at its threshold and makes the source
pending; held edges fire once their time is up, and an armed compare timer fires once when the time base reaches its value
(R418, R420, R423).
Where it rests on a reading or a choice of the model, log entries 3 and 62 say so. -/
def Obligations.EdgesAndTimersMakeSourcesPending : Prop :=
  ∀ (s : State) (dt : Nat),
    let now := s.evc.timeBase + BitVec.ofNat 72 dt
    let q (t : State) (n : Nat) : Coal := sget Coal.reset t.evc.coal n
    let fires (t : State) (n : Nat) : Prop := t.evc.pend = setBit s.evc.pend n true ∧ (q t n).held = 0 ∧
      (∀ m, m ≠ n → q t m = q s m) ∧ t.evc.timeBase = now ∧ t.evc.act = s.evc.act
    (∀ (n : BitVec 7) (lv : Bool), s.isolated = false → n.toNat < s.bnd.evin.toNat →
      let c := satInc (q s n.toNat).held
      ∃ t, exec (.externalEdge n lv dt) s = .next t ∧ bit t.evc.level n.toNat = lv ∧ t.h0 = s.h0 ∧ t.h1 = s.h1 ∧
        (bit s.evc.level n.toNat ≠ lv → senseTakes (senseOf s n.toNat) lv = true →
          ((q s n.toNat).cthr.toNat ≤ c.toNat → fires t n.toNat) ∧
          (c.toNat < (q s n.toNat).cthr.toNat → (q s n.toNat).tthr = 0 → t.evc.pend = s.evc.pend ∧ (q t n.toNat).held = c)) ∧
        ((bit s.evc.level n.toNat = lv ∨ senseTakes (senseOf s n.toNat) lv = false) →
          t.evc.pend = s.evc.pend ∧ t.evc.coal = s.evc.coal)) ∧
    (∀ n : BitVec 8, n.toNat < 224 → sourceExists s.bnd.evin n.toNat = true → (q s n.toNat).held ≠ 0 → (q s n.toNat).tthr ≠ 0 →
      600 * (q s n.toNat).tthr.toNat ≤ (now - (q s n.toNat).since).toNat →
      ∃ t, exec (.coalescerTimeExpiry n dt) s = .next t ∧ fires t n.toNat) ∧
    (∀ n : BitVec 2, (sget Tcmp.reset s.evc.tcmp n.toNat).armed = true → (sget Tcmp.reset s.evc.tcmp n.toNat).val ≤ now →
      (q s (192 + n.toNat)).cthr = 1 → ∃ t, exec (.compareTimerFire n dt) s = .next t ∧ fires t (192 + n.toNat) ∧
        (sget Tcmp.reset t.evc.tcmp n.toNat).armed = false)

/-- The event controller's writes: SETPEND and the event bridge make existing sources pending, CLRPEND makes pending ones
active, DONE ends an active one or counts a miss, and ROUTE, COAL and TCMP set what they name; outside warden mode a context
reaches only the sources routed to it, and the host only those granted (R406-R410, R419, R423, R452).
Where it rests on a reading or a choice of the model, log entries 17 and 61 say so. -/
def Obligations.EventRegistersActOnTheirSources : Prop :=
  ∀ (s : State) (w : HalfId) (k : BitVec 5),
    let sees (n : Nat) : Bool := stW (s.bank w k).status || routeOf s n == gctx w k
    (∀ (j : BitVec 3) (b : BitVec 32), takes s w k (0o010010 + j.toNat) (atBits b 0) →
      ∃ t, exec (.evcSetpend w j b) s = .next t ∧ t = { s with evc := { s.evc with pend := t.evc.pend } } ∧ ∀ n < 256,
        bit t.evc.pend n = (bit s.evc.pend n || (n / 32 == j.toNat && bit b (n % 32) && sees n && sourceExists s.bnd.evin n))) ∧
    (∀ (j : BitVec 3) (b : BitVec 32), takes s w k (0o010020 + j.toNat) (atBits b 0) →
      ∃ t, exec (.evcClrpend w j b) s = .next t ∧ t = { s with evc := { s.evc with pend := t.evc.pend, act := t.evc.act } } ∧
        ∀ n < 256, let hit := n / 32 == j.toNat && bit b (n % 32) && sees n
          bit t.evc.pend n = (bit s.evc.pend n && !hit) ∧ bit t.evc.act n = (bit s.evc.act n || (hit && bit s.evc.pend n))) ∧
    (∀ n : BitVec 8, takes s w k 0o010051 (atBits n 0) →
      (sees n.toNat = true → bit s.evc.act n.toNat = true →
        exec (.evcDone w n) s = .next { s with evc := { s.evc with done := n, act := setBit s.evc.act n.toNat false } }) ∧
      ((sees n.toNat = false ∨ bit s.evc.act n.toNat = false) → s.evc.doneMiss ≠ BitVec.allOnes 36 →
        exec (.evcDone w n) s = .next { s with evc := { s.evc with done := n, doneMiss := s.evc.doneMiss + 1 } })) ∧
    (∀ (n : BitVec 8) (g : BitVec 6), takes s w k (0o010400 + n.toNat) (atBits g 0) →
      ((sourceMarked n.toNat = false ∨ gHalf g = sourceHalf n.toNat) → exec (.evcRoute w n g) s =
        .next { s with evc := { s.evc with route := sput 0 s.evc.route n.toNat g } }) ∧
      (sourceMarked n.toNat = true → gHalf g ≠ sourceHalf n.toNat → exec (.evcRoute w n g) s = .next s)) ∧
    (∀ (n : BitVec 8) (v : Cell), takes s w k (0o011400 + n.toNat) v → n.toNat < 224 →
      let q := sget Coal.reset s.evc.coal n.toNat
      let r : Coal := { q with cthr := if fld v 24 8 = (0 : BitVec 8) then 1 else fld v 24 8, tthr := fld v 8 16 }
      q.held = 0 → exec (.evcCoal w n v) s =
        .next { s with evc := { s.evc with coal := sput Coal.reset s.evc.coal n.toNat r } }) ∧
    (∀ (n : BitVec 2) (lo hi : Cell), takes s w k (0o010060 + 2 * n.toNat) lo → exec (.evcTcmp w n lo hi) s =
      .next { s with evc := { s.evc with tcmp := sput Tcmp.reset s.evc.tcmp n.toNat ⟨hi ++ lo, hi ++ lo != BitVec.allOnes 72⟩ } }) ∧
    (∀ (j : BitVec 2) (b : BitVec 32), hostAbsent s = false → ∃ t, exec (.ebSet j b) s = .next t ∧
      t = { s with evc := { s.evc with pend := t.evc.pend }, host := { s.host with resp := ⟨0, .okay⟩ } } ∧ ∀ n < 256,
        bit t.evc.pend n = (bit s.evc.pend n ||
          (n / 32 == j.toNat && bit b (n % 32) && bit s.mbx.grants n && sourceExists s.bnd.evin n)))

/-- A channel after a post: the entry joins the tail with its stamp, or replaces it in a full queue with the collision flagged,
the sequence number advances, and the sender's ack is cleared (R436, R441, R442). -/
def posted (x y : Channel) (inbound : Bool) (cells : List Cell) (origin : BitVec 2) (id : BitVec 10) : Prop :=
  let d := x.dir inbound
  let e : MbxEntry := ⟨cells, stampOf d.seq d.sendEpoch origin id⟩
  (y.dir inbound).seq = d.seq + 1 ∧ bit (y.dir inbound).ack 31 = false ∧ (y.dir inbound).timer = some (0, d.seq) ∧
  y.dir (!inbound) = x.dir (!inbound) ∧
  (d.queue.length < 4 → (y.dir inbound).queue = d.queue ++ [e] ∧ y.collisions = x.collisions) ∧
  (d.queue.length = 4 → (y.dir inbound).queue = d.queue.dropLast ++ [{ e with stamp := e.stamp ||| hBit true 28 }] ∧
    y.collisions = satInc x.collisions ∧ (if inbound then y.collIn else y.collOut) = true)

/-- A post, a take, an ack and a reset of a mailbox channel, from the block and from the host: what each does to its direction,
whom it signals, and that no other channel changes (R436-R449).
Where it rests on a reading or a choice of the model, log entries 10, 17 and 63 say so. -/
def Obligations.MailboxesPostTakeAndAcknowledge : Prop :=
  ∀ (s : State) (w : HalfId) (k : BitVec 5) (c : BitVec 6),
    let x := s.chan c
    let others (t : State) : Prop := (∀ d, d ≠ c → t.chan d = s.chan d) ∧ t.h0 = s.h0 ∧ t.h1 = s.h1 ∧ t.ram = s.ram
    let okay (u : State) : State := { u with host := { u.host with resp := ⟨0, .okay⟩ } }
    let took (d : MbxDir) (e : MbxEntry) (q : List MbxEntry) : MbxDir :=
      { d with queue := q, takenSeq := stampSeq e.stamp, takenEpoch := stampEpoch e.stamp }
    let acked (d : MbxDir) (a : HostWord) : MbxDir := { d with ack := a, timer := none }
    (takes s w k (chanAddr c 0o30) (atBit true 35) → x.en = true → ∃ t, exec (.mbxPost w c) s = .next t ∧ others t ∧
      posted x (t.chan c) false x.blockStage (mbxOrigin w) (s.bank w k).tenant ∧ t.mbx.dbOut = setBit s.mbx.dbOut c.toNat true) ∧
    (takes s w k (chanAddr c 0o30) (atBit true 35) → x.en = false → exec (.mbxPost w c) s =
      .next (s.onChan c fun y => { y with outp := acked y.outp (ackOf true 0 x.outp.seq 0o7775) })) ∧
    (∀ iid, hostAbsent s = false →
      (postRefused x iid = false → ∃ t, exec (.inPost c iid) s = .next t ∧ others t ∧ t.host.resp = ⟨0, .okay⟩ ∧
        posted x (t.chan c) true x.hostStage 0 (iid.setWidth 10) ∧
        ((sget Coal.reset s.evc.coal (128 + c.toNat)).cthr = 1 → bit t.evc.pend (128 + c.toNat) = true)) ∧
      (postRefused x iid = true → exec (.inPost c iid) s = .next { s with host := { s.host with resp := ⟨0, .refused⟩ } })) ∧
    (∀ e q, x.inp.queue = e :: q → (s.ex w).running = some k → (s.half w).tal.portLost = false →
      exec (.mbxPop w c) s = .next (s.onChan c fun y => { y with inp := took y.inp e q })) ∧
    (∀ e q, x.outp.queue = e :: q → hostAbsent s = false →
      exec (.hchPop c) s = .next (okay (s.onChan c fun y => { y with outp := took y.outp e q }))) ∧
    (∀ v : BitVec 12, takes s w k (chanAddr c 0o12) (atBits v 0) → ackIsDelayed s.prt.ack c = false →
      x.inp.takenEpoch = x.inp.sendEpoch → exec (.mbxAck w c v) s =
        .next (setAck s c true (ackOf false (mbxOrigin w) x.inp.takenSeq v))) ∧
    (∀ v : BitVec 12, takes s w k (chanAddr c 0o12) (atBits v 0) → ackIsDelayed s.prt.ack c = true → exec (.mbxAck w c v) s =
      .next { s with mbx := { s.mbx with delayed := s.mbx.delayed ++ [⟨c, true, mbxOrigin w, v⟩] } }) ∧
    (∀ v : HostWord, hostAbsent s = false → ackIsDelayed s.prt.ack c = false →
      (x.outp.takenEpoch = x.outp.sendEpoch → exec (.hchAck c v) s =
        .next (okay (s.onChan c fun y => { y with outp := acked y.outp (ackOf false 0 x.outp.takenSeq (fld v 0 12)) }))) ∧
      (x.outp.takenEpoch ≠ x.outp.sendEpoch → exec (.hchAck c v) s =
        .next (okay (s.onChan c fun y => { y with ackOrphan := satInc y.ackOrphan })))) ∧
    (∀ a l, s.mbx.delayed = a :: l → a.chan = c → a.inbound = true → x.inp.takenEpoch = x.inp.sendEpoch →
      exec (.ackDelayedEffect c true) s =
        .next (setAck { s with mbx := { s.mbx with delayed := l } } c true (ackOf false a.origin x.inp.takenSeq a.code))) ∧
    (∀ n q, x.inp.timer = some (n, q) → x.tmo.toNat ≤ n → bit x.inp.ack 31 = false → ∃ t, exec (.ackTimeout c true) s = .next t ∧
      others t ∧ (t.chan c).inp.ack = ackOf true 0 q 0o7777 ∧ (t.chan c).timeouts = satInc x.timeouts ∧
      bit t.mbx.dbAck c.toNat = true)

/-- Resets of a channel's directions flag its entries stale and advance the epoch of the side that is reset; the doorbells, the
collision flags, the staging and the heads of the host's window, and the answers to beats it cannot take (R430-R432, R437,
R438, R447, R451).
Where it rests on a reading or a choice of the model, log entries 63 and 64 say so. -/
def Obligations.ChannelResetsAndHostBeats : Prop :=
  ∀ (s : State) (w : HalfId) (k : BitVec 5) (c : BitVec 6),
    let x := s.chan c
    let okay (u : State) (v : HostWord) : State := { u with host := { u.host with resp := ⟨v, .okay⟩ } }
    let rx (d : MbxDir) : MbxDir :=
      { d with queue := d.queue.map fun e => { e with stamp := e.stamp ||| hBit true 30 }, recvEpoch := d.recvEpoch + 1 }
    let tx (d : MbxDir) : MbxDir := { d with sendEpoch := d.sendEpoch + 1, timer := none }
    (x.tmo ≠ 0 → takes s w k (chanAddr c 0o14) (cfgWith s c 34) → exec (.mbxRxReset w c) s =
      .next (s.onChan c fun y => { y with inp := rx y.inp })) ∧
    (x.tmo ≠ 0 → takes s w k (chanAddr c 0o14) (cfgWith s c 33) → exec (.mbxTxReset w c) s =
      .next (s.onChan c fun y => { y with outp := tx y.outp })) ∧
    (∀ b : BitVec 32, takes s w k 0o024001 (atBits b 0) →
      exec (.mbxRing w b) s = .next { s with mbx := { s.mbx with dbSw := s.mbx.dbSw ||| b } }) ∧
    (hostAbsent s = false →
      exec (.hchRxReset c) s = .next (okay (s.onChan c fun y => { y with outp := rx y.outp }) 0) ∧
      exec (.hchTxReset c) s = .next (okay (s.onChan c fun y => { y with inp := tx y.inp }) 0) ∧
      exec (.clrColl c) s = .next (okay (s.onChan c fun y => { y with collIn := false }) 0) ∧
      (∀ (i : BitVec 3) (v : HostWord) (iid : Octet), exec (.hostBeat ⟨true, BitVec.ofNat 16 (0x1000 + 64 * c.toNat), i, 2, v, 15, iid⟩) s =
        .next (okay (s.onChan c fun y =>
          { y with hostStage := y.hostStage.set i.toNat ((fld (y.hostStage.getD i.toNat 0) 32 4 : BitVec 4) ++ v) }) 0)) ∧
      (∀ (i : BitVec 3) (v : HostWord) (iid : Octet), exec (.hostBeat ⟨false, BitVec.ofNat 16 (0x1000 + 64 * c.toNat), i, 2, v, 0, iid⟩) s =
        .next (okay s (fld (headCell x.outp i.toNat) 0 32)))) ∧
    (∀ b, hostAbsent s = true → exec (.hostBeat b) s = .next { s with host := { s.host with resp := ⟨0, .absent⟩ } }) ∧
    (∀ b, hostAbsent s = false → (b.burst = 3 ∨ b.start.toNat % 4 ≠ 0 ∨ (b.write = true ∧ b.strobe ≠ 15)) →
      exec (.hostBeat b) s = .next { s with host := { s.host with resp := ⟨0, .decode⟩ } })

/-! ## KEEP, the keep domain and the witness (R41, R304, R421, R433-R435, R505-R511) -/

/-- A KEEP request, by the warden, the host or a detach, is entered once both halves are ready: both are in KEEP, isolated, and
the entries not committed are counted; in KEEP the latches catch edges, and enabled edges, the alarm and an attach wake
(R41, R421, R433-R435, R509-R511, R543).
Where it rests on a reading or a choice of the model, log entries 74 and 75 say so. -/
def Obligations.KeepIsEnteredAndLeft : Prop :=
  ∀ (s : State) (w : HalfId),
    let asked : State := { s with keep := { s.keep with keepReq := true } }
    (mayWrite s w w true → s.isolated = false → s.dbg.emulated = false → exec (.keepRequest w) s = .next asked) ∧
    (hostAbsent s = false → s.mbx.hostKeep = true → s.dbg.emulated = false →
      exec .hostKeep s = .next { asked with host := { s.host with resp := ⟨0, .okay⟩ } }) ∧
    (hostAbsent s = false → s.mbx.hostKeep = false →
      exec .hostKeep s = .next { s with host := { s.host with resp := ⟨0, .refused⟩ } }) ∧
    (s.host.isoReq = false → s.host.isoAck = false → s.mbx.detached = false → ∃ t, exec .isoReqRise s = .next t ∧
      t.host = { s.host with isoReq := true, detach := true } ∧ t.keep = asked.keep ∧ t.h0 = s.h0 ∧ t.h1 = s.h1 ∧
      ∀ c, (t.chan c).inp.queue = [] ∧ (t.chan c).inp.recvEpoch = (s.chan c).inp.recvEpoch + 1 ∧
        (t.chan c).outp.sendEpoch = (s.chan c).outp.sendEpoch + 1 ∧ (t.chan c).blockStage = zeroCells) ∧
    (s.host.isoReq = true → s.host.isoAck = false → exec .isoReqFall s = .next { s with host := { s.host with isoReq := false } }) ∧
    (s.host.isoReq = true → s.host.isoAck = true → s.keep.inKeep = true → s.keep.causes = 0 → ∃ t, exec .isoReqFall s = .next t ∧
      t.host.isoReq = false ∧ t.keep.causes = 8 ∧ t.keep.wakeRtc = fld s.keep.rtc 0 36) ∧
    (s.keep.keepReq = true → s.isolated = false → s.dbg.emulated = false → keepReady s .h0 = true → keepReady s .h1 = true →
      attached s = false → ∃ t, exec .keepEntry s = .next t ∧ (∀ h, t.mode h = mKeep) ∧ t.keep.inKeep = true ∧
        t.keep.keepReq = false ∧ t.keep.latches = 0 ∧ t.host.isoAck = true ∧ t.host.detach = false ∧ t.isolated = true ∧
        t.dbk.keepLost = some (cellOf (dbkQueued s .h0 + dbkQueued s .h1), fld s.keep.rtc 0 36) ∧
        (∀ h, (t.half h).dbk.queue = []) ∧ t.ram = s.ram ∧ t.nvm = s.nvm ∧ ∀ h j, t.bank h j = s.bank h j) ∧
    (∀ n : BitVec 7, s.isolated = true → s.keep.inKeep = true → s.keep.vfieldOn = true → n.toNat < s.bnd.evin.toNat →
      s.keep.causes = 0 → ∃ t, exec (.keepLatchEdge n) s = .next t ∧ t.keep.latches = setBit s.keep.latches n.toNat true ∧
        (bit s.keep.wen n.toNat = false → t.keep.causes = 0) ∧
        (bit s.keep.wen n.toNat = true → t.keep.causes = 2 ∧ t.keep.wakeInput = n.setWidth 8)) ∧
    (s.keep.inKeep = true → s.keep.vfieldOn = true → s.keep.alarmWake = true → s.keep.alarm ≤ s.keep.rtc → s.keep.causes = 0 →
      ∃ t, exec .rtcAlarm s = .next t ∧ t.keep.causes = 4 ∧ t.keep.wakeRtc = fld s.keep.rtc 0 36) ∧
    (s.keep.causes ≠ 0 → s.keep.inKeep = true → s.dbg.emulated = false →
      exec .wake s = .next { s with keep := { s.keep with wakeReq := true } })

/-- The RTC counts, and each of its ticks judges both halves' witness lines, which their heartbeats toggle; KEP_RTCSET sets it;
VFIELD and VCORE come and go, and a cold reset clears the retained cells and the keep domain (R304, R479, R505-R507,
R543, R589).
Where it rests on a reading or a choice of the model, log entries 3 and 77 say so. -/
def Obligations.TimekeepingWitnessAndSupplies : Prop :=
  ∀ (s : State) (h : HalfId),
    (s.keep.vfieldOn = true → ∃ t, exec .rtcTick s = .next t ∧ t.keep.rtc = s.keep.rtc + 1 ∧ t.keep.w0 = s.keep.w0.judge ∧
      t.keep.w1 = s.keep.w1.judge ∧ (s.keep.rtc = BitVec.allOnes 48 → t.keep.rtcOvf = true)) ∧
    (s.mode h ≠ mOff → s.isolated = false → (s.half h).tal.portLost = false → exec (.witnessHeartbeat h) s = .next
      { s with keep := s.keep.onWh h fun x => { x with line := !x.line, latch := true } }) ∧
    (∀ lo hi, mayWrite s h h true → exec (.kepRtcset h lo hi) s = .next
      { s with keep := { s.keep with rtc := (fld hi 0 12 : BitVec 12) ++ lo, rtcSet := (fld hi 0 12 : BitVec 12) ++ lo } }) ∧
    exec .vfieldLoss s = .next { s with keep := { s.keep with vfieldOn := false } } ∧
    exec .vcoreRise s = .next { s with keep := { s.keep with vcoreOk := true } } ∧
    (s.keep.vfieldOn = false → ∃ t, exec .vfieldRise s = .next t ∧ t.keep.vfieldOn = true ∧ t.keep.rtc = 0 ∧
      t.keep.tripped = 0 ∧ (∀ g, t.trec g = TallyRec.zero) ∧ (∀ a < 525312, sget TCell.zero t.ram a = TCell.zero) ∧ t.dbk.lost = 0 ∧ t.host.isoAck = true ∧
      (∀ g, t.mode g = mOff ∧ ∀ j, t.bank g j = Bank.reset) ∧ t.mct.val = s.mct.val ∧ t.rollback = s.rollback) ∧
    (s.keep.vcoreOk = true → s.isolated = false → ∃ t, exec .vcoreLoss s = .next t ∧ t.keep.vcoreOk = false ∧ t.host.isoAck = true ∧
      t.host.lost = true ∧ (∀ c, t.chan c = Channel.zero) ∧ t.store = [] ∧ (∀ g, t.mode g = mOff ∧ ((t.half g).mem.merge = [])) ∧
      (∀ a, 524288 ≤ a → sget TCell.zero t.ram a = sget TCell.zero s.ram a) ∧ t.keep.rtc = s.keep.rtc)

/-! ## Bring-up, charter and resets (R154, R279, R435, R479-R504) -/

/-- RESET_RELEASE starts the boot lanes of a half in the boot ROM; CHARTER_VERIFIED accepts the slot that verification chooses or
holds both halves in charter fault with a request for a reset; CHARTER_INSTALL takes a half to EARLY on two lanes with its
SRAM scrubbed, and the first half readies the host port; a half whose warden image fails is held in reset (R38, R279, R314,
R481, R490-R496). Where it rests on a reading or a choice of the model, log entries 13, 14, 70 and 71 say so. -/
def Obligations.BringUpReachesEarly : Prop :=
  ∀ (s : State) (h : HalfId),
    (s.isolated = false → s.dbg.lock ≠ .relock → (∀ g, (s.half g).up.resetReq = false) → (s.half h).up.released = false →
      (s.half h).up.stuck = false → (∀ l, ((s.trec h).lane l).fenced = false) →
      ∃ t, exec .resetRelease s = .next t ∧ (t.half h).up.released = true ∧ (t.half h).tal.inService = [.a, .b] ∧
        (t.ex h).running = some 0 ∧ (t.bank h 0).status = setBit 0 35 true ∧ (t.bank h 0).valid = true ∧
        (t.bank h 0).resume = ⟨if (s.half h).up.halfStart then 0o77600004 else 0o77600000, 0⟩ ∧ t.ram = s.ram ∧ t.nvm = s.nvm) ∧
    (∀ c : CharterInput, s.cht.installed = false → s.cht.fault = false → s.cht.slot = 0 → s.cht.seen = none → verifiers s ≠ [] →
      let r := choiceOf s (verifiers s) c
      let m := slotImage (slotOf c r.last)
      (∀ second, r.slot = some second → s.dbg.lock ≠ .armed → ∃ t, exec (.charterVerified c) s = .next t ∧
        t.cht.slot = (if second then 2 else 1) ∧ t.cht.ver = (slotImage (slotOf c second)).version ∧ t.cht.fault = false ∧
        t.cht.rej0 = r.rej0 ∧ t.cht.rej1 = r.rej1 ∧ t.cht.digest = m.digest ∧ ∀ g ∈ verifiers s, (t.half g).up.verified = true) ∧
      (r.slot = none → mayAccept s (verifiers s) c = false → ∃ t, exec (.charterVerified c) s = .next t ∧ t.cht.fault = true ∧
        t.cht.slot = 0 ∧ t.mbx.hostReset = true ∧ ∀ g, (t.half g).up.released = false ∧ (t.ex g).running = none)) ∧
    (∀ p0 p1 : Bool, installDue s h = true → (s.cht.installed = true ∨ h = .h0) → (s.dbgHalf h).halt = false →
      (match h with | .h0 => p0 | .h1 => p1) = true →
      ∃ t, exec (.charterInstall p0 p1) s = .next t ∧ t.mode h = mEarly ∧ (t.half h).tal.inService = (unfenced s h).take 2 ∧
        t.cht.installed = true ∧ (s.cht.installed = false → t.host.ready = true ∧ t.vlt.roots = true) ∧
        (∀ a, a / 262144 = h.toNat → sget TCell.zero t.ram a = TCell.zero) ∧ t.nvm = s.nvm ∧ ∀ j, t.bank h j = s.bank h j) ∧
    (∀ p0 p1 : Bool, installDue s h = true → (s.cht.installed = true ∨ h = .h0) →
      (match h with | .h0 => p0 | .h1 => p1) = false →
      ∃ t, exec (.charterInstall p0 p1) s = .next t ∧ t.mode h = mOff ∧ (t.half h).up.released = false ∧
        (t.half h).tal.inService = [] ∧ (t.ex h).running = none ∧ t.cht.installed = true)

/-- CHT_TST records a tenant's image state; a charter update is refused in a locked mode, starts when its image passes, goes on
with each operation of the flash that ends, and ends done or failed (R499-R501, R504).
Where it rests on a reading or a choice of the model, log entry 72 says so. -/
def Obligations.CharterUpdatesRunToTheirEnd : Prop :=
  ∀ (s : State) (w : HalfId) (k : BitVec 5), (s.ex w).running = some k →
    let ust (u : State) (st : BitVec 3) (code : BitVec 6) : State := { u with cht := { u.cht with ustState := st, ustCode := code } }
    (∀ v : Cell, stW (s.bank w k).status = true → fld v 34 2 ≠ (3 : BitVec 2) → imageAbsent s (fld v 0 10) = false →
      exec (.chtTst w v) s = .next { s with cht := { s.cht with
        tstTenant := fld v 0 10, imgs := sput 0 s.cht.imgs (fld v 0 10 : BitVec 10).toNat (fld v 34 2) } }) ∧
    (s.cht.upd = none → s.lockedMode w = true → exec (.charterUpdate w) s = .next (ust s 6 eModeLocked)) ∧
    (∀ u m, s.cht.upd = none → s.lockedMode w = false → bit (chtCell s 2 (2 * (s.bank w k).tenant.toNat)) 32 = true →
      updateImage s (s.snapCap w ((s.bank w k).cap s.cht.updN)) = (u, .ok m) →
      (updateRejects u m = true → exec (.charterUpdate w) s = .next (ust u 6 eOperand)) ∧
      (updateRejects u m = false → exec (.charterUpdate w) s =
        .next (ust { u with cht := { u.cht with upd := some ⟨1, 1, u.cht.updLen.toNat⟩ } } 1 0))) ∧
    (∀ u, s.cht.upd = some u → u.step < 5 →
      exec (.flashStatusPoll true) s = .next s ∧
      (1 < u.left → exec (.flashStatusPoll false) s =
        .next { s with cht := { s.cht with upd := some { u with left := u.left - 1 } } }) ∧
      (u.left ≤ 1 → u.step = 4 → exec (.flashStatusPoll false) s = .next { s with cht := { s.cht with upd := some ⟨5, 0, u.len⟩ } })) ∧
    (∀ u r, s.cht.upd = some u → u.step = 5 → ∃ t, exec (.charterUpdateDone r) s = .next t ∧ t.cht.upd = none ∧
      (t.cht.ustState, t.cht.ustCode) = (match r with
        | .compareOk => (4, 0)
        | .mismatch => (5, 0o60)
        | .noResponse => (5, 0o61)) ∧
      ((sget Coal.reset s.evc.coal 198).cthr = 1 → bit t.evc.pend 198 = true))

/-- A block reset, by the warden or the host, turns both halves OFF with their banks and SRAM cleared and keeps NVM, the counters,
the rollback counter and the tally records; a half reset leaves the other half its mode, banks and SRAM; a context reset
clears one bank, at once or with the window it closes (R154, R286, R314, R435, R479, R480).
Where it rests on a reading or a choice of the model, log entries 46 and 73 say so. -/
def Obligations.ResetsClearWhatTheyName : Prop :=
  ∀ (s : State) (w : HalfId),
    let whole (t : State) : Prop := (∀ g, t.mode g = mOff ∧ (t.half g).up.released = false ∧ (t.half g).win.closed = [] ∧
        (t.half g).dbk.queue = [] ∧ (∀ j, t.bank g j = Bank.reset) ∧ t.trec g = s.trec g) ∧
      (∀ a < 524288, sget TCell.zero t.ram a = TCell.zero) ∧ (∀ a, 524288 ≤ a → sget TCell.zero t.ram a = sget TCell.zero s.ram a) ∧
      t.nvm = s.nvm ∧ t.mct.val = s.mct.val ∧ t.rollback = s.rollback ∧ t.evc.pend = 0 ∧ t.evc.en = 0 ∧ t.cht.slot = 0 ∧
      t.host.ready = false ∧ ∀ c, (t.chan c).en = false
    (mayWrite s w w true → ∃ t, exec (.blockReset w) s = .next t ∧ whole t) ∧
    (hostAbsent s = false → s.mbx.hostReset = true → ∃ t, exec .hostReset s = .next t ∧ whole t ∧ t.host.resp = ⟨0, .okay⟩) ∧
    (hostAbsent s = false → s.mbx.hostReset = false →
      exec .hostReset s = .next { s with host := { s.host with resp := ⟨0, .refused⟩ } }) ∧
    (∀ h, mayWrite s w w true → (w ≠ h ∨ (s.half h).win.slots = 0) → ∃ t, exec (.halfReset w h) s = .next t ∧ t.mode h = mOff ∧
      (t.half h).up.released = false ∧ (t.half h).up.halfStart = true ∧ (∀ j, t.bank h j = Bank.reset) ∧
      (∀ a, a / 262144 = h.toNat → sget TCell.zero t.ram a = TCell.zero) ∧
      (∀ a, a / 262144 ≠ h.toNat → sget TCell.zero t.ram a = sget TCell.zero s.ram a) ∧ t.nvm = s.nvm ∧
      t.mode h.other = s.mode h.other ∧ ∀ j, t.bank h.other j = s.bank h.other j) ∧
    (mayWrite s w w true → 0 < (s.half w).win.slots → noWindow s w = false → exec (.halfReset w w) s =
      .next (s.onUp w fun u => { u with resetReq := true })) ∧
    (∀ k j, (s.ex w).running = some k → stW (s.bank w k).status = true → j ≠ 0 → j ≠ k → closeBlocked s w = false →
      (s.ex w).arith = none → voidRead (s.ex w) = none →
      ((s.half w).win.closed = [] → s.mode w = mReading ∨ ((s.half w).win.slots = 0 ∧ (s.half w).win.group = false) →
        (s.half w).win.acts = [] → (s.ex w).rstPend = [] →
        ∃ t, exec (.contextReset w j) s = .next t ∧ t.bank w j = Bank.reset ∧ recOf (t.ex w) j = Pair.zero ∧
          (∀ i, i ≠ j → t.bank w i = s.bank w i) ∧ (∀ i, t.bank w.other i = s.bank w.other i) ∧ t.ram = s.ram) ∧
      (0 < (s.half w).win.slots → s.running w = true → s.mode w ≠ mReading → settleWaits s w = false →
        (s.half w).win.oldest.toNat < ((s.half w).win.num + 1).toNat → ∃ t, exec (.contextReset w j) s = .next t ∧
        (t.ex w).rstPend = (s.ex w).rstPend ++ [(j, (s.half w).win.num + 1)] ∧ (t.half w).win.slots = 0 ∧
        ∀ i, t.bank w i = s.bank w i)) ∧
    (∀ k j, (s.ex w).running = some k → stW (s.bank w k).status = true → j ≠ 0 → j ≠ k → closeBlocked s w = true →
      0 < (s.half w).win.slots → settleWaits s w = false →
      (s.half w).win.oldest.toNat < ((s.half w).win.num + 1).toNat → ∃ t, exec (.contextReset w j) s = .next t ∧
      (t.ex w).rstPend = (s.ex w).rstPend ++ [(j, (s.half w).win.num + 1)] ∧
      (t.half w).win = { (s.half w).win with closeDue := true } ∧ ∀ i, t.bank w i = s.bank w i)

/-! ## Admission, energy and memory units (R213, R317, R326, R332-R344, R380, R394, R395, R402, R538) -/

/-- A commit or a new cap starts an admission check, whose end accepts it or records the reason; a short stay below the sag
threshold is a dip and a long one where VFIELD stands; a sag withdraws the grants that have not started, marks the half
disturbed and commits its entry ahead of all others, until VFIELD is back (R380, R381, R394, R395, R402, R403, R405).
Where it rests on a reading or a choice of the model, log entry 59 says so. -/
def Obligations.AdmissionAndSag : Prop :=
  ∀ (s : State) (w h : HalfId),
    let c := (s.half h).sch
    let g := (s.half h).gov
    let starts (k : AdmKind) (c : Sched) : Sched := { c with checking := some k, accepted := none, adm := 1, code := 0, bad := 0 }
    (mayWrite s w h true → c.checking = none →
      exec (.commit w h) s = .next (s.onSch h fun c => starts (.table c.shadow) c) ∧
      (∀ v, let thr := clampOctet 30 240 (fld v 16 8)
        let cap := clampOctet 30 160 (fld v 0 8)
        (cap = g.cap → exec (.capWrite w h v) s = .next (s.onGov h fun g => { g with sagThr := thr })) ∧
        (cap ≠ g.cap → exec (.capWrite w h v) s =
          .next ((s.onGov h fun g => { g with sagThr := thr }).onSch h fun c => starts (.cap cap) c)))) ∧
    (∀ t, c.checking = some (.table t) →
      ((admission s h t g.cap).1 = 0 → exec (.admissionDone h) s = .next (s.onSch h fun c =>
        { c with checking := none, accepted := some (.table t), adm := 2, code := 0, bad := 0 })) ∧
      ((admission s h t g.cap).1 ≠ 0 → exec (.admissionDone h) s = .next (s.onSch h fun c =>
        { c with checking := none, adm := 3, code := (admission s h t g.cap).1, bad := (admission s h t g.cap).2 }))) ∧
    (∀ level ns, s.running h = true → level.toNat < g.sagThr.toNat → 200 ≤ ns → ns ≤ 2000 →
      ∃ t, exec (.vfieldCrossing level ns) s = .next t ∧ (t.half h).gov = { g with dips := satInc g.dips } ∧ t.keep = s.keep) ∧
    (∀ level ns, 2000 < ns → exec (.vfieldCrossing level ns) s = .next { s with keep := { s.keep with vfield := level } }) ∧
    (g.sag = false → belowSag s h = true → s.cht.installed = true → ∃ t e, exec (.sagStart h) s = .next t ∧
      (t.half h).gov.sag = true ∧ (t.half h).gov.nvmHold = true ∧ (t.half h).gov.sags = satInc g.sags ∧
      (t.half h).sch.disturbed = true ∧ (∀ m ∈ (t.half h).mem.merge, m.granted = true → m.prog = true) ∧
      dbkClass e = 20 ∧ e.d2 = atBits s.keep.vfield 0 ∧ (t.store.find? fun p => !p.started || (p.op == .sag h e)).map (fun p => p.op) =
        some (.sag h e)) ∧
    (g.sag = true → g.sagThr.toNat + 2 ≤ s.keep.vfield.toNat → exec (.sagEnd h) s = .next (s.onGov h fun g => { g with sag := false }))

/-- Merge-buffer entries become due by a flush or when their hold ends; the line program in flight writes its line under its tenant
and frees its entry; an image swap is refused or waits for its metadata program; patrols read one line each and count what
they meet, behind what waits at their bank; a flush empties the key cache (R315, R317, R322, R323, R326, R327, R331, R332, R340).
Where it rests on a reading or a choice of the model, log entries 41 to 47 say so. -/
def Obligations.MemoryUnitsProgramAndPatrol : Prop :=
  ∀ (s : State) (w h : HalfId),
    let m := (s.half h).mem
    (mayWrite s w h true → exec (.kcFlush w h) s = .next (s.onMem h fun m => { m with keyCache := [] })) ∧
    (mayWrite s w h false → ∃ t, exec (.nvsyncFlush w h) s = .next t ∧ (∀ e ∈ (t.half h).mem.merge, e.due.isSome = true) ∧
      ((t.half h).mem.merge.map fun e => { e with due := none }) = (m.merge.map fun e => { e with due := none }) ∧
      t = s.onMem h fun q => { q with merge := (t.half h).mem.merge, due := (t.half h).mem.due }) ∧
    (∀ (i : BitVec 3) j e, nthLine m i.toNat = some j → m.merge[j]? = some e → e.due = none → exec (.holdExpiry h i) s = .next (s.onMem h fun m =>
      { m with merge := m.merge.set j { e with due := some (nextDue m.merge) }, due := m.due + 1 })) ∧
    (∀ e again, (m.merge.find? fun e => e.prog) = some e → e.img = none → m.allocs = [] →
      (s.ex .h0).fencing = false → (s.ex .h1).fencing = false →
      let line := mapLine m e.line
      let key := nvmKey h line
      wearOf m (nvmBank line) (physOf m line) < 1000000 → ∃ t, exec (.lineProgramComplete h true again) s = .next t ∧
        sget none t.nvm key = some ⟨e.tenant, (match sget none s.nvm key with
          | none => 1
          | some l => l.version + 1), e.cells, false⟩ ∧
        (∀ k, k ≠ key → sget none t.nvm k = sget none s.nvm k) ∧ (t.half h).mem.done = m.done + 1 ∧
        (t.half h).mem.merge.length + 1 = m.merge.length ∧ t.ram = s.ram ∧ ∀ g j, t.bank g j = s.bank g j) ∧
    (∀ k : BitVec 4, mayWrite s w h true → s.lockedMode w = true → exec (.imageSwap w h k) s = .next s) ∧
    (∀ k : BitVec 4, mayWrite s w h true → let p := sget ImgPair.zero m.imgs k.toNat
      p.swap = false → s.lockedMode w = false →
      (swapRefused m k.toNat p = true → exec (.imageSwap w h k) s = .next (s.onMem h fun m =>
        { m with imgs := sput ImgPair.zero m.imgs k.toNat { p with err := true } })) ∧
      (swapRefused m k.toNat p = false → ∃ t e, exec (.imageSwap w h k) s = .next t ∧
        sget ImgPair.zero (t.half h).mem.imgs k.toNat = { p with err := false, swap := true, prog := false } ∧
        (t.half h).mem.merge = m.merge ++ [e] ∧ e.img = some k ∧ e.due.isSome = true ∧ t.nvm = s.nvm)) ∧
    (m.patrolEn = true → s.heldInReset h = false →
      (∀ bank : BitVec 2, let q : ArbReq := ⟨.patrol, bank.setWidth 4, 0, 0, .patrol, true⟩
        let n := sget 0 m.patrolS bank.toNat
        let a := sramPatrolAddr h bank.toNat n
        let next (q : MemUnit) : MemUnit := { q with patrolS := sput 0 q.patrolS bank.toNat ((n + 1) % 32768) }
        (∀ r ∈ m.arb, r.bank ≠ q.bank) → m.bad.contains (a.toNat / 2) = false →
        let u := perfCount s h 0o10
        exec (.sramPatrol h bank .clean) s = .next (u.onMem h next) ∧
        exec (.sramPatrol h bank .corrected) s =
          .next (u.onMem h fun q => next { q with sramCor := satInc q.sramCor }) ∧
        exec (.sramPatrol h bank .failed) s = .next (u.onMem h fun q =>
          next { q with sramUnc := satInc q.sramUnc, lastErr := sramLineAddr a, bad := a.toNat / 2 :: q.bad })) ∧
      (∀ (bank : BitVec 2) r, let q : ArbReq := ⟨.patrol, bank.setWidth 4, 0, 0, .patrol, true⟩
        (∃ x ∈ m.arb, x.bank = q.bank) → q ∉ m.arb →
        exec (.sramPatrol h bank r) s = .next (s.onMem h fun m => { m with arb := q :: m.arb })) ∧
      (∀ bank : BitVec 3, let q : ArbReq := ⟨.patrol, bank.setWidth 4 + 4, 0, 0, .patrol, true⟩
        let n := sget 0 m.patrolN bank.toNat
        let next (q : MemUnit) : MemUnit := { q with patrolN := sput 0 q.patrolN bank.toNat ((n + 1) % 16384) }
        (∀ r ∈ m.arb, r.bank ≠ q.bank) → q.programs m = false →
        let u := perfCount s h 0o11
        exec (.nvmPatrol h bank .corrected false) s = .next (u.onMem h fun q => next { q with nvmCor := satInc q.nvmCor }) ∧
        ∀ r two, r ≠ .corrected → exec (.nvmPatrol h bank r two) s = .next (u.onMem h next)))

/-- A counter increment assigns the next value and queues its program, whose completion makes it durable; a daybook program fills
the ring; DBK_PUT reports what it is given; a mint is refused or waits for its FENCE; RKN_OWN names the reckoner's owner, who
owns it from the close that the write forces (R213, R214, R333, R334, R344, R453, R535, R538, R539).
Where it rests on a reading or a choice of the model, log entries 17, 58 and 80 say so. -/
def Obligations.CountersDaybookMintAndOwnership : Prop :=
  ∀ (s : State) (w : HalfId) (k : BitVec 5),
    let b := s.bank w k
    (∀ n : Octet, takes s w k (0o056400 + n.toNat) 1 →
      let v := mctLatest s n
      let g := gctx w k
      let r (x : MctRes) : State := { s with mct := { s.mct with res := sput MctRes.zero s.mct.res g.toNat x } }
      (v = BitVec.allOnes 36 → exec (.mctInc w n) s = .next (r ⟨v, 3, n⟩)) ∧
      (v ≠ BitVec.allOnes 36 → ∃ t p, exec (.mctInc w n) s = .next t ∧ t = { r ⟨v + 1, 1, n⟩ with store := t.store } ∧
        t.store.getLast? = some p ∧ p.op = .counter n (v + 1) g ∧ t.store.length = s.store.length + 1 ∧ mctLatest t n = v + 1)) ∧
    (∀ n v g p l, s.store = p :: l → p.op = .counter n v g → p.started = true →
      ∃ t, exec .commonsStoreProgramComplete s = .next t ∧ sget 0 t.mct.val n.toNat = v ∧
        (sget MctRes.zero s.mct.res g.toNat = ⟨v, 1, n⟩ → sget MctRes.zero t.mct.res g.toNat = ⟨v, 2, n⟩) ∧
        (t.store.map fun p => p.op) = l.map fun p => p.op) ∧
    (∀ e h p l, s.store = p :: l → p.op = .daybook h e → p.started = true →
      ∃ t, exec .commonsStoreProgramComplete s = .next t ∧ sget DbkEntry.zero t.dbk.ring s.dbk.head.toNat = e ∧
        t.dbk.head = s.dbk.head + 1 ∧ t.dbk.commits = satInc s.dbk.commits ∧ t.dbk.lastClass = fld e.d1 30 6) ∧
    (∀ x0 x1, takes s w k 0o060006 x0 → (s.half w).dbk.overflow = false → (s.half w).dbk.queue.length < 64 →
      ∃ t, exec (.dbkPut w x0 x1) s = .next t ∧ (t.half w).dbk.queue = (s.half w).dbk.queue ++
        [⟨(s.half w).sch.frame, dbkHead false (if stW b.status then 30 else 31) (originOf w) 15 (some k) none false, x0, x1⟩] ∧
        t.dbk.put = ⟨x0, x1⟩ ∧ t.h0.ex = s.h0.ex ∧ t.h1.ex = s.h1.ex ∧ t.ram = s.ram) ∧
    (∀ n : BitVec 2, (s.ex w).running = some k → stW b.status = true → (s.ex w).mintPend = none →
      let c := capOf true (s.ex w).mint.c0 (s.ex w).mint.c1
      (c.space = spSealed → exec (.mint w n) s =
        .next (s.onEx w fun e => { e with mintN := n, mintSt := atBits (3 : BitVec 2) 34 ||| atBits k 10 ||| atBits eOperand 0 })) ∧
      (c.space ≠ spSealed → c.base.toNat + c.len.toNat ≤ spaceLimit c.space → exec (.mint w n) s = .next (s.onEx w fun e =>
        { e with mintN := n, mintPend := some ⟨c, n, k⟩, mintSt := atBits (1 : BitVec 2) 34 ||| atBits k 10 }))) ∧
    (∀ h v, (s.ex w).running = some k → stW b.status = true → (w = h ∨ spanOpen s w = true) →
      let o := if bit v 34 then k else fld v 23 5
      ((s.half h).win.blank = true ∨ (closeBlocked s h = false ∧ (s.ex h).arith = none ∧ voidRead (s.ex h) = none) →
        ∃ t, exec (.rknOwn w h v) s = .next t ∧ (t.half h).rkn.ownValid = bit v 35 ∧ (t.half h).rkn.ownCtx = o ∧
          (t.half h).rkn.ownNext = none) ∧
      ((s.half h).win.blank = false → closeBlocked s h = true → exec (.rknOwn w h v) s =
        .next ((s.onRkn h fun r => { r with ownNext := some (bit v 35, o) }).onWin h fun w => { w with closeDue := true })))

/-! ## The span (R287-R310) -/

/-- Heartbeats bring a path up after 16 in a row and carry the sender's mode, frame and span state; a missing one or a disable takes it down in
both halves; a good flit is applied and leaves the replay buffer, a bad one asks for a replay; recovery adopts one view of the
tables; a generation changes at a forced close, which ends the CREVOKE that asked for it, and a migration is refused, asked for, or ends (R288-R299, R306, R310).
Where it rests on a reading or a choice of the model, log entries 48 to 51 say so. -/
def Obligations.SpanCarriesAndRecovers : Prop :=
  ∀ (s : State) (w h : HalfId),
    let p := (s.half h).spn
    let o := (s.half h.other).spn
    (∀ b, s.isolated = false → s.heldInReset h = false → s.heldInReset h.other = false → (p.path b).up = false → pathDisabled s b = false →
      ∃ t, exec (.spanHeartbeat h b true) s = .next t ∧ (t.half h).spn.peerMode = s.mode h.other ∧
        (t.half h).spn.peerFrame = fld (s.half h.other).sch.frame 0 12 ∧ (t.half h).spn.peerState = (s.half h.other).spn.state ∧
        (15 ≤ (p.path b).good → ((t.half h).spn.path b).up = true) ∧
        ((p.path b).good < 15 → ((t.half h).spn.path b).up = false ∧ ((t.half h).spn.path b).good = (p.path b).good + 1)) ∧
    (∀ b, ∃ t, exec (.pathHeartbeatTimeout b) s = .next t ∧ (∀ g, ((t.half g).spn.path b).up = false) ∧
      ((p.path b).up = true → ((t.half h).spn.path b).downs = satInc (p.path b).downs) ∧
      ((p.path (!b)).up = false → s.heldInReset h = false → (t.half h).spn.state = spDown)) ∧
    (∀ v, mayWrite s w h true → bit v 35 = true → ∃ t, exec (.pathDisable w h v) s = .next t ∧
      (∀ g, (t.half g).spn.pa.up = false) ∧ (t.half h).spn.pa.dis = true ∧ (t.half h).spn.pb.dis = bit v 34) ∧
    (∀ f l, s.isolated = false → spanOpen s h = true → spanOpen s h.other = true → p.replay = false → s.mode h ≠ mOff →
      o.out = f :: l →
      (flitTaken p true true true = true → exec (.flitReceive h true true true) s =
        .next (fencesOn (applyFlit (s.onSpn h.other fun q => { q with out := l }) h f))) ∧
      (p.pa.up = true → p.pb.up = true → (∀ g, (s.ex g).fencing = false) → ∃ t, exec (.flitReceive h true true false) s = .next t ∧
        (t.half h).spn.replay = true ∧ (t.half h).spn.retries = satInc p.retries ∧ (t.half h.other).spn.out = o.out)) ∧
    (∀ u t g, applyFlit u h (.genUpdate t g) = u.onSpn h fun q => { q with applyGen := q.applyGen ++ [(t, g, .update)] }) ∧
    exec (.spanReplay h) s = .next (s.onSpn h.other fun q => { q with replay := false }) ∧
    ((∀ g, (s.half g).spn.state = spRecovering ∧ (s.half g).spn.out = [] ∧ (s.half g).spn.applyGen = [] ∧
      (s.ex g).fencing = false) →
      ∃ t, exec .spanRecoveryComplete s = .next t ∧ (∀ g, (t.half g).spn.tables = adoptTables s.h0.spn.tables s.h1.spn.tables ∧
        (t.half g).spn.store = (t.half g).spn.tables ∧ (t.half g).spn.changed = [] ∧
        (t.half g).spn.state = (if (s.half g).spn.pa.up && (s.half g).spn.pb.up then spUp else spDegraded)) ∧
        t.keep.wit.isOpen = (s.keep.wit.isOpen && !s.keep.wit.valid) ∧ t.ram = s.ram ∧ t.nvm = s.nvm) ∧
    (∀ x g k l, p.applyGen = (x, g, k) :: l → (s.ex h).fed = none →
      (advanceWaits s h x k = true → exec (.generationApply h) s = .next s) ∧
      (lanesRun s h = true → closeBlocked s h = false → (s.ex h).arith = none → voidRead (s.ex h) = none → (s.ex h).waiting = none →
        let applied (v : BitVec 4) (o : List Flit) : Prop := ∃ t, exec (.generationApply h) s = .next t ∧
          sget 0 (t.half h).spn.tables.gen x.toNat = v ∧ sget 0 (t.half h).spn.store.gen x.toNat = v ∧
          (t.half h).spn.applyGen = l ∧ (s.mode h ≠ mReading → (t.half h).spn.out = p.out ++ o) ∧ (t.half h).win.slots = 0 ∧
          (k = .answer → (t.ex h).revoking ≠ some x)
        (k = .update ∨ k = .answer → applied g []) ∧
        (k = .request → advanceWaits s h x k = false → applied (s.genOf h x + 1) [.genAnswer x (s.genOf h x + 1)]))) ∧
    (mayWrite s w w true → (s.half w).spn.mig.state ≠ 1 →
      let m := (s.half w).spn.mig
      let x := migTenant m
      (s.lockedMode w = true → migInNvm m = true → exec (.migrationStart w) s = .next s) ∧
      ((s.lockedMode w = false ∨ migInNvm m = false) →
      (migRefusal s w ≠ 0 → exec (.migrationStart w) s =
        .next (s.onSpn w fun q => { q with mig := { m with state := 3, code := migRefusal s w, tenant := x } })) ∧
      (migRefusal s w = 0 → exec (.migrationStart w) s = .next (s.onSpn w fun q =>
        { q with mig := { m with state := 1, code := 0, tenant := x, old := s.genOf w x, gen := s.genOf w x + 1, acked := false }
                 out := q.out ++ [.migrate x (s.genOf w x + 1)]
                 tables := q.tables.untaken x, store := q.store.untaken x })))) ∧
    (p.mig.state = 1 → p.mig.acked = true → ∃ t, exec (.migrationDone h) s = .next t ∧
      (t.half h).spn.mig = { p.mig with state := 2, code := 0 } ∧ ∀ g j, t.bank g j = s.bank g j)

/-! ## The card port (R454-R478) -/

/-- A start of the card port by the running context copies Cn, stamps the transfer, numbers it and leaves it running, with the data
of a transfer to the card read first; it fails with its code, or is only counted while another runs; an abort ends it, and a
commit writes the octets and is done (R455-R460, R470, R476, R477).
Where it rests on a reading or a choice of the model, log entries 10, 65 and 66 say so. -/
def Obligations.CardTransfersStartAndEnd : Prop :=
  ∀ (s : State) (w : HalfId) (k : BitVec 5) (n : BitVec 2), (s.ex w).running = some k →
    let b := s.bank w k
    let c := s.crd
    let x (op : BitVec 3) : CrdXfer := ⟨op, s.snapCap w (b.cap n), ⟨b.tenant, s.genOf w b.tenant, gctx w k⟩, c.off, c.cmd0,
      startLen c op, c.dir, c.p3, []⟩
    let runs (i : Instr) (y : CrdXfer) (ph : CrdPhase) : Prop := ∃ t, exec i s = .next t ∧ t.crd.xfer = some y ∧ t.crd.phase = ph ∧
      t.crd.xst = { CrdXst.zero with state := 1, seq := c.nextSeq } ∧ t.crd.nextSeq = c.nextSeq + 1
    let starts : List (Instr × BitVec 3) := [(.command w n, 0), (.read w n, 1), (.write w n, 2), (.tpdu w n, 3), (.reset w n, 4)]
    (c.xfer = none →
      (startRefusal s (x 0) = 0 → runs (.command w n) (x 0) .commandResp) ∧
      (startRefusal s (x 1) = 0 → runs (.read w n) (x 1) .commandResp) ∧
      (∀ y, startRefusal s (x 2) = 0 → (crdFetch s (x 2) (x 2).len).2 = .ok y → runs (.write w n) y .commandResp) ∧
      (startRefusal s (x 3) = 0 → c.dir = true → runs (.tpdu w n) (x 3) .procedure) ∧
      (∀ y, startRefusal s (x 3) = 0 → c.dir = false → (crdFetch s (x 3) (x 3).len).2 = .ok y → runs (.tpdu w n) y .procedure) ∧
      (startRefusal s (x 4) = 0 → c.cfg.proto ≠ 2 → runs (.reset w n) (x 4) .wakeUp) ∧
      (startRefusal s (x 4) = 0 → c.cfg.proto = 2 → s.bnd.tieSc7816 = true → c.cfg.classC = true →
        runs (.reset w n) (x 4) (.atr false)) ∧
      (∀ i op, (i, op) ∈ starts → startRefusal s (x op) ≠ 0 → ∃ t, exec i s = .next t ∧ t.crd.xfer = none ∧
        t.crd.xst = { CrdXst.zero with state := 5, code := startRefusal s (x op), seq := c.nextSeq } ∧
        t.crd.nextSeq = c.nextSeq + 1)) ∧
    (∀ i op y, (i, op) ∈ starts → c.xfer = some y → ∃ t, exec i s = .next t ∧
      t.crd = { c with op := op, n := n, busyIgn := satInc c.busyIgn } ∧ t.ram = s.ram) ∧
    (∀ y, c.xfer = some y → c.phase ≠ .commit → ∃ t, exec (.abort w) s = .next t ∧ t.crd.xfer = none ∧ t.crd.phase = .idle ∧
      t.crd.xst = { c.xst with state := 5, code := xAborted }) ∧
    (∀ (y : CrdXfer) (a : Addr) (m : Nat), c.xfer = some y → c.phase = .commit → y.staging.length = 4 * m → 0 < m →
      crdCheck s y pST (4 * m) = .ok a → stampCurrent s y.stamp = true → s.mode (gHalf y.stamp.ctx) ≠ mHalt →
      (∀ i < m, ∃ h, regionOf (a + BitVec.ofNat 24 i) = .sram h ∧
        (s.half h).mem.bad.contains ((a + BitVec.ofNat 24 i).toNat / 2) = false) →
      ∃ t, exec .cardCommitDone s = .next t ∧ t.crd.xfer = none ∧ t.crd.xst = { c.xst with state := 4, code := 0 } ∧
        (∀ i < m, sget TCell.zero t.ram (a.toNat + i) = TCell.plain (cellOfOctets ((y.staging.drop (4 * i)).take 4))) ∧
        (∀ j, (j < a.toNat ∨ a.toNat + m ≤ j) → sget TCell.zero t.ram j = sget TCell.zero s.ram j) ∧
        ((sget Coal.reset s.evc.coal 196).cthr = 1 → bit t.evc.pend 196 = true))

/-- The folio link: the wake-up answer leads to RESET and that to NEGOTIATE; a good response goes on to the data, the receipt or the
end, a bad or missing one is retried and counted, a busy one waits; good blocks are staged, good receipts go to the next
block, and detection starts the card up or loses it (R461-R463, R470, R471, R477).
Where it rests on a reading or a choice of the model, log entry 67 says so. -/
def Obligations.FolioExchangesFollowTheirRules : Prop :=
  ∀ (s : State), s.isolated = false →
    let c := s.crd
    let crd (f : Crd → Crd) : Host.Outcome State Fault Refusal := .next { s with crd := f c }
    (c.phase = .wakeUp → exec .folioWakeUpAnswer s = crd fun c => { c with phase := .resetResp, tries := 0 }) ∧
    (∀ f, c.phase.waitsResponse = true → respGood c f = false → c.tries < 3 → exec (.folioResponse f) s = crd fun c =>
      { c with crc := satInc c.crc, tries := c.tries + 1, retries := satInc c.retries }) ∧
    (∀ f, c.phase = .resetResp → respGood c f = true → bit f 14 = false → bit f 15 = false →
      exec (.folioResponse f) s = crd fun c => { c with phase := .negotiateResp false, tries := 0 }) ∧
    (∀ f x, c.phase = .commandResp → c.xfer = some x → respGood c f = true →
      let kept : CrdXst := { c.xst with index := (fld f 16 6 : BitVec 6).setWidth 8, rstat := (fld f 8 8 : Octet).setWidth 16 }
      (bit f 14 = true → exec (.folioResponse f) s = crd fun c => { c with xst := kept, phase := .busyWait .commandResp }) ∧
      (bit f 14 = false → bit f 15 = false → x.op = 1 → exec (.folioResponse f) s =
        crd fun c => { c with xst := kept, tries := 0, fresh := false, phase := .dataBlock }) ∧
      (bit f 14 = false → bit f 15 = false → x.op = 2 → exec (.folioResponse f) s =
        crd fun c => { c with xst := kept, tries := 0, fresh := false, phase := .receipt }) ∧
      (bit f 14 = false → bit f 15 = false → x.op = 0 → ∃ t, exec (.folioResponse f) s = .next t ∧ t.crd.xfer = none ∧
        t.crd.xst = { kept with state := 4, code := 0 }) ∧
      (bit f 14 = false → bit f 15 = true → ∃ t, exec (.folioResponse f) s = .next t ∧ t.crd.xfer = none ∧
        t.crd.xst = { kept with state := 5, code := xCardError })) ∧
    (∀ x l, c.phase = .dataBlock → c.xfer = some x → c.w4 = false →
      (frameGood c.xst.blocks 512 l = true → (c.xst.blocks + 1).toNat < x.blocks → exec (.folioDataBlock [l]) s = crd fun c =>
        { c with xst := { c.xst with blocks := c.xst.blocks + 1 }, xfer := some { x with staging := x.staging ++ l.octets }, blkTries := 0 }) ∧
      (frameGood c.xst.blocks 512 l = false → c.blkTries < 3 → exec (.folioDataBlock [l]) s = crd fun c =>
        { c with crc := satInc c.crc, blkTries := c.blkTries + 1, retries := satInc c.retries, phase := .commandResp, tries := 0 })) ∧
    (∀ f, c.phase = .receipt → receiptGood c.xst.blocks f = true → exec (.folioReceipt f) s = crd fun c =>
      { c with xst := { c.xst with blocks := c.xst.blocks + 1 }, phase := .lineBusy, blkTries := 0 }) ∧
    (∀ x, c.phase = .lineBusy → c.xfer = some x →
      (c.xst.blocks.toNat < x.blocks → exec .commandLineRelease s = crd fun c => { c with phase := .receipt }) ∧
      (x.blocks ≤ c.xst.blocks.toNat → ∃ t, exec .commandLineRelease s = .next t ∧ t.crd.xfer = none ∧
        t.crd.xst = { c.xst with state := 4, code := 0 })) ∧
    (c.phase.waitsResponse = true → c.tries < 3 → exec .folioTimeout s = crd fun c =>
      { c with timeouts := satInc c.timeouts, tries := c.tries + 1, retries := satInc c.retries }) ∧
    (∀ p, c.phase = .busyWait p → exec .folioBusyRetry s = crd fun c => { c with phase := p }) ∧
    (c.en = true → s.bnd.tieCard = true → c.card = 0 → c.phase ≠ .commit → c.cfg.proto ≠ 2 →
      ∃ t, exec (.cardDetect c.act.detPol) s = .next t ∧ t.crd.card = 1 ∧ t.crd.phase = .wakeUp ∧ t.crd.act = c.cfg ∧
        t.crd.detCnt = satInc c.detCnt) ∧
    (c.card ≠ 0 → c.phase ≠ .commit → ∃ t, exec (.cardDetect (!c.act.detPol)) s = .next t ∧ t.crd.card = 0 ∧ t.crd.xfer = none ∧
      t.crd.phase = .idle ∧ t.crd.cls = 0)

/-- The smart-card fall-back: a usable ATR readies the card or asks for a PPS, whose echo applies the pair and whose failure
activates again without one; procedure bytes, data and SW1 SW2 move a TPDU on; character failures are counted, and the waits
of activation and work end it (R464-R468).
Where it rests on a reading or a choice of the model, log entry 68 says so. -/
def Obligations.SmartCardExchangesFollowTheirRules : Prop :=
  ∀ (s : State), s.isolated = false →
    let c := s.crd
    let again (i : Instr) : Prop := ∃ t, exec i s = .next t ∧ t.crd.phase = .atr (c.cls == 1) ∧ t.crd.pars = { IsoPars.reset with noPps := true } ∧
      t.crd.cls = (if c.cls == 1 then 1 else 2) ∧ t.crd.fidi = 0x11 ∧ t.crd.clk = 4
    (∀ l cls, c.phase = .atr cls → l.length ≤ 33 → (l.headD 0 = 0x3B ∨ l.headD 0 = 0x3F) →
      let a := atrInfo (l.drop 1)
      a.offersT0 = true → (cls = true ∨ excludesC a = false) → a.ta2 = none →
      (a.ta1 = none → ∃ t, exec (.atr l) s = .next t ∧ t.crd.card = 3 ∧ t.crd.fidi = 0x11 ∧ t.crd.atr = l ∧ t.crd.phase = .idle ∧
        t.crd.pars.guard = a.tc1.getD 0) ∧
      (∀ x, a.ta1 = some x → pairDefault x = false → c.pars.noPps = false → ∃ t, exec (.atr l) s = .next t ∧ t.crd.phase = .pps ∧
        t.crd.pars.ppsPair = ppsPair x ∧ t.crd.atr = l)) ∧
    (c.phase = .pps →
      (∃ t, exec (.ppsResponse [0xFF, 0x10, c.pars.ppsPair, 0xFF ^^^ 0x10 ^^^ c.pars.ppsPair]) s = .next t ∧ t.crd.card = 3 ∧
        t.crd.fidi = c.pars.ppsPair ∧ t.crd.clk = ppsClock c.pars.ppsPair) ∧
      (∀ l, l ≠ [0xFF, 0x10, c.pars.ppsPair, 0xFF ^^^ 0x10 ^^^ c.pars.ppsPair] → again (.ppsResponse l)) ∧ again .ppsTimeout) ∧
    (∀ x o, c.xfer = some x → c.phase = .procedure →
      let ins : Octet := fld x.cmd 16 8
      let left := tpduCount x.dir x.p3 - c.xst.count.toNat
      (o ≠ 0x60 → o = ins → left ≠ 0 → x.dir = true → exec (.characterReceive o true) s =
        .next { s with crd := { c with chars := 0, phase := .rxData false } }) ∧
      (o ≠ 0x60 → o = ins → left ≠ 0 → x.dir = false → exec (.characterReceive o true) s = .next { s with crd :=
        { c with chars := 0, xst := { c.xst with count := c.xst.count + BitVec.ofNat 12 left } } }) ∧
      (o ≠ 0x60 → o ≠ ins → o ≠ ~~~ins → (fld o 4 4 = (6 : BitVec 4) ∨ fld o 4 4 = (9 : BitVec 4)) →
        exec (.characterReceive o true) s = .next { s with crd := { c with chars := 0, phase := .sw2 o } })) ∧
    (∀ x o, c.xfer = some x → c.phase = .rxData true → exec (.characterReceive o true) s = .next { s with crd :=
      { c with chars := 0, phase := .procedure, xfer := some { x with staging := x.staging ++ [o] },
               xst := { c.xst with count := c.xst.count + 1 } } }) ∧
    (∀ x o sw1, c.xfer = some x → c.phase = .sw2 sw1 → x.dir = false → ∃ t, exec (.characterReceive o true) s = .next t ∧
      t.crd.xfer = none ∧ t.crd.xst = { c.xst with state := 4, code := 0, rstat := sw1 ++ o }) ∧
    (∀ o, c.phase.iso = true → c.chars < 4 → exec (.characterReceive o false) s =
      .next { s with crd := { c with parity := satInc c.parity, chars := c.chars + 1 } }) ∧
    ((c.phase = .procedure ∨ c.phase = .pps) → c.chars < 4 → exec .characterErrorSignal s =
      .next { s with crd := { c with parity := satInc c.parity, chars := c.chars + 1 } }) ∧
    (∀ x, c.xfer = some x → (c.phase = .procedure ∨ ∃ one, c.phase = .rxData one) → ∃ t, exec .workWaitingTimeout s = .next t ∧
      t.crd.xfer = none ∧ t.crd.card = 1 ∧ t.crd.xst = { c.xst with state := 5, code := xTimeout } ∧
      t.crd.timeouts = satInc c.timeouts ∧ t.crd.cls = 0) ∧
    (c.phase = .atr false → c.act.classB = true → exec .activationTimeout s =
      .next { s with crd := { c.deactivate with phase := .reactivate } }) ∧
    (c.phase = .reactivate → ∃ t, exec .activationTimeout s = .next t ∧ t.crd.phase = .atr true ∧ t.crd.cls = 1 ∧ t.crd.clk = 4) ∧
    (c.card = 3 → c.act.clkstop = true → c.pars.clockX ≠ 0 → c.xfer = none → c.phase = .idle →
      exec .clockStop s = .next { s with crd := { c with stopped := true } })

/-! ## Random numbers, tamper, the key vault and the fleet index (R512-R534, R583) -/

/-- Of the halves that take a seed the one with more calls gets it, half 0 on a tie, and with none it waits; start-up passes, is
repeated once or fails; health failures are counted, and the third in a row of a stream puts its source out; a read of RNG_OUT
takes 32 bits of the latest generate call or makes a new one, with a reseed where one is due and its seed is there, and reads 0
while the DRBG may not run; raw mode fills the FIFO with samples, which warden reads pop, and its end runs the start-up tests
again, with no output before the first seed after them. Each command leaves all as it was where it does not apply (R521-R524, R532).
Where it rests on a reading or a choice of the model, log entry 79 says so. -/
def Obligations.RandomNumbersAreTestedAndServed : Prop :=
  ∀ (s : State) (h : HalfId) (k : BitVec 5),
    let r := s.rng
    let d := (s.half h).rng
    let marks (t : State) : Prop := (sget Coal.reset s.evc.coal 199).cthr = 1 → bit t.evc.pend 199 = true
    let due (g : HalfId) : Prop := (s.half g).rng.ready = false ∨ r.reseedInt.toNat ≤ (s.half g).rng.calls
    let first : Prop := (s.half h.other).rng.calls < d.calls ∨ ((s.half h.other).rng.calls = d.calls ∧ h = .h0)
    ((r.state ≠ 1 ∨ r.raw = true → exec .seedReady s = .next s) ∧
      (r.state = 1 → r.raw = false → ∃ t, exec .seedReady s = .next t ∧
        (due h → first ∨ ¬ due h.other → (t.half h).rng = { d with ready := true, calls := 0 } ∧
          (t.half h.other).rng = (s.half h.other).rng ∧ t.rng = { r with fails := [0, 0, 0, 0], resumes := false }) ∧
        ((∀ g, ¬ due g) → t.rng = { r with fails := [0, 0, 0, 0], resumes := false, seed := true } ∧
          ∀ g, (t.half g).rng = (s.half g).rng))) ∧
    ((s.isolated = true ∨ r.state ≠ 0 → ∀ pass, exec (.rngStartupDone pass) s = .next s) ∧
      (s.isolated = false → r.state = 0 →
        exec (.rngStartupDone true) s = .next (s.onRng fun q => { q with starts := satInc q.starts, state := 1 }) ∧
        (r.retried = false → exec (.rngStartupDone false) s =
          .next (s.onRng fun q => { q with starts := satInc q.starts, retried := true })) ∧
        (r.retried = true → ∃ t, exec (.rngStartupDone false) s = .next t ∧ marks t ∧
          t.rng = { r with starts := satInc r.starts, state := 3 }))) ∧
    (∀ (n : BitVec 2) (a : Bool), (s.isolated = true → exec (.healthTestFailure n a) s = .next s) ∧
      (s.isolated = false → r.fails.length = 4 →
        let out := setBit r.srcFail (2 - n.toNat) true
        ∃ t, exec (.healthTestFailure n a) s = .next t ∧ marks t ∧ t.rng.rct = (if a then r.rct else satInc r.rct) ∧
        t.rng.apt = (if a then satInc r.apt else r.apt) ∧ t.rng.fails = r.fails.set n.toNat (r.fails.getD n.toNat 0 + 1) ∧
        (r.fails.getD n.toNat 0 < 2 → t.rng.state = r.state ∧ t.rng.srcFail = r.srcFail) ∧
        (2 ≤ r.fails.getD n.toNat 0 → n = 3 → t.rng.state = 3 ∧ t.rng.srcFail = r.srcFail) ∧
        (2 ≤ r.fails.getD n.toNat 0 → n ≠ 3 → t.rng.srcFail = out ∧ t.rng.state = if 2 ≤ countTrue (bitsMsb out) then 3 else r.state))) ∧
    (((s.ex h).running = none ∨ (s.half h).tal.portLost = true → exec (.rngOut h) s = .next s ∧ exec (.rngRaw h) s = .next s) ∧
      ((s.ex h).running = some k → (s.half h).tal.portLost = false →
        let serves (f : State → State) : Prop := bit (rngOutRead s h).2 35 = true ∧ exec (.rngOut h) s = .next (f s).draw
        (d.ready = true → r.raw = false → r.resumes = false →
          (d.kept ≠ 0 → serves fun s => s.onDrbg h fun q => { q with kept := q.kept - 1 }) ∧
          (d.kept = 0 → d.calls < r.reseedInt.toNat ∨ r.seed = false → d.calls < 524288 →
            serves fun s => s.onDrbg h fun q => { q with calls := q.calls + 1, kept := 17 }) ∧
          (d.kept = 0 → r.reseedInt.toNat ≤ d.calls → r.seed = true →
            serves fun s => (s.onRng fun q => { q with seed := false }).onDrbg h fun q => { q with calls := 1, kept := 17 })) ∧
        (d.ready = false ∨ r.raw = true ∨ r.resumes = true ∨ (d.kept = 0 ∧ 524288 ≤ d.calls ∧ r.seed = false) →
          rngOutRead s h = (s, 0) ∧ exec (.rngOut h) s = .next s) ∧
        (stW (s.bank h k).status = false → exec (.rngRaw h) s = .next s) ∧
        (stW (s.bank h k).status = true →
          (r.fifo = [] → rngRawRead s = (s, 0) ∧ exec (.rngRaw h) s = .next s) ∧
          ∀ e l, r.fifo = e :: l → exec (.rngRaw h) s = .next (s.onRng fun q => { q with fifo := l }) ∧
            (rngRawRead s).2 = (atBit true 35 ||| atBits e.src 33 ||| atBit e.overrun 32 ||| atBits e.bits 0)))) ∧
    ((¬ mayWrite s h h true → (∀ n, exec (.rawModeEnter h n) s = .next s) ∧ exec (.rawModeExit h) s = .next s) ∧
      (mayWrite s h h true →
        (∀ n, exec (.rawModeEnter h n) s = .next (s.onRng fun q => { q with raw := true, rawSrc := n })) ∧
        (r.raw = false → exec (.rawModeExit h) s = .next s) ∧
        (r.raw = true → exec (.rawModeExit h) s = .next (s.onRng fun q =>
          { q with raw := false, fifo := [], overrun := false, seed := false, retried := false, resumes := true
                   state := if q.state = 3 then 3 else 0 })))) ∧
    (∀ b : BitVec 32, (r.raw = false ∨ s.isolated = true → exec (.rawSample b) s = .next s) ∧
      (r.raw = true → s.isolated = false →
        (64 ≤ r.fifo.length → exec (.rawSample b) s = .next (s.onRng fun q => { q with overrun := true })) ∧
        (r.fifo.length < 64 → ∃ t, exec (.rawSample b) s = .next t ∧
          t.rng = { r with fifo := r.fifo ++ [⟨r.rawSrc, r.overrun, b⟩], overrun := false } ∧ (r.fifo.length = 31 → marks t))))

/-- A sensor that trips sets its mark and does what its response says: it reports, it locks the vault with a record, or it erases: the
roots, every slot and every line of NVM are gone, and the block is held in reset; a differing mesh pattern and a PLL in
holdover are trips of sensors 0 and 4. ASSIGN, ZEROISE, RELEASE and IMPORT give their slot its new record through a
commons-store program, LOCK locks the vault at once, and a locked vault, a context not entitled and a locked mode refuse
with their codes. A revocation sets the member's bit at once and queues or joins its program (R512-R520, R525-R527,
R531, R533, R534, R583).
Where it rests on a reading or a choice of the model, log entries 58, 73 and 78 say so. -/
def Obligations.TamperVaultAndFleet : Prop :=
  ∀ s : State,
    (s.keep.vfieldOn = true →
      let marks (t : State) (n : Nat) : Prop := (sget Coal.reset s.evc.coal n).cthr = 1 → bit t.evc.pend n = true
      let acts (i : Instr) (n : BitVec 3) : Prop := n.toNat ≤ 4 → (n = 4 → s.keep.vcoreOk = true) → ∃ t, exec i s = .next t ∧
        t.keep.tripped = setBit s.keep.tripped (4 - n.toNat) true ∧
        (fld s.keep.resp (2 * n.toNat) 2 = (0 : BitVec 2) → t.keep.reports = satInc s.keep.reports ∧ t.vlt = s.vlt ∧ t.nvm = s.nvm ∧
          (s.isolated = false → s.dbg.emulated = false → marks t (if n.toNat < 3 then 232 else 233))) ∧
        (fld s.keep.resp (2 * n.toNat) 2 = (1 : BitVec 2) → t.vlt.locked = true ∧ t.vlt.slots = s.vlt.slots ∧ t.nvm = s.nvm ∧
          (s.vlt.locked = false → t.keep.trec = ⟨true, n, 1, s.keep.rtc⟩ ∧ marks t 234)) ∧
        (2 ≤ (fld s.keep.resp (2 * n.toNat) 2 : BitVec 2).toNat → t.nvm = [] ∧ t.vlt.roots = false ∧ t.vlt.slots = [] ∧
          t.keep.trec = ⟨true, n, 2, s.keep.rtc⟩ ∧ t.keep.erase = true ∧
          (s.isolated = false → ∀ g, t.mode g = mOff ∧ ∀ j, t.bank g j = Bank.reset))
      (∀ n, acts (.tamperTrip n) n) ∧ acts (.meshCheck true) 0 ∧ exec (.meshCheck false) s = .next s ∧
      (s.isolated = false → s.bnd.holdover = false → s.bnd.pllLocked = true → acts .pllHoldover 4) ∧
      exec .holdoverExit s = .next { s with bnd := { s.bnd with holdover := false } }) ∧
    (∀ (w : HalfId) (k : BitVec 5), (s.ex w).running = some k →
      let b := s.bank w k
      let g := gctx w k
      let res (t : State) : VltRes := sget VltRes.zero t.vlt.res g.toNat
      (∀ (slot : BitVec 10) (type : BitVec 4) (owner : BitVec 10), 2 ≤ slot.toNat →
        let r := vltLatest s slot
        let held : Prop := r.state = .assigned ∨ r.state = .filled
        let queues (i : Instr) (q : VltSlot) : Prop := ∃ t, exec i s = .next t ∧ vltLatest t slot = q ∧ res t = ⟨1, 0, slot⟩ ∧
          t.vlt.slots = s.vlt.slots ∧ t.vlt.locked = false ∧ ∀ j, j ≠ slot → vltLatest t j = vltLatest s j
        let refuses (i : Instr) (code : BitVec 6) : Prop := ∃ t, exec i s = .next t ∧ res t = ⟨3, code, slot⟩ ∧ t.store = s.store ∧
          t.vlt.slots = s.vlt.slots ∧ t.vlt.locked = s.vlt.locked
        (s.vlt.locked = true → refuses (.assign w slot type owner) kKeyLocked ∧ refuses (.zeroise w slot) kKeyLocked ∧
          refuses (.release w slot) kKeyLocked ∧ refuses (.vltImport w slot) kKeyLocked) ∧
        (s.vlt.locked = false → stW b.status = true →
          (r.state = .free → 1 ≤ type.toNat → type.toNat ≤ 8 →
            queues (.assign w slot type owner) ⟨.assigned, type, owner, .empty⟩) ∧
          (held → s.lockedMode w = false → queues (.release w slot) VltSlot.zero) ∧
          (held → s.lockedMode w = true → refuses (.release w slot) eModeLocked) ∧
          (∀ l, r.state = .assigned → r.key = .empty → s.lockedMode w = false →
            (vltFetch s (writerOf s w k) (s.snapCap w (b.cap s.vlt.impN))).2 = .ok l →
            queues (.vltImport w slot) { r with state := .filled, key := .octets l })) ∧
        (s.vlt.locked = false → held → s.lockedMode w = false → (stW b.status = true ∨ r.owner = b.tenant) →
          queues (.zeroise w slot) { r with state := .assigned, key := .empty }) ∧
        (s.vlt.locked = false → stW b.status = false → refuses (.assign w slot type owner) eWardenOnly ∧
          refuses (.release w slot) eWardenOnly ∧ refuses (.vltImport w slot) eWardenOnly ∧
          (r.owner ≠ b.tenant → refuses (.zeroise w slot) ePermission))) ∧
      (s.vlt.locked = false → stW b.status = true → ∃ t, exec (.lockTheVault w) s = .next t ∧ t.vlt.locked = true ∧ res t = ⟨2, 0, 0⟩ ∧
        t.keep.trec = ⟨true, 6, 1, s.keep.rtc⟩ ∧ ((sget Coal.reset s.evc.coal 234).cthr = 1 → bit t.evc.pend 234 = true)) ∧
      (∀ m : BitVec 14, takes s w k 0o052112 (atBit true 35 ||| atBits m 0) →
        let fres (t : State) : FltRes := sget FltRes.zero t.flt.res g.toNat
        (fltSize s ≤ m.toNat → ∃ t, exec (.fltRev w m) s = .next t ∧ fres t = ⟨3, m⟩ ∧ t.flt.mirror = s.flt.mirror ∧ t.store = s.store) ∧
        (m.toNat < fltSize s → ∃ t, exec (.fltRev w m) s = .next t ∧ fltRevoked t m.toNat = true ∧
          (∀ n, n ≠ m.toNat → fltRevoked t n = fltRevoked s n) ∧ t.flt.stored = s.flt.stored ∧
          (fltBit s.flt.stored m.toNat = true → fres t = ⟨2, m⟩ ∧ t.store = s.store) ∧
          (fltBit s.flt.stored m.toNat = false → fres t = ⟨1, m⟩ ∧ fltPending t m = true ∧
            (fltPending s m = false → ∃ p, t.store.getLast? = some p ∧ p.op = .fleet m [g])))))

/-! ## Debug, trace, perturbation tests and fuses (R547-R576, R592) -/

/-- A scan reads or writes one register, as the lock lets it; unlocking takes a challenge and the charter's leave; an attached
debugger halts, steps and feeds a half, stops it at a breakpoint, and reaches memory and the mailboxes. Stimulus forms
packets that the debugger or the port takes; PRT takes writes while allowed; a fuse row gains the bits of its frame (R547, R553, R554, R556, R559-R561, R563-R568, R573, R592).
Where it rests on a reading or a choice of the model, log entries 82 to 88 say so. -/
def Obligations.DebuggerHaltsFeedsAndTraces : Prop :=
  ∀ (s : State), s.isolated = false →
    let d := s.dbg
    let latched (u : State) (a : IoAddr) (st : BitVec 2) (x : Cell) : State :=
      { u with dbg := { u.dbg with scanAddr := a, scanSt := st, scanData := x } }
    let marks (t : State) (n : Nat) : Prop := (sget Coal.reset s.evc.coal n).cthr = 1 → bit t.evc.pend n = true
    (∀ v : BitVec 56,
      let op : BitVec 2 := fld v 54 2
      let a : IoAddr := fld v 38 16
      let x : Cell := fld v 0 36
      (op = 0 ∨ op = 3 → exec (.scanUpdate v) s = .next s) ∧
      (op = 1 → a = 0o070000 → exec (.scanUpdate v) s = .next (latched s a 0 (dbgStat s))) ∧
      (op = 2 → a = 0o070041 → dbgOpen d = true → exec (.scanUpdate v) s =
        .next (latched (s.onDbg fun q => { q with mdat := x }) a 0 0)) ∧
      (op = 1 ∨ op = 2 → a = 0o070041 → dbgOpen d = false → exec (.scanUpdate v) s = .next (latched s a 2 0)) ∧
      (op = 1 ∨ op = 2 → scanMapped a.toNat = false → exec (.scanUpdate v) s = .next (latched s a 3 0)) ∧
      (op = 2 → a = 0o070001 → x = atBit true 32 → d.lock = .open_ → d.attach = false → feeding s = false →
        ∃ t, exec (.scanUpdate v) s = .next t ∧ attached t = true ∧ t.dbg.lock = .open_ ∧ marks t 237)) ∧
    (d.attach = false ∨ dbgOpen d = true →
      (unlockPermitted s = true → s.rng.state = 1 → s.rng.raw = false → ∃ t, exec .chalReq s = .next t ∧ t.dbg.chalValid = true ∧
        t.dbg.lock = d.lock ∧ t.dbg.scanSt = 0 ∧ attached t = attached s) ∧
      (unlockPermitted s = false → exec .chalReq s = .next (latched s 0o070001 2 0) ∧ exec .unlock s = .next (latched s 0o070001 2 0)) ∧
      (unlockPermitted s = true → d.chalValid = true → ∃ t, exec .unlock s = .next t ∧ t.dbg.lock = .armed ∧ attached t = false ∧
        t.dbg.scanSt = 0)) ∧
    (d.lock = .open_ → ∃ t, exec .relock s = .next t ∧ t.dbg.lock = .relock ∧ t.dbg.scanSt = 0) ∧
    (∀ (v : BitVec 2) (h : HalfId), bit v h.toNat = true →
      (attached s = true → s.running h = true → ∃ t, exec (.halt v) s = .next t ∧ (∀ g j, t.bank g j = s.bank g j) ∧
        (agreedClose s h = true → outranked s h = false → t.mode h = mHalt ∧ (t.ex h).modeBefore = s.mode h) ∧
        (agreedClose s h = false ∨ outranked s h = true → t.mode h = s.mode h ∧ (t.dbgHalf h).halt = true)) ∧
      (dbgOpen d = true → s.mode h = mHalt → (s.ex h).fed = none → ∃ t, exec (.resume v) s = .next t ∧
        t.mode h = (s.ex h).modeBefore ∧ t.dbgHalf h = ⟨false, none, false⟩) ∧
      (∀ n : BitVec 11, attached s = true → s.mode h = mHalt → (s.ex h).fed = none → ∃ t, exec (.step v n) s = .next t ∧
        t.mode h = (s.ex h).modeBefore ∧ t.dbgHalf h = ⟨false, some (if n = 0 then 1 else n.toNat), false⟩)) ∧
    (∀ (h : HalfId) (j : BitVec 3) (k : BitVec 5), attached s = true → steady s h k = true → bestRequest s h = none →
      let b := s.bank h k
      bpMatches s h j k b = true →
      (bit (sget 0 d.bp j.toNat) 33 = false → s.mode h ≠ mReading → ∃ t, exec (.breakpointMatch h j) s = .next t ∧
        (∀ g i, t.bank g i = s.bank g i) ∧
        (freshWindow s h → (s.half h).win.closed = [] → outranked s h = false → t.mode h = mHalt ∧ (t.ex h).modeBefore = s.mode h) ∧
        ((s.half h).win.slots ≠ 0 → (t.dbgHalf h).halt = true ∧ (t.half h).win.slots = 0)) ∧
      (∀ target, bit (sget 0 d.bp j.toNat) 33 = true → enterable s h k cDebug target →
        EntersHandler (.breakpointMatch h j) s h k b b.resume (statusOf (s.half h) k) target (setBit b.status 32 false) fun t =>
          ∃ i, recOf (t.ex h) k = recordOf ⟨cDebug, 0, 7, i, false⟩ false b.resume)) ∧
    (let h := feedHalf d
     let k : BitVec 5 := fld d.ctx 0 5
     let b := s.bank h k
     (attached s = true → s.mode h = mHalt → feeding s = false → agreedClose s h = true → (s.ex h).fencing = false →
       (s.ex h).revoking = none → (s.ex h).reads = [] → (s.half h).win.logged < 64 → b.ds.length ≤ 16 →
       ∃ t, exec (.feed 0) s = .next t ∧ t.bank h k = b ∧ t.dbg.scanSt = 0 ∧
         (s.runMode h = mReading → feedStatus t = ⟨atBits (4 : BitVec 3) 33, b.ds.headD 0⟩) ∧
         (s.runMode h ≠ mReading → feedStatus t = ⟨atBits (1 : BitVec 3) 33, 0⟩ ∧
           (t.half h).win.closed.map (fun c => c.slots) = [6])) ∧
     (∀ x, dbgOpen d = true → feeding s = false → (attached s = false ∨ s.mode h ≠ mHalt) → exec (.feed x) s =
       .next (latched (s.onDbg fun q => { q with feedSt := ⟨atBits (6 : BitVec 3) 33, 0⟩ }) 0o070004 2 0))) ∧
    (∀ (v : Cell) (g : HalfId), attached s = true → regionOf (fld v 0 24) = .sram g →
      let a := (fld v 0 24 : Addr).toNat
      (s.half g).mem.bad.contains (a / 2) = false →
      (∀ r, bit v 34 = true → ∃ t, exec (.dbgMaddr v r) s = .next t ∧ t.ram = sput TCell.zero s.ram a (TCell.plain d.mdat) ∧
        t.dbg.mst = atBits (2 : BitVec 2) 34 ∧ t.nvm = s.nvm) ∧
      (bit v 34 = false → ∃ t, exec (.dbgMaddr v .clean) s = .next t ∧ t.ram = s.ram ∧ t.nvm = s.nvm ∧
        t.dbg.mdat = (sget TCell.zero s.ram a).val ∧
        t.dbg.mst = (atBits (2 : BitVec 2) 34 ||| atBit (sget TCell.zero s.ram a).tag 33))) ∧
    (∀ c : BitVec 6, attached s = true → (s.chan c).en = true → ∃ t, exec (.dbgMpost c) s = .next t ∧
      posted (s.chan c) (t.chan c) true ((List.range 8).map fun i => sget 0 d.mstg i) 3 0 ∧
      (∀ j, j ≠ c → t.chan j = s.chan j) ∧ marks t (128 + c.toNat)) ∧
    (∀ p l, dbgOpen d = true → d.buf = p :: l →
      (d.taken < 3 → exec .dbgTrrd s = .next (latched (s.onDbg fun q => { q with taken := q.taken + 1 }) 0o070072 0 (p.getD d.taken 0))) ∧
      (d.taken = 3 → exec .dbgTrrd s = .next (latched (s.onDbg fun q => { q with buf := l, taken := 0 }) 0o070072 0 (p.getD 3 0)))) ∧
    (∀ (w : HalfId) (k : BitVec 5) (port : BitVec 5) (x : Cell), (s.ex w).running = some k →
      (d.trcEn = false → exec (.stim w port x) s = .next s) ∧
      (d.trcEn = true → d.trcWrap = false → 256 ≤ d.buf.length → exec (.stim w port x) s = .next (s.onDbg fun q =>
        { q with seq := q.seq + 1, dropped := satInc q.dropped, gap := satInc q.gap })) ∧
      (d.trcEn = true → d.gap = 0 → d.buf.length < 256 → exec (.stim w port x) s = .next (s.onDbg fun q =>
        { q with seq := q.seq + 1
                 buf := q.buf ++ [[packetHead 1 w port k (s.bank w k).tenant q.seq, x, fld s.evc.timeBase 0 36, fld s.evc.timeBase 36 36]] })) ∧
      (∀ y, takes s w k 0o064001 y →
        (prtAllowed s = false → exec (.registerWrite w 0o064001 y 0) s = .next s) ∧
        (prtAllowed s = true → ∃ t, exec (.registerWrite w 0o064001 y 0) s = .next t ∧ t.prt = { s.prt with stall := prtStallCell y }))) ∧
    (d.trcPort = true → s.bnd.tieTrace = true → exec .tracePacketSent s =
      .next (s.onDbg fun q => { q with buf := q.buf.drop 1, taken := 0 })) ∧
    (∀ f : BitVec 40, s.bnd.vpp = true → bit (sget 0 s.bnd.fuses 8) 0 = false → (fld f 32 8 : Octet).toNat ≤ 8 →
      exec (.fuseFrame f) s = .next { s with bnd := { s.bnd with frame := some f } }) ∧
    (∀ f, s.bnd.frame = some f → ∃ t, exec .fuseProgram s = .next t ∧ t.bnd.frame = none ∧
      let row := (fld f 32 8 : Octet).toNat
      sget 0 t.bnd.fuses row = sget 0 s.bnd.fuses row ||| fld f 0 32 ∧ ∀ n, n ≠ row → sget 0 t.bnd.fuses n = sget 0 s.bnd.fuses n)

/-! ## Reset and the invariant (R37, R42, R314, R479, R579) -/

/-- Right after a cold reset the block is isolated, both halves are OFF with empty banks, the SRAM and the retained cells read
zero, the debug unit is locked, no command waits, the registers read the values of their reset columns, and the forms that
every step keeps hold (R37, R150, R314, R479, R507, R580 and the register tables). -/
def Obligations.ResetLeavesTheStatedValues : Prop :=
  let s := State.reset
  let reads (h : HalfId) (a : Nat) (x y : Cell) : Prop := (ioRead s ⟨h, 0, 0, true⟩ a).2 = (x, y)
  let ones : Cell := BitVec.allOnes 36
  s.host.isoAck = true ∧ s.pending = [] ∧ s.dbg.lock = .locked ∧ s.keep.rtc = 0 ∧ memWf s = true ∧ modesWf s = true ∧
  (∀ a, sget TCell.zero s.ram a = TCell.zero) ∧
  (∀ h, s.mode h = mOff ∧ (∀ k, (s.bank h k).ds = [] ∧ (s.bank h k).rs = [] ∧ (s.bank h k).rv = [] ∧ (s.bank h k).status = 0 ∧
      (s.bank h k).c0 = Cap.zero ∧ (s.bank h k).pcc = Cap.zero ∧ (s.bank h k).x = 0) ∧
    reads h 0o100000 (atBits (16 : Octet) 16 ||| atBit true 13) 0 ∧ reads h 0o100004 0o24 0 ∧
    reads h 0o100006 (atBits (4095 : BitVec 12) 12) 0 ∧ reads h 0o100010 3600000 1200000 ∧ reads h 0o110000 (atBit true 34) 0 ∧
    reads h 0o110100 (atBits (42 : Octet) 16 ||| 125) 0 ∧ reads h 0o110102 (atBits (104 : BitVec 9) 9 ||| 88) 60 ∧
    reads h 0o120000 0 0 ∧ reads h 0o130000 (atBit true 34 ||| 64) 0 ∧ reads h 0o133700 ones 0o7700 ∧
    reads h 0o134000 (atBits (2 : BitVec 2) 34) 0 ∧ reads h 0o134001 (atBits (16 : Octet) 16) 0) ∧
  reads .h0 0o000000 0o712713440100 0 ∧ reads .h0 0o000002 0o222405120612 0 ∧ reads .h0 0o000003 0o376374003777 0 ∧
  reads .h0 0o010050 3 0 ∧ (∀ n : BitVec 2, reads .h0 (0o010060 + 2 * n.toNat) ones ones) ∧
  (∀ n : Octet, n.toNat < 224 → reads .h0 (0o011400 + n.toNat) (atBits (1 : Octet) 24) 0) ∧
  (∀ c : BitVec 6, reads .h0 (chanAddr c 0o14) (atBits (255 : Octet) 22) 0) ∧
  reads .h0 0o030000 (atBits (127 : BitVec 7) 26) 0 ∧ reads .h0 0o030001 0 0 ∧ reads .h0 0o050000 (atBit true 33) 0 ∧
  reads .h0 0o050004 ones 0o7777 ∧ reads .h0 0o050006 0o12 0 ∧ reads .h0 0o051002 (atBits (3 : BitVec 2) 33 ||| 4096) 0 ∧
  reads .h0 0o064006 (atBit true 29 ||| 1) 0

/-- Every step keeps the memories in their canonical form and the modes of both halves, and those they return to, among the
codes that R37 reports (R37, R38, R42, R47).
Where it rests on a reading or a choice of the model, log entry 11 says so. -/
def Obligations.EveryStepKeepsTheForms : Prop :=
  ∀ s t : State, memWf s = true → modesWf s = true → step s = .next t → memWf t = true ∧ modesWf t = true
end

