-- ==== Sys2Proof/Laws/Sparse.lean ====
section
/-! SUPPORT. The laws of sparse tables: a read after a write, the other entries, and the canonical form. -/

namespace Sys2Proof.Machine

variable {α : Type}

theorem sget_sdel_same (d : α) (t : Sparse α) (i : Nat) : sget d (sdel t i) i = d := by
  induction t with
  | nil => rfl
  | cons e t ih =>
    obtain ⟨k, v⟩ := e
    by_cases hk : k = i
    · simpa [sdel, hk] using ih
    · have hik : ¬i = k := fun c => hk c.symm
      simpa [sdel, hk, hik, sget] using ih

theorem sget_sdel_ne (d : α) (t : Sparse α) (i j : Nat) (hj : j ≠ i) : sget d (sdel t i) j = sget d t j := by
  induction t with
  | nil => rfl
  | cons e t ih =>
    obtain ⟨k, v⟩ := e
    by_cases hk : k = i
    · subst hk
      simpa [sdel, sget, hj] using ih
    · by_cases hjk : j = k
      · subst hjk
        simp [sdel, sget, hj]
      · simpa [sdel, sget, hk, hjk] using ih

theorem sget_sins_same (d : α) (t : Sparse α) (i : Nat) (x : α) (ht : ∀ e ∈ t, e.1 ≠ i) : sget d (sins t i x) i = x := by
  induction t with
  | nil => simp [sins, sget]
  | cons e t ih =>
    obtain ⟨k, v⟩ := e
    have hk : k ≠ i := ht (k, v) (by simp)
    have hik : ¬i = k := fun c => hk c.symm
    by_cases hl : i < k
    · simp [sins, hl, sget]
    · simp only [sins, hl, if_false, sget, hik]
      exact ih fun e he => ht e (by simp [he])

theorem sget_sins_ne (d : α) (t : Sparse α) (i j : Nat) (x : α) (hj : j ≠ i) : sget d (sins t i x) j = sget d t j := by
  induction t with
  | nil => simp [sins, sget, hj]
  | cons e t ih =>
    obtain ⟨k, v⟩ := e
    by_cases hl : i < k
    · simp [sins, hl, sget, hj]
    · simp only [sins, hl, if_false, sget, ih]

theorem sdel_keys (t : Sparse α) (i : Nat) : ∀ e ∈ sdel t i, e.1 ≠ i := by
  intro e he
  simpa [sdel] using (List.mem_filter.1 he).2

/-- A read of the entry that was written. -/
@[simp] theorem sget_sput_same [DecidableEq α] (d : α) (t : Sparse α) (i : Nat) (x : α) : sget d (sput d t i x) i = x := by
  unfold sput
  split
  · next hx => rw [hx]; exact sget_sdel_same d t i
  · exact sget_sins_same d _ i x (sdel_keys t i)

/-- A read of any other entry. -/
theorem sget_sput_ne [DecidableEq α] (d : α) (t : Sparse α) (i j : Nat) (x : α) (hj : j ≠ i) :
    sget d (sput d t i x) j = sget d t j := by
  unfold sput
  split
  · exact sget_sdel_ne d t i j hj
  · rw [sget_sins_ne d _ i j x hj, sget_sdel_ne d t i j hj]

/-! ## The canonical form -/

theorem swfFrom_mono [DecidableEq α] (d : α) (t : Sparse α) : ∀ a b, a ≤ b → swfFrom d b t = true → swfFrom d a t = true := by
  cases t with
  | nil => intros; rfl
  | cons e t =>
    obtain ⟨k, v⟩ := e
    intro a b hab h
    simp only [swfFrom, Bool.and_eq_true, decide_eq_true_eq] at h ⊢
    exact ⟨⟨by omega, h.1.2⟩, h.2⟩

theorem swfFrom_filter [DecidableEq α] (d : α) (p : Nat × α → Bool) (t : Sparse α) :
    ∀ a, swfFrom d a t = true → swfFrom d a (t.filter p) = true := by
  induction t with
  | nil => intros; rfl
  | cons e t ih =>
    obtain ⟨k, v⟩ := e
    intro a h
    simp only [swfFrom, Bool.and_eq_true, decide_eq_true_eq] at h
    have h' := ih (k + 1) h.2
    rw [List.filter_cons]
    split
    · simp only [swfFrom, Bool.and_eq_true, decide_eq_true_eq]
      exact ⟨h.1, h'⟩
    · exact swfFrom_mono d _ a (k + 1) (by omega) h'

theorem swfFrom_sins [DecidableEq α] (d : α) (i : Nat) (x : α) (hx : x ≠ d) (t : Sparse α) :
    ∀ a, a ≤ i → (∀ e ∈ t, e.1 ≠ i) → swfFrom d a t = true → swfFrom d a (sins t i x) = true := by
  induction t with
  | nil =>
    intro a ha _ _
    simp [sins, swfFrom, ha, hx]
  | cons e t ih =>
    obtain ⟨k, v⟩ := e
    intro a ha hk h
    have hki : k ≠ i := hk (k, v) (by simp)
    simp only [swfFrom, Bool.and_eq_true, decide_eq_true_eq] at h
    by_cases hl : i < k
    · simp only [sins, hl, if_true, swfFrom, Bool.and_eq_true, decide_eq_true_eq]
      exact ⟨⟨ha, hx⟩, ⟨by omega, h.1.2⟩, h.2⟩
    · simp only [sins, hl, if_false, swfFrom, Bool.and_eq_true, decide_eq_true_eq]
      exact ⟨h.1, ih (k + 1) (by omega) (fun e he => hk e (by simp [he])) h.2⟩

/-- Dropping entries keeps the canonical form. -/
theorem swf_filter [DecidableEq α] (d : α) (p : Nat × α → Bool) (t : Sparse α) (h : swf d t = true) :
    swf d (t.filter p) = true := swfFrom_filter d p t 0 h

/-- A write keeps the canonical form. -/
theorem swf_sput [DecidableEq α] (d : α) (t : Sparse α) (i : Nat) (x : α) (h : swf d t = true) : swf d (sput d t i x) = true := by
  unfold sput
  split
  · exact swf_filter d _ t h
  · next hx => exact swfFrom_sins d i x hx _ 0 (by omega) (sdel_keys t i) (swf_filter d _ t h)

/-- The empty table is canonical. -/
@[simp] theorem swf_nil [DecidableEq α] (d : α) : swf d ([] : Sparse α) = true := rfl

theorem sget_below [DecidableEq α] (d : α) (t : Sparse α) : ∀ lo i, i < lo → swfFrom d lo t = true → sget d t i = d := by
  induction t with
  | nil => intros; rfl
  | cons e t ih =>
    obtain ⟨k, v⟩ := e
    intro lo i hi h
    simp only [swfFrom, Bool.and_eq_true, decide_eq_true_eq] at h
    have hik : ¬i = k := by omega
    simp only [sget, hik, if_false]
    exact ih (k + 1) i (by omega) h.2

theorem swfFrom_ext [DecidableEq α] (d : α) (t : Sparse α) : ∀ lo u, swfFrom d lo t = true → swfFrom d lo u = true →
    (∀ i, sget d t i = sget d u i) → t = u := by
  induction t with
  | nil =>
    intro lo u _ hu h
    cases u with
    | nil => rfl
    | cons e u =>
      obtain ⟨k, v⟩ := e
      have := h k
      simp only [swfFrom, Bool.and_eq_true, decide_eq_true_eq] at hu
      simp only [sget, if_true] at this
      exact absurd this.symm hu.1.2
  | cons e t ih =>
    obtain ⟨k, v⟩ := e
    intro lo u ht hu h
    cases u with
    | nil =>
      have := h k
      simp only [swfFrom, Bool.and_eq_true, decide_eq_true_eq] at ht
      simp only [sget, if_true] at this
      exact absurd this ht.1.2
    | cons f u =>
      obtain ⟨l, w⟩ := f
      simp only [swfFrom, Bool.and_eq_true, decide_eq_true_eq] at ht hu
      have hkl : k = l := by
        rcases Nat.lt_trichotomy k l with c | c | c
        · have := h k
          have hk : ¬k = l := by omega
          simp only [sget, if_true, hk, if_false] at this
          rw [sget_below d u (l + 1) k (by omega) hu.2] at this
          exact absurd this ht.1.2
        · exact c
        · have := h l
          have hk : ¬l = k := by omega
          simp only [sget, if_true, hk, if_false] at this
          rw [sget_below d t (k + 1) l (by omega) ht.2] at this
          exact absurd this.symm hu.1.2
      subst hkl
      have hv : v = w := by simpa [sget] using h k
      subst hv
      congr 1
      refine ih (k + 1) u ht.2 hu.2 fun i => ?_
      by_cases hi : i < k + 1
      · rw [sget_below d t _ i hi ht.2, sget_below d u _ i hi hu.2]
      · have := h i
        have hk : ¬i = k := by omega
        simpa [sget, hk] using this

/-- Two canonical tables that read alike are the same data. -/
theorem swf_ext [DecidableEq α] (d : α) (t u : Sparse α) (ht : swf d t = true) (hu : swf d u = true)
    (h : ∀ i, sget d t i = sget d u i) : t = u := swfFrom_ext d t 0 u ht hu h

end Sys2Proof.Machine
end

