-- ==== Sys2Proof/Laws/State.lean ====
section
/-! SUPPORT. What each update of the state leaves: one lemma per field and update, so that no proof unfolds an update. -/

namespace Sys2Proof.Machine

@[simp] theorem other_ne (h : HalfId) : h.other ≠ h := by cases h <;> decide
@[simp] theorem ne_other (h : HalfId) : h ≠ h.other := by cases h <;> decide
@[simp] theorem other_other (h : HalfId) : h.other.other = h := by cases h <;> rfl

/-! ## A half replaced -/

@[simp] theorem half_setHalf (s : State) (h : HalfId) (x : Half) : (s.setHalf h x).half h = x := by cases h <;> rfl
@[simp] theorem half_setHalf_other (s : State) (h : HalfId) (x : Half) : (s.setHalf h x).half h.other = s.half h.other := by
  cases h <;> rfl
@[simp] theorem half_setHalf_other' (s : State) (h : HalfId) (x : Half) : (s.setHalf h.other x).half h = s.half h := by
  cases h <;> rfl
@[simp] theorem setHalf_half (s : State) (h : HalfId) : s.setHalf h (s.half h) = s := by cases h <;> rfl
@[simp] theorem setHalf_setHalf (s : State) (h : HalfId) (x y : Half) : (s.setHalf h x).setHalf h y = s.setHalf h y := by
  cases h <;> rfl

@[simp] theorem setHalf_evc (s : State) (h : HalfId) (x : Half) : (s.setHalf h x).evc = s.evc := by cases h <;> rfl
@[simp] theorem setHalf_mbx (s : State) (h : HalfId) (x : Half) : (s.setHalf h x).mbx = s.mbx := by cases h <;> rfl
@[simp] theorem setHalf_host (s : State) (h : HalfId) (x : Half) : (s.setHalf h x).host = s.host := by cases h <;> rfl
@[simp] theorem setHalf_crd (s : State) (h : HalfId) (x : Half) : (s.setHalf h x).crd = s.crd := by cases h <;> rfl
@[simp] theorem setHalf_cht (s : State) (h : HalfId) (x : Half) : (s.setHalf h x).cht = s.cht := by cases h <;> rfl
@[simp] theorem setHalf_rollback (s : State) (h : HalfId) (x : Half) : (s.setHalf h x).rollback = s.rollback := by cases h <;> rfl
@[simp] theorem setHalf_store (s : State) (h : HalfId) (x : Half) : (s.setHalf h x).store = s.store := by cases h <;> rfl
@[simp] theorem setHalf_mct (s : State) (h : HalfId) (x : Half) : (s.setHalf h x).mct = s.mct := by cases h <;> rfl
@[simp] theorem setHalf_flt (s : State) (h : HalfId) (x : Half) : (s.setHalf h x).flt = s.flt := by cases h <;> rfl
@[simp] theorem setHalf_vlt (s : State) (h : HalfId) (x : Half) : (s.setHalf h x).vlt = s.vlt := by cases h <;> rfl
@[simp] theorem setHalf_rng (s : State) (h : HalfId) (x : Half) : (s.setHalf h x).rng = s.rng := by cases h <;> rfl
@[simp] theorem setHalf_dbk (s : State) (h : HalfId) (x : Half) : (s.setHalf h x).dbk = s.dbk := by cases h <;> rfl
@[simp] theorem setHalf_prt (s : State) (h : HalfId) (x : Half) : (s.setHalf h x).prt = s.prt := by cases h <;> rfl
@[simp] theorem setHalf_dbg (s : State) (h : HalfId) (x : Half) : (s.setHalf h x).dbg = s.dbg := by cases h <;> rfl
@[simp] theorem setHalf_keep (s : State) (h : HalfId) (x : Half) : (s.setHalf h x).keep = s.keep := by cases h <;> rfl
@[simp] theorem setHalf_tick (s : State) (h : HalfId) (x : Half) : (s.setHalf h x).tick = s.tick := by cases h <;> rfl
@[simp] theorem setHalf_bnd (s : State) (h : HalfId) (x : Half) : (s.setHalf h x).bnd = s.bnd := by cases h <;> rfl
@[simp] theorem setHalf_ram (s : State) (h : HalfId) (x : Half) : (s.setHalf h x).ram = s.ram := by cases h <;> rfl
@[simp] theorem setHalf_nvm (s : State) (h : HalfId) (x : Half) : (s.setHalf h x).nvm = s.nvm := by cases h <;> rfl
@[simp] theorem setHalf_free (s : State) (h : HalfId) (x : Half) : (s.setHalf h x).free = s.free := by cases h <;> rfl
@[simp] theorem setHalf_messages (s : State) (h : HalfId) (x : Half) : (s.setHalf h x).messages = s.messages := by cases h <;> rfl
@[simp] theorem setHalf_pending (s : State) (h : HalfId) (x : Half) : (s.setHalf h x).pending = s.pending := by cases h <;> rfl

/-! ## A half changed -/

@[simp] theorem half_onHalf (s : State) (h : HalfId) (f : Half → Half) : (s.onHalf h f).half h = f (s.half h) := by
  cases h <;> rfl
@[simp] theorem half_onHalf_other (s : State) (h : HalfId) (f : Half → Half) :
    (s.onHalf h f).half h.other = s.half h.other := by cases h <;> rfl
@[simp] theorem half_onHalf_other' (s : State) (h : HalfId) (f : Half → Half) :
    (s.onHalf h.other f).half h = s.half h := by cases h <;> rfl
@[simp] theorem onHalf_evc (s : State) (h : HalfId) (f : Half → Half) : (s.onHalf h f).evc = s.evc := by cases h <;> rfl
@[simp] theorem onHalf_mbx (s : State) (h : HalfId) (f : Half → Half) : (s.onHalf h f).mbx = s.mbx := by cases h <;> rfl
@[simp] theorem onHalf_host (s : State) (h : HalfId) (f : Half → Half) : (s.onHalf h f).host = s.host := by cases h <;> rfl
@[simp] theorem onHalf_crd (s : State) (h : HalfId) (f : Half → Half) : (s.onHalf h f).crd = s.crd := by cases h <;> rfl
@[simp] theorem onHalf_cht (s : State) (h : HalfId) (f : Half → Half) : (s.onHalf h f).cht = s.cht := by cases h <;> rfl
@[simp] theorem onHalf_rollback (s : State) (h : HalfId) (f : Half → Half) : (s.onHalf h f).rollback = s.rollback := by cases h <;> rfl
@[simp] theorem onHalf_store (s : State) (h : HalfId) (f : Half → Half) : (s.onHalf h f).store = s.store := by cases h <;> rfl
@[simp] theorem onHalf_mct (s : State) (h : HalfId) (f : Half → Half) : (s.onHalf h f).mct = s.mct := by cases h <;> rfl
@[simp] theorem onHalf_flt (s : State) (h : HalfId) (f : Half → Half) : (s.onHalf h f).flt = s.flt := by cases h <;> rfl
@[simp] theorem onHalf_vlt (s : State) (h : HalfId) (f : Half → Half) : (s.onHalf h f).vlt = s.vlt := by cases h <;> rfl
@[simp] theorem onHalf_rng (s : State) (h : HalfId) (f : Half → Half) : (s.onHalf h f).rng = s.rng := by cases h <;> rfl
@[simp] theorem onHalf_dbk (s : State) (h : HalfId) (f : Half → Half) : (s.onHalf h f).dbk = s.dbk := by cases h <;> rfl
@[simp] theorem onHalf_prt (s : State) (h : HalfId) (f : Half → Half) : (s.onHalf h f).prt = s.prt := by cases h <;> rfl
@[simp] theorem onHalf_dbg (s : State) (h : HalfId) (f : Half → Half) : (s.onHalf h f).dbg = s.dbg := by cases h <;> rfl
@[simp] theorem onHalf_keep (s : State) (h : HalfId) (f : Half → Half) : (s.onHalf h f).keep = s.keep := by cases h <;> rfl
@[simp] theorem onHalf_tick (s : State) (h : HalfId) (f : Half → Half) : (s.onHalf h f).tick = s.tick := by cases h <;> rfl
@[simp] theorem onHalf_bnd (s : State) (h : HalfId) (f : Half → Half) : (s.onHalf h f).bnd = s.bnd := by cases h <;> rfl
@[simp] theorem onHalf_ram (s : State) (h : HalfId) (f : Half → Half) : (s.onHalf h f).ram = s.ram := by cases h <;> rfl
@[simp] theorem onHalf_nvm (s : State) (h : HalfId) (f : Half → Half) : (s.onHalf h f).nvm = s.nvm := by cases h <;> rfl
@[simp] theorem onHalf_free (s : State) (h : HalfId) (f : Half → Half) : (s.onHalf h f).free = s.free := by cases h <;> rfl
@[simp] theorem onHalf_messages (s : State) (h : HalfId) (f : Half → Half) : (s.onHalf h f).messages = s.messages := by cases h <;> rfl
@[simp] theorem onHalf_pending (s : State) (h : HalfId) (f : Half → Half) : (s.onHalf h f).pending = s.pending := by cases h <;> rfl

/-! ## onEx -/

@[simp] theorem half_onEx (s : State) (h : HalfId) (f : Exec → Exec) :
    (s.onEx h f).half h = { s.half h with ex := f (s.half h).ex } := by cases h <;> rfl
@[simp] theorem half_onEx_other (s : State) (h : HalfId) (f : Exec → Exec) :
    (s.onEx h f).half h.other = s.half h.other := by cases h <;> rfl
@[simp] theorem half_onEx_other' (s : State) (h : HalfId) (f : Exec → Exec) :
    (s.onEx h.other f).half h = s.half h := by cases h <;> rfl
@[simp] theorem onEx_evc (s : State) (h : HalfId) (f : Exec → Exec) : (s.onEx h f).evc = s.evc := by cases h <;> rfl
@[simp] theorem onEx_mbx (s : State) (h : HalfId) (f : Exec → Exec) : (s.onEx h f).mbx = s.mbx := by cases h <;> rfl
@[simp] theorem onEx_host (s : State) (h : HalfId) (f : Exec → Exec) : (s.onEx h f).host = s.host := by cases h <;> rfl
@[simp] theorem onEx_crd (s : State) (h : HalfId) (f : Exec → Exec) : (s.onEx h f).crd = s.crd := by cases h <;> rfl
@[simp] theorem onEx_cht (s : State) (h : HalfId) (f : Exec → Exec) : (s.onEx h f).cht = s.cht := by cases h <;> rfl
@[simp] theorem onEx_rollback (s : State) (h : HalfId) (f : Exec → Exec) : (s.onEx h f).rollback = s.rollback := by cases h <;> rfl
@[simp] theorem onEx_store (s : State) (h : HalfId) (f : Exec → Exec) : (s.onEx h f).store = s.store := by cases h <;> rfl
@[simp] theorem onEx_mct (s : State) (h : HalfId) (f : Exec → Exec) : (s.onEx h f).mct = s.mct := by cases h <;> rfl
@[simp] theorem onEx_flt (s : State) (h : HalfId) (f : Exec → Exec) : (s.onEx h f).flt = s.flt := by cases h <;> rfl
@[simp] theorem onEx_vlt (s : State) (h : HalfId) (f : Exec → Exec) : (s.onEx h f).vlt = s.vlt := by cases h <;> rfl
@[simp] theorem onEx_rng (s : State) (h : HalfId) (f : Exec → Exec) : (s.onEx h f).rng = s.rng := by cases h <;> rfl
@[simp] theorem onEx_dbk (s : State) (h : HalfId) (f : Exec → Exec) : (s.onEx h f).dbk = s.dbk := by cases h <;> rfl
@[simp] theorem onEx_prt (s : State) (h : HalfId) (f : Exec → Exec) : (s.onEx h f).prt = s.prt := by cases h <;> rfl
@[simp] theorem onEx_dbg (s : State) (h : HalfId) (f : Exec → Exec) : (s.onEx h f).dbg = s.dbg := by cases h <;> rfl
@[simp] theorem onEx_keep (s : State) (h : HalfId) (f : Exec → Exec) : (s.onEx h f).keep = s.keep := by cases h <;> rfl
@[simp] theorem onEx_tick (s : State) (h : HalfId) (f : Exec → Exec) : (s.onEx h f).tick = s.tick := by cases h <;> rfl
@[simp] theorem onEx_bnd (s : State) (h : HalfId) (f : Exec → Exec) : (s.onEx h f).bnd = s.bnd := by cases h <;> rfl
@[simp] theorem onEx_ram (s : State) (h : HalfId) (f : Exec → Exec) : (s.onEx h f).ram = s.ram := by cases h <;> rfl
@[simp] theorem onEx_nvm (s : State) (h : HalfId) (f : Exec → Exec) : (s.onEx h f).nvm = s.nvm := by cases h <;> rfl
@[simp] theorem onEx_free (s : State) (h : HalfId) (f : Exec → Exec) : (s.onEx h f).free = s.free := by cases h <;> rfl
@[simp] theorem onEx_messages (s : State) (h : HalfId) (f : Exec → Exec) : (s.onEx h f).messages = s.messages := by cases h <;> rfl
@[simp] theorem onEx_pending (s : State) (h : HalfId) (f : Exec → Exec) : (s.onEx h f).pending = s.pending := by cases h <;> rfl

/-! ## onWin -/

@[simp] theorem half_onWin (s : State) (h : HalfId) (f : Windows → Windows) :
    (s.onWin h f).half h = { s.half h with win := f (s.half h).win } := by cases h <;> rfl
@[simp] theorem half_onWin_other (s : State) (h : HalfId) (f : Windows → Windows) :
    (s.onWin h f).half h.other = s.half h.other := by cases h <;> rfl
@[simp] theorem half_onWin_other' (s : State) (h : HalfId) (f : Windows → Windows) :
    (s.onWin h.other f).half h = s.half h := by cases h <;> rfl
@[simp] theorem onWin_evc (s : State) (h : HalfId) (f : Windows → Windows) : (s.onWin h f).evc = s.evc := by cases h <;> rfl
@[simp] theorem onWin_mbx (s : State) (h : HalfId) (f : Windows → Windows) : (s.onWin h f).mbx = s.mbx := by cases h <;> rfl
@[simp] theorem onWin_host (s : State) (h : HalfId) (f : Windows → Windows) : (s.onWin h f).host = s.host := by cases h <;> rfl
@[simp] theorem onWin_crd (s : State) (h : HalfId) (f : Windows → Windows) : (s.onWin h f).crd = s.crd := by cases h <;> rfl
@[simp] theorem onWin_cht (s : State) (h : HalfId) (f : Windows → Windows) : (s.onWin h f).cht = s.cht := by cases h <;> rfl
@[simp] theorem onWin_rollback (s : State) (h : HalfId) (f : Windows → Windows) : (s.onWin h f).rollback = s.rollback := by cases h <;> rfl
@[simp] theorem onWin_store (s : State) (h : HalfId) (f : Windows → Windows) : (s.onWin h f).store = s.store := by cases h <;> rfl
@[simp] theorem onWin_mct (s : State) (h : HalfId) (f : Windows → Windows) : (s.onWin h f).mct = s.mct := by cases h <;> rfl
@[simp] theorem onWin_flt (s : State) (h : HalfId) (f : Windows → Windows) : (s.onWin h f).flt = s.flt := by cases h <;> rfl
@[simp] theorem onWin_vlt (s : State) (h : HalfId) (f : Windows → Windows) : (s.onWin h f).vlt = s.vlt := by cases h <;> rfl
@[simp] theorem onWin_rng (s : State) (h : HalfId) (f : Windows → Windows) : (s.onWin h f).rng = s.rng := by cases h <;> rfl
@[simp] theorem onWin_dbk (s : State) (h : HalfId) (f : Windows → Windows) : (s.onWin h f).dbk = s.dbk := by cases h <;> rfl
@[simp] theorem onWin_prt (s : State) (h : HalfId) (f : Windows → Windows) : (s.onWin h f).prt = s.prt := by cases h <;> rfl
@[simp] theorem onWin_dbg (s : State) (h : HalfId) (f : Windows → Windows) : (s.onWin h f).dbg = s.dbg := by cases h <;> rfl
@[simp] theorem onWin_keep (s : State) (h : HalfId) (f : Windows → Windows) : (s.onWin h f).keep = s.keep := by cases h <;> rfl
@[simp] theorem onWin_tick (s : State) (h : HalfId) (f : Windows → Windows) : (s.onWin h f).tick = s.tick := by cases h <;> rfl
@[simp] theorem onWin_bnd (s : State) (h : HalfId) (f : Windows → Windows) : (s.onWin h f).bnd = s.bnd := by cases h <;> rfl
@[simp] theorem onWin_ram (s : State) (h : HalfId) (f : Windows → Windows) : (s.onWin h f).ram = s.ram := by cases h <;> rfl
@[simp] theorem onWin_nvm (s : State) (h : HalfId) (f : Windows → Windows) : (s.onWin h f).nvm = s.nvm := by cases h <;> rfl
@[simp] theorem onWin_free (s : State) (h : HalfId) (f : Windows → Windows) : (s.onWin h f).free = s.free := by cases h <;> rfl
@[simp] theorem onWin_messages (s : State) (h : HalfId) (f : Windows → Windows) : (s.onWin h f).messages = s.messages := by cases h <;> rfl
@[simp] theorem onWin_pending (s : State) (h : HalfId) (f : Windows → Windows) : (s.onWin h f).pending = s.pending := by cases h <;> rfl

/-! ## onTal -/

@[simp] theorem half_onTal (s : State) (h : HalfId) (f : Tally → Tally) :
    (s.onTal h f).half h = { s.half h with tal := f (s.half h).tal } := by cases h <;> rfl
@[simp] theorem half_onTal_other (s : State) (h : HalfId) (f : Tally → Tally) :
    (s.onTal h f).half h.other = s.half h.other := by cases h <;> rfl
@[simp] theorem half_onTal_other' (s : State) (h : HalfId) (f : Tally → Tally) :
    (s.onTal h.other f).half h = s.half h := by cases h <;> rfl
@[simp] theorem onTal_evc (s : State) (h : HalfId) (f : Tally → Tally) : (s.onTal h f).evc = s.evc := by cases h <;> rfl
@[simp] theorem onTal_mbx (s : State) (h : HalfId) (f : Tally → Tally) : (s.onTal h f).mbx = s.mbx := by cases h <;> rfl
@[simp] theorem onTal_host (s : State) (h : HalfId) (f : Tally → Tally) : (s.onTal h f).host = s.host := by cases h <;> rfl
@[simp] theorem onTal_crd (s : State) (h : HalfId) (f : Tally → Tally) : (s.onTal h f).crd = s.crd := by cases h <;> rfl
@[simp] theorem onTal_cht (s : State) (h : HalfId) (f : Tally → Tally) : (s.onTal h f).cht = s.cht := by cases h <;> rfl
@[simp] theorem onTal_rollback (s : State) (h : HalfId) (f : Tally → Tally) : (s.onTal h f).rollback = s.rollback := by cases h <;> rfl
@[simp] theorem onTal_store (s : State) (h : HalfId) (f : Tally → Tally) : (s.onTal h f).store = s.store := by cases h <;> rfl
@[simp] theorem onTal_mct (s : State) (h : HalfId) (f : Tally → Tally) : (s.onTal h f).mct = s.mct := by cases h <;> rfl
@[simp] theorem onTal_flt (s : State) (h : HalfId) (f : Tally → Tally) : (s.onTal h f).flt = s.flt := by cases h <;> rfl
@[simp] theorem onTal_vlt (s : State) (h : HalfId) (f : Tally → Tally) : (s.onTal h f).vlt = s.vlt := by cases h <;> rfl
@[simp] theorem onTal_rng (s : State) (h : HalfId) (f : Tally → Tally) : (s.onTal h f).rng = s.rng := by cases h <;> rfl
@[simp] theorem onTal_dbk (s : State) (h : HalfId) (f : Tally → Tally) : (s.onTal h f).dbk = s.dbk := by cases h <;> rfl
@[simp] theorem onTal_prt (s : State) (h : HalfId) (f : Tally → Tally) : (s.onTal h f).prt = s.prt := by cases h <;> rfl
@[simp] theorem onTal_dbg (s : State) (h : HalfId) (f : Tally → Tally) : (s.onTal h f).dbg = s.dbg := by cases h <;> rfl
@[simp] theorem onTal_keep (s : State) (h : HalfId) (f : Tally → Tally) : (s.onTal h f).keep = s.keep := by cases h <;> rfl
@[simp] theorem onTal_tick (s : State) (h : HalfId) (f : Tally → Tally) : (s.onTal h f).tick = s.tick := by cases h <;> rfl
@[simp] theorem onTal_bnd (s : State) (h : HalfId) (f : Tally → Tally) : (s.onTal h f).bnd = s.bnd := by cases h <;> rfl
@[simp] theorem onTal_ram (s : State) (h : HalfId) (f : Tally → Tally) : (s.onTal h f).ram = s.ram := by cases h <;> rfl
@[simp] theorem onTal_nvm (s : State) (h : HalfId) (f : Tally → Tally) : (s.onTal h f).nvm = s.nvm := by cases h <;> rfl
@[simp] theorem onTal_free (s : State) (h : HalfId) (f : Tally → Tally) : (s.onTal h f).free = s.free := by cases h <;> rfl
@[simp] theorem onTal_messages (s : State) (h : HalfId) (f : Tally → Tally) : (s.onTal h f).messages = s.messages := by cases h <;> rfl
@[simp] theorem onTal_pending (s : State) (h : HalfId) (f : Tally → Tally) : (s.onTal h f).pending = s.pending := by cases h <;> rfl

/-! ## onMem -/

@[simp] theorem half_onMem (s : State) (h : HalfId) (f : MemUnit → MemUnit) :
    (s.onMem h f).half h = { s.half h with mem := f (s.half h).mem } := by cases h <;> rfl
@[simp] theorem half_onMem_other (s : State) (h : HalfId) (f : MemUnit → MemUnit) :
    (s.onMem h f).half h.other = s.half h.other := by cases h <;> rfl
@[simp] theorem half_onMem_other' (s : State) (h : HalfId) (f : MemUnit → MemUnit) :
    (s.onMem h.other f).half h = s.half h := by cases h <;> rfl
@[simp] theorem onMem_evc (s : State) (h : HalfId) (f : MemUnit → MemUnit) : (s.onMem h f).evc = s.evc := by cases h <;> rfl
@[simp] theorem onMem_mbx (s : State) (h : HalfId) (f : MemUnit → MemUnit) : (s.onMem h f).mbx = s.mbx := by cases h <;> rfl
@[simp] theorem onMem_host (s : State) (h : HalfId) (f : MemUnit → MemUnit) : (s.onMem h f).host = s.host := by cases h <;> rfl
@[simp] theorem onMem_crd (s : State) (h : HalfId) (f : MemUnit → MemUnit) : (s.onMem h f).crd = s.crd := by cases h <;> rfl
@[simp] theorem onMem_cht (s : State) (h : HalfId) (f : MemUnit → MemUnit) : (s.onMem h f).cht = s.cht := by cases h <;> rfl
@[simp] theorem onMem_rollback (s : State) (h : HalfId) (f : MemUnit → MemUnit) : (s.onMem h f).rollback = s.rollback := by cases h <;> rfl
@[simp] theorem onMem_store (s : State) (h : HalfId) (f : MemUnit → MemUnit) : (s.onMem h f).store = s.store := by cases h <;> rfl
@[simp] theorem onMem_mct (s : State) (h : HalfId) (f : MemUnit → MemUnit) : (s.onMem h f).mct = s.mct := by cases h <;> rfl
@[simp] theorem onMem_flt (s : State) (h : HalfId) (f : MemUnit → MemUnit) : (s.onMem h f).flt = s.flt := by cases h <;> rfl
@[simp] theorem onMem_vlt (s : State) (h : HalfId) (f : MemUnit → MemUnit) : (s.onMem h f).vlt = s.vlt := by cases h <;> rfl
@[simp] theorem onMem_rng (s : State) (h : HalfId) (f : MemUnit → MemUnit) : (s.onMem h f).rng = s.rng := by cases h <;> rfl
@[simp] theorem onMem_dbk (s : State) (h : HalfId) (f : MemUnit → MemUnit) : (s.onMem h f).dbk = s.dbk := by cases h <;> rfl
@[simp] theorem onMem_prt (s : State) (h : HalfId) (f : MemUnit → MemUnit) : (s.onMem h f).prt = s.prt := by cases h <;> rfl
@[simp] theorem onMem_dbg (s : State) (h : HalfId) (f : MemUnit → MemUnit) : (s.onMem h f).dbg = s.dbg := by cases h <;> rfl
@[simp] theorem onMem_keep (s : State) (h : HalfId) (f : MemUnit → MemUnit) : (s.onMem h f).keep = s.keep := by cases h <;> rfl
@[simp] theorem onMem_tick (s : State) (h : HalfId) (f : MemUnit → MemUnit) : (s.onMem h f).tick = s.tick := by cases h <;> rfl
@[simp] theorem onMem_bnd (s : State) (h : HalfId) (f : MemUnit → MemUnit) : (s.onMem h f).bnd = s.bnd := by cases h <;> rfl
@[simp] theorem onMem_ram (s : State) (h : HalfId) (f : MemUnit → MemUnit) : (s.onMem h f).ram = s.ram := by cases h <;> rfl
@[simp] theorem onMem_nvm (s : State) (h : HalfId) (f : MemUnit → MemUnit) : (s.onMem h f).nvm = s.nvm := by cases h <;> rfl
@[simp] theorem onMem_free (s : State) (h : HalfId) (f : MemUnit → MemUnit) : (s.onMem h f).free = s.free := by cases h <;> rfl
@[simp] theorem onMem_messages (s : State) (h : HalfId) (f : MemUnit → MemUnit) : (s.onMem h f).messages = s.messages := by cases h <;> rfl
@[simp] theorem onMem_pending (s : State) (h : HalfId) (f : MemUnit → MemUnit) : (s.onMem h f).pending = s.pending := by cases h <;> rfl

/-! ## onRkn -/

@[simp] theorem half_onRkn (s : State) (h : HalfId) (f : Reckoner → Reckoner) :
    (s.onRkn h f).half h = { s.half h with rkn := f (s.half h).rkn } := by cases h <;> rfl
@[simp] theorem half_onRkn_other (s : State) (h : HalfId) (f : Reckoner → Reckoner) :
    (s.onRkn h f).half h.other = s.half h.other := by cases h <;> rfl
@[simp] theorem half_onRkn_other' (s : State) (h : HalfId) (f : Reckoner → Reckoner) :
    (s.onRkn h.other f).half h = s.half h := by cases h <;> rfl
@[simp] theorem onRkn_evc (s : State) (h : HalfId) (f : Reckoner → Reckoner) : (s.onRkn h f).evc = s.evc := by cases h <;> rfl
@[simp] theorem onRkn_mbx (s : State) (h : HalfId) (f : Reckoner → Reckoner) : (s.onRkn h f).mbx = s.mbx := by cases h <;> rfl
@[simp] theorem onRkn_host (s : State) (h : HalfId) (f : Reckoner → Reckoner) : (s.onRkn h f).host = s.host := by cases h <;> rfl
@[simp] theorem onRkn_crd (s : State) (h : HalfId) (f : Reckoner → Reckoner) : (s.onRkn h f).crd = s.crd := by cases h <;> rfl
@[simp] theorem onRkn_cht (s : State) (h : HalfId) (f : Reckoner → Reckoner) : (s.onRkn h f).cht = s.cht := by cases h <;> rfl
@[simp] theorem onRkn_rollback (s : State) (h : HalfId) (f : Reckoner → Reckoner) : (s.onRkn h f).rollback = s.rollback := by cases h <;> rfl
@[simp] theorem onRkn_store (s : State) (h : HalfId) (f : Reckoner → Reckoner) : (s.onRkn h f).store = s.store := by cases h <;> rfl
@[simp] theorem onRkn_mct (s : State) (h : HalfId) (f : Reckoner → Reckoner) : (s.onRkn h f).mct = s.mct := by cases h <;> rfl
@[simp] theorem onRkn_flt (s : State) (h : HalfId) (f : Reckoner → Reckoner) : (s.onRkn h f).flt = s.flt := by cases h <;> rfl
@[simp] theorem onRkn_vlt (s : State) (h : HalfId) (f : Reckoner → Reckoner) : (s.onRkn h f).vlt = s.vlt := by cases h <;> rfl
@[simp] theorem onRkn_rng (s : State) (h : HalfId) (f : Reckoner → Reckoner) : (s.onRkn h f).rng = s.rng := by cases h <;> rfl
@[simp] theorem onRkn_dbk (s : State) (h : HalfId) (f : Reckoner → Reckoner) : (s.onRkn h f).dbk = s.dbk := by cases h <;> rfl
@[simp] theorem onRkn_prt (s : State) (h : HalfId) (f : Reckoner → Reckoner) : (s.onRkn h f).prt = s.prt := by cases h <;> rfl
@[simp] theorem onRkn_dbg (s : State) (h : HalfId) (f : Reckoner → Reckoner) : (s.onRkn h f).dbg = s.dbg := by cases h <;> rfl
@[simp] theorem onRkn_keep (s : State) (h : HalfId) (f : Reckoner → Reckoner) : (s.onRkn h f).keep = s.keep := by cases h <;> rfl
@[simp] theorem onRkn_tick (s : State) (h : HalfId) (f : Reckoner → Reckoner) : (s.onRkn h f).tick = s.tick := by cases h <;> rfl
@[simp] theorem onRkn_bnd (s : State) (h : HalfId) (f : Reckoner → Reckoner) : (s.onRkn h f).bnd = s.bnd := by cases h <;> rfl
@[simp] theorem onRkn_ram (s : State) (h : HalfId) (f : Reckoner → Reckoner) : (s.onRkn h f).ram = s.ram := by cases h <;> rfl
@[simp] theorem onRkn_nvm (s : State) (h : HalfId) (f : Reckoner → Reckoner) : (s.onRkn h f).nvm = s.nvm := by cases h <;> rfl
@[simp] theorem onRkn_free (s : State) (h : HalfId) (f : Reckoner → Reckoner) : (s.onRkn h f).free = s.free := by cases h <;> rfl
@[simp] theorem onRkn_messages (s : State) (h : HalfId) (f : Reckoner → Reckoner) : (s.onRkn h f).messages = s.messages := by cases h <;> rfl
@[simp] theorem onRkn_pending (s : State) (h : HalfId) (f : Reckoner → Reckoner) : (s.onRkn h f).pending = s.pending := by cases h <;> rfl

/-! ## onSch -/

@[simp] theorem half_onSch (s : State) (h : HalfId) (f : Sched → Sched) :
    (s.onSch h f).half h = { s.half h with sch := f (s.half h).sch } := by cases h <;> rfl
@[simp] theorem half_onSch_other (s : State) (h : HalfId) (f : Sched → Sched) :
    (s.onSch h f).half h.other = s.half h.other := by cases h <;> rfl
@[simp] theorem half_onSch_other' (s : State) (h : HalfId) (f : Sched → Sched) :
    (s.onSch h.other f).half h = s.half h := by cases h <;> rfl
@[simp] theorem onSch_evc (s : State) (h : HalfId) (f : Sched → Sched) : (s.onSch h f).evc = s.evc := by cases h <;> rfl
@[simp] theorem onSch_mbx (s : State) (h : HalfId) (f : Sched → Sched) : (s.onSch h f).mbx = s.mbx := by cases h <;> rfl
@[simp] theorem onSch_host (s : State) (h : HalfId) (f : Sched → Sched) : (s.onSch h f).host = s.host := by cases h <;> rfl
@[simp] theorem onSch_crd (s : State) (h : HalfId) (f : Sched → Sched) : (s.onSch h f).crd = s.crd := by cases h <;> rfl
@[simp] theorem onSch_cht (s : State) (h : HalfId) (f : Sched → Sched) : (s.onSch h f).cht = s.cht := by cases h <;> rfl
@[simp] theorem onSch_rollback (s : State) (h : HalfId) (f : Sched → Sched) : (s.onSch h f).rollback = s.rollback := by cases h <;> rfl
@[simp] theorem onSch_store (s : State) (h : HalfId) (f : Sched → Sched) : (s.onSch h f).store = s.store := by cases h <;> rfl
@[simp] theorem onSch_mct (s : State) (h : HalfId) (f : Sched → Sched) : (s.onSch h f).mct = s.mct := by cases h <;> rfl
@[simp] theorem onSch_flt (s : State) (h : HalfId) (f : Sched → Sched) : (s.onSch h f).flt = s.flt := by cases h <;> rfl
@[simp] theorem onSch_vlt (s : State) (h : HalfId) (f : Sched → Sched) : (s.onSch h f).vlt = s.vlt := by cases h <;> rfl
@[simp] theorem onSch_rng (s : State) (h : HalfId) (f : Sched → Sched) : (s.onSch h f).rng = s.rng := by cases h <;> rfl
@[simp] theorem onSch_dbk (s : State) (h : HalfId) (f : Sched → Sched) : (s.onSch h f).dbk = s.dbk := by cases h <;> rfl
@[simp] theorem onSch_prt (s : State) (h : HalfId) (f : Sched → Sched) : (s.onSch h f).prt = s.prt := by cases h <;> rfl
@[simp] theorem onSch_dbg (s : State) (h : HalfId) (f : Sched → Sched) : (s.onSch h f).dbg = s.dbg := by cases h <;> rfl
@[simp] theorem onSch_keep (s : State) (h : HalfId) (f : Sched → Sched) : (s.onSch h f).keep = s.keep := by cases h <;> rfl
@[simp] theorem onSch_tick (s : State) (h : HalfId) (f : Sched → Sched) : (s.onSch h f).tick = s.tick := by cases h <;> rfl
@[simp] theorem onSch_bnd (s : State) (h : HalfId) (f : Sched → Sched) : (s.onSch h f).bnd = s.bnd := by cases h <;> rfl
@[simp] theorem onSch_ram (s : State) (h : HalfId) (f : Sched → Sched) : (s.onSch h f).ram = s.ram := by cases h <;> rfl
@[simp] theorem onSch_nvm (s : State) (h : HalfId) (f : Sched → Sched) : (s.onSch h f).nvm = s.nvm := by cases h <;> rfl
@[simp] theorem onSch_free (s : State) (h : HalfId) (f : Sched → Sched) : (s.onSch h f).free = s.free := by cases h <;> rfl
@[simp] theorem onSch_messages (s : State) (h : HalfId) (f : Sched → Sched) : (s.onSch h f).messages = s.messages := by cases h <;> rfl
@[simp] theorem onSch_pending (s : State) (h : HalfId) (f : Sched → Sched) : (s.onSch h f).pending = s.pending := by cases h <;> rfl

/-! ## onGov -/

@[simp] theorem half_onGov (s : State) (h : HalfId) (f : Gov → Gov) :
    (s.onGov h f).half h = { s.half h with gov := f (s.half h).gov } := by cases h <;> rfl
@[simp] theorem half_onGov_other (s : State) (h : HalfId) (f : Gov → Gov) :
    (s.onGov h f).half h.other = s.half h.other := by cases h <;> rfl
@[simp] theorem half_onGov_other' (s : State) (h : HalfId) (f : Gov → Gov) :
    (s.onGov h.other f).half h = s.half h := by cases h <;> rfl
@[simp] theorem onGov_evc (s : State) (h : HalfId) (f : Gov → Gov) : (s.onGov h f).evc = s.evc := by cases h <;> rfl
@[simp] theorem onGov_mbx (s : State) (h : HalfId) (f : Gov → Gov) : (s.onGov h f).mbx = s.mbx := by cases h <;> rfl
@[simp] theorem onGov_host (s : State) (h : HalfId) (f : Gov → Gov) : (s.onGov h f).host = s.host := by cases h <;> rfl
@[simp] theorem onGov_crd (s : State) (h : HalfId) (f : Gov → Gov) : (s.onGov h f).crd = s.crd := by cases h <;> rfl
@[simp] theorem onGov_cht (s : State) (h : HalfId) (f : Gov → Gov) : (s.onGov h f).cht = s.cht := by cases h <;> rfl
@[simp] theorem onGov_rollback (s : State) (h : HalfId) (f : Gov → Gov) : (s.onGov h f).rollback = s.rollback := by cases h <;> rfl
@[simp] theorem onGov_store (s : State) (h : HalfId) (f : Gov → Gov) : (s.onGov h f).store = s.store := by cases h <;> rfl
@[simp] theorem onGov_mct (s : State) (h : HalfId) (f : Gov → Gov) : (s.onGov h f).mct = s.mct := by cases h <;> rfl
@[simp] theorem onGov_flt (s : State) (h : HalfId) (f : Gov → Gov) : (s.onGov h f).flt = s.flt := by cases h <;> rfl
@[simp] theorem onGov_vlt (s : State) (h : HalfId) (f : Gov → Gov) : (s.onGov h f).vlt = s.vlt := by cases h <;> rfl
@[simp] theorem onGov_rng (s : State) (h : HalfId) (f : Gov → Gov) : (s.onGov h f).rng = s.rng := by cases h <;> rfl
@[simp] theorem onGov_dbk (s : State) (h : HalfId) (f : Gov → Gov) : (s.onGov h f).dbk = s.dbk := by cases h <;> rfl
@[simp] theorem onGov_prt (s : State) (h : HalfId) (f : Gov → Gov) : (s.onGov h f).prt = s.prt := by cases h <;> rfl
@[simp] theorem onGov_dbg (s : State) (h : HalfId) (f : Gov → Gov) : (s.onGov h f).dbg = s.dbg := by cases h <;> rfl
@[simp] theorem onGov_keep (s : State) (h : HalfId) (f : Gov → Gov) : (s.onGov h f).keep = s.keep := by cases h <;> rfl
@[simp] theorem onGov_tick (s : State) (h : HalfId) (f : Gov → Gov) : (s.onGov h f).tick = s.tick := by cases h <;> rfl
@[simp] theorem onGov_bnd (s : State) (h : HalfId) (f : Gov → Gov) : (s.onGov h f).bnd = s.bnd := by cases h <;> rfl
@[simp] theorem onGov_ram (s : State) (h : HalfId) (f : Gov → Gov) : (s.onGov h f).ram = s.ram := by cases h <;> rfl
@[simp] theorem onGov_nvm (s : State) (h : HalfId) (f : Gov → Gov) : (s.onGov h f).nvm = s.nvm := by cases h <;> rfl
@[simp] theorem onGov_free (s : State) (h : HalfId) (f : Gov → Gov) : (s.onGov h f).free = s.free := by cases h <;> rfl
@[simp] theorem onGov_messages (s : State) (h : HalfId) (f : Gov → Gov) : (s.onGov h f).messages = s.messages := by cases h <;> rfl
@[simp] theorem onGov_pending (s : State) (h : HalfId) (f : Gov → Gov) : (s.onGov h f).pending = s.pending := by cases h <;> rfl

/-! ## onSpn -/

@[simp] theorem half_onSpn (s : State) (h : HalfId) (f : SpanEnd → SpanEnd) :
    (s.onSpn h f).half h = { s.half h with spn := f (s.half h).spn } := by cases h <;> rfl
@[simp] theorem half_onSpn_other (s : State) (h : HalfId) (f : SpanEnd → SpanEnd) :
    (s.onSpn h f).half h.other = s.half h.other := by cases h <;> rfl
@[simp] theorem half_onSpn_other' (s : State) (h : HalfId) (f : SpanEnd → SpanEnd) :
    (s.onSpn h.other f).half h = s.half h := by cases h <;> rfl
@[simp] theorem onSpn_evc (s : State) (h : HalfId) (f : SpanEnd → SpanEnd) : (s.onSpn h f).evc = s.evc := by cases h <;> rfl
@[simp] theorem onSpn_mbx (s : State) (h : HalfId) (f : SpanEnd → SpanEnd) : (s.onSpn h f).mbx = s.mbx := by cases h <;> rfl
@[simp] theorem onSpn_host (s : State) (h : HalfId) (f : SpanEnd → SpanEnd) : (s.onSpn h f).host = s.host := by cases h <;> rfl
@[simp] theorem onSpn_crd (s : State) (h : HalfId) (f : SpanEnd → SpanEnd) : (s.onSpn h f).crd = s.crd := by cases h <;> rfl
@[simp] theorem onSpn_cht (s : State) (h : HalfId) (f : SpanEnd → SpanEnd) : (s.onSpn h f).cht = s.cht := by cases h <;> rfl
@[simp] theorem onSpn_rollback (s : State) (h : HalfId) (f : SpanEnd → SpanEnd) : (s.onSpn h f).rollback = s.rollback := by cases h <;> rfl
@[simp] theorem onSpn_store (s : State) (h : HalfId) (f : SpanEnd → SpanEnd) : (s.onSpn h f).store = s.store := by cases h <;> rfl
@[simp] theorem onSpn_mct (s : State) (h : HalfId) (f : SpanEnd → SpanEnd) : (s.onSpn h f).mct = s.mct := by cases h <;> rfl
@[simp] theorem onSpn_flt (s : State) (h : HalfId) (f : SpanEnd → SpanEnd) : (s.onSpn h f).flt = s.flt := by cases h <;> rfl
@[simp] theorem onSpn_vlt (s : State) (h : HalfId) (f : SpanEnd → SpanEnd) : (s.onSpn h f).vlt = s.vlt := by cases h <;> rfl
@[simp] theorem onSpn_rng (s : State) (h : HalfId) (f : SpanEnd → SpanEnd) : (s.onSpn h f).rng = s.rng := by cases h <;> rfl
@[simp] theorem onSpn_dbk (s : State) (h : HalfId) (f : SpanEnd → SpanEnd) : (s.onSpn h f).dbk = s.dbk := by cases h <;> rfl
@[simp] theorem onSpn_prt (s : State) (h : HalfId) (f : SpanEnd → SpanEnd) : (s.onSpn h f).prt = s.prt := by cases h <;> rfl
@[simp] theorem onSpn_dbg (s : State) (h : HalfId) (f : SpanEnd → SpanEnd) : (s.onSpn h f).dbg = s.dbg := by cases h <;> rfl
@[simp] theorem onSpn_keep (s : State) (h : HalfId) (f : SpanEnd → SpanEnd) : (s.onSpn h f).keep = s.keep := by cases h <;> rfl
@[simp] theorem onSpn_tick (s : State) (h : HalfId) (f : SpanEnd → SpanEnd) : (s.onSpn h f).tick = s.tick := by cases h <;> rfl
@[simp] theorem onSpn_bnd (s : State) (h : HalfId) (f : SpanEnd → SpanEnd) : (s.onSpn h f).bnd = s.bnd := by cases h <;> rfl
@[simp] theorem onSpn_ram (s : State) (h : HalfId) (f : SpanEnd → SpanEnd) : (s.onSpn h f).ram = s.ram := by cases h <;> rfl
@[simp] theorem onSpn_nvm (s : State) (h : HalfId) (f : SpanEnd → SpanEnd) : (s.onSpn h f).nvm = s.nvm := by cases h <;> rfl
@[simp] theorem onSpn_free (s : State) (h : HalfId) (f : SpanEnd → SpanEnd) : (s.onSpn h f).free = s.free := by cases h <;> rfl
@[simp] theorem onSpn_messages (s : State) (h : HalfId) (f : SpanEnd → SpanEnd) : (s.onSpn h f).messages = s.messages := by cases h <;> rfl
@[simp] theorem onSpn_pending (s : State) (h : HalfId) (f : SpanEnd → SpanEnd) : (s.onSpn h f).pending = s.pending := by cases h <;> rfl

/-! ## onDbk -/

@[simp] theorem half_onDbk (s : State) (h : HalfId) (f : DbkQueue → DbkQueue) :
    (s.onDbk h f).half h = { s.half h with dbk := f (s.half h).dbk } := by cases h <;> rfl
@[simp] theorem half_onDbk_other (s : State) (h : HalfId) (f : DbkQueue → DbkQueue) :
    (s.onDbk h f).half h.other = s.half h.other := by cases h <;> rfl
@[simp] theorem half_onDbk_other' (s : State) (h : HalfId) (f : DbkQueue → DbkQueue) :
    (s.onDbk h.other f).half h = s.half h := by cases h <;> rfl
@[simp] theorem onDbk_evc (s : State) (h : HalfId) (f : DbkQueue → DbkQueue) : (s.onDbk h f).evc = s.evc := by cases h <;> rfl
@[simp] theorem onDbk_mbx (s : State) (h : HalfId) (f : DbkQueue → DbkQueue) : (s.onDbk h f).mbx = s.mbx := by cases h <;> rfl
@[simp] theorem onDbk_host (s : State) (h : HalfId) (f : DbkQueue → DbkQueue) : (s.onDbk h f).host = s.host := by cases h <;> rfl
@[simp] theorem onDbk_crd (s : State) (h : HalfId) (f : DbkQueue → DbkQueue) : (s.onDbk h f).crd = s.crd := by cases h <;> rfl
@[simp] theorem onDbk_cht (s : State) (h : HalfId) (f : DbkQueue → DbkQueue) : (s.onDbk h f).cht = s.cht := by cases h <;> rfl
@[simp] theorem onDbk_rollback (s : State) (h : HalfId) (f : DbkQueue → DbkQueue) : (s.onDbk h f).rollback = s.rollback := by cases h <;> rfl
@[simp] theorem onDbk_store (s : State) (h : HalfId) (f : DbkQueue → DbkQueue) : (s.onDbk h f).store = s.store := by cases h <;> rfl
@[simp] theorem onDbk_mct (s : State) (h : HalfId) (f : DbkQueue → DbkQueue) : (s.onDbk h f).mct = s.mct := by cases h <;> rfl
@[simp] theorem onDbk_flt (s : State) (h : HalfId) (f : DbkQueue → DbkQueue) : (s.onDbk h f).flt = s.flt := by cases h <;> rfl
@[simp] theorem onDbk_vlt (s : State) (h : HalfId) (f : DbkQueue → DbkQueue) : (s.onDbk h f).vlt = s.vlt := by cases h <;> rfl
@[simp] theorem onDbk_rng (s : State) (h : HalfId) (f : DbkQueue → DbkQueue) : (s.onDbk h f).rng = s.rng := by cases h <;> rfl
@[simp] theorem onDbk_dbk (s : State) (h : HalfId) (f : DbkQueue → DbkQueue) : (s.onDbk h f).dbk = s.dbk := by cases h <;> rfl
@[simp] theorem onDbk_prt (s : State) (h : HalfId) (f : DbkQueue → DbkQueue) : (s.onDbk h f).prt = s.prt := by cases h <;> rfl
@[simp] theorem onDbk_dbg (s : State) (h : HalfId) (f : DbkQueue → DbkQueue) : (s.onDbk h f).dbg = s.dbg := by cases h <;> rfl
@[simp] theorem onDbk_keep (s : State) (h : HalfId) (f : DbkQueue → DbkQueue) : (s.onDbk h f).keep = s.keep := by cases h <;> rfl
@[simp] theorem onDbk_tick (s : State) (h : HalfId) (f : DbkQueue → DbkQueue) : (s.onDbk h f).tick = s.tick := by cases h <;> rfl
@[simp] theorem onDbk_bnd (s : State) (h : HalfId) (f : DbkQueue → DbkQueue) : (s.onDbk h f).bnd = s.bnd := by cases h <;> rfl
@[simp] theorem onDbk_ram (s : State) (h : HalfId) (f : DbkQueue → DbkQueue) : (s.onDbk h f).ram = s.ram := by cases h <;> rfl
@[simp] theorem onDbk_nvm (s : State) (h : HalfId) (f : DbkQueue → DbkQueue) : (s.onDbk h f).nvm = s.nvm := by cases h <;> rfl
@[simp] theorem onDbk_free (s : State) (h : HalfId) (f : DbkQueue → DbkQueue) : (s.onDbk h f).free = s.free := by cases h <;> rfl
@[simp] theorem onDbk_messages (s : State) (h : HalfId) (f : DbkQueue → DbkQueue) : (s.onDbk h f).messages = s.messages := by cases h <;> rfl
@[simp] theorem onDbk_pending (s : State) (h : HalfId) (f : DbkQueue → DbkQueue) : (s.onDbk h f).pending = s.pending := by cases h <;> rfl

/-! ## onUp -/

@[simp] theorem half_onUp (s : State) (h : HalfId) (f : BringUp → BringUp) :
    (s.onUp h f).half h = { s.half h with up := f (s.half h).up } := by cases h <;> rfl
@[simp] theorem half_onUp_other (s : State) (h : HalfId) (f : BringUp → BringUp) :
    (s.onUp h f).half h.other = s.half h.other := by cases h <;> rfl
@[simp] theorem half_onUp_other' (s : State) (h : HalfId) (f : BringUp → BringUp) :
    (s.onUp h.other f).half h = s.half h := by cases h <;> rfl
@[simp] theorem onUp_evc (s : State) (h : HalfId) (f : BringUp → BringUp) : (s.onUp h f).evc = s.evc := by cases h <;> rfl
@[simp] theorem onUp_mbx (s : State) (h : HalfId) (f : BringUp → BringUp) : (s.onUp h f).mbx = s.mbx := by cases h <;> rfl
@[simp] theorem onUp_host (s : State) (h : HalfId) (f : BringUp → BringUp) : (s.onUp h f).host = s.host := by cases h <;> rfl
@[simp] theorem onUp_crd (s : State) (h : HalfId) (f : BringUp → BringUp) : (s.onUp h f).crd = s.crd := by cases h <;> rfl
@[simp] theorem onUp_cht (s : State) (h : HalfId) (f : BringUp → BringUp) : (s.onUp h f).cht = s.cht := by cases h <;> rfl
@[simp] theorem onUp_rollback (s : State) (h : HalfId) (f : BringUp → BringUp) : (s.onUp h f).rollback = s.rollback := by cases h <;> rfl
@[simp] theorem onUp_store (s : State) (h : HalfId) (f : BringUp → BringUp) : (s.onUp h f).store = s.store := by cases h <;> rfl
@[simp] theorem onUp_mct (s : State) (h : HalfId) (f : BringUp → BringUp) : (s.onUp h f).mct = s.mct := by cases h <;> rfl
@[simp] theorem onUp_flt (s : State) (h : HalfId) (f : BringUp → BringUp) : (s.onUp h f).flt = s.flt := by cases h <;> rfl
@[simp] theorem onUp_vlt (s : State) (h : HalfId) (f : BringUp → BringUp) : (s.onUp h f).vlt = s.vlt := by cases h <;> rfl
@[simp] theorem onUp_rng (s : State) (h : HalfId) (f : BringUp → BringUp) : (s.onUp h f).rng = s.rng := by cases h <;> rfl
@[simp] theorem onUp_dbk (s : State) (h : HalfId) (f : BringUp → BringUp) : (s.onUp h f).dbk = s.dbk := by cases h <;> rfl
@[simp] theorem onUp_prt (s : State) (h : HalfId) (f : BringUp → BringUp) : (s.onUp h f).prt = s.prt := by cases h <;> rfl
@[simp] theorem onUp_dbg (s : State) (h : HalfId) (f : BringUp → BringUp) : (s.onUp h f).dbg = s.dbg := by cases h <;> rfl
@[simp] theorem onUp_keep (s : State) (h : HalfId) (f : BringUp → BringUp) : (s.onUp h f).keep = s.keep := by cases h <;> rfl
@[simp] theorem onUp_tick (s : State) (h : HalfId) (f : BringUp → BringUp) : (s.onUp h f).tick = s.tick := by cases h <;> rfl
@[simp] theorem onUp_bnd (s : State) (h : HalfId) (f : BringUp → BringUp) : (s.onUp h f).bnd = s.bnd := by cases h <;> rfl
@[simp] theorem onUp_ram (s : State) (h : HalfId) (f : BringUp → BringUp) : (s.onUp h f).ram = s.ram := by cases h <;> rfl
@[simp] theorem onUp_nvm (s : State) (h : HalfId) (f : BringUp → BringUp) : (s.onUp h f).nvm = s.nvm := by cases h <;> rfl
@[simp] theorem onUp_free (s : State) (h : HalfId) (f : BringUp → BringUp) : (s.onUp h f).free = s.free := by cases h <;> rfl
@[simp] theorem onUp_messages (s : State) (h : HalfId) (f : BringUp → BringUp) : (s.onUp h f).messages = s.messages := by cases h <;> rfl
@[simp] theorem onUp_pending (s : State) (h : HalfId) (f : BringUp → BringUp) : (s.onUp h f).pending = s.pending := by cases h <;> rfl

/-! ## Execution states and banks -/

/-- The execution state is the half's. -/
theorem ex_eq (s : State) (h : HalfId) : s.ex h = (s.half h).ex := rfl

@[simp] theorem ex_onEx (s : State) (h : HalfId) (f : Exec → Exec) : (s.onEx h f).ex h = f (s.ex h) := by cases h <;> rfl
@[simp] theorem ex_onEx_other (s : State) (h : HalfId) (f : Exec → Exec) : (s.onEx h f).ex h.other = s.ex h.other := by
  cases h <;> rfl
@[simp] theorem ex_onWin (s : State) (h g : HalfId) (f : Windows → Windows) : (s.onWin h f).ex g = s.ex g := by
  cases h <;> cases g <;> rfl
@[simp] theorem ex_onTal (s : State) (h g : HalfId) (f : Tally → Tally) : (s.onTal h f).ex g = s.ex g := by
  cases h <;> cases g <;> rfl
@[simp] theorem ex_onMem (s : State) (h g : HalfId) (f : MemUnit → MemUnit) : (s.onMem h f).ex g = s.ex g := by
  cases h <;> cases g <;> rfl
@[simp] theorem ex_onRkn (s : State) (h g : HalfId) (f : Reckoner → Reckoner) : (s.onRkn h f).ex g = s.ex g := by
  cases h <;> cases g <;> rfl
@[simp] theorem ex_onSch (s : State) (h g : HalfId) (f : Sched → Sched) : (s.onSch h f).ex g = s.ex g := by
  cases h <;> cases g <;> rfl
@[simp] theorem ex_onGov (s : State) (h g : HalfId) (f : Gov → Gov) : (s.onGov h f).ex g = s.ex g := by
  cases h <;> cases g <;> rfl
@[simp] theorem ex_onSpn (s : State) (h g : HalfId) (f : SpanEnd → SpanEnd) : (s.onSpn h f).ex g = s.ex g := by
  cases h <;> cases g <;> rfl
@[simp] theorem ex_onDbk (s : State) (h g : HalfId) (f : DbkQueue → DbkQueue) : (s.onDbk h f).ex g = s.ex g := by
  cases h <;> cases g <;> rfl
@[simp] theorem ex_onUp (s : State) (h g : HalfId) (f : BringUp → BringUp) : (s.onUp h f).ex g = s.ex g := by
  cases h <;> cases g <;> rfl

@[simp] theorem half_setBank (s : State) (h : HalfId) (k : BitVec 5) (b : Bank) :
    (s.setBank h k b).half h =
      { s.half h with ex := { (s.half h).ex with banks := sput Bank.reset (s.half h).ex.banks k.toNat b } } := by cases h <;> rfl
@[simp] theorem half_setBank_other (s : State) (h : HalfId) (k : BitVec 5) (b : Bank) :
    (s.setBank h k b).half h.other = s.half h.other := by cases h <;> rfl
@[simp] theorem bank_setBank (s : State) (h : HalfId) (k : BitVec 5) (b : Bank) : (s.setBank h k b).bank h k = b := by
  simp [State.bank, Half.bank]
theorem bank_setBank_ne (s : State) (h : HalfId) (k j : BitVec 5) (b : Bank) (hj : j ≠ k) :
    (s.setBank h k b).bank h j = s.bank h j := by
  have : j.toNat ≠ k.toNat := fun e => hj (BitVec.eq_of_toNat_eq e)
  simp [State.bank, Half.bank, sget_sput_ne _ _ _ _ _ this]
@[simp] theorem bank_setBank_other (s : State) (h : HalfId) (k j : BitVec 5) (b : Bank) :
    (s.setBank h k b).bank h.other j = s.bank h.other j := by simp [State.bank]
@[simp] theorem bank_onWin (s : State) (h g : HalfId) (k : BitVec 5) (f : Windows → Windows) :
    (s.onWin h f).bank g k = s.bank g k := by cases h <;> cases g <;> rfl
@[simp] theorem bank_onTal (s : State) (h g : HalfId) (k : BitVec 5) (f : Tally → Tally) :
    (s.onTal h f).bank g k = s.bank g k := by cases h <;> cases g <;> rfl
@[simp] theorem bank_onMem (s : State) (h g : HalfId) (k : BitVec 5) (f : MemUnit → MemUnit) :
    (s.onMem h f).bank g k = s.bank g k := by cases h <;> cases g <;> rfl
@[simp] theorem bank_onRkn (s : State) (h g : HalfId) (k : BitVec 5) (f : Reckoner → Reckoner) :
    (s.onRkn h f).bank g k = s.bank g k := by cases h <;> cases g <;> rfl
@[simp] theorem bank_onSch (s : State) (h g : HalfId) (k : BitVec 5) (f : Sched → Sched) :
    (s.onSch h f).bank g k = s.bank g k := by cases h <;> cases g <;> rfl
@[simp] theorem bank_onGov (s : State) (h g : HalfId) (k : BitVec 5) (f : Gov → Gov) :
    (s.onGov h f).bank g k = s.bank g k := by cases h <;> cases g <;> rfl
@[simp] theorem bank_onSpn (s : State) (h g : HalfId) (k : BitVec 5) (f : SpanEnd → SpanEnd) :
    (s.onSpn h f).bank g k = s.bank g k := by cases h <;> cases g <;> rfl
@[simp] theorem bank_onDbk (s : State) (h g : HalfId) (k : BitVec 5) (f : DbkQueue → DbkQueue) :
    (s.onDbk h f).bank g k = s.bank g k := by cases h <;> cases g <;> rfl
@[simp] theorem bank_onUp (s : State) (h g : HalfId) (k : BitVec 5) (f : BringUp → BringUp) :
    (s.onUp h f).bank g k = s.bank g k := by cases h <;> cases g <;> rfl
@[simp] theorem setBank_evc (s : State) (h : HalfId) (k : BitVec 5) (b : Bank) : (s.setBank h k b).evc = s.evc := by
  cases h <;> rfl
@[simp] theorem setBank_mbx (s : State) (h : HalfId) (k : BitVec 5) (b : Bank) : (s.setBank h k b).mbx = s.mbx := by
  cases h <;> rfl
@[simp] theorem setBank_host (s : State) (h : HalfId) (k : BitVec 5) (b : Bank) : (s.setBank h k b).host = s.host := by
  cases h <;> rfl
@[simp] theorem setBank_crd (s : State) (h : HalfId) (k : BitVec 5) (b : Bank) : (s.setBank h k b).crd = s.crd := by
  cases h <;> rfl
@[simp] theorem setBank_cht (s : State) (h : HalfId) (k : BitVec 5) (b : Bank) : (s.setBank h k b).cht = s.cht := by
  cases h <;> rfl
@[simp] theorem setBank_rollback (s : State) (h : HalfId) (k : BitVec 5) (b : Bank) : (s.setBank h k b).rollback = s.rollback := by
  cases h <;> rfl
@[simp] theorem setBank_store (s : State) (h : HalfId) (k : BitVec 5) (b : Bank) : (s.setBank h k b).store = s.store := by
  cases h <;> rfl
@[simp] theorem setBank_mct (s : State) (h : HalfId) (k : BitVec 5) (b : Bank) : (s.setBank h k b).mct = s.mct := by
  cases h <;> rfl
@[simp] theorem setBank_flt (s : State) (h : HalfId) (k : BitVec 5) (b : Bank) : (s.setBank h k b).flt = s.flt := by
  cases h <;> rfl
@[simp] theorem setBank_vlt (s : State) (h : HalfId) (k : BitVec 5) (b : Bank) : (s.setBank h k b).vlt = s.vlt := by
  cases h <;> rfl
@[simp] theorem setBank_rng (s : State) (h : HalfId) (k : BitVec 5) (b : Bank) : (s.setBank h k b).rng = s.rng := by
  cases h <;> rfl
@[simp] theorem setBank_dbk (s : State) (h : HalfId) (k : BitVec 5) (b : Bank) : (s.setBank h k b).dbk = s.dbk := by
  cases h <;> rfl
@[simp] theorem setBank_prt (s : State) (h : HalfId) (k : BitVec 5) (b : Bank) : (s.setBank h k b).prt = s.prt := by
  cases h <;> rfl
@[simp] theorem setBank_dbg (s : State) (h : HalfId) (k : BitVec 5) (b : Bank) : (s.setBank h k b).dbg = s.dbg := by
  cases h <;> rfl
@[simp] theorem setBank_keep (s : State) (h : HalfId) (k : BitVec 5) (b : Bank) : (s.setBank h k b).keep = s.keep := by
  cases h <;> rfl
@[simp] theorem setBank_tick (s : State) (h : HalfId) (k : BitVec 5) (b : Bank) : (s.setBank h k b).tick = s.tick := by
  cases h <;> rfl
@[simp] theorem setBank_bnd (s : State) (h : HalfId) (k : BitVec 5) (b : Bank) : (s.setBank h k b).bnd = s.bnd := by
  cases h <;> rfl
@[simp] theorem setBank_ram (s : State) (h : HalfId) (k : BitVec 5) (b : Bank) : (s.setBank h k b).ram = s.ram := by
  cases h <;> rfl
@[simp] theorem setBank_nvm (s : State) (h : HalfId) (k : BitVec 5) (b : Bank) : (s.setBank h k b).nvm = s.nvm := by
  cases h <;> rfl
@[simp] theorem setBank_free (s : State) (h : HalfId) (k : BitVec 5) (b : Bank) : (s.setBank h k b).free = s.free := by
  cases h <;> rfl
@[simp] theorem setBank_messages (s : State) (h : HalfId) (k : BitVec 5) (b : Bank) : (s.setBank h k b).messages = s.messages := by
  cases h <;> rfl
@[simp] theorem setBank_pending (s : State) (h : HalfId) (k : BitVec 5) (b : Bank) : (s.setBank h k b).pending = s.pending := by
  cases h <;> rfl

/-! ## Tally records and debug states -/

@[simp] theorem trec_onTrec (s : State) (h : HalfId) (f : TallyRec → TallyRec) : (s.onTrec h f).trec h = f (s.trec h) := by
  cases h <;> rfl
@[simp] theorem trec_onTrec_other (s : State) (h : HalfId) (f : TallyRec → TallyRec) :
    (s.onTrec h f).trec h.other = s.trec h.other := by cases h <;> rfl
@[simp] theorem half_onTrec (s : State) (h g : HalfId) (f : TallyRec → TallyRec) : (s.onTrec h f).half g = s.half g := by
  cases h <;> cases g <;> rfl
@[simp] theorem onTrec_evc (s : State) (h : HalfId) (f : TallyRec → TallyRec) : (s.onTrec h f).evc = s.evc := by
  cases h <;> rfl
@[simp] theorem onTrec_mbx (s : State) (h : HalfId) (f : TallyRec → TallyRec) : (s.onTrec h f).mbx = s.mbx := by
  cases h <;> rfl
@[simp] theorem onTrec_host (s : State) (h : HalfId) (f : TallyRec → TallyRec) : (s.onTrec h f).host = s.host := by
  cases h <;> rfl
@[simp] theorem onTrec_crd (s : State) (h : HalfId) (f : TallyRec → TallyRec) : (s.onTrec h f).crd = s.crd := by
  cases h <;> rfl
@[simp] theorem onTrec_cht (s : State) (h : HalfId) (f : TallyRec → TallyRec) : (s.onTrec h f).cht = s.cht := by
  cases h <;> rfl
@[simp] theorem onTrec_rollback (s : State) (h : HalfId) (f : TallyRec → TallyRec) : (s.onTrec h f).rollback = s.rollback := by
  cases h <;> rfl
@[simp] theorem onTrec_store (s : State) (h : HalfId) (f : TallyRec → TallyRec) : (s.onTrec h f).store = s.store := by
  cases h <;> rfl
@[simp] theorem onTrec_mct (s : State) (h : HalfId) (f : TallyRec → TallyRec) : (s.onTrec h f).mct = s.mct := by
  cases h <;> rfl
@[simp] theorem onTrec_flt (s : State) (h : HalfId) (f : TallyRec → TallyRec) : (s.onTrec h f).flt = s.flt := by
  cases h <;> rfl
@[simp] theorem onTrec_vlt (s : State) (h : HalfId) (f : TallyRec → TallyRec) : (s.onTrec h f).vlt = s.vlt := by
  cases h <;> rfl
@[simp] theorem onTrec_rng (s : State) (h : HalfId) (f : TallyRec → TallyRec) : (s.onTrec h f).rng = s.rng := by
  cases h <;> rfl
@[simp] theorem onTrec_dbk (s : State) (h : HalfId) (f : TallyRec → TallyRec) : (s.onTrec h f).dbk = s.dbk := by
  cases h <;> rfl
@[simp] theorem onTrec_prt (s : State) (h : HalfId) (f : TallyRec → TallyRec) : (s.onTrec h f).prt = s.prt := by
  cases h <;> rfl
@[simp] theorem onTrec_dbg (s : State) (h : HalfId) (f : TallyRec → TallyRec) : (s.onTrec h f).dbg = s.dbg := by
  cases h <;> rfl
@[simp] theorem onTrec_tick (s : State) (h : HalfId) (f : TallyRec → TallyRec) : (s.onTrec h f).tick = s.tick := by
  cases h <;> rfl
@[simp] theorem onTrec_bnd (s : State) (h : HalfId) (f : TallyRec → TallyRec) : (s.onTrec h f).bnd = s.bnd := by
  cases h <;> rfl
@[simp] theorem onTrec_ram (s : State) (h : HalfId) (f : TallyRec → TallyRec) : (s.onTrec h f).ram = s.ram := by
  cases h <;> rfl
@[simp] theorem onTrec_nvm (s : State) (h : HalfId) (f : TallyRec → TallyRec) : (s.onTrec h f).nvm = s.nvm := by
  cases h <;> rfl
@[simp] theorem onTrec_free (s : State) (h : HalfId) (f : TallyRec → TallyRec) : (s.onTrec h f).free = s.free := by
  cases h <;> rfl
@[simp] theorem onTrec_messages (s : State) (h : HalfId) (f : TallyRec → TallyRec) : (s.onTrec h f).messages = s.messages := by
  cases h <;> rfl
@[simp] theorem onTrec_pending (s : State) (h : HalfId) (f : TallyRec → TallyRec) : (s.onTrec h f).pending = s.pending := by
  cases h <;> rfl
@[simp] theorem dbgHalf_onDbgHalf (s : State) (h : HalfId) (f : DbgHalf → DbgHalf) :
    (s.onDbgHalf h f).dbgHalf h = f (s.dbgHalf h) := by cases h <;> rfl
@[simp] theorem dbgHalf_onDbgHalf_other (s : State) (h : HalfId) (f : DbgHalf → DbgHalf) :
    (s.onDbgHalf h f).dbgHalf h.other = s.dbgHalf h.other := by cases h <;> rfl
@[simp] theorem half_onDbgHalf (s : State) (h g : HalfId) (f : DbgHalf → DbgHalf) : (s.onDbgHalf h f).half g = s.half g := by
  cases h <;> cases g <;> rfl
@[simp] theorem onDbgHalf_evc (s : State) (h : HalfId) (f : DbgHalf → DbgHalf) : (s.onDbgHalf h f).evc = s.evc := by
  cases h <;> rfl
@[simp] theorem onDbgHalf_mbx (s : State) (h : HalfId) (f : DbgHalf → DbgHalf) : (s.onDbgHalf h f).mbx = s.mbx := by
  cases h <;> rfl
@[simp] theorem onDbgHalf_host (s : State) (h : HalfId) (f : DbgHalf → DbgHalf) : (s.onDbgHalf h f).host = s.host := by
  cases h <;> rfl
@[simp] theorem onDbgHalf_crd (s : State) (h : HalfId) (f : DbgHalf → DbgHalf) : (s.onDbgHalf h f).crd = s.crd := by
  cases h <;> rfl
@[simp] theorem onDbgHalf_cht (s : State) (h : HalfId) (f : DbgHalf → DbgHalf) : (s.onDbgHalf h f).cht = s.cht := by
  cases h <;> rfl
@[simp] theorem onDbgHalf_rollback (s : State) (h : HalfId) (f : DbgHalf → DbgHalf) : (s.onDbgHalf h f).rollback = s.rollback := by
  cases h <;> rfl
@[simp] theorem onDbgHalf_store (s : State) (h : HalfId) (f : DbgHalf → DbgHalf) : (s.onDbgHalf h f).store = s.store := by
  cases h <;> rfl
@[simp] theorem onDbgHalf_mct (s : State) (h : HalfId) (f : DbgHalf → DbgHalf) : (s.onDbgHalf h f).mct = s.mct := by
  cases h <;> rfl
@[simp] theorem onDbgHalf_flt (s : State) (h : HalfId) (f : DbgHalf → DbgHalf) : (s.onDbgHalf h f).flt = s.flt := by
  cases h <;> rfl
@[simp] theorem onDbgHalf_vlt (s : State) (h : HalfId) (f : DbgHalf → DbgHalf) : (s.onDbgHalf h f).vlt = s.vlt := by
  cases h <;> rfl
@[simp] theorem onDbgHalf_rng (s : State) (h : HalfId) (f : DbgHalf → DbgHalf) : (s.onDbgHalf h f).rng = s.rng := by
  cases h <;> rfl
@[simp] theorem onDbgHalf_dbk (s : State) (h : HalfId) (f : DbgHalf → DbgHalf) : (s.onDbgHalf h f).dbk = s.dbk := by
  cases h <;> rfl
@[simp] theorem onDbgHalf_prt (s : State) (h : HalfId) (f : DbgHalf → DbgHalf) : (s.onDbgHalf h f).prt = s.prt := by
  cases h <;> rfl
@[simp] theorem onDbgHalf_keep (s : State) (h : HalfId) (f : DbgHalf → DbgHalf) : (s.onDbgHalf h f).keep = s.keep := by
  cases h <;> rfl
@[simp] theorem onDbgHalf_tick (s : State) (h : HalfId) (f : DbgHalf → DbgHalf) : (s.onDbgHalf h f).tick = s.tick := by
  cases h <;> rfl
@[simp] theorem onDbgHalf_bnd (s : State) (h : HalfId) (f : DbgHalf → DbgHalf) : (s.onDbgHalf h f).bnd = s.bnd := by
  cases h <;> rfl
@[simp] theorem onDbgHalf_ram (s : State) (h : HalfId) (f : DbgHalf → DbgHalf) : (s.onDbgHalf h f).ram = s.ram := by
  cases h <;> rfl
@[simp] theorem onDbgHalf_nvm (s : State) (h : HalfId) (f : DbgHalf → DbgHalf) : (s.onDbgHalf h f).nvm = s.nvm := by
  cases h <;> rfl
@[simp] theorem onDbgHalf_free (s : State) (h : HalfId) (f : DbgHalf → DbgHalf) : (s.onDbgHalf h f).free = s.free := by
  cases h <;> rfl
@[simp] theorem onDbgHalf_messages (s : State) (h : HalfId) (f : DbgHalf → DbgHalf) : (s.onDbgHalf h f).messages = s.messages := by
  cases h <;> rfl
@[simp] theorem onDbgHalf_pending (s : State) (h : HalfId) (f : DbgHalf → DbgHalf) : (s.onDbgHalf h f).pending = s.pending := by
  cases h <;> rfl
@[simp] theorem half_draw (s : State) (h : HalfId) : s.draw.half h = s.half h := by cases h <;> rfl
@[simp] theorem draw_evc (s : State) : s.draw.evc = s.evc := rfl
@[simp] theorem draw_mbx (s : State) : s.draw.mbx = s.mbx := rfl
@[simp] theorem draw_host (s : State) : s.draw.host = s.host := rfl
@[simp] theorem draw_crd (s : State) : s.draw.crd = s.crd := rfl
@[simp] theorem draw_cht (s : State) : s.draw.cht = s.cht := rfl
@[simp] theorem draw_rollback (s : State) : s.draw.rollback = s.rollback := rfl
@[simp] theorem draw_store (s : State) : s.draw.store = s.store := rfl
@[simp] theorem draw_mct (s : State) : s.draw.mct = s.mct := rfl
@[simp] theorem draw_flt (s : State) : s.draw.flt = s.flt := rfl
@[simp] theorem draw_vlt (s : State) : s.draw.vlt = s.vlt := rfl
@[simp] theorem draw_rng (s : State) : s.draw.rng = s.rng := rfl
@[simp] theorem draw_dbk (s : State) : s.draw.dbk = s.dbk := rfl
@[simp] theorem draw_prt (s : State) : s.draw.prt = s.prt := rfl
@[simp] theorem draw_dbg (s : State) : s.draw.dbg = s.dbg := rfl
@[simp] theorem draw_keep (s : State) : s.draw.keep = s.keep := rfl
@[simp] theorem draw_tick (s : State) : s.draw.tick = s.tick := rfl
@[simp] theorem draw_bnd (s : State) : s.draw.bnd = s.bnd := rfl
@[simp] theorem draw_ram (s : State) : s.draw.ram = s.ram := rfl
@[simp] theorem draw_nvm (s : State) : s.draw.nvm = s.nvm := rfl
@[simp] theorem draw_pending (s : State) : s.draw.pending = s.pending := rfl
@[simp] theorem draw_messages (s : State) : s.draw.messages = s.messages := rfl
@[simp] theorem draw_free (s : State) : s.draw.free = s.free + 1 := rfl

end Sys2Proof.Machine
end

