-- ==== Sys2Proof/Laws/Engine.lean ====
section
/-! SUPPORT. The laws of issue and retirement: what a performance count, a retired slot and a whole plain retirement
change, and that a ready half issues the instruction it is given. -/

namespace Sys2Proof.Machine

/-! ## Raising a source -/

@[simp] theorem setPending_half (s : State) (n : Nat) (g : HalfId) : (setPending s n).half g = s.half g := by
  unfold setPending; split <;> cases g <;> rfl

theorem setPending_block (s : State) (n : Nat) : ({ setPending s n with evc := s.evc } : State) = s := by
  unfold setPending; split <;> rfl

@[simp] theorem raiseSource_half (s : State) (n : Nat) (g : HalfId) : (raiseSource s n).half g = s.half g := by
  simp only [raiseSource, coalFire]
  repeat' split
  all_goals first | rfl | exact setPending_half _ _ _

/-- A raised source reaches nothing but the event controller. -/
theorem raiseSource_block (s : State) (n : Nat) : ({ raiseSource s n with evc := s.evc } : State) = s := by
  simp only [raiseSource, coalFire, setPending]
  repeat' split
  all_goals rfl

/-! ## Performance counters -/

/-- Only performance counters of half h, and the event controller, may differ. -/
structure PerfOnly (s t : State) (h : HalfId) : Prop where
  half : t.half h = { s.half h with mem := { (s.half h).mem with
    pselOvf := (t.half h).mem.pselOvf, perf0 := (t.half h).mem.perf0, perf1 := (t.half h).mem.perf1,
    perf2 := (t.half h).mem.perf2, perf3 := (t.half h).mem.perf3 } }
  other : t.half h.other = s.half h.other
  block : ({ t with h0 := s.h0, h1 := s.h1, evc := s.evc } : State) = s

theorem PerfOnly.refl (s : State) (h : HalfId) : PerfOnly s s h := ⟨rfl, rfl, rfl⟩

theorem PerfOnly.trans {s t u : State} {h : HalfId} (a : PerfOnly s t h) (b : PerfOnly t u h) : PerfOnly s u h := by
  refine ⟨?_, b.other.trans a.other, ?_⟩
  · have hb := b.half
    rw [a.half] at hb
    exact hb
  · have ha := a.block
    have hb := b.block
    rw [← ha, ← hb]

theorem State.ext_half {s t : State} (h : HalfId) (a : t.half h = s.half h) (b : t.half h.other = s.half h.other)
    (c : ({ t with h0 := s.h0, h1 := s.h1 } : State) = s) : t = s := by
  cases h <;> (rw [← c]; cases t; simp only [State.half, HalfId.other] at a b; simp [a, b])

theorem perfOne_only (code : BitVec 6) (h : HalfId) (s : State) (n : Nat) : PerfOnly s (perfOne code h s n) h := by
  unfold perfOne setPerf
  simp only []
  split
  · exact PerfOnly.refl s h
  · split
    · refine ⟨?_, ?_, ?_⟩
      · simp only [raiseHalf, raiseSource_half, half_onMem]
        repeat' split
        all_goals rfl
      · simp [raiseHalf]
      · have := raiseSource_block (((s.onMem h fun m => if n = 0 then { m with perf0 := perfVal (s.half h).mem n + 1 }
            else if n = 1 then { m with perf1 := perfVal (s.half h).mem n + 1 }
            else if n = 2 then { m with perf2 := perfVal (s.half h).mem n + 1 }
            else { m with perf3 := perfVal (s.half h).mem n + 1 }).onMem h fun m => { m with pselOvf := setBit m.pselOvf n true })) (218 + h.toNat)
        have h2 := congrArg (fun u : State => ({ u with h0 := s.h0, h1 := s.h1, evc := s.evc } : State)) this
        refine Eq.trans h2 ?_
        cases h <;> rfl
    · refine ⟨?_, by simp, ?_⟩
      · simp only [half_onMem]
        repeat' split
        all_goals rfl
      · cases h <;> rfl

/-- A count changes nothing but the performance counters and what a wrap raises. -/
theorem perfCount_only (s : State) (h : HalfId) (c : BitVec 6) : PerfOnly s (perfCount s h c) h := by
  simp only [perfCount, List.foldl]
  exact (((perfOne_only c h s 0).trans (perfOne_only c h _ 1)).trans (perfOne_only c h _ 2)).trans (perfOne_only c h _ 3)

theorem perfOne_val_ne (code : BitVec 6) (h : HalfId) (s : State) (n j : Nat) (hn : n < 4) (hj : j < 4) (hne : j ≠ n) :
    perfVal ((perfOne code h s n).half h).mem j = perfVal (s.half h).mem j := by
  have hn' : n = 0 ∨ n = 1 ∨ n = 2 ∨ n = 3 := by omega
  have hj' : j = 0 ∨ j = 1 ∨ j = 2 ∨ j = 3 := by omega
  unfold perfOne
  simp only []
  split
  · rfl
  · split <;> rcases hn' with rfl | rfl | rfl | rfl <;> rcases hj' with rfl | rfl | rfl | rfl <;>
      first | (exact absurd rfl hne) | simp [raiseHalf, perfVal, setPerf]

theorem perfOne_val_same (code : BitVec 6) (h : HalfId) (s : State) (n : Nat) (hn : n < 4) :
    perfVal ((perfOne code h s n).half h).mem n = perfVal (s.half h).mem n ∨
      perfVal ((perfOne code h s n).half h).mem n = perfVal (s.half h).mem n + 1 := by
  have hn' : n = 0 ∨ n = 1 ∨ n = 2 ∨ n = 3 := by omega
  unfold perfOne
  simp only []
  split
  · exact .inl rfl
  · right
    split <;> rcases hn' with rfl | rfl | rfl | rfl <;> simp [raiseHalf, perfVal, setPerf]

theorem perfOne_evc (code : BitVec 6) (h : HalfId) (s : State) (n : Nat) (hv : (perfVal (s.half h).mem n).toNat + 1 < 2 ^ 36) :
    (perfOne code h s n).evc = s.evc := by
  unfold perfOne
  simp only []
  split
  · rfl
  · have : perfVal (s.half h).mem n + 1 ≠ 0 := by
      intro e
      have := congrArg BitVec.toNat e
      simp only [BitVec.toNat_add] at this
      have one : (1 : Cell).toNat = 1 := rfl
      have zero : (0 : Cell).toNat = 0 := rfl
      omega
    rw [if_neg this]
    simp

theorem perfCount_val (s : State) (h : HalfId) (c : BitVec 6) (j : Nat) (hj : j < 4) :
    perfVal ((perfCount s h c).half h).mem j = perfVal (s.half h).mem j ∨
      perfVal ((perfCount s h c).half h).mem j = perfVal (s.half h).mem j + 1 := by
  have ne (n j : Nat) (s : State) (hn : n < 4 := by decide) (hj : j < 4 := by decide) (hne : j ≠ n := by decide) :=
    perfOne_val_ne c h s n j hn hj hne
  have same (n : Nat) (s : State) (hn : n < 4 := by decide) := perfOne_val_same c h s n hn
  have hj' : j = 0 ∨ j = 1 ∨ j = 2 ∨ j = 3 := by omega
  show perfVal ((perfOne c h (perfOne c h (perfOne c h (perfOne c h s 0) 1) 2) 3).half h).mem j = _ ∨
    perfVal ((perfOne c h (perfOne c h (perfOne c h (perfOne c h s 0) 1) 2) 3).half h).mem j = _
  rcases hj' with rfl | rfl | rfl | rfl
  · rw [ne 3 0, ne 2 0, ne 1 0]; exact same 0 s
  · rw [ne 3 1, ne 2 1, ← ne 0 1 s]; exact same 1 _
  · rw [ne 3 2, ← ne 0 2 s, ← ne 1 2 (perfOne c h s 0)]; exact same 2 _
  · rw [← ne 0 3 s, ← ne 1 3 (perfOne c h s 0), ← ne 2 3 (perfOne c h (perfOne c h s 0) 1)]; exact same 3 _

/-- No counter wraps, so no source is raised. -/
theorem perfCount_evc (s : State) (h : HalfId) (c : BitVec 6) (hv : ∀ n < 4, (perfVal (s.half h).mem n).toNat + 1 < 2 ^ 36) :
    (perfCount s h c).evc = s.evc := by
  have ne (n j : Nat) (s : State) (hn : n < 4 := by decide) (hj : j < 4 := by decide) (hne : j ≠ n := by decide) :=
    perfOne_val_ne c h s n j hn hj hne
  show (perfOne c h (perfOne c h (perfOne c h (perfOne c h s 0) 1) 2) 3).evc = _
  rw [perfOne_evc c h _ 3, perfOne_evc c h _ 2, perfOne_evc c h _ 1, perfOne_evc c h _ 0 (hv 0 (by decide))]
  · rw [ne 0 1]; exact hv 1 (by decide)
  · rw [ne 1 2, ne 0 2]; exact hv 2 (by decide)
  · rw [ne 2 3, ne 1 3, ne 0 3]; exact hv 3 (by decide)

/-! ## Retirement -/

/-- Nothing forces a close at the end of an instruction: no re-execution, room in the log, no close that waits, no PRT_CLOSE, no
step. -/
def noClose (s : State) (h : HalfId) : Prop :=
  (s.half h).win.replay = none ∧ (s.half h).win.logged < 64 ∧ (s.half h).win.prtOnce = false ∧
  bit s.prt.close (34 + h.toNat) = false ∧ (s.dbgHalf h).stepLeft = none ∧ (s.half h).win.closeDue = false

theorem retireClose_none (s : State) (h : HalfId) (hc : noClose s h) : retireClose s h false = s := by
  obtain ⟨a, b, c, d, e, f⟩ := hc
  have hb : ¬64 ≤ (s.half h).win.logged := by omega
  simp [retireClose, replayCloses, prtForces, stepDue, a, hb, c, d, e, f]

theorem dbgHalf_of_block {s t : State} (hb : ({ t with h0 := s.h0, h1 := s.h1, evc := s.evc } : State) = s) (h : HalfId) :
    t.dbgHalf h = s.dbgHalf h := by
  have : t.dbg = s.dbg := (congrArg (fun x : State => x.dbg) hb :)
  cases h <;> simp [State.dbgHalf, this]

/-- No data is awaited: no read is outstanding, and every item of the window is in its signature. -/
def noData (s : State) (h : HalfId) : Prop := (s.ex h).reads = [] ∧ (s.half h).win.items = []

/-- An item enters a signature that awaits no data at once (R246, R247). -/
theorem sign_ready (w : Windows) (v : BitVec 64) (hw : w.items = []) :
    w.sign ⟨v, none⟩ = { w with sig := misrStep w.sig v, items := [] } := by
  simp [Windows.sign, hw, foldItems]

/-- A slot of a half that awaits no data is signed with the top cell that it leaves (R247). -/
theorem retireSlot_ready (s : State) (h : HalfId) (p : Pos) (b : Bank) (hd : noData s h) :
    retireSlot s h p b = perfCount (s.onWin h fun w => { w with
      sig := misrStep w.sig (slotItem p b.ds.head?), slots := w.slots + 1, replayPos := w.replayPos + 1 }) h 0o02 := by
  have e : awaited (s.ex h) b = none := by simp [awaited, hd.1]
  unfold retireSlot
  rw [e]
  refine congrArg (perfCount · h 0o02) ?_
  have hw := hd.2
  cases h <;> simp only [State.onWin, State.onHalf, State.setHalf, State.half] at hw ⊢ <;> rw [sign_ready _ _ hw] <;> simp [hw]

/-- The slot of a retirement, its performance counts and the pipeline fields: what a retirement without stores makes of the
state before it looks at the boundary. -/
def slotDone (s : State) (h : HalfId) (k : BitVec 5) (b : Bank) (p : Pos) (two : Bool) (a : Option PendArith)
    (g : Option Group) (l : LineBuf) : State :=
  let s2 := retireSlot (s.setBank h k b) h p b
  let s4 := if two then perfCount s2 h 0o03 else s2
  (s4.onHalf h fun x => { x with line := l }).onEx h fun e => { e with arith := a, groupOpen := g, dbgSkip := false }

/-- The state with a slot signed and counted in the window. -/
def slotSigned (s : State) (h : HalfId) (k : BitVec 5) (b : Bank) (p : Pos) : State :=
  (s.setBank h k b).onWin h fun w => { w with
    sig := misrStep w.sig (slotItem p b.ds.head?), slots := w.slots + 1, replayPos := w.replayPos + 1 }

theorem noData_setBank {s : State} {h : HalfId} (k : BitVec 5) (b : Bank) (hd : noData s h) : noData (s.setBank h k b) h := by
  obtain ⟨a, c⟩ := hd
  constructor
  · simpa [ex_eq] using a
  · simpa using c

theorem slotDone_perf (s : State) (h : HalfId) (k : BitVec 5) (b : Bank) (p : Pos) (two : Bool) (hd : noData s h) :
    ∃ u, PerfOnly (slotSigned s h k b p) u h ∧
      ((∀ n < 4, (perfVal (s.half h).mem n).toNat + 2 < 2 ^ 36) → u.evc = s.evc) ∧
      (let s2 := retireSlot (s.setBank h k b) h p b
       if two then perfCount s2 h 0o03 else s2) = u := by
  have hm : ((slotSigned s h k b p).half h).mem = (s.half h).mem := by simp [slotSigned]
  have he : (slotSigned s h k b p).evc = s.evc := by simp [slotSigned]
  refine ⟨_, ?_, ?_, rfl⟩
  · rw [retireSlot_ready _ _ _ _ (noData_setBank k b hd)]
    cases two
    · exact perfCount_only _ h 0o02
    · exact (perfCount_only _ h 0o02).trans (perfCount_only _ h 0o03)
  · intro hv
    rw [retireSlot_ready _ _ _ _ (noData_setBank k b hd)]
    have h2 : (perfCount (slotSigned s h k b p) h 0o02).evc = s.evc := by
      refine Eq.trans (perfCount_evc _ h 0o02 fun n hn => ?_) he
      rw [hm]; have := hv n hn; omega
    cases two
    · exact h2
    · refine Eq.trans (perfCount_evc _ h 0o03 fun n hn => ?_) h2
      have hv' := hv n hn
      have := perfCount_val (slotSigned s h k b p) h 0o02 n hn
      rw [hm] at this
      have one : (1 : Cell).toNat = 1 := rfl
      rcases this with e | e
      · show (perfVal ((perfCount (slotSigned s h k b p) h 0o02).half h).mem n).toNat + 1 < 2 ^ 36
        rw [e]; omega
      · show (perfVal ((perfCount (slotSigned s h k b p) h 0o02).half h).mem n).toNat + 1 < 2 ^ 36
        rw [e, BitVec.toNat_add]; omega

/-- What a slot without stores leaves: its bank, the pending ARITH, and nothing else (R247). -/
theorem slotDone_unmoved (s : State) (h : HalfId) (k : BitVec 5) (b : Bank) (p : Pos) (two : Bool) (a : Option PendArith)
    (g : Option Group) (l : LineBuf) (hd : noData s h) :
    (slotDone s h k b p two a g l).bank h k = b ∧ ((slotDone s h k b p two a g l).ex h).arith = a ∧
      Unmoved s (slotDone s h k b p two a g l) h k := by
  obtain ⟨u, hu, hev, he⟩ := slotDone_perf s h k b p two hd
  have hh := hu.half
  have ho := hu.other
  have hb := hu.block
  simp only [slotSigned, half_onWin, half_setBank, half_onWin_other, half_setBank_other] at hh ho
  have e : slotDone s h k b p two a g l = (u.onHalf h fun x => { x with line := l }).onEx h fun e =>
      { e with arith := a, groupOpen := g, dbgSkip := false } := by
    rw [← he]; rfl
  rw [e]
  refine ⟨?_, by simp, ⟨?_, ?_, ?_, ?_, ?_, ?_, ?_, ?_⟩⟩
  · simp only [State.bank, Half.bank, half_onEx, half_onHalf]
    rw [hh]; simp
  · intro j hj
    have : j.toNat ≠ k.toNat := fun e => hj (BitVec.eq_of_toNat_eq e)
    simp only [State.bank, Half.bank, half_onEx, half_onHalf]
    rw [hh]; simp [sget_sput_ne _ _ _ _ _ this]
  · simpa using ho
  · have := congrArg (fun x : State => ({ x with h0 := s.h0, h1 := s.h1, evc := s.evc } : State)) hb
    refine Eq.trans ?_ (this.trans ?_)
    · cases h <;> rfl
    · simp only [slotSigned]; cases h <;> rfl
  · intro hv; simpa using hev hv
  · simp only [ex_eq, half_onEx, half_onHalf]
    rw [hh]
  · simp only [half_onEx, half_onHalf]
    rw [hh]
  · simp only [half_onEx, half_onHalf]
    exact congrArg Half.mem hh
  · simp only [half_onEx, half_onHalf, ex_eq]
    rw [hh]

/-! ## Ready halves -/

/-- What a ready half is, one clause a field. -/
structure Ready (s : State) (h : HalfId) (k : BitVec 5) : Prop where
  run : (s.ex h).running = some k
  mode : s.running h = true
  lanes : (s.half h).tal.inService.isEmpty = false
  redo : (s.half h).win.redo = none
  rolling : (s.half h).win.rolling = false
  halt : (s.dbgHalf h).halt = false
  step : (s.dbgHalf h).stepLeft = none
  keep : s.keep.keepReq = false
  reset : (s.half h).up.resetReq = false
  waiting : (s.ex h).waiting = none
  fencing : (s.ex h).fencing = false
  revoking : (s.ex h).revoking = none
  reads : (s.ex h).reads = []
  arith : (s.ex h).arith = none
  repu : (s.ex h).repu = false
  esc : bit (s.ex h).escSrc 33 = false
  heldArith : (s.bank h k).heldArith = false
  heldBudget : (s.bank h k).heldBudget = false
  expired : (s.half h).sch.expired = false
  held : (s.half h).win.held = []
  replay : (s.half h).win.replay = none
  replayLog : (s.half h).win.replayLog = []
  closed : (s.half h).win.closed.length < 4
  slots : (s.half h).win.slots < 2048
  logged : (s.half h).win.logged < 64
  once : (s.half h).win.prtOnce = false
  prt : bit s.prt.close (34 + h.toNat) = false
  rep : (s.bank h k).repActive = false
  due : (s.half h).win.closeDue = false
  items : (s.half h).win.items = []
  acts : (s.half h).win.acts = []
  ticks : (s.half h).win.ticks = []
  resets : (s.ex h).rstPend = []
  kept : (s.ex h).kept = []
  ckpt : (s.ex h).ckpt = []
  cut : (s.half h).sch.cutDue = false
  strands : fenceStrands s h = false
  fetch : checkTarget s h (s.bank h k).pcc (s.bank h k).resume.addr.toNat = none

/-- The check of a transfer target passes exactly where the code word is executable (R91). -/
theorem executable_iff (s : State) (h : HalfId) (c : Cap) (a : Nat) : executable s h c a = true ↔ checkTarget s h c a = none := by
  unfold executable checkTarget checkCode capStatus effAddr fetchAccess
  by_cases hb : a < c.base.toNat
  · have : ¬c.base.toNat ≤ a := by omega
    simp [hb, this]
  · have h1 : c.base.toNat ≤ a := by omega
    have h2 : c.base.toNat + (a - c.base.toNat) = a := by omega
    have h3 : c.len.toNat < a - c.base.toNat + 1 ↔ ¬a < c.base.toNat + c.len.toNat := by omega
    simp only [hb, if_false, h2, h3, h1]
    cases c.tag <;> cases hs : (c.space == spInstr) <;> cases s.genOk h c <;> cases c.has pX <;>
      by_cases hl : a < c.base.toNat + c.len.toNat <;> by_cases hm : codeMapped s h a = 0 <;>
      simp_all [eUntagged, eSpace, eGeneration, ePermission, eBounds]

theorem steady_ready {s : State} {h : HalfId} {k : BitVec 5} (hs : steady s h k = true) : Ready s h k := by
  simp only [steady, Bool.and_eq_true, Bool.not_eq_true', beq_iff_eq, decide_eq_true_eq, Option.isNone_iff_eq_none,
    List.isEmpty_iff] at hs
  obtain ⟨⟨⟨⟨⟨⟨⟨⟨⟨⟨⟨⟨⟨⟨⟨⟨⟨⟨⟨⟨⟨⟨⟨⟨⟨⟨⟨⟨⟨⟨⟨⟨⟨⟨⟨⟨⟨a1, a2⟩, a3⟩, a4⟩, a5⟩, a6⟩, a7⟩, a8⟩, a9⟩, a10⟩, a11⟩, a12⟩, a13⟩, a14⟩, a15⟩, a16⟩, a17⟩, a18⟩, a19⟩,
    a20⟩, a21⟩, a22⟩, a23⟩, a24⟩, a25⟩, a26⟩, a27⟩, a28⟩, a29⟩, a30⟩, a31⟩, a32⟩,
    a33⟩, a34⟩, a35⟩, a36⟩, a37⟩, a38⟩ := hs
  exact ⟨a1, a2, a3, a4, a5, a6, a7, a8, a9, a10, a11, a12, a13, a14, a15, a16, a17, a18, a19, a20, a21, a22, a23, a24, a25,
    a26, a27, a28, a29, a30, a31, a32, a33, a34, a35, a36, a37, (executable_iff _ _ _ _).1 a38⟩

variable {s : State} {h : HalfId} {k : BitVec 5}

theorem Ready.runBank (r : Ready s h k) : s.runBank h = some (k, s.bank h k) := by simp [State.runBank, r.run]

theorem Ready.writer (r : Ready s h k) :
    s.writer h = some ⟨h, k, (s.bank h k).tenant, s.genOf h (s.bank h k).tenant, stW (s.bank h k).status⟩ := by
  simp [State.writer, r.runBank]

theorem Ready.takes (r : Ready s h k) : takesInstr s h = true := by
  simp [takesInstr, lanesRun, holdsClose, r.mode, r.redo, r.lanes, r.halt, r.keep, r.reset, r.strands, r.waiting, r.fencing, r.revoking]

theorem Ready.open_ (r : Ready s h k) : closeBlocked s h = false := by
  have : (s.half h).win.closed.length + 1 ≤ 4 := r.closed
  simp [closeBlocked, closeRoom, this, r.reads]

theorem Ready.boundary (r : Ready s h k) : boundary s h = none := by
  simp [Machine.boundary, deliverHeld, r.held, r.open_, nextLogged, r.replayLog, sagCut, r.cut, enterDue, r.runBank, r.repu, r.esc,
    r.heldArith, r.heldBudget, arithDue, r.arith, r.expired]

theorem Ready.noPre (r : Ready s h k) : (windowFull (s.half h).win || prtForces s h || stepDue s h) = false := by
  have a : ¬2048 ≤ (s.half h).win.slots := by have := r.slots; omega
  have b : ¬64 ≤ (s.half h).win.logged := by have := r.logged; omega
  simp [windowFull, replayCloses, prtForces, stepDue, a, b, r.once, r.prt, r.step, r.due, r.replay]

theorem Ready.noClose (r : Ready s h k) : noClose s h := ⟨r.replay, r.logged, r.once, r.prt, r.step, r.due⟩

theorem Ready.noData (r : Ready s h k) : noData s h := ⟨r.reads, r.items⟩

/-- The writer of a ready half. -/
def readyWriter (s : State) (h : HalfId) (k : BitVec 5) : Writer :=
  ⟨h, k, (s.bank h k).tenant, s.genOf h (s.bank h k).tenant, stW (s.bank h k).status⟩

/-- A ready half issues the instruction: its slot, its encoding and the instruction itself are all that is left to see. -/
theorem attempt_ready (r : Ready s h k) (f : Form) (rep : Bool) (enc : BitVec 5 → Bank → Option FaultInfo) (o : Op) :
    attempt s h f rep enc o =
      (if f.fits (s.bank h k).resume = false then raise s h k (illegal eEncoding (f.opcode.getD o.code)) (s.bank h k).resume
       else match enc k (s.bank h k) with
         | some g => raise s h k g (s.bank h k).resume
         | none => issue s h k (readyWriter s h k) (s.bank h k) o (f.next (s.bank h k).resume) (s.bank h k).resume) := by
  unfold attempt
  rw [r.takes, r.boundary, r.noPre]
  simp only [Bool.not_true, Bool.false_eq_true, if_false, r.run, r.writer, dropRepeat, decodeIssue, fetchFault, r.fetch, r.rep,
    Bool.false_and, Bool.not_eq_true', readyWriter]
  all_goals rfl

/-- Where a plain retirement leaves its bank. -/
def Done.lands (d : Done) (p : Pos) : Bank := if d.taken then { d.b with resume := d.dst } else landed d.b p d.dst

/-- A retirement that has no store, forces no close, and faults no more: its state beside the bank closes nothing either. -/
structure Done.Plain (d : Done) (h : HalfId) : Prop where
  noArith : (d.s.ex h).arith = none
  open_ : noClose d.s h
  data : noData d.s h
  close : d.close = false
  stores : d.stores = []
  iter : d.iter = none
  group : d.group = false
  after : d.after = .nothing

/-- A retirement that changes nothing but its bank. -/
theorem Ready.plain (r : Ready s h k) (d : Done) (hs : d.s = s) (hc : d.close = false) (hst : d.stores = []) (hi : d.iter = none)
    (hg : d.group = false) (ha : d.after = .nothing) : d.Plain h :=
  ⟨by rw [hs]; exact r.arith, by rw [hs]; exact r.noClose, by rw [hs]; exact r.noData, hc, hst, hi, hg, ha⟩

theorem retire_plain (s : State) (h : HalfId) (k : BitVec 5) (wr : Writer) (p : Pos) (d : Done) (hn : (s.ex h).arith = none)
    (ho : noClose s h) (hdt : noData s h) (hd : d.Plain h) (joined : Bool) (g : Group) :
    ∃ g' l, retire s h k wr p d joined g = slotDone s h k (d.lands p) p joined (d.arith.map fun z => ⟨p, z, 0, 0⟩) g' l := by
  have hl : d.leads = false := by simp [Done.leads, hd.iter]
  obtain ⟨q, hq⟩ : ∃ q : Bank × Pos, q = (if d.taken then (d.b, d.dst) else sequential d.b p d.dst) := ⟨_, rfl⟩
  have hb : ({ q.1 with resume := q.2 } : Bank) = d.lands p := by
    subst hq
    unfold Done.lands landed
    cases d.taken <;> rfl
  obtain ⟨v, hv⟩ : ∃ v, v = (let s2 := retireSlot (s.setBank h k (d.lands p)) h p (d.lands p)
                             if joined then perfCount s2 h 0o03 else s2) := ⟨_, rfl⟩
  have hx : (v.ex h).arith = none := by
    obtain ⟨u, hu, -, he⟩ := slotDone_perf s h k (d.lands p) p joined hdt
    rw [hv, he, ex_eq, hu.half]
    simpa [slotSigned, ex_eq] using hn
  refine ⟨if joined || d.taken || !(q.2.addr == p.addr || (s.half h).line.holds q.2.addr) then none else some g,
    if d.taken then (v.half h).line.transfer q.2.addr else (v.half h).line.step q.2.addr, ?_⟩
  have key : retire s h k wr p d joined g =
      retireClose (slotDone s h k (d.lands p) p joined (d.arith.map fun z => ⟨p, z, 0, 0⟩)
        (if joined || d.taken || !(q.2.addr == p.addr || (s.half h).line.holds q.2.addr) then none else some g)
        (if d.taken then (v.half h).line.transfer q.2.addr else (v.half h).line.step q.2.addr)) h false := by
    unfold retire
    rw [← hq]
    have e1 : signSlots (s.setBank h k { q.1 with resume := q.2 }) h p { d with b := q.1 } =
        retireSlot (s.setBank h k (d.lands p)) h p (d.lands p) := by
      rw [← hb]
      unfold signSlots
      simp only [hd.group, hd.iter, Bool.false_eq_true, if_false]
      rfl
    simp only []
    rw [e1]
    simp only [hd.stores, putStores, List.foldl, hl, Bool.or_false, afterRetire, hd.after, hd.close]
    refine congrArg (retireClose · h false) ?_
    simp only [slotDone]
    simp only at hv
    rw [← hv]
    have ha : arithRetire (v.ex h).arith joined p d = d.arith.map fun z => ⟨p, z, 0, 0⟩ := by
      rw [hx]
      unfold arithRetire
      simp only [hd.group, hl, hd.iter, Bool.false_eq_true, if_false]
      cases d.arith <;> rfl
    rw [← ha]
    cases h <;> rfl
  rw [key]
  obtain ⟨-, -, m⟩ := slotDone_unmoved s h k (d.lands p) p joined (d.arith.map fun z => ⟨p, z, 0, 0⟩)
    (if joined || d.taken || !(q.2.addr == p.addr || (s.half h).line.holds q.2.addr) then none else some g)
    (if d.taken then (v.half h).line.transfer q.2.addr else (v.half h).line.step q.2.addr) hdt
  obtain ⟨a1, a2, a3, a4, a5, a6⟩ := ho
  refine retireClose_none _ h ⟨?_, ?_, ?_, ?_, ?_, ?_⟩
  · rw [m.win]; exact a1
  · rw [m.win]; exact a2
  · rw [m.win]; exact a3
  · rw [(congrArg (fun x : State => x.prt) m.block :)]; exact a4
  · rw [dbgHalf_of_block m.block]; exact a5
  · rw [m.win]; exact a6

/-- A plain instruction of a ready half retires as its effect says (R101). -/
theorem issue_plain (r : Ready s h k) (wr : Writer) (o : Op) (dst p : Pos) (d : Done) (hi : o.isolated = false)
    (hst : stackFault (s.bank h k) o.pops o.pushes = none) (hrun : o.run s h k (s.bank h k) dst = .done d) (hd : d.Plain h) :
    ∃ two g l, issue s h k wr (s.bank h k) o dst p =
      slotDone d.s h k (d.lands p) p two (d.arith.map fun z => ⟨p, z, 0, 0⟩) g l := by
  have hr : runChecked o s h k (s.bank h k) dst = .done d := by
    simp [runChecked, hst, consumedRead, r.reads, hrun]
  obtain ⟨g, l, hg⟩ := retire_plain d.s h k wr p d hd.noArith hd.open_ hd.data hd (joins (s.ex h) (s.bank h k) o)
    (o.groupOf (s.bank h k))
  refine ⟨_, g, l, Eq.trans ?_ hg⟩
  have hk : keepLoads s d.s h k = d.s := by simp [keepLoads, hd.data.1]
  unfold issue
  simp [r.arith, hi, hr, settle, storesOverflow, hd.stores, retireOrWait, hd.close, hd.after, After.faults, storesFit, hk]

/-- A plain instruction of a ready half retires: its form fits its slot, and no check fails (R101). -/
theorem attempt_lands (r : Ready s h k) (c : Instr) (f : Form) (rep : Bool) (enc : BitVec 5 → Bank → Option FaultInfo) (o : Op)
    (d : Done) (hc : exec c s = .next (attempt s h f rep enc o)) (hf : f.fits (s.bank h k).resume = true)
    (he : enc k (s.bank h k) = none) (hi : o.isolated = false) (hst : stackFault (s.bank h k) o.pops o.pushes = none)
    (hrun : o.run s h k (s.bank h k) (f.next (s.bank h k).resume) = .done d) (hd : d.Plain h) :
    ∃ t, exec c s = .next t ∧ t.bank h k = d.lands (s.bank h k).resume ∧
      (t.ex h).arith = d.arith.map (fun z => ⟨(s.bank h k).resume, z, 0, 0⟩) ∧ Unmoved d.s t h k := by
  have e : attempt s h f rep enc o =
      issue s h k (readyWriter s h k) (s.bank h k) o (f.next (s.bank h k).resume) (s.bank h k).resume := by
    rw [attempt_ready r, he, hf]; rfl
  obtain ⟨two, g, l, hg⟩ := issue_plain r (readyWriter s h k) o (f.next (s.bank h k).resume) (s.bank h k).resume d hi hst hrun hd
  obtain ⟨m1, m2, m3⟩ := slotDone_unmoved d.s h k (d.lands (s.bank h k).resume) (s.bank h k).resume two
    (d.arith.map fun z => ⟨(s.bank h k).resume, z, 0, 0⟩) g l hd.data
  exact ⟨_, by rw [hc, e, hg], m1, m2, m3⟩

/-- A plain instruction without a transfer. -/
theorem attempt_from (r : Ready s h k) (c : Instr) (f : Form) (rep : Bool) (enc : BitVec 5 → Bank → Option FaultInfo) (o : Op)
    (d : Done) (hc : exec c s = .next (attempt s h f rep enc o)) (hf : f.fits (s.bank h k).resume = true)
    (he : enc k (s.bank h k) = none) (hi : o.isolated = false) (hst : stackFault (s.bank h k) o.pops o.pushes = none)
    (hrun : o.run s h k (s.bank h k) (f.next (s.bank h k).resume) = .done d) (hd : d.Plain h) (ht : d.taken = false) :
    RetiresFrom c s d.s h k d.b d.dst (d.arith.map fun z => ⟨(s.bank h k).resume, z, 0, 0⟩) := by
  obtain ⟨t, a1, a2, a3, a4⟩ := attempt_lands r c f rep enc o d hc hf he hi hst hrun hd
  exact ⟨t, a1, by rw [a2]; simp [Done.lands, ht], a3, a4⟩

/-- A plain instruction that changes only its bank. -/
theorem attempt_plain (r : Ready s h k) (c : Instr) (f : Form) (rep : Bool) (enc : BitVec 5 → Bank → Option FaultInfo) (o : Op)
    (b : Bank) (dst : Pos) (a : Option Bool) (hc : exec c s = .next (attempt s h f rep enc o))
    (hf : f.fits (s.bank h k).resume = true)
    (he : enc k (s.bank h k) = none) (hi : o.isolated = false) (hst : stackFault (s.bank h k) o.pops o.pushes = none)
    (hrun : o.run s h k (s.bank h k) (f.next (s.bank h k).resume) = .done { doneOf s b dst with arith := a }) :
    Retires c s h k b dst (a.map fun z => ⟨(s.bank h k).resume, z, 0, 0⟩) :=
  attempt_from r c f rep enc o _ hc hf he hi hst hrun (r.plain _ rfl rfl rfl rfl rfl rfl) rfl

/-- A plain instruction that transfers control and changes only its bank. -/
theorem attempt_taken (r : Ready s h k) (c : Instr) (f : Form) (rep : Bool) (enc : BitVec 5 → Bank → Option FaultInfo) (o : Op)
    (b : Bank) (p : Pos) (hc : exec c s = .next (attempt s h f rep enc o)) (hf : f.fits (s.bank h k).resume = true)
    (he : enc k (s.bank h k) = none) (hi : o.isolated = false) (hst : stackFault (s.bank h k) o.pops o.pushes = none)
    (hrun : o.run s h k (s.bank h k) (f.next (s.bank h k).resume) = .done { doneOf s b p with taken := true }) :
    Jumps c s h k b p := by
  obtain ⟨t, a1, a2, a3, a4⟩ := attempt_lands r c f rep enc o _ hc hf he hi hst hrun (r.plain _ rfl rfl rfl rfl rfl rfl)
  exact ⟨t, a1, a2, a3, a4⟩

/-- The data-stack check passes. -/
theorem stackFault_none (b : Bank) (pops pushes : Nat) (h1 : pops ≤ b.ds.length) (h2 : b.ds.length - pops + pushes ≤ 16) :
    stackFault b pops pushes = none := by
  have a : ¬b.ds.length < pops := by omega
  have c : ¬16 < b.ds.length - pops + pushes := by omega
  simp [stackFault, a, c]

/-- An instruction that only replaces the top cells retires. -/
theorem attempt_pure (r : Ready s h k) (c : Instr) (f : Form) (code : BitVec 6) (cls : PairClass) (pops pushes : Nat)
    (touch : List Nat) (g : Bank → List Cell)
    (hc : exec c s = .next (attempt s h f false noEnc (pureOp code cls pops pushes touch g)))
    (hf : f.fits (s.bank h k).resume = true) (h1 : pops ≤ (s.bank h k).ds.length)
    (h2 : (s.bank h k).ds.length - pops + pushes ≤ 16) (l : List Cell)
    (hl : (g (s.bank h k)).reverse ++ (s.bank h k).ds.drop pops = l) :
    Retires c s h k { s.bank h k with ds := l } (f.next (s.bank h k).resume) := by
  subst hl
  exact attempt_plain r c f false noEnc _ _ _ none hc hf rfl rfl (stackFault_none _ _ _ h1 h2) rfl

end Sys2Proof.Machine
end

