-- ==== Sys2Proof/Laws/Memory.lean ====
section
/-! SUPPORT. The laws of the memories: every memory operation keeps their canonical form, a read after a write gives the
value written, and a write leaves every other place alone. -/

namespace Sys2Proof.Machine

/-- The contents of the block's memories: cells of SRAM and the keep domain, and lines of NVM. -/
def State.mems (s : State) : Sparse TCell × Sparse (Option NvmLine) := (s.ram, s.nvm)

/-- The canonical form is a matter of the memories alone. -/
theorem memWf_of_mems {s t : State} (h : t.mems = s.mems) : memWf t = memWf s := by
  simp only [State.mems, Prod.mk.injEq] at h
  simp [memWf, h.1, h.2]

theorem memWf_iff (s : State) : memWf s = true ↔ swf TCell.zero s.ram = true ∧ swf (none : Option NvmLine) s.nvm = true := by
  simp [memWf]

/-- Nothing is listed at reset. -/
theorem memWf_reset : memWf State.reset = true := rfl

/-! ## What reaches no memory -/

@[simp] theorem mems_onHalf (s : State) (h : HalfId) (f : Half → Half) : (s.onHalf h f).mems = s.mems := by
  simp [State.mems]
@[simp] theorem mems_onEx (s : State) (h : HalfId) (f : Exec → Exec) : (s.onEx h f).mems = s.mems := by simp [State.mems]
@[simp] theorem mems_onMem (s : State) (h : HalfId) (f : MemUnit → MemUnit) : (s.onMem h f).mems = s.mems := by
  simp [State.mems]
@[simp] theorem mems_onDbk (s : State) (h : HalfId) (f : DbkQueue → DbkQueue) : (s.onDbk h f).mems = s.mems := by
  simp [State.mems]

@[simp] theorem mems_raiseSource (s : State) (n : Nat) : (raiseSource s n).mems = s.mems := by
  simp only [raiseSource, coalFire, setPending]
  repeat' split
  all_goals rfl
@[simp] theorem mems_raiseHalf (s : State) (h : HalfId) (n : Nat) : (raiseHalf s h n).mems = s.mems := mems_raiseSource _ _

@[simp] theorem mems_perfCount (s : State) (h : HalfId) (c : BitVec 6) : (perfCount s h c).mems = s.mems := by
  have b := congrArg State.mems (perfCount_only s h c).block
  exact b

@[simp] theorem mems_storePump (s : State) : (storePump s).mems = s.mems := by unfold storePump; split <;> rfl
@[simp] theorem mems_storeAdd (s : State) (p : StoreProg) : (storeAdd s p).mems = s.mems := by
  unfold storeAdd; rw [mems_storePump]; rfl
@[simp] theorem mems_dbkLose (s : State) (n : Nat) : (dbkLose s n).mems = s.mems := by
  simp only [dbkLose, commonsOverflow]
  split
  · rw [mems_raiseSource]; rfl
  · rfl
@[simp] theorem mems_dbkKick (s : State) (h : HalfId) : (dbkKick s h).mems = s.mems := by
  simp only [dbkKick]
  split
  · rfl
  · split
    · rfl
    · split <;> simp
@[simp] theorem mems_dbkTake (s : State) (h : HalfId) (e : DbkEntry) : (dbkTake s h e).mems = s.mems := by
  simp only [dbkTake, mems_dbkKick]
  split <;> simp
@[simp] theorem mems_reportHalf (s : State) (h : HalfId) (u : DbkUnit) (cls : BitVec 5) (ctx : Option (BitVec 5))
    (lane : Option Lane) (c2 c3 : Cell) : (reportHalf s h u cls ctx lane c2 c3).mems = s.mems := mems_dbkTake _ _ _

/-! ## The NVM merge buffer: a write reaches no line before its program -/

@[simp] theorem mems_keyUse (s : State) (h : HalfId) (t : BitVec 10) : (keyUse s h t).mems = s.mems := by
  simp only [keyUse]; split <;> simp
@[simp] theorem mems_nvmFail (s : State) (h : HalfId) (a : Addr) : (nvmFail s h a).mems = s.mems := by simp [nvmFail]
@[simp] theorem mems_mergeAllocate (s : State) (h : HalfId) (line : Nat) (t : BitVec 10) (l : List (Nat × TCell)) :
    (mergeAllocate s h line t l).mems = s.mems := by
  simp only [mergeAllocate]
  split <;> split <;> simp
@[simp] theorem mems_lockedDiscard (s : State) (h : HalfId) (line : Nat) (t : BitVec 10) :
    (lockedDiscard s h line t).mems = s.mems := by simp [lockedDiscard]
@[simp] theorem mems_otherDue (s : State) (h : HalfId) (i : Nat) (t : BitVec 10) : (otherDue s h i t).mems = s.mems := by
  unfold otherDue; split <;> simp
@[simp] theorem mems_mergeWrite (s : State) (h : HalfId) (a : Addr) (t : BitVec 10) (c : TCell) :
    (mergeWrite s h a t c).mems = s.mems := by
  simp only [mergeWrite]
  split
  · simp
  · split
    · split <;> simp
    · split
      · simp
      · split <;> simp
@[simp] theorem mems_mergeAdmitOne (s : State) (h : HalfId) : (mergeAdmitOne s h).mems = s.mems := by
  simp only [mergeAdmitOne]
  split
  · rfl
  · split
    · split <;> simp
    · split
      · split <;> simp
      · split
        · simp
        · split <;> simp
@[simp] theorem mems_mergeAdmit (h : HalfId) (n : Nat) : ∀ s, (mergeAdmit s h n).mems = s.mems := by
  induction n with
  | zero => intro s; rfl
  | succ n ih => intro s; simp only [mergeAdmit]; split <;> simp [ih]
@[simp] theorem mems_nvmPump (s : State) (h : HalfId) : (nvmPump s h).mems = s.mems := by
  simp only [nvmPump]
  repeat' split
  all_goals simp
@[simp] theorem mems_lockLine (s : State) (h : HalfId) (line : Nat) (t : BitVec 10) : (lockLine s h line t).mems = s.mems := by
  simp [lockLine]
@[simp] theorem mems_programEnd (s : State) (h : HalfId) (e : MergeEntry) : (programEnd s h e).mems = s.mems := by
  simp [programEnd]

/-! ## Reads change no memory -/

@[simp] theorem mems_sramRead (s : State) (h : HalfId) (a : Addr) (r : ReadOutcome) : (sramRead s h a r).1.mems = s.mems := by
  simp only [sramRead, sramFail]
  repeat' split
  all_goals simp
@[simp] theorem mems_nvmRead (s : State) (h : HalfId) (a : Addr) (t : BitVec 10) (r : ReadOutcome) :
    (nvmRead s h a t r).1.mems = s.mems := by
  simp only [nvmRead, nvmFail]
  repeat' split
  all_goals simp
@[simp] theorem mems_homeRead (s : State) (a : Addr) (t : BitVec 10) (r : ReadOutcome) :
    (homeRead s a t r).1.mems = s.mems := by
  unfold homeRead; split <;> simp
@[simp] theorem mems_homeReads (a : Addr) (t : BitVec 10) (n : Nat) : ∀ s, (homeReads s a t n).1.mems = s.mems := by
  induction n generalizing a with
  | zero => intro s; rfl
  | succ n ih =>
    intro s
    have h1 := mems_homeRead s a t .clean
    simp only [homeReads]
    cases hr : homeRead s a t .clean with
    | mk u r =>
      rw [hr] at h1
      cases r with
      | ok c =>
        have h2 := ih (a + 1) u
        cases hn : homeReads u (a + 1) t n with
        | mk v o => rw [hn] at h2; cases o <;> (simp only [hn]; exact h2.trans h1)
      | _ => exact h1

/-! ## Every memory operation keeps the canonical form -/

theorem ramWrite_memWf (s : State) (a : Addr) (c : TCell) (h : memWf s = true) : memWf (ramWrite s a c) = true := by
  rw [memWf_iff] at h ⊢
  exact ⟨swf_sput _ _ _ _ h.1, h.2⟩

theorem sramWrite_memWf (s : State) (h : HalfId) (a : Addr) (c : TCell) (hw : memWf s = true) :
    memWf (sramWrite s h a c) = true := by
  unfold sramWrite
  split
  · rw [memWf_of_mems (s := ramWrite (ramWrite s (a ^^^ 1#24) TCell.zero) a c) (by simp)]
    exact ramWrite_memWf _ _ _ (ramWrite_memWf _ _ _ hw)
  · exact ramWrite_memWf _ _ _ hw

theorem homeWrite_memWf (s : State) (a : Addr) (t : BitVec 10) (c : TCell) (hw : memWf s = true) :
    memWf (homeWrite s a t c) = true := by
  unfold homeWrite
  split
  · exact sramWrite_memWf _ _ _ _ hw
  · exact ramWrite_memWf _ _ _ hw
  · rw [memWf_of_mems (mems_mergeWrite _ _ _ _ _)]; exact hw
  · exact hw

theorem writeEach_memWf (l : List (Addr × BitVec 10 × TCell)) : ∀ s, memWf s = true → memWf (writeEach s l) = true := by
  induction l with
  | nil => intro s h; exact h
  | cons e l ih => obtain ⟨a, t, c⟩ := e; intro s h; exact ih _ (homeWrite_memWf _ _ _ _ h)

@[simp] theorem mems_perfAccess (s : State) (a : Addr) (r : Bool) : (perfAccess s a r).mems = s.mems := by
  unfold perfAccess
  repeat' split
  all_goals simp
@[simp] theorem mems_mendLines (s : State) (l : List Nat) : (mendLines s l).mems = s.mems := by simp [mendLines]
@[simp] theorem mems_meetLine (s : State) (a : Addr) (r : ReadOutcome) : (meetLine s a r).mems = s.mems := by
  unfold meetLine; split <;> simp
theorem mems_foldAccess (r : Bool) (l : List (Addr × BitVec 10 × TCell)) :
    ∀ s : State, (l.foldl (fun s x => perfAccess s x.1 r) s).mems = s.mems := by
  induction l with
  | nil => intro s; rfl
  | cons x l ih => intro s; rw [List.foldl_cons, ih, mems_perfAccess]

theorem homeWritesMeet_memWf (s : State) (l : List (Addr × BitVec 10 × TCell)) (r : ReadOutcome) (hw : memWf s = true) :
    memWf (homeWritesMeet s l r) = true := by
  unfold homeWritesMeet
  refine writeEach_memWf _ _ ((memWf_of_mems ?_).trans hw)
  split
  · split <;> simp
  · rw [mems_foldAccess]; split <;> simp

theorem homeWrites_memWf (s : State) (l : List (Addr × BitVec 10 × TCell)) (hw : memWf s = true) :
    memWf (homeWrites s l) = true := homeWritesMeet_memWf s l .clean hw

theorem scrub_memWf (s : State) (g : HalfId) (h : memWf s = true) : memWf (scrub s g) = true := by
  rw [memWf_iff] at h ⊢
  exact ⟨swf_filter _ _ _ h.1, h.2⟩

theorem retainedClear_memWf (s : State) (h : memWf s = true) : memWf (retainedClear s) = true := by
  rw [memWf_iff] at h ⊢
  exact ⟨swf_filter _ _ _ h.1, h.2⟩

theorem programLine_memWf (s : State) (g : HalfId) (e : MergeEntry) (fresh : Bool) (h : memWf s = true) :
    memWf (programLine s g e fresh) = true := by
  rw [memWf_iff] at h ⊢
  refine ⟨h.1, ?_⟩
  simp only [programLine]
  exact swf_sput _ _ _ _ h.2

theorem breakLine_memWf (s : State) (g : HalfId) (e : MergeEntry) (h : memWf s = true) : memWf (breakLine s g e) = true := by
  rw [memWf_iff] at h ⊢
  refine ⟨h.1, ?_⟩
  simp only [breakLine]
  exact swf_sput _ _ _ _ h.2

theorem lockFailed_memWf (s : State) (g : HalfId) (e : MergeEntry) (h : memWf s = true) : memWf (lockFailed s g e) = true := by
  unfold lockFailed
  rw [memWf_of_mems (mems_lockLine _ _ _ _)]
  exact programLine_memWf _ _ _ _ h

theorem runProgram_memWf (s : State) (g : HalfId) (e : MergeEntry) (v w : Bool) (h : memWf s = true) :
    memWf (runProgram s g e v w) = true := by
  have m : ∀ (t : State) (f : MemUnit → MemUnit), memWf t = true → memWf (t.onMem g f) = true :=
    fun t f ht => (memWf_of_mems (mems_onMem t g f)).trans ht
  have l : ∀ (t : State) (n : Nat) (x : BitVec 10), memWf t = true → memWf (lockLine t g n x) = true :=
    fun t n x ht => (memWf_of_mems (mems_lockLine t g n x)).trans ht
  have k : ∀ (u : State), memWf u = true → ∀ (b : Bool) (f : MemUnit → MemUnit), memWf (if b then u.onMem g f else u) = true := by
    intro u hu b f; cases b
    · exact hu
    · exact m _ _ hu
  unfold runProgram
  extract_lets u line b mu worn t
  have hu : memWf u = true := (memWf_of_mems (mems_keyUse s g e.tenant)).trans h
  have ht : memWf t = true := k u hu _ _
  clear_value t
  split
  · exact l _ _ _ ht
  · split
    · exact programLine_memWf _ _ _ _ (m _ _ ht)
    · split
      · split
        · exact programLine_memWf _ _ _ _ (m _ _ (m _ _ ht))
        · exact lockFailed_memWf _ _ _ (m _ _ (m _ _ ht))
      · exact lockFailed_memWf _ _ _ (m _ _ ht)

theorem eraseAll_memWf (s : State) (h : memWf s = true) : memWf (eraseAll s) = true := by
  unfold eraseAll
  rw [memWf_of_mems (mems_storePump _)]
  rw [memWf_iff] at h ⊢
  exact ⟨by simpa using h.1, rfl⟩

/-! ## A read after a write -/

/-- A cell of SRAM that is not uncorrectable, or of the keep domain, reads as it was last written. -/
theorem ramWrite_read (s : State) (a : Addr) (c : TCell) : sget TCell.zero (ramWrite s a c).ram a.toNat = c := by
  simp [ramWrite]

/-- A write leaves every other cell alone. -/
theorem ramWrite_other (s : State) (a b : Addr) (c : TCell) (hb : b ≠ a) :
    sget TCell.zero (ramWrite s a c).ram b.toNat = sget TCell.zero s.ram b.toNat :=
  sget_sput_ne _ _ _ _ _ fun h => hb (BitVec.eq_of_toNat_eq h)

/-- A retained cell reads at home what was written there, whatever the outcome of a check (R507). -/
theorem homeRead_retained (s : State) (a : Addr) (t u : BitVec 10) (c : TCell) (r : ReadOutcome)
    (ha : regionOf a = .retained) : (homeRead (homeWrite s a t c) a u r).2 = .ok c := by
  simp [homeRead, homeWrite, ha, ramWrite]

end Sys2Proof.Machine
end

