-- ==== Sys2Proof/Laws/Card.lean ====
section
/-! SUPPORT. What a read through the card port's capability gives: the words of SRAM as they stand,
and the charter update made from them. -/

namespace Sys2Proof.Machine

theorem perfRun_ram (s : State) (a : Addr) (i : Nat) : (perfRun s a i).ram = s.ram := by
  unfold perfRun
  split
  · exact congrArg (fun m => m.1) (mems_perfAccess s a true)
  · rfl

theorem perfCount_bad (s : State) (h g : HalfId) (c : BitVec 6) : ((perfCount s h c).half g).mem.bad = (s.half g).mem.bad := by
  have q := perfCount_only s h c
  by_cases e : g = h
  · rw [e, q.half]
  · have o : g = h.other := by cases g <;> cases h <;> simp_all [HalfId.other]
    rw [o, q.other]

theorem perfRun_bad (s : State) (a : Addr) (i : Nat) (g : HalfId) : ((perfRun s a i).half g).mem.bad = (s.half g).mem.bad := by
  unfold perfRun perfAccess
  repeat' split
  all_goals first | rfl | exact perfCount_bad _ _ _ _

/-- From SRAM without an uncorrectable line the card port reads the words as they stand. -/
theorem crdRead_sram (t : BitVec 10) (h : HalfId) (n : Nat) : ∀ (s : State) (a : Nat),
    (s.half h).mem.bad = [] → (∀ i < n, regionOf (BitVec.ofNat 24 (a + i)) = .sram h) →
    (crdRead t n s (BitVec.ofNat 24 a)).2 =
      .ok ((List.range n).map fun i => (sget TCell.zero s.ram (BitVec.ofNat 24 (a + i)).toNat).val) := by
  induction n with
  | zero => intro s a _ _; rfl
  | succ n ih =>
    intro s a hb hr
    have h0 := hr 0 (by omega)
    have e1 : BitVec.ofNat 24 a + 1 = BitVec.ofNat 24 (a + 1) := by
      apply BitVec.eq_of_toNat_eq; simp [BitVec.toNat_add]
    have hs := ih (perfRun s (BitVec.ofNat 24 a) 1) (a + 1) (by rw [perfRun_bad, hb]) fun i hi => by
      rw [Nat.add_right_comm]; exact hr (i + 1) (by omega)
    rw [perfRun_ram] at hs
    unfold crdRead homeRead
    simp only [Nat.add_zero] at h0
    rw [h0]
    simp only [sramRead, perfRun_bad, perfRun_ram, hb, e1]
    simp only [List.contains_nil, Bool.false_or, show (ReadOutcome.clean == ReadOutcome.failed) = false from rfl,
      show (ReadOutcome.clean == ReadOutcome.corrected) = false from rfl, Bool.false_eq_true, if_false]
    revert hs
    generalize crdRead t n (perfRun s (BitVec.ofNat 24 a) 1) (BitVec.ofNat 24 (a + 1)) = r
    intro hs
    obtain ⟨u, r⟩ := r
    subst hs
    simp only [List.range_succ_eq_map, List.map_cons, List.map_map, Nat.add_zero]
    congr 2
    apply List.map_congr_left
    intro i _
    simp only [Function.comp, Nat.succ_eq_add_one]
    rw [show a + 1 + i = a + (i + 1) by omega]

/-- The image an update takes is the one its words spell, where the check passes and each word can be read. -/
theorem updateImage_ok (s : State) (snap : CapSnap) (a : Addr) (l : List Cell) (n : 180 ≤ s.cht.updLen.toNat)
    (m : s.cht.updLen.toNat ≤ 65520) (g : snap.genOk = true)
    (c : crdCheck s ⟨0, snap, ⟨0, 0, 0⟩, s.cht.updOff, 0, s.cht.updLen.toNat, false, 0, []⟩ pLD s.cht.updLen.toNat = .ok a)
    (r : (crdRead snap.cap.tenant (cellsFor s.cht.updLen.toNat) s a).2 = .ok l) :
    (updateImage s snap).2 = .ok (cellTable 0 (flashCells ((octetsOfCells l).take s.cht.updLen.toNat))) := by
  unfold updateImage
  rw [if_neg (by omega), if_neg (by simp [g]), c]
  simp only []
  generalize crdRead snap.cap.tenant (cellsFor s.cht.updLen.toNat) s a = q at r ⊢
  obtain ⟨u, q⟩ := q
  subst r
  rfl

end Sys2Proof.Machine
end

