-- ==== Sys2Proof/Laws/Modes.lean ====
section
/-! SUPPORT. The laws of the modes: what leaves them alone, and that a change to a code of R37 keeps them codes of R37. -/

namespace Sys2Proof.Machine

/-- The modes of both halves, and those that HALT and KEEP return to. -/
def State.modes (s : State) : BitVec 3 × BitVec 3 × BitVec 3 × BitVec 3 :=
  (s.h0.ex.mode, s.h0.ex.modeBefore, s.h1.ex.mode, s.h1.ex.modeBefore)

theorem modesWf_of_modes {s t : State} (h : t.modes = s.modes) : modesWf t = modesWf s := by
  simp only [State.modes, Prod.mk.injEq] at h
  simp [modesWf, h.1, h.2.1, h.2.2.1, h.2.2.2]

theorem modesWf_iff (s : State) : modesWf s = true ↔
    ((legalMode s.h0.ex.mode = true ∧ legalMode s.h0.ex.modeBefore = true) ∧ legalMode s.h1.ex.mode = true) ∧
    legalMode s.h1.ex.modeBefore = true := by simp only [modesWf, Bool.and_eq_true]

/-- Both halves are OFF at reset. -/
theorem modesWf_reset : modesWf State.reset = true := rfl

/-! ## What changes no mode -/

@[simp] theorem modes_onDbk (s : State) (h : HalfId) (f : DbkQueue → DbkQueue) : (s.onDbk h f).modes = s.modes := by
  cases h <;> rfl
@[simp] theorem modes_onMem (s : State) (h : HalfId) (f : MemUnit → MemUnit) : (s.onMem h f).modes = s.modes := by
  cases h <;> rfl
@[simp] theorem modes_onDbgHalf (s : State) (h : HalfId) (f : DbgHalf → DbgHalf) : (s.onDbgHalf h f).modes = s.modes := by
  cases h <;> rfl
@[simp] theorem modes_raiseSource (s : State) (n : Nat) : (raiseSource s n).modes = s.modes := by
  simp only [raiseSource, coalFire, setPending]
  repeat' split
  all_goals rfl
@[simp] theorem modes_raiseHalf (s : State) (h : HalfId) (n : Nat) : (raiseHalf s h n).modes = s.modes := modes_raiseSource _ _
@[simp] theorem modes_storeAdd (s : State) (p : StoreProg) : (storeAdd s p).modes = s.modes := by
  simp only [storeAdd, storePump]; split <;> rfl
@[simp] theorem modes_dbkLose (s : State) (n : Nat) : (dbkLose s n).modes = s.modes := by
  simp only [dbkLose, commonsOverflow]
  split
  · rw [modes_raiseSource]; rfl
  · rfl
@[simp] theorem modes_dbkKick (s : State) (h : HalfId) : (dbkKick s h).modes = s.modes := by
  simp only [dbkKick]
  split
  · rfl
  · split
    · rfl
    · split <;> simp
@[simp] theorem modes_dbkTake (s : State) (h : HalfId) (e : DbkEntry) : (dbkTake s h e).modes = s.modes := by
  simp only [dbkTake, modes_dbkKick]
  split <;> simp
@[simp] theorem modes_reportHalf (s : State) (h : HalfId) (u : DbkUnit) (cls : BitVec 5) (ctx : Option (BitVec 5))
    (lane : Option Lane) (c2 c3 : Cell) : (reportHalf s h u cls ctx lane c2 c3).modes = s.modes := modes_dbkTake _ _ _
@[simp] theorem modes_rollbackCount (s : State) (h : HalfId) : (rollbackCount s h).modes = s.modes := by
  unfold rollbackCount; split <;> simp

/-! ## Mode changes -/

/-- A half given a mode of R37. -/
theorem modesWf_mode (s : State) (h : HalfId) (m : BitVec 3) (hm : legalMode m = true) (hs : modesWf s = true) :
    modesWf (s.onEx h fun e => { e with mode := m }) = true := by
  rw [modesWf_iff] at hs ⊢
  cases h
  · exact ⟨⟨⟨hm, hs.1.1.2⟩, hs.1.2⟩, hs.2⟩
  · exact ⟨⟨hs.1.1, hm⟩, hs.2⟩

/-- A mode of R37 to come back to. -/
theorem modesWf_modeBefore (s : State) (h : HalfId) (m : BitVec 3) (hm : legalMode m = true) (hs : modesWf s = true) :
    modesWf (s.onEx h fun e => { e with modeBefore := m }) = true := by
  rw [modesWf_iff] at hs ⊢
  cases h
  · exact ⟨⟨⟨hs.1.1.1, hm⟩, hs.1.2⟩, hs.2⟩
  · exact ⟨⟨hs.1.1, hs.1.2⟩, hm⟩

theorem setMode_modesWf (s : State) (h : HalfId) (m : BitVec 3) (hm : legalMode m = true) (hs : modesWf s = true) :
    modesWf (setMode s h m) = true := by
  have w := modesWf_mode s h m hm hs
  unfold setMode
  extract_lets old t u
  split
  · exact hs
  · have hu : modesWf u = true := by
      refine Eq.trans (modesWf_of_modes ?_) w
      simp only [u, t]
      split <;> simp
    split
    · exact (modesWf_of_modes (modes_rollbackCount u h)).trans hu
    · exact hu

theorem setRunMode_modesWf (s : State) (h : HalfId) (m : BitVec 3) (hm : legalMode m = true) (hs : modesWf s = true) :
    modesWf (setRunMode s h m) = true := by
  unfold setRunMode
  split
  · exact modesWf_modeBefore s h m hm hs
  · exact setMode_modesWf s h m hm hs

theorem legalMode_mode (s : State) (h : HalfId) (hs : modesWf s = true) : legalMode (s.mode h) = true := by
  rw [modesWf_iff] at hs
  cases h
  · exact hs.1.1.1
  · exact hs.1.2

theorem tryHalt_modesWf (s : State) (h : HalfId) (hs : modesWf s = true) : modesWf (tryHalt s h) = true := by
  unfold tryHalt
  split
  · refine setMode_modesWf _ h _ rfl (modesWf_modeBefore _ h _ (legalMode_mode s h hs) ?_)
    exact (modesWf_of_modes (modes_onDbgHalf s h _)).trans hs
  · exact hs

end Sys2Proof.Machine
end

