-- ==== Sys2Proof/Machine/LineCode.lean ====
section
/-! DEFINITION. The stored forms of memory lines, derived from the plain cells that State holds: scrambled SRAM lines and
encrypted NVM lines with their MAC and check bits (R313-R315, R319-R323). -/

namespace Sys2Proof.Machine

/-! ## SRAM (R313-R315) -/

/-- Bits [73:0] of an SRAM line before they are scrambled: the tags, then the cells, the odd address first (R313). -/
def sramPlain (s : State) (h : HalfId) (line : Nat) : BitVec 74 :=
  let c (i : Nat) : TCell := sget TCell.zero s.ram (262144 * h.toNat + 2 * line + i)
  BitVec.ofBool (c 1).tag ++ BitVec.ofBool (c 0).tag ++ (c 1).val ++ (c 0).val

/-- The row of its bank that holds an SRAM line (R314). -/
def sramRowOf (s : State) (h : HalfId) (line : Nat) : Fin 32768 := Config.sramRow h.toNat (s.half h).mem.keys line

/-- The 83 bits that are stored for an SRAM line (R313-R315). -/
def sramStored (s : State) (h : HalfId) (line : Nat) : BitVec 83 :=
  let x := sramPlain s h line ^^^ Config.sramPad h.toNat (s.half h).mem.keys line
  Config.sramCheck x (BitVec.ofNat 17 line) ++ x

/-! ## NVM (R319-R323) -/

/-- Octets of a number, the most significant first. PRESUMED: log 99. -/
def octetsOf (n : Nat) (x : Nat) : List Octet := (List.range n).map fun i => BitVec.ofNat 8 (x / 256 ^ (n - 1 - i))

/-- The number that octets spell, the most significant first. PRESUMED: log 99. -/
def ofOctets (l : List Octet) : Nat := l.foldl (fun n b => 256 * n + b.toNat) 0

/-- AES-256 of a block under a key of 32 octets (R321, R323). -/
def aes256 (key block : List Octet) : List Octet := aesEncrypt (aesSchedule key) 14 block

/-- Derived block i of a tenant's keys (R323). -/
def keyPart (t : BitVec 10) (i : Nat) : List Octet :=
  aes256 ((List.finRange 32).map Config.nvmRoot) ((List.finRange 16).map (Config.keyBlock t.toNat i))

/-- A tenant's encryption key (R323). -/
def lineKey (t : BitVec 10) : List Octet := keyPart t 0 ++ keyPart t 1

/-- A tenant's hash key (R323). -/
def hashKey (t : BitVec 10) : BitVec 64 := BitVec.ofNat 64 (ofOctets ((keyPart t 2).take 8))

/-- The counter block of keystream block j for a version of a physical line (R321). -/
def counterBlock (j : BitVec 2) (version : BitVec 20) (h : HalfId) (bank : BitVec 3) (phys : BitVec 15) : BitVec 128 :=
  (0 : BitVec 64) ++ j ++ (0 : BitVec 18) ++ version ++ BitVec.ofBool (h == .h1) ++ bank ++ (0 : BitVec 5) ++ phys

/-- Keystream block j (R321). -/
def keystream (t : BitVec 10) (b : BitVec 2 → BitVec 128) (j : BitVec 2) : List Octet := aes256 (lineKey t) (octetsOf 16 (b j).toNat)

/-- The keystream over [295:0]: blocks 0 and 1, and the first 40 bits of block 2 (R321). PRESUMED: log 99. -/
def lineStream (t : BitVec 10) (b : BitVec 2 → BitVec 128) : BitVec 296 :=
  let part (j : BitVec 2) (n : Nat) : BitVec 296 := BitVec.ofNat 296 (ofOctets ((keystream t b j).take n))
  part 0 16 ||| (part 1 16 <<< 128) ||| (part 2 5 <<< 256)

/-- Tags and cells of a line as [295:0] lay them out (R319). -/
def linePlain (l : NvmLine) : BitVec 296 :=
  (List.range 8).foldl (fun x i =>
    let c := l.cells.getD i TCell.zero
    x ||| ((BitVec.ofBool c.tag).setWidth 296 <<< (288 + i)) ||| (c.val.setWidth 296 <<< (36 * i))) 0

/-- The 400 bits that a programmed line stores at a physical place (R319, R321, R322). -/
def nvmStored (h : HalfId) (bank : BitVec 3) (phys : BitVec 15) (l : NvmLine) : BitVec 400 :=
  let b (j : BitVec 2) : BitVec 128 := counterBlock j l.version h bank phys
  let c := linePlain l ^^^ lineStream l.tenant b
  let mask : BitVec 64 := BitVec.ofNat 64 (ofOctets ((keystream l.tenant b 3).take 8))
  let mac := Config.lineHash (hashKey l.tenant) (counterBlock 0 l.version h bank phys) c ^^^ mask
  let x := mac ++ l.version ++ c
  Config.nvmCheck x ++ x

/-- What the array holds for a half's line: an erased one is all zeros (R320). -/
def nvmArray (s : State) (h : HalfId) (line : Nat) : BitVec 400 :=
  let m := (s.half h).mem
  let p := mapLine m line
  match storedLine s h line with
  | none => 0
  | some l => nvmStored h (BitVec.ofNat 3 (nvmBank p)) (BitVec.ofNat 15 (physOf m p)) l

end Sys2Proof.Machine
end

