-- ==== Sys2Proof/Tests/Slice0.lean ====
section
/-! SUPPORT. Small checks: an ill-formed command for each check of WellFormed, single steps against the spec's own words,
and for every statement a concrete state and operands that meet its hypotheses (the names begin `wit_`). -/

set_option Elab.async false

namespace Sys2Proof.Tests

open Sys2Proof Sys2Proof.Machine

/-! ## Ill-formed commands (WellFormed) -/

theorem test_wf_ill : (Instr.ill .h0 (some (false, 0o04))).wf = false := by decide
theorem test_wf_ill_reserved : (Instr.ill .h0 (some (false, 0o05))).wf = true := by decide
theorem test_wf_grant : (Instr.memoryGrant .h0 12 ⟨0, .clean, false⟩).wf = false := by decide
theorem test_wf_tick (t : TickInput) (h : t.dt = 2 ^ 72) : (Instr.frameTick t).wf = false := by
  simp [Instr.wf, tickTimed, h]
theorem test_wf_fsync (t : TickInput) (h : t.dt = 2 ^ 72) : (Instr.fsyncEdge 0 t).wf = false := by
  simp [Instr.wf, tickTimed, h]
theorem test_wf_beat : (Instr.hostBeat ⟨false, 0, 4, 1, 0, 15, 0⟩).wf = false := by decide
theorem test_wf_charter (c : CharterInput) (h : c.slot0.cells.length = 14561) : (Instr.charterVerified c).wf = false := by
  simp [Instr.wf, h]
theorem test_wf_block : (Instr.folioDataBlock []).wf = false := by decide
theorem test_wf_atr : (Instr.atr (List.replicate 34 0)).wf = false := by decide
theorem test_wf_pps : (Instr.ppsResponse (List.replicate 7 0)).wf = false := by decide
theorem test_wf_step : (Instr.step 3 0).wf = false := by decide
theorem test_wf_fuse : (Instr.fuseFrame (9 <<< 32)).wf = false := by decide

/-! ## States for one step -/

/-- A half in TALLIED on its three lanes, with local context 0 running and its span up. -/
def tallied (s : State) (h : HalfId) : State :=
  let s := s.onEx h fun e =>
    { e with mode := mTallied, onPll := true, running := some 0
             heads := [(0, ⟨List.replicate 16 (some 0o200), none⟩), (1, ⟨List.replicate 16 (some 0o200), none⟩)]
             flevel := ⟨0o777777777777, 0o777777777777⟩ }
  let s := s.onTal h fun t => t.serve [.a, .b, .c]
  let s := s.onSpn h fun p => { p with state := spUp, pa := { p.pa with up := true }, pb := { p.pb with up := true } }
  s.onUp h fun u => { u with released := true, injected := true, verified := true }

/-- Both halves run under an installed charter, attached to the host. -/
def two : State :=
  let s := tallied (tallied State.reset .h0) .h1
  { s with keep := { s.keep with vcoreOk := true }, cht := { s.cht with installed := true, slot := 1, ver := 1 }
           host := { s.host with isoAck := false, ready := true } }

/-- A bank of a warden that may run its code and reach data and I/O space through C0-C2 and C3. -/
def warden : Bank :=
  let all : Cap := ⟨true, spData, 0, 0, 0, 0o370, 0o77777777⟩
  { Bank.reset with pcc := ⟨true, spInstr, 0, 0, 0, 0o240, 0o10000⟩, c0 := all, c1 := all, c2 := all
                    c3 := ⟨true, spIo, 0, 0, 0, 0o300, 0o200000⟩, spd := { all with base := 0o1000, len := 0o100 }
                    spt := { all with base := 0o2000, len := 0o100 }, valid := true, status := 0o400000000000 }

/-- Context 0 of half 0 holds bank `b`. -/
def run (b : Bank) : State := two.setBank .h0 0 b

/-- Context 0 of half 0 is the warden with these cells on its stack, the top first. -/
def withDs (l : List Cell) : State := run { warden with ds := l }

/-- The top cells after a command, none where it stops. -/
def dsAfter (c : Instr) (s : State) : List Cell :=
  match exec c s with
  | .next t => (t.bank .h0 0).ds
  | _ => []

/-- A reading of the state after a command. -/
def after {α : Type} (c : Instr) (s : State) (d : α) (f : State → α) : α :=
  match exec c s with
  | .next t => f t
  | _ => d

/-! ## Single steps against the spec -/

theorem test_add_wraps : dsAfter (.add .h0) (withDs [1, 0o777777777777]) = [0] := by decide +kernel
theorem test_rot : dsAfter (.rot .h0) (withDs [3, 2, 1]) = [1, 3, 2] := by decide +kernel
theorem test_sar : dsAfter (.sar .h0) (withDs [38, 0o400000000000]) = [0o700000000000] := by decide +kernel
theorem test_divm : dsAfter (.divm .h0) (withDs [2, 0o777777777771]) = [0o777777777775, 0o777777777777] := by decide +kernel
theorem test_oput : dsAfter (.oput .h0) (withDs [1, 0o377, 0]) = [0o177400] := by decide +kernel

/-- State cells that a part left, brought back unchanged, continue its message (R356). -/
theorem test_message_parts (s : State) (m : Message) (n : Nat) :
    messageOf (keepMessage s n (some m)) m.sel m.variant ((List.range 56).map fun i => Config.freeCell (n + i)) = some m := by
  simp [messageOf, keepMessage]

/-! ## Witnesses: instructions -/

/-- The hypotheses on a plain instruction: the context is steady, with this stack. -/
def Ready (b : Bank) (l : List Cell) : Prop := steady (run b) .h0 0 = true ∧ ((run b).bank .h0 0).ds = l

theorem wit_StepTakesFrontCommand : ({ two with pending := [.nop .h0] } : State).pending = .nop .h0 :: [] ∧ two.pending = [] := by
  decide +kernel

theorem wit_StackShuffles : Ready { warden with ds := [3, 2, 1] } [3, 2, 1] ∧ Ready { warden with ds := [] } [] := by
  unfold Ready; decide +kernel

theorem wit_CarryArithmetic : Ready { warden with ds := [0o777777777777, 1], vtrap := true } [0o777777777777, 1] ∧
    Ready { warden with ds := [0o400000000000], vtrap := true } [0o400000000000] := by unfold Ready; decide +kernel

theorem wit_LogicShiftsAndComparisons : Ready { warden with ds := [36, 5] } [36, 5] ∧ Ready { warden with ds := [0] } [0] := by
  unfold Ready; decide +kernel

theorem wit_MultiplyAndDivide : Ready { warden with ds := [0, 7] } [0, 7] ∧
    Ready { warden with ds := [0o777777777777, 0o400000000000], vtrap := true } [0o777777777777, 0o400000000000] := by
  unfold Ready; decide +kernel

theorem wit_PackingsCountsAndX : Ready { warden with ds := [3, 2, 1] } [3, 2, 1] ∧ Ready { warden with ds := [0] } [0] ∧
    Ready { warden with ds := [0o777777777777] } [0o777777777777] ∧ warden.resume.slot.toNat < 5 ∧
    ((0 : Cell).toNat < 2 ^ (36 - 36)) ∧ (2 ^ (35 - 0) ≤ (0o777777777777 : Cell).toNat) := by unfold Ready; decide +kernel

theorem wit_ReturnStackDepthsAndStatus : Ready { warden with ds := [5] } [5] ∧
    Ready { warden with ds := [], rs := [⟨9, false⟩] } [] ∧ stW warden.status = true := by unfold Ready; decide +kernel

theorem wit_CapabilityReadsAndNarrowing : Ready { warden with ds := [6, 6] } [BitVec.ofNat 36 6, BitVec.ofNat 36 6] ∧
    Ready { warden with ds := [1, 0o377, 1, 0o77777776] } [(1 : BitVec 2).setWidth 36, 0o377, 1, 0o77777776] ∧
    (warden.cap 1).tag = true ∧ (warden.cap 1).space ≠ spSealed ∧
    (0o77777776 : Cell).toNat + (1 : Cell).toNat ≤ (warden.cap 1).len.toNat := by unfold Ready; decide +kernel

/-- The warden with capability 1 in another space, or with other permissions. -/
def withC1 (b : Bank) (space : BitVec 2) (perm : BitVec 8) : Bank := { b with c1 := { b.c1 with space := space, perm := perm } }

theorem wit_SealingAndUnsealing : Ready (withC1 { warden with ds := [1, 1] } spInstr 0o240) [(1 : BitVec 2).setWidth 36, 1] ∧
    (withC1 warden spInstr 0o240).c1.has pX = true ∧ (withC1 warden spInstr 0o240).c1.tag = true ∧
    Ready { warden with ds := [1, 0] } [(1 : BitVec 2).setWidth 36, 0] ∧ warden.c1.space = spData ∧
    Ready (withC1 { warden with ds := [1] } spSealed 0o042) [(1 : BitVec 2).setWidth 36] := by unfold Ready; decide +kernel

theorem wit_LiteralsPushTheirFields : Ready { warden with ds := [1] } [1] ∧ Ready { warden with ds := [], resume := ⟨4, 5⟩ } [] ∧
    executable (run { warden with resume := ⟨4, 5⟩ }) .h0 warden.pcc 5 = true := by unfold Ready; decide +kernel

theorem wit_JumpsAndBranches : Ready { warden with ds := [0], resume := ⟨3, 1⟩ } [0] ∧
    executable (run { warden with ds := [0], resume := ⟨3, 1⟩ }) .h0 warden.pcc 0 = true ∧
    ((3 : Int) + ((0x3FFFFFFD : BitVec 30).extractLsb' 0 24).toInt = 0) ∧ Ready { warden with ds := [1], resume := ⟨3, 4⟩ } [1] := by
  unfold Ready; decide +kernel

theorem wit_CallsSaveAndEnter : Ready { warden with ds := [0o777] } [(0o777 : Addr).setWidth 36] ∧
    executable (run { warden with ds := [0o777] }) .h0 warden.pcc 0o777 = true ∧ warden.depthD % 2 = 0 ∧
    warden.rs.length + (savedCells warden 31).length + 1 ≤ 16 := by unfold Ready; decide +kernel

theorem wit_ReturnRestoresWhatWasSaved :
    let b := { warden with rs := returnCell 31 ⟨7, 2⟩ :: (savedCells warden 31).reverse }
    Ready b [] ∧ b.rs.length ≤ 16 ∧ executable (run b) .h0 b.pcc 7 = true ∧ b.levels = 0 := by unfold Ready; decide +kernel

theorem wit_HardwareLoops :
    let body (lc : Cell) : Bank := { warden with resume := ⟨6, 5⟩, levels := 1, loop0 := ⟨4, 6, lc, 0⟩ }
    Ready { warden with ds := [3] } [3] ∧ Ready { warden with ds := [0] } [0] ∧
    executable (run { warden with ds := [0] }) .h0 warden.pcc (0 + 2 + 1) = true ∧ Ready (body 2) [] ∧ Ready (body 1) [] ∧
    (body 1).loop0.ldp = BitVec.ofNat 36 (body 1).depthD ∧ (body 1).loop0.le.toNat = 6 := by unfold Ready; decide +kernel

/-- A store-buffer entry of half 0's context 0. -/
def entry (t : Target) (d : Cell) (agreed : Bool := false) : SbEntry :=
  ⟨t, d, false, 0, false, .single, agreed, writerOf two .h0 0, none, entryCheck t d false .single⟩

/-- The state with these store-buffer entries. -/
def withSb (s : State) (l : List SbEntry) : State := s.onWin .h0 fun w => { w with sb := l, stores := l.length }

theorem wit_LoadsReadDataSpace :
    let s := withDs [0o40]
    let f := withSb s [entry (.data 0o40 0) 7]
    let g := run { warden with ds := [0o77600000], pcc := { warden.pcc with len := 0o77777777 } }
    Ready { warden with ds := [0o40] } [0o40] ∧ steady f .h0 0 = true ∧ grants s .h0 (warden.cap 0) spData pLD 0o40 1 = true ∧
    dataMapped s .h0 0o40 = 0 ∧ lastStore s .h0 0o40 = none ∧ (lastStore f .h0 0o40).isSome = true ∧
    grants s .h0 warden.pcc spInstr pLD 0o40 1 = true ∧ codeMapped s .h0 0o40 = 0 ∧ steady g .h0 0 = true ∧
    grants g .h0 (g.bank .h0 0).pcc spInstr pLD 0o77600000 1 = true ∧ codeMapped g .h0 0o77600000 = 0 := by
  unfold Ready; decide +kernel

theorem wit_StoresEnterTheBuffer :
    let s := withDs [0o40, 5]
    let f := withSb s [entry (.data 0o40 0) 7]
    let c := withDs [1, 0o40]
    Ready { warden with ds := [0o40, 5] } [0o40, 5] ∧ roomFor8 s .h0 2 = true ∧ grants s .h0 (warden.cap 1) spData pST 0o40 1 = true ∧
    dataMapped s .h0 0o40 = 0 ∧ ((regionOf 0o40).isNvm && s.lockedMode .h0) = false ∧ wouldMerge (s.half .h0).win 0o40 = false ∧
    steady f .h0 0 = true ∧ roomFor8 f .h0 2 = true ∧ (entry (.data 0o40 0) 7).mergeable (f.half .h0).win.num 0o40 = true ∧
    steady c .h0 0 = true ∧ grants c .h0 warden.c0 spData pCS 0o40 2 = true ∧ dataMapped c .h0 0o41 = 0 ∧
    (warden.cap 1).tag = true ∧ (warden.cap 1).tenant = warden.c0.tenant := by unfold Ready; decide +kernel

/-- The state with these cells of the memories. -/
def withRam (s : State) (l : Sparse TCell) : State := { s with ram := l }

/-- A cell of half 0's sound SRAM that no store waits for is found in memory. -/
theorem finds_of_sram {s : State} {h : HalfId} {a : Addr} {t : BitVec 10} {r : ReadOutcome} {v : TCell}
    (e : (lastStore s h a).isNone = true ∧ regionOf a = .sram .h0 ∧ s.h0.mem.bad.contains (a.toNat / 2) = false ∧ r ≠ .failed ∧
      v = sget TCell.zero s.ram a.toNat) : finds s h a t r v := by
  obtain ⟨e1, e2, e3, e4, e5⟩ := e
  unfold finds
  rw [Option.isNone_iff_eq_none.mp e1, e2]
  exact ⟨e3, e4, e5⟩

/-- A cell of a line of half 0's NVM that no buffer holds is found in the array. -/
theorem finds_of_nvm {s : State} {h : HalfId} {a : Addr} {t : BitVec 10} {r : ReadOutcome} {v : TCell} (l : NvmLine)
    (e : (lastStore s h a).isNone = true ∧ regionOf a = .nvm .h0 ∧ youngest s.h0.mem (nvmLine a) = none ∧
      lineWaits s.h0.mem (nvmLine a) = false ∧ r ≠ .failed ∧ storedLine s .h0 (nvmLine a) = some l ∧ l.broken = false ∧
      l.tenant = t ∧ v = l.cells.getD (a.toNat % 8) TCell.zero) : finds s h a t r v := by
  obtain ⟨e1, e2, e3, e4, e5, e6⟩ := e
  unfold finds
  rw [Option.isNone_iff_eq_none.mp e1, e2]
  exact .inr ⟨e3, e4, e5, .inr ⟨l, e6⟩⟩

/-- A line of NVM under tenant 0 whose cells are tagged fives. -/
def fives : NvmLine := ⟨0, 1, List.replicate 8 ⟨5, true⟩, false⟩

theorem wit_CapabilityLoadsAndFills :
    let s := withRam (withDs [1, 0o40]) [(0o40, ⟨5, true⟩), (0o41, ⟨6, true⟩)]
    let n : State := { withDs [1, 0o4000000] with nvm := [(0, some fives)] }
    let f := run { warden with ds := [1], sd := 1 }
    let g := run { warden with st := 8 }
    let o := run { warden with st := 7 }
    (finds s .h0 0o40 0 .corrected ⟨5, true⟩ ∧ finds s .h0 0o41 0 .clean ⟨6, true⟩ ∧ finds n .h0 0o4000000 0 .corrected ⟨5, true⟩ ∧
      finds n .h0 0o4000001 0 .clean ⟨5, true⟩ ∧ finds f .h0 0o1000 0 .clean TCell.zero ∧
      finds g .h0 0o2000 0 .clean TCell.zero ∧ finds g .h0 0o2007 0 .corrected TCell.zero) ∧
    (outcomeAt [(0, .corrected)] 0 = .corrected ∧ outcomeAt [(0, .corrected)] 1 = .clean) ∧
    steady s .h0 0 = true ∧ grants s .h0 warden.c0 spData pCL 0o40 2 = true ∧ dataMapped s .h0 0o40 = 0 ∧ dataMapped s .h0 0o41 = 0 ∧
    steady n .h0 0 = true ∧ grants n .h0 warden.c0 spData pCL 0o4000000 2 = true ∧ dataMapped n .h0 0o4000001 = 0 ∧
    steady f .h0 0 = true ∧ grants f .h0 warden.spd spData pLD 0 1 = true ∧ dataMapped f .h0 0o1000 = 0 ∧ steady g .h0 0 = true ∧
    (∀ i < 8, grants g .h0 warden.spt spData pLD i 1 = true ∧ dataMapped g .h0 (0o2000 + i) = 0) ∧ warden.spt.has pCL = true ∧
    steady o .h0 0 = true ∧ (7 : Cell).toNat < 8 :=
  ⟨⟨finds_of_sram (by decide +kernel), finds_of_sram (by decide +kernel), finds_of_nvm fives (by decide +kernel),
    finds_of_nvm fives (by decide +kernel), finds_of_sram (by decide +kernel),
    finds_of_sram (by decide +kernel), finds_of_sram (by decide +kernel)⟩, by decide +kernel⟩

theorem wit_SpillsStoreTheOldest :
    let f := withDs [2, 1]
    let g := run { warden with rs := List.replicate 8 ⟨1, false⟩ }
    steady f .h0 0 = true ∧ roomFor8 f .h0 2 = true ∧ grants f .h0 warden.spd spData pST 0 2 = true ∧
    (∀ i < 2, dataMapped f .h0 (0o1000 + i) = 0 ∧ wouldMerge (f.half .h0).win (BitVec.ofNat 24 (0o1000 + i)) = false) ∧
    steady g .h0 0 = true ∧ roomFor8 g .h0 8 = true ∧ grants g .h0 warden.spt spData pST 0 8 = true ∧ warden.spt.has pCS = true ∧
    (∀ i < 8, dataMapped g .h0 (0o2000 + i) = 0 ∧ wouldMerge (g.half .h0).win (BitVec.ofNat 24 (0o2000 + i)) = false) ∧
    warden.rs.length < 8 := by decide +kernel

theorem wit_PrefixesRepeatTheirTarget : ∀ n ∈ [0, 1, 2],
    let b := { warden with ds := [5] }
    let s := withDs [BitVec.ofNat 36 n, 5]
    let u := (run b).setBank .h0 0 { b with repActive := true, repLeft := BitVec.ofNat 24 n }
    steady s .h0 0 = true ∧ steady (run b) .h0 0 = true ∧ ∃ o b', simpleOp 0o15 b = some o ∧ o.isolated = false ∧
      runChecked o s .h0 0 b (slotsOn b.resume 2) = .done { doneOf s b' (slotsOn b.resume 2) with arith := none } ∧
      runChecked o u .h0 0 b (slotsOn b.resume 2) = .done { doneOf u b' (slotsOn b.resume 2) with arith := none } ∧
      runChecked o (run b) .h0 0 b (slotsOn b.resume 3) = .done { doneOf (run b) b' (slotsOn b.resume 3) with arith := none } := by
  intro n _
  simp only [List.mem_cons, List.not_mem_nil, or_false] at *
  rename_i e
  rcases e with rfl | rfl | rfl <;>
    exact ⟨by decide +kernel, by decide +kernel, _, { warden with ds := [0o777777777772] }, rfl, rfl, rfl, rfl, rfl⟩

/-- The hypotheses of an IN or OUT at an offset through C3. -/
def reaches (s : State) (a w : Nat) (two effect : Bool) : Bool :=
  match ioRun a with
  | some r => r.two == two && r.effect == effect && grants s .h0 warden.c3 spIo pLD a w && grants s .h0 warden.c3 spIo pST a w &&
      roomFor8 s .h0 2 && !outLocked s .h0 a w 0 && !outPending s .h0 0 && (decide (a < 0o140000) || spanOpen s .h0)
  | none => false

theorem wit_InputsAndOutputs : Ready { warden with ds := [0] } [0] ∧ reaches (withDs [0]) 0 1 false false = true ∧
    reaches (withDs [0o051000]) 0o051000 1 false true = true ∧ steady (withDs [0o051000]) .h0 0 = true ∧ freshWindow (withDs [0o051000]) .h0 ∧
    reaches (withDs [0o010060]) 0o010060 2 true false = true ∧ steady (withDs [0o010060]) .h0 0 = true ∧
    ((withDs [0]).half .h0).tal.portLost = false ∧ stW warden.status = true ∧
    steady (run { warden with ds := [0o051001], tilmer := true }) .h0 0 = true ∧ reaches (withDs [0]) 0o051001 1 false false = true := by unfold Ready freshWindow; decide +kernel

/-- Half 0's context 0 runs under entry 0, which declares class 3, with this much energy. -/
def energised (s : State) (n : Int) (decl : BitVec 16 := 8) : State :=
  let e : SchEntry := { SchEntry.zero with valid := true, decl := decl }
  (s.onSch .h0 fun c => { c with active := { c.active with entries := [(0, e)] }, cur := some 0, started := [0], allowLeft := [(0, n)] }).onGov
    .h0 fun g => { g with ticked := true, remaining := n, costs := [(3, 100)] }

theorem wit_LeasesAreChargedAndReturned :
    let s := withDs [3]
    let n := s.onGov .h0 fun g => { g with ticked := true }
    let l := s.onGov .h0 fun g => { g with leases := [(0, some ⟨3, 10⟩)] }
    Ready { warden with ds := [3] } [3] ∧ freshWindow s .h0 ∧ leaseOf s.h0.gov 0 = none ∧ s.h0.gov.ticked = false ∧
    steady n .h0 0 = true ∧ ownEntry n .h0 0 = none ∧ steady l .h0 0 = true ∧ (leaseOf l.h0.gov 0).isSome = true ∧
    (∀ x ∈ [(99 : Int), 100], steady (energised s x) .h0 0 = true ∧ ownEntry (energised s x) .h0 0 = some 0) ∧
    ownEntry (energised s 100 0) .h0 0 = some 0 := by unfold Ready freshWindow; decide +kernel

theorem wit_LoggedReads : Ready { warden with ds := [5] } [5] ∧ Ready { warden with ds := [] } [] ∧
    steady ((withDs [5]).onWin .h0 fun w => { w with logged := 63 }) .h0 0 = true := by unfold Ready; decide +kernel

/-- A queued reckoner command of half 0's context 0. -/
def cmd0 : RkCmd := newCmd two .h0 0 warden 0o13 [0, 1, 2, 3, 1]

theorem wit_WaitsEndWithAStatus :
    let m : Cell := 0o400000000000
    let s := withDs [9, m]
    let acked := s.onChan 0 fun y => { y with outp := { y.outp with ack := 0x80000000 } }
    let z := withDs [0, m]
    let w (t : State) := t.onEx .h0 fun e => { e with waiting := some ⟨false, m, 9, false⟩ }
    let t0 := ticketOf 0o13 0 0
    let q := (withDs [t0]).onRkn .h0 fun r => { r with queue := [cmd0], status := [⟨0o13, 0, ⟨0, 0, 0⟩, 1, 0, 0⟩] }
    Ready { warden with ds := [9, m] } [9, m] ∧ freshWindow s .h0 ∧ waitCause s .h0 0 m false = none ∧ s.h0.rkn.queue = [] ∧
    steady acked .h0 0 = true ∧ waitCause acked .h0 0 m false = some (3, 0) ∧ steady z .h0 0 = true ∧ waitCause z .h0 0 m false = none ∧
    waitCause (w s) .h0 0 m false = none ∧ steady q .h0 0 = true ∧ freshWindow q .h0 ∧ statEnds (statOf q .h0 0 t0) = false ∧
    entryDue q .h0 = false ∧ cmd0.state ≠ .finished ∧ statEnds (statOf (withDs [t0]) .h0 0 t0) = true ∧ steady (withDs [t0]) .h0 0 = true := by
  unfold Ready freshWindow; decide +kernel

theorem wit_YieldAndFenceCloseTheWindow :
    let s := energised (withDs []) 0
    let c := s.onEx .h0 fun e => { e with chain := [⟨none, 0, 0⟩] }
    steady s .h0 0 = true ∧ s.h0.rkn.queue = [] ∧ s.h0.ex.chain = [] ∧ s.h0.sch.cur = some 0 ∧ 0 ∈ s.h0.sch.started ∧
    steady c .h0 0 = true ∧ c.h0.ex.chain ≠ [] ∧
    steady (withDs []) .h0 0 = true ∧ ownEntry (withDs []) .h0 0 = none ∧ (withDs []).h0.rkn.queue = [] ∧ (withDs []).h0.ex.chain = [] ∧
    (withDs []).mode .h0 ≠ mReading ∧
    (let r := (withDs []).onEx .h0 fun e => { e with mode := mReading }
     steady r .h0 0 = true ∧ r.mode .h0 = mReading ∧ r.h0.ex.mintPend = none) := by decide +kernel

theorem wit_FaultsEnterTheirHandlers : (∀ c ∈ [cIllegal, cTrap, cArith], enterable (withDs []) .h0 0 c 0o200) ∧
    steady (withDs []) .h0 0 = true ∧ illNamed none = true ∧ illNamed (some (false, 0o05)) = true ∧ illNamed (some (true, 0o77)) = true ∧
    steady (run { warden with status := setBit warden.status 28 true }) .h0 0 = true ∧ stPrec (setBit warden.status 28 true) = true ∧
    stPrec warden.status = false := by
  unfold enterable; decide +kernel

/-- External source 0 is pending and routed to local context `g` of half 0, whose bank takes events. -/
def eventTo (g : BitVec 6) : State :=
  let b := { warden with status := 0o404000000000 ||| atBit true 32 }
  let s := ((run { warden with status := atBit true 35 ||| atBit true 32 }).setBank .h0 1 b)
  { s with evc := { s.evc with pend := 1, en := 1, route := [(0, g)], pri := [(0, 255)] } }

theorem wit_EventsEnterTheRoutedContext : ∀ g ∈ [(0 : BitVec 6), 1],
    let s := eventTo g
    steady s .h0 0 = true ∧ bestRequest s .h0 = some 0 ∧ gLocal (routeOf s 0) = g.setWidth 5 ∧
    handlerAt s .h0 (gLocal (routeOf s 0)) cEvent = some 0o200 := by decide +kernel

theorem wit_RetiRestoresTheFrame :
    let f := [TCell.plain (frameEntry ⟨5, 5⟩), TCell.plain 0]
    Ready { warden with rs := f } [] ∧ Ready { warden with rv := f } [] ∧ bit (frameEntry ⟨5, 5⟩) 32 = true ∧
    (frameEntry ⟨5, 5⟩).extractLsb' 24 3 = (5 : BitVec 3) ∧ (withDs []).h0.ex.chain = [] ∧ (withDs []).h0.ex.dbgFrames = [] ∧
    executable (withDs []) .h0 warden.pcc 5 = true := by unfold Ready; decide +kernel

theorem wit_GatesEnterAndReturn :
    let g := withC1 { warden with ds := [1] } spSealed 0o043
    let r := withC1 { warden with ds := [1], rs := [TCell.plain (returnEntry 0 ⟨5, 3⟩), TCell.plain 0] } spSealed 0o003
    Ready g [(1 : BitVec 2).setWidth 36] ∧ Ready r [(1 : BitVec 2).setWidth 36] ∧ g.c1.has pX = true ∧ r.c1.has pX = false ∧
    grants (run g) .h0 g.c1 spSealed pSE 0 1 = true ∧ grants (run r) .h0 r.c1 spSealed pSE 0 1 = true ∧
    codeMapped (run g) .h0 0 = 0 ∧ bit (returnEntry 0 ⟨5, 3⟩) 32 = false ∧
    executable (run r) .h0 { r.c1 with space := spInstr, perm := 0o040 } 5 = true := by unfold Ready; decide +kernel

/-- The state with tenant 5 at home in half 1. -/
def homed (s : State) : State := s.onSpn .h0 fun p => { p with tables := { p.tables with home := [(5, true)] } }

theorem wit_RevocationAdvancesTheGeneration :
    let s := withDs [(5 : BitVec 10).setWidth 36]
    steady s .h0 0 = true ∧ s.homeOf .h0 5 = .h0 ∧ roomFor8 s .h0 1 = true ∧ steady (homed s) .h0 0 = true ∧
    (homed s).homeOf .h0 5 ≠ .h0 ∧ spanOpen (homed s) .h0 = true ∧ stW warden.status = true := by decide +kernel

theorem wit_ContextImages : ∀ n ∈ [(1 : BitVec 5), 8],
    let s := { withDs [n.setWidth 36, 0o100] with cht := { two.cht with imgs := [(0, 1)] } }
    let size := if n.toNat < 8 then 72 else 60
    let img := imageOf (s.bank .h0 n) (statusOf (s.half .h0) n) n
    let m := withRam s ((List.range size).filterMap fun i =>
      if img.getD i TCell.zero = TCell.zero then none else some (0o100 + i, img.getD i TCell.zero))
    steady m .h0 0 = true ∧ grants m .h0 warden.c0 spData pLD 0o100 size = true ∧ grants m .h0 warden.c0 spData pST 0o100 size = true ∧
    warden.c0.has pCL = true ∧ warden.c0.has pCS = true ∧ dataMapped m .h0 0o100 = 0 ∧ dataMapped m .h0 (0o100 + size - 1) = 0 ∧
    img.length = size ∧ (∀ i < size, sget TCell.zero m.ram (0o100 + i) = img.getD i TCell.zero ∧ regionOf (BitVec.ofNat 24 (0o100 + i)) = .sram .h0) ∧
    imageLoads img n = true ∧ tenantLoads m .h0 (loadBank img n).tenant = true ∧ mixedOffset img = none ∧
    localPair warden.c0.tenant 0 img = none ∧ roomFor8 m .h0 8 = true ∧ freshWindow m .h0 ∧
    (let r := m.onEx .h0 fun e => { e with mode := mReading }
     steady r .h0 0 = true ∧ r.mode .h0 = mReading ∧ r.h0.win.closed = []) := by unfold freshWindow; decide +kernel

/-- The warden owns half 0's reckoner. -/
def owned (s : State) : State := s.onRkn .h0 fun r => { r with ownValid := true, ownCtx := 0 }

theorem wit_ReckonerCommandsQueue :
    let s := owned (withDs [0])
    steady s .h0 0 = true ∧ freshWindow s .h0 ∧ s.h0.rkn.ownNext = none ∧ ((Instr.clear .h0, 0o04, 0, false) ∈ rkRows .h0) ∧
    (Instr.keccak .h0, 0o24, 1, false) ∈ rkRows .h0 ∧ rkRefusal s .h0 0o04 [] = 0 ∧ rkRefusal s .h0 0o11 [99, 0, 0] ≠ 0 ∧
    steady (owned (withDs [0, 0, 99])) .h0 0 = true ∧ enterable (withDs [0]) .h0 0 cReckoner 0o200 := by
  unfold freshWindow enterable; decide +kernel

/-! ## Witnesses: reckoner, windows, verdicts, lanes, ticks -/

/-- Half 0 with one reckoner command queued for tenant 0, whose registers hold 3, 4 and the modulus 7. -/
def queued (c : RkCmd) (s : State) : State := s.onRkn .h0 fun r =>
  { r with held := true, tenant := 0, queue := [c], wide := wideSet (wideSet (wideSet [] 0 0 [3]) 1 0 [4]) 2 0 [7] }

theorem wit_MultiplicationAndPowersModulo :
    let e : RkCmd := { cmd0 with sel := 0o14, lease := some ⟨5, 0⟩ }
    (∀ c ∈ [cmd0, e], heads (queued c two) .h0 c [] ∧ holdsRegisters (queued c two) .h0 c ∧ c.begun = false ∧ c.state = .queued ∧
      c.ops = [0, 1, 2, 3, 1].map (BitVec.ofNat 36) ∧ limbs (wideCells (queued c two).h0.rkn 0 1) = 3 ∧
      limbs (wideCells (queued c two).h0.rkn 1 1) = 4 ∧ limbs (wideCells (queued c two).h0.rkn 2 1) = 7) ∧
    e.lease = some ⟨5, 0⟩ ∧ cmd0.sel = 0o13 ∧ e.sel = 0o14 := by unfold heads holdsRegisters; decide +kernel

theorem wit_CommandsTakeLeasesAndFinish :
    let m : RkCmd := { cmd0 with sel := 0o14, entry := some 0 }
    let d : RkCmd := { m with state := .deferred, leaseWanted := true }
    let g : RkCmd := { cmd0 with sel := 0o64, ops := [0, 0], entry := some 0, begun := true, state := .running, slices := 812, lease := some ⟨2, 0⟩ }
    let f : RkCmd := { cmd0 with begun := true, state := .running, regs := [(3, List.replicate 128 1)] }
    let e (n : Int) (c : RkCmd) : State := queued c ((energised two n 0x24).onGov .h0 fun g => { g with costs := [(2, 100), (5, 100)] })
    (∀ n ∈ [(99 : Int), 100], ∀ c ∈ [m, d, g], heads (e n c) .h0 c [] ∧ declared (e n c) .h0 c = some 0 ∧ noWindow (e n c) .h0 = false ∧
      (e n c).h0.gov.remaining = n ∧ allowLeftOf (e n c).h0.sch 0 = n ∧ ceilingOf (e n c).h0.gov (rkClass c) = 100) ∧
    heavy (rkClass m) = true ∧ m.lease = none ∧ declared (queued { m with entry := none } two) .h0 { m with entry := none } = none ∧
    heads (queued f two) .h0 f [] ∧ lastSlice f = true ∧ writesFit (queued f two).h0.rkn f = true ∧ rkDraws f.sel = false ∧
    f.own = none ∧ noWindow (queued f two) .h0 = false ∧ outputsLost (queued f two) .h0 f = 0 ∧ f.wrong = false ∧ f.restarts = 0 ∧
    (∀ c ∈ [{ f with writes := [(0o3000000, 0, 1)] }, { f with restarts := 1 }], heads (queued c two) .h0 c [] ∧ lastSlice c = true ∧
      writesFit (queued c two).h0.rkn c = true) ∧ outputsLost two .h0 { f with writes := [(0o3000000, 0, 1)] } ≠ 0 := by
  unfold heads; decide +kernel

/-- A closed window of half 0, with this many slots, that awaits its verdict. -/
def closedWin : ClosedWin := ⟨0, 5, [.a, .b, .c], 0, false, snapshot two .h0, 0, false, false⟩

theorem wit_WindowsCloseAtTheirLimits :
    let s (n l : Nat) (r : Bool) : State := two.onWin .h0 fun w => { w with slots := n, logged := l, rolling := r }
    let b := (s 2048 64 false).onWin .h0 fun w => { w with closed := List.replicate 4 closedWin }
    let m := (s 2048 64 false).onEx .h0 fun e => { e with mode := mReading }
    (∀ x ∈ [s 1 0 false, s 2048 64 false, s 1 0 true, b, m], x.running .h0 = true ∧ x.h0.win.redo = none ∧ x.h0.ex.waiting = none ∧
      x.h0.ex.arith = none ∧ x.h0.ex.fed = none ∧ voidRead x.h0.ex = none ∧ settleWaits x .h0 = false ∧ 0 < x.h0.win.slots ∧
      x.h0.tal.inService ≠ [] ∧ x.h0.win.acts = [] ∧ x.h0.ex.ckpt = []) ∧
    (∀ x ∈ [s 1 0 false, s 1 0 true, m], closeBlocked x .h0 = false) ∧ (s 1 0 true).mode .h0 ≠ mReading ∧ closeBlocked b .h0 = true ∧
    m.mode .h0 = mReading := by decide +kernel

/-- The accounts of three lanes by signature, the tellers unforced. -/
def accounts (a b c : Option (BitVec 64)) : VerdictInput :=
  ⟨a.map (⟨·, 0⟩), b.map (⟨·, 0⟩), c.map (⟨·, 0⟩), none, none, none⟩

theorem wit_VerdictsSettleTheOldestWindow :
    let s := two.onWin .h0 fun w => { w with closed := [closedWin, closedWin] }
    let r := two.onWin .h0 fun w => { w with redo := some 5, mark := some closedWin.mark }
    let j := (run warden).onWin .h0 fun w => { w with num := 1, closed := [closedWin], acts := [(1, .load 3 warden)] }
    let x := two.onWin .h0 fun w => { w with num := 1, closed := [closedWin], ticks := [(some 1, ⟨0, 0, 0, 0, 0⟩)] }
    (s.h0.win.acts = [] ∧ s.h0.win.ticks = [] ∧ s.h0.ex.rstPend = []) ∧
    (j.h0.win.closed = closedWin :: [] ∧ j.h0.ex.fencing = false ∧ j.h0.ex.running = some 0 ∧ (1 : Cell).toNat ≤ j.h0.win.num.toNat ∧
      j.h0.win.ticks = [] ∧ j.h0.ex.rstPend = []) ∧
    (x.h0.win.closed = closedWin :: [] ∧ (1 : Cell).toNat ≤ x.h0.win.num.toNat ∧ x.h0.win.acts = [] ∧ x.h0.ex.rstPend = []) ∧
    s.h0.ex.fed = none ∧ s.h0.win.closed = closedWin :: [closedWin] ∧ closedWin.lanes.Nodup ∧ s.mode .h0 = mTallied ∧ s.h0.tal.attResp = 0 ∧
    s.h0.tal.fenceReq = 0 ∧ (s.dbgHalf .h0).halt = false ∧ closedWin.lanes = lanes ∧ s.h0.tal.inService = lanes ∧
    (∀ l ∈ closedWin.lanes, reportOf (accounts (some 0) (some 0) (some 0)) l = some ⟨0, 0⟩) ∧
    (∀ l ∈ lanes, l ≠ .b → reportOf (accounts (some 0) (some 1) (some 0)) l = some ⟨0, 0⟩) ∧
    reportOf (accounts (some 0) none (some 0)) .b ≠ some ⟨0, 0⟩ ∧
    (∀ l ∈ lanes, ∀ m ∈ lanes, l ≠ m → reportOf (accounts (some 0) (some 1) (some 2)) l ≠ reportOf (accounts (some 0) (some 1) (some 2)) m) ∧
    r.h0.win.redo = some 5 ∧ r.h0.win.mark = some closedWin.mark ∧ closedWin.mark.fed = none := by decide +kernel

/-- Half 0 with this request before its hierarchy. -/
def asks (s : State) (r : ArbReq) : State := s.onMem .h0 fun m => { m with arb := [r] }

theorem wit_ReadsReturnAndWritesDrain :
    let o : OutRead := ⟨0, 0o40, 0, false, TCell.zero, false, false, false, none, ⟨0, 0⟩, 0, 0⟩
    let r := (asks (withDs [0]) ⟨.laneRead, 0, 0, 0, .laneRead, false⟩).onEx .h0 fun e => { e with reads := [o] }
    let g := (withDs [0]).onEx .h0 fun e => { e with reads := [{ o with granted := true }] }
    let w := asks two ⟨.reckoner, 1, 0, 0, .writes [(0o42, 0, ⟨7, false⟩)], false⟩
    let u := w.onMem .h0 fun m => { m with bad := [0o21] }
    let p := withSb two [{ entry (.data 0o42 0) 7 true with link := .first }, { entry (.data 0o43 0) 8 true with link := .second }]
    let c := (withSb two [entry (.data 0o2000000 0) 7 true]).onTal .h0 fun t => { t with portLost := true }
    let d (a : Addr) := withSb two [entry (.data a 0) 7 true]
    let drains (s : State) : Bool :=
      !s.isolated && !s.h0.ex.fencing && !laneWaits s.h0.mem
    (∀ a, (d a).h0.win.sb = [entry (.data a 0) 7 true] ∧ (entry (.data a 0) 7 true).agreed = true) ∧
    (u.h0.mem.bad.contains ((0o42 : Addr).toNat / 2) = true ∧ two.h0.ex.fencing = false ∧ two.h1.ex.fencing = false) ∧
    (p.h0.win.sb.length = 2 ∧ (0o42 : Addr) ^^^ 1#24 = 0o43 ∧ regionOf 0o43 = .sram .h0 ∧ laneWaits p.h0.mem = false) ∧
    (c.h0.tal.portLost = true ∧ c.isolated = false ∧ two.h0.tal.portLost = false) ∧
    ((withDs [0]).h0.tal.inService.length = 3 ∧ closeRoom (withDs [0]) .h0 1 = true ∧ (withDs [0]).runMode .h0 ≠ mReading) ∧
    r.h0.mem.arb = [⟨.laneRead, 0, 0, 0, .laneRead, false⟩] ∧ r.h0.ex.reads = [o] ∧ bankOf o.addr = 0 ∧ regionOf o.addr = .sram .h0 ∧
    r.h0.mem.bad = [] ∧ r.h0.mem.merge = [] ∧ g.h0.ex.running = some 0 ∧ g.h0.ex.reads = [{ o with granted := true }] ∧
    bankOf 0o42 = 1 ∧ w.h0.mem.bad = [] ∧ regionOf 0o2000000 = .retained ∧ farData .h0 0o1000000 = true ∧
    drains (d 0o40) = true ∧ drains (d 0o2000000) = true ∧ drains (d 0o1000000) = true ∧
    writeTakes (withDs []) .h0 warden 0o010051 0 = true :=
  ⟨fun _ => ⟨rfl, rfl⟩, by decide +kernel⟩

theorem wit_LanesJoinAndAreAudited :
    let busy (w : LaneWork) (n : Nat) : State := (two.onTal .h0 fun t => t.onLane .c fun x => { x with work := w }).onWin .h0 fun w =>
      { w with slots := n }
    let a (g : AuditTrigger) : State := two.onTal .h0 fun t => { t with audits := [(.c, g)], auditEn := true, auditNext := 2 }
    let z := two.onTal .h0 fun t => { t with countdown := 0, drainDue := true, slowDue := true }
    ((busy .copying 1).h0.tal.lane .c).work = .copying ∧ (busy .copying 1).h0.tal.fenceReq = 0 ∧ lanesRun (busy .copying 1) .h0 = true ∧
    closeBlocked (busy .copying 1) .h0 = false ∧ voidRead (busy .copying 1).h0.ex = none ∧ settleWaits (busy .copying 1) .h0 = false ∧
    (let q := (busy .copying 1).onWin .h0 fun w => { w with closed := List.replicate 4 closedWin }
     lanesRun q .h0 = true ∧ closeBlocked q .h0 = true ∧ q.h0.ex.waiting = none) ∧
    (let m := (busy .copied 0).onEx .h0 fun e => { e with mode := mReading }
     mayJoin m .h0 .c = true ∧ m.mode .h0 = mReading ∧ m.runMode .h0 = mReading ∧ z.runMode .h0 ≠ mReading) ∧ mayJoin (busy .copied 0) .h0 .c = true ∧
    (∀ m ∈ lanes, m ≠ .c → ((busy .copied 0).h0.tal.lane m).work = .inService) ∧
    (∀ g ∈ [AuditTrigger.request, .rotation], auditTime (a g) .h0 = true ∧ (a g).mode .h0 = mTallied ∧ (a g).h0.tal.inService = lanes ∧
      laneOf (a g).h0.tal.auditNext = .c) ∧
    ((busy .audit 0).h0.tal.lane .c).work = .audit ∧ (busy .audit 0).mode .h0 ≠ mOff ∧ (busy .audit 0).runMode .h0 ≠ mReading ∧
    z.h0.tal.countdown = 0 ∧ z.running .h0 = true ∧ z.h0.tal.audits = [] ∧ z.h0.tal.drainDue = true ∧ z.h0.tal.slowDue = true := by
  decide +kernel

theorem wit_InjectionFencesAndReadingRoom :
    let off := (two.onEx .h0 fun e => { e with mode := mOff }).onTal .h0 fun t => t.serve [.a, .b]
    let off := off.onUp .h0 fun u => { u with injected := false }
    let go := two.onTal .h0 fun t => { t with injGo := true, injState := 1 }
    let room := (two.onEx .h0 fun e => { e with mode := mReading }).onTal .h0 fun t => { (t.serve [.a]) with cmpLost := true }
    let early := (two.onEx .h0 fun e => { e with mode := mEarly }).onTal .h0 fun t => t.serve [.a, .b]
    let doze := (run warden).onEx .h0 fun e => { e with doze := true }
    off.mode .h0 = mOff ∧ injectDue off .h0 = true ∧ off.cht.seen = none ∧ go.running .h0 = true ∧ go.mode .h0 ≠ mReading ∧
    room.mode .h0 = mReading ∧ room.h0.tal.cmpLost = true ∧ room.h0.tal.portLost = false ∧ room.h0.tal.failedInject = false ∧
    mayWrite (run warden) .h0 .h0 true ∧ mayWrite (run warden) .h0 .h1 true ∧ noWindow (run warden) .h0 = false ∧
    (run warden).h0.tal.audits = [] ∧ mayWrite doze .h0 .h0 true ∧ noWindow doze .h0 = true ∧ agreedClose doze .h0 = true ∧
    doze.h0.tal.inService = lanes ∧ doze.h0.tal.fenceReq = 0 ∧ fenceMarks doze .h0 = 0 ∧
    early.bnd.pllLocked = false ∧ early.isolated = false ∧ early.heldInReset .h0 = false ∧ auditFree early.h0.tal = true ∧
    (lanes.filter fun m => (early.h0.tal.lane m).work == .out) = [.c] :=
  ⟨by decide +kernel, by decide +kernel, by decide +kernel, by decide +kernel, by decide +kernel, by decide +kernel, by decide +kernel,
    by decide +kernel, by decide +kernel, ⟨0, by decide +kernel⟩, ⟨0, by decide +kernel⟩, by decide +kernel, by decide +kernel,
    ⟨0, by decide +kernel⟩, by decide +kernel⟩

theorem wit_TicksCountFramesAndReload :
    let f := { two with tick := { two.tick with ext := true, period := 1000 } }
    let held := two.onWin .h0 fun w => { w with rolling := true }
    let full := two.onWin .h0 fun w => { w with closed := List.replicate 4 closedWin }
    let read := (two.onWin .h0 fun w => { w with slots := 1 }).onEx .h0 fun e => { e with mode := mReading }
    let open_ := two.onWin .h0 fun w => { w with slots := 1, num := 1, closed := [closedWin] }
    (full.running .h0 = true ∧ full.h0.win.rolling = false ∧ full.h0.win.redo = none ∧ full.h0.ex.waiting = none ∧ inputsHeld full .h0 = true) ∧
    (∀ x ∈ [two, read, open_], tickRuns x = true ∧ x.running .h0 = true ∧ x.h0.win.rolling = false ∧ x.h0.win.redo = none ∧
      x.h0.ex.waiting = none ∧ inputsHeld x .h0 = false ∧ x.h0.ex.arith = none ∧ voidRead x.h0.ex = none ∧ x.h0.win.acts = [] ∧
      x.h0.win.ticks = [] ∧ x.h0.ex.rstPend = []) ∧
    (two.h0.win.closed = [] ∧ two.h0.win.blank = true ∧ read.mode .h0 = mReading ∧ read.h0.win.closed = [] ∧
      open_.mode .h0 ≠ mReading ∧ open_.h0.win.oldest.toNat < (open_.h0.win.num + 1).toNat) ∧
    let b := energised (run warden) 0
    let w := b.onEx .h0 fun e => { e with waiting := some ⟨false, 0, 9, false⟩ }
    tickRuns two = true ∧ two.running .h0 = true ∧ inputsHeld two .h0 = false ∧ two.h0.ex.arith = none ∧ two.h0.sch.accepted = none ∧
    tickRuns held = true ∧ inputsHeld held .h0 = true ∧ tickRuns f = true ∧ f.bnd.tieFsync = true ∧ f.tick.fallback = false ∧
    8 * 874999 < 7000 * f.tick.period.toNat ∧ 7000 * f.tick.period.toNat ≤ 8 * 875000 ∧
    w.running .h0 = true ∧ w.h0.sch.cur = some 0 ∧ w.h0.sch.expired = false ∧ w.h0.sch.starved = false ∧ w.h0.ex.waiting.isSome = true ∧
    steady b .h0 0 = true ∧ ownEntry b .h0 0 = some 0 ∧ enterable b .h0 0 cBudget 0o200 ∧ two.h0.sch.evOver = false := by
  unfold enterable; decide +kernel

/-! ## Witnesses: events, mailboxes, KEEP, bring-up, resets -/

/-- The coalescer of a source in a state. -/
def withCoal (s : State) (n : Nat) (q : Coal) : State := { s with evc := { s.evc with coal := [(n, q)] } }

theorem wit_EdgesAndTimersMakeSourcesPending :
    let two' := withCoal two 127 ⟨2, 0, 0, 0⟩
    let t := withCoal two 5 ⟨3, 1, 1, 0⟩
    let c := { two with evc := { two.evc with tcmp := [(3, ⟨5, true⟩)] } }
    two.isolated = false ∧ (127 : Nat) < two.bnd.evin.toNat ∧ bit two.evc.level 127 ≠ true ∧ senseTakes (senseOf two 127) true = true ∧
    (sget Coal.reset two.evc.coal 127).cthr = 1 ∧ two'.isolated = false ∧ (sget Coal.reset two'.evc.coal 127).cthr = 2 ∧
    senseTakes (senseOf two 127) false = false ∧ sourceExists t.bnd.evin 5 = true ∧
    600 * 1 ≤ (t.evc.timeBase + BitVec.ofNat 72 600 - (sget Coal.reset t.evc.coal 5).since).toNat ∧
    (sget Tcmp.reset c.evc.tcmp 3).armed = true ∧ (sget Tcmp.reset c.evc.tcmp 3).val ≤ c.evc.timeBase + BitVec.ofNat 72 5 ∧
    (sget Coal.reset c.evc.coal 195).cthr = 1 := by decide +kernel

/-- The warden runs in half 0, and source 7 is pending and active. -/
def served : State := { run warden with evc := { two.evc with pend := 128, act := 128 } }

theorem wit_EventRegistersActOnTheirSources :
    takes served .h0 0 0o010010 1 ∧ takes served .h0 0 0o010017 1 ∧ takes served .h0 0 0o010020 1 ∧ takes served .h0 0 0o010027 1 ∧
    takes served .h0 0 0o010051 7 ∧ bit served.evc.act 7 = true ∧ bit served.evc.act 6 = false ∧ served.evc.doneMiss ≠ BitVec.allOnes 36 ∧
    takes served .h0 0 0o010400 0 ∧ takes served .h0 0 (0o010400 + 255) 33 ∧ sourceMarked 7 = false ∧ sourceMarked 200 = true ∧
    gHalf 33 ≠ sourceHalf 200 ∧ takes served .h0 0 (0o011400 + 223) 0 ∧ (sget Coal.reset served.evc.coal 223).held = 0 ∧
    takes served .h0 0 0o010060 0 ∧ takes served .h0 0 0o010066 0 ∧ hostAbsent served = false := by unfold takes; decide +kernel

/-- Channel 63, enabled, with one entry taken and one queued in each direction. -/
def posting (en : Bool) : State := (run warden).onChan 63 fun y =>
  let q : List MbxEntry := [⟨[1, 2, 3, 4, 5, 6, 7, 8], 0⟩]
  { y with en := en, inp := { y.inp with queue := q, timer := some (255, 0) }, outp := { y.outp with queue := q } }

theorem wit_MailboxesPostTakeAndAcknowledge :
    let d := { posting true with prt := { two.prt with ack := atBit true 35 ||| atBit true 34 ||| 1 } }
    let l := { posting true with mbx := { (posting true).mbx with delayed := [⟨63, true, 1, 5⟩] } }
    let o := (posting true).onChan 63 fun y => { y with outp := { y.outp with takenEpoch := 9 } }
    (∀ e ∈ [true, false], takes (posting e) .h0 0 (chanAddr 63 0o30) (atBit true 35) ∧ ((posting e).chan 63).en = e) ∧
    hostAbsent (posting true) = false ∧ postRefused ((posting true).chan 63) 0 = false ∧ postRefused ((posting false).chan 63) 0 = true ∧
    ((posting true).chan 63).inp.queue ≠ [] ∧ ((posting true).chan 63).outp.queue ≠ [] ∧ (posting true).h0.tal.portLost = false ∧
    takes (posting true) .h0 0 (chanAddr 63 0o12) 5 ∧ ackIsDelayed (posting true).prt.ack 63 = false ∧
    ((posting true).chan 63).inp.takenEpoch = ((posting true).chan 63).inp.sendEpoch ∧ takes d .h0 0 (chanAddr 63 0o12) 5 ∧
    ackIsDelayed d.prt.ack 63 = true ∧ ((posting true).chan 63).outp.takenEpoch = ((posting true).chan 63).outp.sendEpoch ∧
    (o.chan 63).outp.takenEpoch ≠ (o.chan 63).outp.sendEpoch ∧ l.mbx.delayed = [⟨63, true, 1, 5⟩] ∧
    ((posting true).chan 63).inp.timer = some (255, 0) ∧ ((posting true).chan 63).tmo.toNat ≤ 255 ∧
    bit ((posting true).chan 63).inp.ack 31 = false := by unfold takes; decide +kernel

theorem wit_ChannelResetsAndHostBeats :
    let s := posting true
    (s.chan 63).tmo ≠ 0 ∧ takes s .h0 0 (chanAddr 63 0o14) (cfgWith s 63 34) ∧ takes s .h0 0 (chanAddr 63 0o14) (cfgWith s 63 33) ∧
    takes s .h0 0 0o024001 1 ∧ hostAbsent s = false ∧ hostAbsent State.reset = true ∧
    ((⟨false, 0, 0, 3, 0, 15, 0⟩ : HostBeat).burst = 3) := by unfold takes; decide +kernel

/-- A machine in KEEP, awake for input 127. -/
def kept : State := { two with
  keep := { two.keep with inKeep := true, wen := BitVec.allOnes 128, alarmWake := true, alarm := 5, rtc := 5 }
  host := { two.host with isoReq := true, isoAck := true } }

theorem wit_KeepIsEnteredAndLeft :
    let h (b : Bool) : State := { two with mbx := { two.mbx with hostKeep := b, detached := false } }
    let q := { two with keep := { two.keep with keepReq := true } }
    let r := { two with host := { two.host with isoReq := true } }
    let w := { kept with keep := { kept.keep with causes := 4 } }
    mayWrite (run warden) .h0 .h0 true ∧ (run warden).isolated = false ∧ (run warden).dbg.emulated = false ∧
    hostAbsent (h true) = false ∧ (h true).mbx.hostKeep = true ∧ hostAbsent (h false) = false ∧ (h false).mbx.hostKeep = false ∧
    (h true).host.isoReq = false ∧ (h true).host.isoAck = false ∧ (h true).mbx.detached = false ∧ r.host.isoReq = true ∧ r.host.isoAck = false ∧
    kept.host.isoReq = true ∧ kept.host.isoAck = true ∧ kept.keep.inKeep = true ∧ kept.keep.causes = 0 ∧ q.keep.keepReq = true ∧
    q.isolated = false ∧ keepReady q .h0 = true ∧ keepReady q .h1 = true ∧ attached q = false ∧ kept.isolated = true ∧
    kept.keep.vfieldOn = true ∧ (127 : Nat) < kept.bnd.evin.toNat ∧ bit kept.keep.wen 127 = true ∧ kept.keep.alarm ≤ kept.keep.rtc ∧
    w.keep.causes ≠ 0 ∧ w.keep.inKeep = true ∧ w.dbg.emulated = false := ⟨⟨0, by decide +kernel⟩, by decide +kernel⟩

theorem wit_TimekeepingWitnessAndSupplies :
    let l := { two with keep := { two.keep with vfieldOn := false } }
    let o := { two with keep := { two.keep with rtc := BitVec.allOnes 48 } }
    mayWrite (run warden) .h0 .h0 true ∧ two.keep.vfieldOn = true ∧ o.keep.rtc = BitVec.allOnes 48 ∧ two.mode .h0 ≠ mOff ∧
    two.isolated = false ∧ two.h0.tal.portLost = false ∧ l.keep.vfieldOn = false ∧ two.keep.vcoreOk = true :=
  ⟨⟨0, by decide +kernel⟩, by decide +kernel⟩

theorem wit_ResetsClearWhatTheyName :
    let h (b : Bool) : State := { two with mbx := { two.mbx with hostReset := b } }
    let m := (run warden).onWin .h0 fun w => { w with slots := 1 }
    let r := m.onEx .h0 fun e => { e with mode := mReading }
    let c := m.onWin .h0 fun w => { w with closed := List.replicate 4 closedWin, num := 4 }
    mayWrite (run warden) .h0 .h0 true ∧ mayWrite m .h0 .h0 true ∧ hostAbsent (h true) = false ∧ (h true).mbx.hostReset = true ∧
    hostAbsent (h false) = false ∧ (h false).mbx.hostReset = false ∧ (run warden).h0.win.slots = 0 ∧ 0 < m.h0.win.slots ∧
    noWindow m .h0 = false ∧ (run warden).h0.win.group = false ∧ m.running .h0 = true ∧ m.mode .h0 ≠ mReading ∧ r.mode .h0 = mReading ∧
    closeBlocked c .h0 = true ∧ 0 < c.h0.win.slots ∧ settleWaits m .h0 = false ∧ settleWaits c .h0 = false ∧
    m.h0.win.oldest.toNat < (m.h0.win.num + 1).toNat ∧ c.h0.win.oldest.toNat < (c.h0.win.num + 1).toNat ∧
    (∀ x ∈ [run warden, m, r, c], x.h0.ex.running = some 0 ∧ stW (x.bank .h0 0).status = true) ∧
    (∀ x ∈ [run warden, m, r], closeBlocked x .h0 = false ∧ x.h0.ex.arith = none ∧ voidRead x.h0.ex = none ∧ x.h0.win.closed = [] ∧
      x.h0.win.acts = [] ∧ x.h0.ex.rstPend = []) :=
  ⟨⟨0, by decide +kernel⟩, ⟨0, by decide +kernel⟩, by decide +kernel⟩

theorem wit_AdmissionAndSag :
    let c (t : SchTable) : State := two.onSch .h0 fun c => { c with checking := some (.table t) }
    let bad : SchTable := { two.h0.sch.active with entries := [(3, { SchEntry.zero with valid := true, budget := 63 })] }
    let low : State := { two with keep := { two.keep with vfield := 41 } }
    mayWrite (run warden) .h0 .h1 true ∧ (run warden).h1.sch.checking = none ∧
    (admission (c two.h0.sch.active) .h0 two.h0.sch.active two.h0.gov.cap).1 = 0 ∧ (admission (c bad) .h0 bad two.h0.gov.cap).1 ≠ 0 ∧
    two.running .h0 = true ∧ (0 : Octet).toNat < two.h0.gov.sagThr.toNat ∧ two.h0.gov.sag = false ∧ belowSag low .h0 = true ∧
    low.cht.installed = true ∧ two.h0.gov.sagThr.toNat + 2 ≤ two.keep.vfield.toNat :=
  ⟨⟨0, by decide +kernel⟩, by decide +kernel⟩

/-- A merge-buffer entry of NVM line 0 for tenant 0. -/
def merged (prog : Bool) : MergeEntry := ⟨0, 0, List.replicate 8 ⟨7, false⟩, 255, none, prog, prog, false, none⟩

theorem wit_MemoryUnitsProgramAndPatrol :
    let s (p : Bool) := (run warden).onMem .h0 fun m => { m with merge := [merged p], imgs := [(15, ⟨false, false, false, 8, 0, 64, false⟩)] }
    let e := (s false).onEx .h0 fun e => { e with mode := mEarly }
    let q : ArbReq := ⟨.patrol, 0, 0, 0, .patrol, true⟩
    let y := two.onMem .h0 fun m => { m with arb := [⟨.laneRead, 0, 0, 0, .laneRead, false⟩] }
    mayWrite (s false) .h0 .h0 true ∧ mayWrite e .h0 .h0 true ∧ (s false).lockedMode .h0 = false ∧ e.lockedMode .h0 = true ∧
    nthLine (s false).h0.mem (0 : BitVec 3).toNat = some 0 ∧ (s false).h0.mem.merge[0]? = some (merged false) ∧ (merged false).due = none ∧
    ((s true).h0.mem.merge.find? fun e => e.prog) = some (merged true) ∧ (merged true).img = none ∧ (s true).h0.mem.allocs = [] ∧
    (s true).h0.ex.fencing = false ∧ (s true).h1.ex.fencing = false ∧
    wearOf (s true).h0.mem (nvmBank (mapLine (s true).h0.mem 0)) (physOf (s true).h0.mem (mapLine (s true).h0.mem 0)) < 1000000 ∧
    (sget ImgPair.zero (s true).h0.mem.imgs 15).swap = false ∧ swapRefused (s true).h0.mem 15 (sget ImgPair.zero (s true).h0.mem.imgs 15) = false ∧
    swapRefused (s true).h0.mem 0 (sget ImgPair.zero (s true).h0.mem.imgs 0) = true ∧ two.h0.mem.patrolEn = true ∧
    two.heldInReset .h0 = false ∧ two.h0.mem.bad = [] ∧ two.h0.mem.arb = [] ∧ ({ q with bank := 4 } : ArbReq).programs two.h0.mem = false ∧
    y.h0.mem.patrolEn = true ∧ y.heldInReset .h0 = false ∧ (∃ x ∈ y.h0.mem.arb, x.bank = q.bank) ∧ q ∉ y.h0.mem.arb :=
  ⟨⟨0, by decide +kernel⟩, ⟨0, by decide +kernel⟩, by decide +kernel⟩

theorem wit_CountersDaybookMintAndOwnership :
    let full := { run warden with mct := { two.mct with val := [(255, BitVec.allOnes 36)] } }
    let p (o : StoreOp) : State := { two with store := [⟨o, .h0, false, true, true, false⟩] }
    let e : DbkEntry := ⟨1, 2, 3, 4⟩
    let m (sp : BitVec 2) : State := (run warden).onEx .h0 fun x =>
      { x with mint := ⟨(⟨true, sp, 5, 0, 0, 0o300, 16⟩ : Cap).cell0, (⟨true, sp, 5, 0, 0, 0o300, 16⟩ : Cap).cell1⟩ }
    takes (run warden) .h0 0 0o056400 1 ∧ takes full .h0 0 (0o056400 + 255) 1 ∧ mctLatest full 255 = BitVec.allOnes 36 ∧
    mctLatest (run warden) 0 ≠ BitVec.allOnes 36 ∧ (p (.counter 3 9 0)).store.length = 1 ∧ (p (.daybook .h0 e)).store.length = 1 ∧
    takes (run warden) .h0 0 0o060006 5 ∧ (run warden).h0.dbk.overflow = false ∧ (run warden).h0.dbk.queue.length < 64 ∧
    stW warden.status = true ∧ (∀ sp ∈ [spData, spSealed], (m sp).h0.ex.mintPend = none ∧
      (capOf true (m sp).h0.ex.mint.c0 (m sp).h0.ex.mint.c1).space = sp) ∧
    (let c := capOf true (m spData).h0.ex.mint.c0 (m spData).h0.ex.mint.c1
     c.base.toNat + c.len.toNat ≤ spaceLimit c.space) ∧
    (let b := (run warden).onWin .h0 fun w => { w with slots := 1, num := 4, closed := List.replicate 4 closedWin }
     two.h0.win.blank = true ∧ b.h0.win.blank = false ∧ closeBlocked b .h0 = true ∧ closeBlocked two .h0 = false ∧
     two.h0.ex.arith = none ∧ voidRead two.h0.ex = none ∧ b.h0.ex.running = some 0 ∧ spanOpen two .h0 = true) := by
  unfold takes; decide +kernel

/-! ## Witnesses: span, card, random numbers, tamper, vault, debug, reset -/

theorem wit_SpanCarriesAndRecovers :
    let down (n : Nat) := (two.onSpn .h0 fun p => { p with state := spDown, pa := { p.pa with up := false, good := n } }).onSpn .h1
      fun p => { p with state := spDown, pa := { p.pa with up := false } }
    let sent := two.onSpn .h1 fun p => { p with out := [.genUpdate 5 3] }
    let rec_ := (two.onSpn .h0 fun p => { p with state := spRecovering }).onSpn .h1 fun p => { p with state := spRecovering }
    let gen (k : GenKind) := two.onSpn .h0 fun p => { p with applyGen := [(5, 3, k)] }
    let mig (t : BitVec 10) := (run warden).onSpn .h0 fun p => { p with mig := { p.mig with c0 := atBits t 24 } }
    let lock (k : GenKind) := (gen k).onWin .h0 fun w => { w with sb := [⟨.gen 5 4, 0, false, 0, true, .single, false, writerOf two .h0 0, none, 0⟩] }
    let asked := two.onEx .h0 fun e => { e with mode := mReading }
    let early := (run warden).onEx .h0 fun e => { e with mode := mEarly }
    let nv := early.onSpn .h0 fun p => { p with mig := { p.mig with c0 := atBits (BitVec.ofNat 24 0o4000000) 0 } }
    let fin := two.onSpn .h0 fun p => { p with mig := { p.mig with state := 1, acked := true } }
    mayWrite (run warden) .h0 .h1 true ∧ mayWrite nv .h0 .h0 true ∧ two.isolated = false ∧ two.heldInReset .h0 = false ∧ two.heldInReset .h1 = false ∧
    (∀ n ∈ [14, 15], ((down n).h0.spn.path false).up = false ∨ ((down n).h0.spn.path true).up = false) ∧ pathDisabled two false = false ∧
    pathDisabled two true = false ∧ spanOpen sent .h0 = true ∧ spanOpen sent .h1 = true ∧ sent.h0.spn.replay = false ∧
    sent.h1.spn.out = [.genUpdate 5 3] ∧ flitTaken sent.h0.spn true true true = true ∧ sent.h0.spn.pa.up = true ∧ sent.h0.spn.pb.up = true ∧
    (rec_.h0.spn.state = spRecovering ∧ rec_.h0.spn.out = [] ∧ rec_.h0.spn.applyGen = []) ∧ rec_.h1.spn.state = spRecovering ∧
    (two.mode .h0 ≠ mOff ∧ two.h0.ex.fencing = false ∧ two.h1.ex.fencing = false ∧ asked.mode .h0 = mReading) ∧
    (∀ k ∈ [.update, .answer, .request], (gen k).h0.spn.applyGen = [(5, 3, k)] ∧ (gen k).h0.ex.fed = none ∧ lanesRun (gen k) .h0 = true ∧
      closeBlocked (gen k) .h0 = false ∧ (gen k).h0.ex.arith = none ∧ voidRead (gen k).h0.ex = none ∧ (gen k).h0.ex.waiting = none) ∧
    advanceWaits (gen .request) .h0 5 .request = false ∧ advanceWaits (lock .request) .h0 5 .request = true ∧
    (nv.h0.spn.mig.state ≠ 1 ∧ nv.lockedMode .h0 = true ∧ migInNvm nv.h0.spn.mig = true) ∧
    (run warden).lockedMode .h0 = false ∧ (mig 5).h0.spn.mig.state ≠ 1 ∧ migRefusal (mig 0) .h0 ≠ 0 ∧ migRefusal (mig 5) .h0 = 0 ∧
    fin.h0.spn.mig.state = 1 ∧ fin.h0.spn.mig.acked = true :=
  ⟨⟨0, by decide +kernel⟩, ⟨0, by decide +kernel⟩, by decide +kernel⟩

/-- The card port holds a card in this state and the setup of a transfer. -/
def carded (card : BitVec 2) (dir : Bool) (proto : BitVec 2) : State := { run warden with
  crd := { two.crd with en := true, card := card, dir := dir, p3 := 4, len := 4, cfg := { two.crd.cfg with proto := proto, classC := true } } }

/-- The transfer that a start of this operation through C1 makes. -/
def xfer (s : State) (op : BitVec 3) : CrdXfer :=
  ⟨op, s.snapCap .h0 warden.c1, ⟨0, s.genOf .h0 0, 0⟩, s.crd.off, s.crd.cmd0, startLen s.crd op, s.crd.dir, s.crd.p3, []⟩

/-- The data of a transfer to the card can be read. -/
def fetches (s : State) (op : BitVec 3) : Bool :=
  match (crdFetch s (xfer s op) (xfer s op).len).2 with
  | .ok _ => true
  | .error _ => false

theorem wit_CardTransfersStartAndEnd :
    let s := carded 2 false 0
    let busy := { s with crd := { s.crd with xfer := some (xfer s 1) } }
    let y : CrdXfer := { xfer s 1 with staging := [1, 2, 3, 4] }
    let c := { s with crd := { s.crd with xfer := some y, phase := .commit } }
    s.h0.ex.running = some 0 ∧ s.crd.xfer = none ∧ startRefusal s (xfer s 0) = 0 ∧ startRefusal s (xfer s 1) = 0 ∧
    startRefusal s (xfer s 2) = 0 ∧ fetches s 2 = true ∧ startRefusal (carded 3 true 0) (xfer (carded 3 true 0) 3) = 0 ∧
    startRefusal (carded 3 false 0) (xfer (carded 3 false 0) 3) = 0 ∧ fetches (carded 3 false 0) 3 = true ∧
    startRefusal s (xfer s 4) = 0 ∧ s.crd.cfg.proto ≠ 2 ∧ startRefusal (carded 3 false 2) (xfer (carded 3 false 2) 4) = 0 ∧
    s.bnd.tieSc7816 = true ∧ startRefusal (carded 0 false 0) (xfer (carded 0 false 0) 0) ≠ 0 ∧ busy.crd.xfer.isSome = true ∧
    busy.crd.phase ≠ .commit ∧ c.crd.phase = .commit ∧ y.staging.length = 4 * 1 ∧
    (match crdCheck c y pST (4 * 1) with | .ok a => a == 0 | .error _ => false) = true ∧ stampCurrent c y.stamp = true ∧
    c.mode (gHalf y.stamp.ctx) ≠ mHalt ∧ regionOf 0 = .sram .h0 ∧ c.h0.mem.bad = [] := by decide +kernel

/-- A response of the folio link with these first 16 bits. -/
def response (top : BitVec 16) : BitVec 24 := top ++ (crc7 (bitsMsb top) ++ (1 : BitVec 1))

/-- The card port in this phase, with a transfer of two blocks of this operation. -/
def phased (p : CrdPhase) (op : BitVec 3 := 1) : State :=
  let s := carded 2 false 0
  { s with crd := { s.crd with phase := p, xfer := some { xfer s op with len := 1024 } } }

theorem wit_FolioExchangesFollowTheirRules :
    (phased .wakeUp).isolated = false ∧ (phased .wakeUp).crd.phase = .wakeUp ∧ (CrdPhase.commandResp).waitsResponse = true ∧
    respGood (phased .commandResp).crd 0 = false ∧ (phased .commandResp).crd.tries < 3 ∧
    respGood (phased .resetResp).crd (response 0x3D00) = true ∧ bit (response 0x3D00) 14 = false ∧ bit (response 0x3D00) 15 = false ∧
    respGood (phased .commandResp 0).crd (response 0x0000) = true ∧ respGood (phased .commandResp 1).crd (response 0x2400) = true ∧
    respGood (phased .commandResp 2).crd (response 0x2500) = true ∧ respGood (phased .commandResp 1).crd (response 0x2440) = true ∧
    respGood (phased .commandResp 1).crd (response 0x2480) = true ∧ bit (response 0x2440) 14 = true ∧ bit (response 0x2480) 15 = true ∧
    (phased .dataBlock).crd.w4 = false ∧ ((phased .dataBlock).crd.xst.blocks + 1).toNat < 2 ∧ frameGood 0 512 ⟨0, [], 0, true⟩ = false ∧ (phased .dataBlock).crd.blkTries < 3 ∧
    receiptGood (phased .receipt).crd.xst.blocks 0xC3 = true ∧ (phased .lineBusy).crd.xst.blocks.toNat < 2 ∧
    (carded 0 false 0).crd.en = true ∧ (carded 0 false 0).bnd.tieCard = true ∧ (carded 0 false 0).crd.phase = .idle ∧
    (carded 2 false 0).crd.card ≠ 0 := by decide +kernel

theorem wit_SmartCardExchangesFollowTheirRules :
    let tp (dir : Bool) (p : CrdPhase) : State := { carded 3 dir 2 with
      crd := { (carded 3 dir 2).crd with phase := p, xfer := some { xfer (carded 3 dir 2) 3 with cmd := 0x00B00000 } } }
    let a : State := { two with crd := { two.crd with phase := .atr false, act := { two.crd.act with classB := true } } }
    let k : State := { two with crd := { two.crd with card := 3, act := { two.crd.act with clkstop := true }, pars := { two.crd.pars with clockX := 1 } } }
    let i1 := atrInfo [0x00]
    let i2 := atrInfo [0x10, 0x18]
    i1.offersT0 = true ∧ excludesC i1 = false ∧ i1.ta2 = none ∧ i1.ta1 = none ∧ i2.offersT0 = true ∧ excludesC i2 = false ∧ i2.ta2 = none ∧
    i2.ta1 = some 0x18 ∧ pairDefault 0x18 = false ∧ a.crd.pars.noPps = false ∧ a.crd.phase = .atr false ∧ a.crd.act.classB = true ∧
    (fld (0x00B00000 : HostWord) 16 8 : Octet) = 0xB0 ∧ tpduCount true 4 - (tp true .procedure).crd.xst.count.toNat ≠ 0 ∧
    tpduCount false 4 - (tp false .procedure).crd.xst.count.toNat ≠ 0 ∧ (fld (0x90 : Octet) 4 4 : BitVec 4) = 9 ∧
    (tp true (.rxData true)).crd.xfer.isSome = true ∧ (tp false (.sw2 0x90)).crd.phase = .sw2 0x90 ∧ (CrdPhase.pps).iso = true ∧
    (tp true .procedure).crd.chars < 4 ∧ k.crd.card = 3 ∧ k.crd.pars.clockX ≠ 0 ∧ k.crd.xfer = none ∧ k.crd.phase = .idle ∧
    (tp true .procedure).isolated = false := by decide +kernel

/-- The random number generator runs, and half 0's DRBG is in this state. -/
def random (st : BitVec 2) (d : Drbg) : State :=
  ({ run warden with rng := { two.rng with state := st, seed := true } }).onDrbg .h0 fun _ => d

theorem wit_RandomNumbersAreTestedAndServed :
    let s := random 1 ⟨true, 4096, 0⟩
    let z := random 0 ⟨false, 0, 0⟩
    let raw (n : Nat) : State := { s with rng := { s.rng with raw := true, fifo := List.replicate n ⟨0, false, 5⟩ } }
    let f (n : Nat) : State := { s with rng := { s.rng with fails := [n, n, n, n] } }
    let full := random 1 ⟨true, 524288, 0⟩
    let bare := full.onRng fun q => { q with seed := false }
    let late := (random 1 ⟨true, 4096, 0⟩).onRng fun q => { q with seed := false }
    let cut : State := { raw 1 with keep := { two.keep with inKeep := true } }
    let tie := s.onDrbg .h1 fun _ => ⟨true, 4096, 0⟩
    let idle := (random 1 ⟨true, 5, 0⟩).onDrbg .h1 fun _ => ⟨true, 5, 0⟩
    let user := (random 1 ⟨true, 5, 1⟩).onBank .h0 0 fun b => { b with status := 0 }
    let out := s.onEx .h0 fun e => { e with running := none }
    let lost := s.onTal .h0 fun t => { t with portLost := true }
    s.rng.state = 1 ∧ s.rng.raw = false ∧ s.rng.reseedInt.toNat ≤ s.h0.rng.calls ∧ s.h1.rng.calls < s.h0.rng.calls ∧
    z.rng.state = 0 ∧ z.isolated = false ∧ z.rng.retried = false ∧ ((f 1).rng.fails.length = 4 ∧ (f 1).rng.fails.getD 3 0 < 2) ∧
    2 ≤ (f 2).rng.fails.getD 3 0 ∧ s.h0.ex.running = some 0 ∧ s.h0.tal.portLost = false ∧ (random 1 ⟨true, 5, 1⟩).h0.rng.kept ≠ 0 ∧
    (random 1 ⟨true, 4095, 0⟩).h0.rng.calls < (random 1 ⟨true, 4095, 0⟩).rng.reseedInt.toNat ∧ s.rng.seed = true ∧
    ({ full with rng := { full.rng with seed := false } } : State).rng.seed = false ∧ stW (s.bank .h0 0).status = true ∧
    (raw 1).rng.fifo ≠ [] ∧ (raw 64).rng.fifo.length = 64 ∧ (raw 63).rng.fifo.length < 64 ∧ (raw 1).rng.raw = true ∧
    (cut.isolated = true ∧ out.h0.ex.running = none ∧ lost.h0.tal.portLost = true) ∧
    (tie.h0.rng.calls = tie.h1.rng.calls ∧ tie.rng.reseedInt.toNat ≤ tie.h1.rng.calls) ∧
    (∀ g ∈ [HalfId.h0, .h1], (idle.half g).rng.ready = true ∧ (idle.half g).rng.calls < idle.rng.reseedInt.toNat) ∧
    (s.rng.resumes = false ∧ (s.onRng fun q => { q with resumes := true }).rng.resumes = true ∧ z.h0.rng.ready = false) ∧
    (bare.h0.rng.kept = 0 ∧ 524288 ≤ bare.h0.rng.calls ∧ bare.rng.seed = false ∧ late.rng.seed = false ∧
      late.h0.rng.calls < 524288 ∧ late.rng.reseedInt.toNat ≤ late.h0.rng.calls) ∧
    (stW (user.bank .h0 0).status = false ∧ user.h0.ex.running = some 0 ∧ s.rng.fifo = []) := by decide +kernel

theorem wit_RandomWritesAreMade : mayWrite (random 1 ⟨true, 0, 0⟩) .h0 .h0 true ∧
    (let r := (random 1 ⟨true, 0, 0⟩).onRng fun q => { q with raw := true }
     mayWrite r .h0 .h0 true ∧ r.rng.raw = true) ∧ ¬ mayWrite (two.onEx .h0 fun e => { e with running := none }) .h0 .h0 true :=
  ⟨⟨0, by decide +kernel⟩, ⟨⟨0, by decide +kernel⟩, by decide +kernel⟩, fun ⟨_, h⟩ => by cases h.1⟩

/-- The vault with slot 1023 in this state. -/
def vaulted (st : SlotState) (locked : Bool) (b : Bank) (m : BitVec 3 := mTallied) : State :=
  ({ run b with vlt := { two.vlt with locked := locked, slots := [(1023, ⟨st, 1, 7, .empty⟩)] } }).onEx .h0 fun e => { e with mode := m }

theorem wit_TamperVaultAndFleet :
    let t (r : BitVec 10) : State := { two with keep := { two.keep with resp := r } }
    let l := { two with bnd := { two.bnd with pllLocked := true } }
    let user := { warden with status := 0, tenant := 7 }
    let flt : State := { run warden with flt := { two.flt with head := atBit true 35 ||| atBits (16384 : BitVec 15) 14 } }
    let v := vaulted .assigned false warden
    two.keep.vfieldOn = true ∧ two.keep.vcoreOk = true ∧ (fld (t 0x155).keep.resp 8 2 : BitVec 2) = 1 ∧
    2 ≤ (fld (t 0x2AA).keep.resp 8 2 : BitVec 2).toNat ∧ (fld two.keep.resp 0 2 : BitVec 2).toNat < 3 ∧ two.isolated = false ∧
    l.bnd.holdover = false ∧ l.bnd.pllLocked = true ∧ v.h0.ex.running = some 0 ∧ stW (v.bank .h0 0).status = true ∧ v.vlt.locked = false ∧
    (vltLatest v 1023).state = .assigned ∧ (vltLatest v 1023).key = .empty ∧ v.lockedMode .h0 = false ∧
    (vltLatest (vaulted .free false warden) 1023).state = .free ∧ (vltLatest (vaulted .filled false warden) 1023).state = .filled ∧
    (vaulted .assigned false warden mEarly).lockedMode .h0 = true ∧ (vaulted .assigned true warden).vlt.locked = true ∧
    stW ((vaulted .filled false user).bank .h0 0).status = false ∧ (vltLatest (vaulted .filled false user) 1023).owner = user.tenant ∧
    (vltLatest (vaulted .filled false user) 1023).owner ≠ 0 ∧
    (match (vltFetch v (writerOf v .h0 0) (v.snapCap .h0 ((v.bank .h0 0).cap v.vlt.impN))).2 with
      | .ok _ => true
      | .error _ => false) = true ∧
    fltSize flt = 16384 ∧ fltSize two = 0 ∧ fltBit flt.flt.stored 16383 = false ∧ fltPending flt 16383 = false := by decide +kernel

theorem wit_FleetRevocationIsTaken : takes (run warden) .h0 0 0o052112 (atBit true 35 ||| atBits (16383 : BitVec 14) 0) := by
  unfold takes; decide +kernel

/-- The debug unit open and attached. -/
def debugged (s : State) (attach : Bool := true) : State := { s with dbg := { s.dbg with lock := .open_, attach := attach } }

/-- Half 0 halted from TALLIED, with the debugger attached. -/
def halted : State := debugged ((run warden).onEx .h0 fun e => { e with mode := mHalt, modeBefore := mTallied })

theorem wit_DebuggerHaltsFeedsAndTraces :
    let permit := { two with cht := { two.cht with buf := [(10, 40), (46, 1)] } }
    let chal := { permit with dbg := { permit.dbg with chalValid := true } }
    let bp (x : Cell) : State := debugged { run warden with dbg := { two.dbg with bp := [(7, x)] } }
    let room := halted.onEx .h0 fun e => { e with modeBefore := mReading }
    let b (n k : Nat) : State := debugged { two with dbg := { two.dbg with buf := List.replicate n [1, 2, 3, 4], taken := k, trcEn := true } }
    let own := (debugged two).onUp .h0 fun u => { u with resetReq := true }
    outranked (debugged two) .h0 = false ∧ outranked (bp (atBit true 35)) .h0 = false ∧ outranked own .h0 = true ∧
    attached own = true ∧ own.running .h0 = true ∧
    two.isolated = false ∧ dbgOpen (debugged two).dbg = true ∧ dbgOpen two.dbg = false ∧ scanMapped 0o070005 = false ∧
    (debugged two false).dbg.attach = false ∧ feeding two = false ∧ unlockPermitted permit = true ∧ permit.dbg.attach = false ∧
    unlockPermitted two = false ∧ chal.dbg.chalValid = true ∧ attached (debugged two) = true ∧ (debugged two).running .h0 = true ∧
    agreedClose (debugged two) .h0 = true ∧ bit (3 : BitVec 2) (HalfId.h1).toNat = true ∧ halted.mode .h0 = mHalt ∧ halted.h0.ex.fed = none ∧
    attached halted = true ∧ steady (bp (atBit true 35)) .h0 0 = true ∧ bestRequest (bp (atBit true 35)) .h0 = none ∧
    bpMatches (bp (atBit true 35)) .h0 7 0 warden = true ∧ bpMatches (bp (atBit true 35 ||| atBit true 33)) .h0 7 0 warden = true ∧
    feedHalf halted.dbg = .h0 ∧ feeding halted = false ∧ agreedClose halted .h0 = true ∧ room.runMode .h0 = mReading ∧
    halted.runMode .h0 ≠ mReading ∧ halted.h0.ex.fencing = false ∧ regionOf (fld (atBit true 34 : Cell) 0 24) = .sram .h0 ∧
    ((debugged (posting true)).chan 63).en = true ∧ (b 1 2).dbg.taken < 3 ∧ (b 256 3).dbg.buf.length = 256 ∧ (b 255 0).dbg.buf.length < 256 ∧
    (b 1 0).dbg.gap = 0 ∧ two.dbg.trcEn = false ∧ prtAllowed two = false ∧ prtAllowed (debugged two) = true ∧ two.bnd.tieTrace = true ∧
    two.bnd.vpp = true ∧ bit (sget 0 two.bnd.fuses 8) 0 = false ∧ (fld (atBits (8 : Octet) 32 : BitVec 36) 32 4 : BitVec 4) = 8 := by
  decide +kernel

theorem wit_DebugEntersTheHandler : enterable (run warden) .h0 0 cDebug 0o200 ∧ takes (run warden) .h0 0 0o064001 0 := by
  unfold enterable takes; decide +kernel

theorem wit_EveryStepKeepsTheForms : memWf two = true ∧ modesWf two = true ∧ memWf State.reset = true ∧ modesWf State.reset = true := by
  decide +kernel

/-! ## Witnesses: bring-up and the charter -/

/-- The smallest charter: the header with version `v`, one owner key pair of zeros and a signature of zeros. -/
def charterCells (v : Cell) : List Cell :=
  [0o526311620044, atBits (1 : BitVec 12) 24 ||| 1388, v, 0, 0, 0, 0, 0, 40, 504] ++ List.replicate 28 0 ++ [544, 844] ++
    List.replicate 1348 0

/-- The slots as read: the smallest charter in slot 0, no answer from slot 1. -/
def readSlots (l : List Cell) : CharterInput :=
  ⟨⟨true, true, l, true, true, true, true⟩, ⟨false, true, [], true, true, true, true⟩, false⟩

/-- The fuse rows of an owner key's hash. -/
def fuseRows (x : BitVec 256) : Sparse (BitVec 32) := (List.range 8).map fun k => (k, x.extractLsb' (224 - 32 * k) 32)

theorem shift_join (x : BitVec 256) (n : Nat) :
    ((x >>> (n + 32)) <<< 32) ||| (x.extractLsb' n 32).setWidth 256 = x >>> n := by
  ext i hi
  by_cases h : i < 32
  · simp [h, BitVec.getLsbD_eq_getElem]
  · have e : n + 32 + (i - 32) = n + i := by omega
    simp [h, e]

theorem fuseHash_fuseRows (x : BitVec 256) : fuseHash (fuseRows x) = x := by
  have z : (0 : BitVec 256) = x >>> (224 + 32) := by ext i; simp
  have h : fuseHash (fuseRows x) =
      [224, 192, 160, 128, 96, 64, 32, 0].foldl (fun (v : BitVec 256) n => (v <<< 32) ||| (x.extractLsb' n 32).setWidth 256) 0 := rfl
  have e (a b : Nat) (q : b = a + 32) : (x >>> b) <<< 32 ||| (x.extractLsb' a 32).setWidth 256 = x >>> a := by
    rw [q]; exact shift_join x a
  rw [h, z]
  simp only [List.foldl]
  rw [e 224 _ rfl, e 192 _ rfl, e 160 _ rfl, e 128 _ rfl, e 96 _ rfl, e 64 _ rfl, e 32 _ rfl, e 0 _ rfl]
  simp

/-- The block right after power-up and attach, its fuses holding this hash. -/
def powered (x : BitVec 256) : State :=
  let s := State.reset
  { s with keep := { s.keep with vcoreOk := true }, host := { s.host with isoAck := false }, bnd := { s.bnd with loaded := fuseRows x } }

/-- The same with both halves released. -/
def released (x : BitVec 256) : State :=
  ((powered x).onUp .h0 fun u => { u with released := true }).onUp .h1 fun u => { u with released := true }

theorem wit_BringUpReachesEarly :
    let r := released 0
    let none_ : CharterInput := ⟨⟨false, true, [], true, true, true, true⟩, ⟨false, true, [], true, true, true, true⟩, false⟩
    let i := ({ two with cht := { two.cht with installed := false }, rng := { two.rng with state := 1 } }).onEx .h0 fun e => { e with mode := mOff }
    (powered 0).isolated = false ∧ (powered 0).dbg.lock ≠ .relock ∧ (powered 0).h0.up.resetReq = false ∧ (powered 0).h1.up.resetReq = false ∧
    (powered 0).h0.up.released = false ∧ (powered 0).h0.up.stuck = false ∧ (∀ l ∈ lanes, (((powered 0).trec .h0).lane l).fenced = false) ∧
    r.cht.installed = false ∧ r.cht.fault = false ∧ r.cht.slot = 0 ∧ r.cht.seen = none ∧ verifiers r ≠ [] ∧ r.dbg.lock ≠ .armed ∧
    (choiceOf r (verifiers r) none_).slot = none ∧ mayAccept r (verifiers r) none_ = false ∧ installDue i .h0 = true ∧
    (i.dbgHalf .h0).halt = false := by decide +kernel

/-- The smallest charter is accepted where the fuses hold the hash of its owner key. The hash of that key of zeros is not
computed here; by FIPS 202 it is not 0. -/
theorem wit_CharterIsAccepted (h : (slotImage (readSlots (charterCells 1)).slot0).ownerHash ≠ 0) :
    let s := released (slotImage (readSlots (charterCells 1)).slot0).ownerHash
    verifiers s = [.h0, .h1] ∧ (choiceOf s (verifiers s) (readSlots (charterCells 1))).slot = some false := by
  intro s
  have v : verifiers s = [.h0, .h1] := rfl
  have f : fuseHash s.bnd.loaded = (slotImage (readSlots (charterCells 1)).slot0).ownerHash := fuseHash_fuseRows _
  have h0 : slotHeader (readSlots (charterCells 1)).slot0 = 0 := by decide +kernel
  have h1 : slotHeader (readSlots (charterCells 1)).slot1 = 1 := by decide +kernel
  have d : (slotImage (readSlots (charterCells 1)).slot0).directoryOk = true := by decide +kernel
  have z : (slotImage (readSlots (charterCells 1)).slot0).bodyZero = true := by decide +kernel
  have t : (slotImage (readSlots (charterCells 1)).slot0).tablesOk = true := by decide +kernel
  have n : (slotImage (readSlots (charterCells 1)).slot0).version = 1 := by decide +kernel
  have r : slotReason (fuseHash s.bnd.loaded) s.rollback [.h0, .h1] (readSlots (charterCells 1)).slot0 = 0 := by
    unfold slotReason
    rw [f]
    have e : s.rollback = 0 := rfl
    have m : slotMldsa (readSlots (charterCells 1)).slot0 [.h0, .h1] = true := rfl
    have c : slotEcdsa (readSlots (charterCells 1)).slot0 [.h0, .h1] = true := rfl
    simp only [d, z, t, n, e, m, c, h]
    simp
  refine ⟨v, ?_⟩
  rw [v]
  unfold choiceOf chooseSlot
  simp only [h0, h1, r]
  simp

/-- The smallest charter's image. -/
def charterImage : Image := cellTable 0 (charterCells 1)

/-- The warden of half 0 may update the charter from SRAM, which holds the smallest charter there when `held` is set. -/
def updating (held : Bool) (m : BitVec 3 := mTallied) : State :=
  let head := (List.range 20).flatMap fun i => flashPair ((charterCells 1).getD (2 * i) 0) ((charterCells 1).getD (2 * i + 1) 0)
  let cells := (List.range 45).map fun i => (i, TCell.plain (cellOfOctets ((head.drop (4 * i)).take 4)))
  let s := run warden
  let s := { s with cht := { s.cht with ver := 0, buf := [(12, 100), (100, atBit true 32)], updLen := if held then 6246 else 180 }
                    bnd := { s.bnd with loaded := fuseRows charterImage.ownerHash }
                    ram := if held then cells.filter fun e => e.2 != TCell.zero else [] }
  s.onEx .h0 fun e => { e with mode := m }

/-- What CHT_UPDGO reads, none where a read fails. -/
def updated (s : State) : Option Image :=
  match (updateImage s (s.snapCap .h0 warden.c0)).2 with
  | .ok m => some m
  | .error _ => none

theorem wit_CharterUpdatesRunToTheirEnd :
    let p (n left : Nat) : State := { updating true with cht := { (updating true).cht with upd := some ⟨n, left, 6246⟩ } }
    (updating true).h0.ex.running = some 0 ∧ stW ((updating true).bank .h0 0).status = true ∧ imageAbsent (updating true) 0 = false ∧
    (updating true).cht.upd = none ∧ (updating true mEarly).lockedMode .h0 = true ∧ (updating true).lockedMode .h0 = false ∧
    bit (chtCell (updating true) 2 0) 32 = true ∧ (updated (updating false)).isSome = true ∧
    (match updated (updating false) with | some m => updateRejects (updating false) m | none => false) = true ∧
    (∀ n ∈ [1, 4, 5], ∀ l ∈ [1, 2], ((p n l).cht.upd).isSome = true) := by decide +kernel

/-- The first check of the update's words answers their first address. -/
theorem updating_checked : crdCheck (updating true) ⟨0, (updating true).snapCap .h0 warden.c0, ⟨0, 0, 0⟩, (updating true).cht.updOff, 0,
    (updating true).cht.updLen.toNat, false, 0, []⟩ pLD (updating true).cht.updLen.toNat = .ok (BitVec.ofNat 24 0) := by
  have h : (match crdCheck (updating true) ⟨0, (updating true).snapCap .h0 warden.c0, ⟨0, 0, 0⟩, (updating true).cht.updOff, 0,
      (updating true).cht.updLen.toNat, false, 0, []⟩ pLD (updating true).cht.updLen.toNat with
    | .ok a => a == 0
    | .error _ => false) = true := by decide +kernel
  generalize crdCheck (updating true) _ pLD (updating true).cht.updLen.toNat = q at h ⊢
  cases q with
  | ok a => simpa using h
  | error e => cases h

/-- The words the update reads: those that SRAM holds, then zeros. -/
def updateCells : List Cell :=
  ((List.range 45).map fun i => (sget TCell.zero (updating true).ram i).val) ++ List.replicate 1517 0

theorem updateCells_read : ((List.range 1562).map fun i => (sget TCell.zero (updating true).ram
    (BitVec.ofNat 24 (0 + i)).toNat).val) = updateCells := by decide +kernel

theorem updateCells_image : cellTable 0 (flashCells ((octetsOfCells updateCells).take 6246)) = charterImage := by decide +kernel

theorem updating_reads : (crdRead ((updating true).snapCap .h0 warden.c0).cap.tenant 1562 (updating true) (BitVec.ofNat 24 0)).2 =
    .ok updateCells := by
  rw [← updateCells_read]
  exact crdRead_sram _ .h0 1562 (updating true) 0 (by decide +kernel) (by decide +kernel)

theorem updating_takes : (updateImage (updating true) ((updating true).snapCap .h0 warden.c0)).2 = .ok charterImage := by
  have n : (updating true).cht.updLen.toNat = 6246 := by decide +kernel
  have c : cellsFor (updating true).cht.updLen.toNat = 1562 := by decide +kernel
  rw [updateImage_ok (updating true) _ _ updateCells (by omega) (by omega) (by decide +kernel) updating_checked
    (by rw [c]; exact updating_reads), n, updateCells_image]

theorem updated_of_image (s : State) (m : Image) (h : (updateImage s (s.snapCap .h0 warden.c0)).2 = .ok m) : updated s = some m := by
  unfold updated
  rw [h]

theorem wit_CharterUpdateIsRead : updated (updating true) = some charterImage := updated_of_image _ _ updating_takes

theorem wit_CharterUpdateIsTaken : updateRejects (updating true) charterImage = false := by
  unfold updateRejects
  have f : fuseHash (updating true).bnd.loaded = charterImage.ownerHash := fuseHash_fuseRows _
  have h : charterImage.headerReason true true = 0 := by decide +kernel
  have d : charterImage.directoryOk = true := by decide +kernel
  have v : decide (charterImage.version.toNat ≤ (updating true).cht.ver.toNat) = false := by decide +kernel
  simp [f, h, d, v]

end Sys2Proof.Tests
end

/-!
# The forms that every step keeps (R37, R42; O60)

Every function of the model that hands on a state gets one of two lemmas. `core_f` says that `f` touches neither the memories
nor the modes; `wf_f` says that `f` keeps the forms, for the functions that do. Both are simp rules, so a function is dealt with
by the rules of the functions it calls, in the order of the model, up to `exec`.
-/

namespace Sys2Proof.Machine

/-! ## What the forms speak of -/

/-- The part of the state that the forms of R37 and R42 speak of: the memories, the modes of both halves and those they
return to. -/
structure Core where
  ram : Sparse TCell
  nvm : Sparse (Option NvmLine)
  mode0 : BitVec 3
  before0 : BitVec 3
  mode1 : BitVec 3
  before1 : BitVec 3

def State.core (s : State) : Core :=
  ⟨s.ram, s.nvm, s.h0.ex.mode, s.h0.ex.modeBefore, s.h1.ex.mode, s.h1.ex.modeBefore⟩

/-- The forms themselves: canonical memories, and mode codes that R37 assigns. -/
structure Core.Wf (c : Core) : Prop where
  ram : swf TCell.zero c.ram = true
  nvm : swf (none : Option NvmLine) c.nvm = true
  mode0 : legalMode c.mode0 = true
  before0 : legalMode c.before0 = true
  mode1 : legalMode c.mode1 = true
  before1 : legalMode c.before1 = true

theorem core_wf_iff (s : State) : s.core.Wf ↔ memWf s = true ∧ modesWf s = true := by
  rw [memWf_iff, modesWf_iff]
  constructor
  · rintro ⟨hr, hn, h0, hb0, h1, hb1⟩
    exact ⟨⟨hr, hn⟩, ⟨⟨h0, hb0⟩, h1⟩, hb1⟩
  · rintro ⟨⟨hr, hn⟩, ⟨⟨h0, hb0⟩, h1⟩, hb1⟩
    exact ⟨hr, hn, h0, hb0, h1, hb1⟩

theorem core_of_mems_modes {s t : State} (hm : t.mems = s.mems) (hd : t.modes = s.modes) : t.core = s.core := by
  simp_all [State.core, State.mems, State.modes]

theorem Core.Wf.mem {s : State} (hs : s.core.Wf) : memWf s = true := ((core_wf_iff s).1 hs).1

/-- A write of the memories alone. -/
theorem wf_of_memWf {s t : State} (hm : memWf t = true) (hd : t.modes = s.modes) (hs : s.core.Wf) : t.core.Wf :=
  (core_wf_iff t).2 ⟨hm, (modesWf_of_modes hd).trans ((core_wf_iff s).1 hs).2⟩

theorem Core.Wf.mode {s : State} (hs : s.core.Wf) (h : HalfId) : legalMode (s.mode h) = true := by
  cases h
  · exact hs.mode0
  · exact hs.mode1

theorem Core.Wf.before {s : State} (hs : s.core.Wf) (h : HalfId) : legalMode (s.ex h).modeBefore = true := by
  cases h
  · exact hs.before0
  · exact hs.before1

@[simp] theorem legalMode_off : legalMode mOff = true := rfl
@[simp] theorem legalMode_early : legalMode mEarly = true := rfl
@[simp] theorem legalMode_tallied : legalMode mTallied = true := rfl
@[simp] theorem legalMode_paired : legalMode mPaired = true := rfl
@[simp] theorem legalMode_reading : legalMode mReading = true := rfl
@[simp] theorem legalMode_halt : legalMode mHalt = true := rfl
@[simp] theorem legalMode_keep : legalMode mKeep = true := rfl

/-! ## Updates of the state -/

/-- An update of the block outside the halves and the memories. -/
@[simp] theorem core_block (s : State) (evc mbx host crd cht rollback store mct flt vlt rng dbk prt dbg keep tick bnd free
    messages pending) :
    State.core ⟨s.h0, s.h1, evc, mbx, host, crd, cht, rollback, store, mct, flt, vlt, rng, dbk, prt, dbg, keep, tick, bnd, s.ram,
      s.nvm, free, messages, pending⟩ = s.core := by simp only [State.core]

section
variable (s : State) (h : HalfId)

/-- An update of a half that leaves its modes. -/
@[simp] theorem core_onHalf {f : Half → Half} (hm : ∀ x, (f x).ex.mode = x.ex.mode)
    (hb : ∀ x, (f x).ex.modeBefore = x.ex.modeBefore) : (s.onHalf h f).core = s.core := by
  cases h <;> simp [State.core, State.onHalf, State.setHalf, State.half, hm, hb]

@[simp] theorem core_onEx {f : Exec → Exec} (hm : ∀ x, (f x).mode = x.mode)
    (hb : ∀ x, (f x).modeBefore = x.modeBefore) : (s.onEx h f).core = s.core :=
  core_onHalf s h (fun x => hm x.ex) (fun x => hb x.ex)

@[simp] theorem core_onWin (f : Windows → Windows) : (s.onWin h f).core = s.core :=
  core_onHalf s h (fun _ => rfl) (fun _ => rfl)
@[simp] theorem core_onTal (f : Tally → Tally) : (s.onTal h f).core = s.core :=
  core_onHalf s h (fun _ => rfl) (fun _ => rfl)
@[simp] theorem core_onMem (f : MemUnit → MemUnit) : (s.onMem h f).core = s.core :=
  core_onHalf s h (fun _ => rfl) (fun _ => rfl)
@[simp] theorem core_onRkn (f : Reckoner → Reckoner) : (s.onRkn h f).core = s.core :=
  core_onHalf s h (fun _ => rfl) (fun _ => rfl)
@[simp] theorem core_onSch (f : Sched → Sched) : (s.onSch h f).core = s.core :=
  core_onHalf s h (fun _ => rfl) (fun _ => rfl)
@[simp] theorem core_onGov (f : Gov → Gov) : (s.onGov h f).core = s.core :=
  core_onHalf s h (fun _ => rfl) (fun _ => rfl)
@[simp] theorem core_onSpn (f : SpanEnd → SpanEnd) : (s.onSpn h f).core = s.core :=
  core_onHalf s h (fun _ => rfl) (fun _ => rfl)
@[simp] theorem core_onDbk (f : DbkQueue → DbkQueue) : (s.onDbk h f).core = s.core :=
  core_onHalf s h (fun _ => rfl) (fun _ => rfl)
@[simp] theorem core_onUp (f : BringUp → BringUp) : (s.onUp h f).core = s.core :=
  core_onHalf s h (fun _ => rfl) (fun _ => rfl)
@[simp] theorem core_setBank (k : BitVec 5) (b : Bank) : (s.setBank h k b).core = s.core :=
  core_onEx s h (fun _ => rfl) (fun _ => rfl)
@[simp] theorem core_onBank (k : BitVec 5) (f : Bank → Bank) : (s.onBank h k f).core = s.core := core_setBank s h k _

end

/-- A half given modes of R37. -/
theorem wf_onEx {s : State} {h : HalfId} {f : Exec → Exec} (hs : s.core.Wf) (hm : legalMode (f (s.ex h)).mode = true)
    (hb : legalMode (f (s.ex h)).modeBefore = true) : (s.onEx h f).core.Wf := by
  cases h
  · exact { hs with mode0 := hm, before0 := hb }
  · exact { hs with mode1 := hm, before1 := hb }

/-! ## Choices, lists and pairs -/

section
variable {c : Prop} [Decidable c]

@[simp] theorem core_ite {a b : State} : (if c then a else b).core = if c then a.core else b.core := apply_ite ..
@[simp] theorem mode_ite {a b : Exec} : (if c then a else b).mode = if c then a.mode else b.mode := apply_ite ..
@[simp] theorem modeBefore_ite {a b : Exec} :
    (if c then a else b).modeBefore = if c then a.modeBefore else b.modeBefore := apply_ite ..
@[simp] theorem scanAns_ite {a b : ScanAns} : (if c then a else b).s = if c then a.s else b.s := apply_ite ..
@[simp] theorem hostAns_ite {a b : HostAns} : (if c then a else b).s = if c then a.s else b.s := apply_ite ..
@[simp] theorem wf_ite {a b : Core} : (if c then a else b).Wf ↔ if c then a.Wf else b.Wf := by split <;> exact Iff.rfl

end

/-- A step made for every entry of a list leaves the core where each leaves it. -/
theorem core_foldl {β : Type} {f : State → β → State} (hf : ∀ t x, (f t x).core = t.core) (l : List β) :
    ∀ t, (l.foldl f t).core = t.core := by
  induction l with
  | nil => exact fun _ => rfl
  | cons x l ih => exact fun t => (ih _).trans (hf t x)

/-- A step made for every entry of a list keeps the forms where each keeps them. -/
theorem wf_foldl {β : Type} {f : State → β → State} (hf : ∀ t x, t.core.Wf → (f t x).core.Wf) (l : List β) :
    ∀ t, t.core.Wf → (l.foldl f t).core.Wf := by
  induction l with
  | nil => exact fun _ ht => ht
  | cons x l ih => exact fun t ht => ih _ (hf t x ht)

/-- The state of a pair that a match has taken apart. -/
theorem core_of_eq {α : Type} {p : State × α} {u : State} {r : α} {c : Core} (e : p = (u, r)) (h : p.1.core = c) :
    u.core = c := by
  rw [e] at h; exact h

theorem wf_of_eq {α : Type} {p : State × α} {u : State} {r : α} (e : p = (u, r)) (h : p.1.core.Wf) : u.core.Wf := by
  rw [e] at h; exact h

/-- What an optional answer, if there is one, satisfies. -/
def OptAll {α : Type} (P : α → Prop) : Option α → Prop
  | none => True
  | some x => P x

section
variable {α β : Type} {P : α → Prop}

@[simp] theorem optAll_none : OptAll P none := trivial
@[simp] theorem optAll_some {x : α} : OptAll P (some x) ↔ P x := Iff.rfl
@[simp] theorem optAll_ite {c : Prop} [Decidable c] {a b : Option α} :
    OptAll P (if c then a else b) ↔ if c then OptAll P a else OptAll P b := by split <;> exact Iff.rfl
@[simp] theorem optAll_map {f : β → α} {o : Option β} : OptAll P (o.map f) ↔ OptAll (fun x => P (f x)) o := by
  cases o <;> exact Iff.rfl
theorem OptAll.of_eq {o : Option α} {x : α} (h : OptAll P o) (e : o = some x) : P x := by
  rw [e] at h; exact h

end

@[simp] theorem wf_getD {o : Option State} {s : State} (ho : OptAll (fun t => t.core.Wf) o) (hs : s.core.Wf) :
    (o.getD s).core.Wf := by
  cases o with
  | none => exact hs
  | some t => exact ho

theorem next_wf {s : State} (hs : s.core.Wf) :
    ∀ t, (.next s : Host.Outcome State Fault Refusal) = .next t → t.core.Wf := by
  intro t e; cases e; exact hs

/-! ## Answers that carry a state -/

/-- The forms hold in every state that the end of an instruction hands on. -/
def Res.Wf : Res → Prop
  | .done d => d.s.core.Wf
  | .faultIn s _ => s.core.Wf
  | .iterFault s _ _ _ => s.core.Wf
  | .whole s => s.core.Wf
  | _ => True

/-- The forms hold in the state that the close before an instruction leaves. -/
def PreClose.Wf : PreClose → Prop
  | .go s => s.core.Wf
  | .stop s => s.core.Wf

/-- The forms hold in the state that a slot of a fed word leaves. -/
def FedNext.Wf : FedNext → Prop
  | .go s _ => s.core.Wf
  | .stop s => s.core.Wf

/-- The effect of an instruction keeps the forms. -/
structure Op.Keeps (o : Op) : Prop where
  run : ∀ {s : State} {h : HalfId} {k : BitVec 5} {b : Bank} {p : Pos}, s.core.Wf → (o.run s h k b p).Wf

/-- The instruction that a fed slot spells, if it spells one, keeps the forms. -/
def Spelled.Keeps : Spelled → Prop
  | .bad _ => True
  | .op _ _ o => o.Keeps

section
variable {s : State} {c : Prop} [Decidable c]

@[simp] theorem res_done (d : Done) : Res.Wf (.done d) ↔ d.s.core.Wf := Iff.rfl
@[simp] theorem res_faultIn (f : FaultInfo) : Res.Wf (.faultIn s f) ↔ s.core.Wf := Iff.rfl
@[simp] theorem res_iterFault (b : Bank) (f : FaultInfo) (p : Pos) : Res.Wf (.iterFault s b f p) ↔ s.core.Wf := Iff.rfl
@[simp] theorem res_whole : Res.Wf (.whole s) ↔ s.core.Wf := Iff.rfl
@[simp] theorem res_fault (f : FaultInfo) : Res.Wf (.fault f) := trivial
@[simp] theorem res_stall : Res.Wf .stall := trivial
@[simp] theorem res_bus (o : OutRead) : Res.Wf (.bus o) := trivial
@[simp] theorem res_clash : Res.Wf .clash := trivial
@[simp] theorem res_lost (f : FaultInfo) : Res.Wf (.lost f) := trivial
@[simp] theorem res_ite {a b : Res} : (if c then a else b).Wf ↔ if c then a.Wf else b.Wf := by split <;> exact Iff.rfl
@[simp] theorem preClose_go : PreClose.Wf (.go s) ↔ s.core.Wf := Iff.rfl
@[simp] theorem preClose_stop : PreClose.Wf (.stop s) ↔ s.core.Wf := Iff.rfl
@[simp] theorem preClose_ite {a b : PreClose} : (if c then a else b).Wf ↔ if c then a.Wf else b.Wf := by split <;> exact Iff.rfl
@[simp] theorem fedNext_go (f : Fed) : FedNext.Wf (.go s f) ↔ s.core.Wf := Iff.rfl
@[simp] theorem fedNext_stop : FedNext.Wf (.stop s) ↔ s.core.Wf := Iff.rfl
@[simp] theorem fedNext_ite {a b : FedNext} : (if c then a else b).Wf ↔ if c then a.Wf else b.Wf := by split <;> exact Iff.rfl
@[simp] theorem spelled_bad (f : FaultInfo) : Spelled.Keeps (.bad f) := trivial
@[simp] theorem spelled_op {f : Form} {enc : BitVec 5 → Bank → Option FaultInfo} {o : Op} (ho : o.Keeps) :
    Spelled.Keeps (.op f enc o) := ho
@[simp] theorem spelled_ite {a b : Spelled} : (if c then a else b).Keeps ↔ if c then a.Keeps else b.Keeps := by
  split <;> exact Iff.rfl

end

/-! ### The tally record and the lanes (R240, R275) -/

@[simp] theorem core_onTrec (s : State) (h : HalfId) (f : TallyRec → TallyRec) : (State.onTrec s h f).core = s.core := by
  simp only [State.onTrec]
  split <;> simp

/-! ### Free values -/

@[simp] theorem core_draw (s : State) : (State.draw s).core = s.core := by simp [State.draw]

/-! ### Sources -/

@[simp] theorem core_setPending (s : State) (src : Nat) : (setPending s src).core = s.core := by simp [setPending]
@[simp] theorem core_coalFire (s : State) (src : Nat) : (coalFire s src).core = s.core := by simp [coalFire]
@[simp] theorem core_raiseSource (s : State) (n : Nat) : (raiseSource s n).core = s.core :=
  core_of_mems_modes (mems_raiseSource ..) (modes_raiseSource ..)
@[simp] theorem core_raiseHalf (s : State) (h : HalfId) (n : Nat) : (raiseHalf s h n).core = s.core :=
  core_of_mems_modes (mems_raiseHalf ..) (modes_raiseHalf ..)
@[simp] theorem core_commonsOverflow (s : State) : (commonsOverflow s).core = s.core := by simp [commonsOverflow]

/-! ### The daybook -/

@[simp] theorem core_dbkLose (s : State) (n : Nat) : (dbkLose s n).core = s.core :=
  core_of_mems_modes (mems_dbkLose ..) (modes_dbkLose ..)
@[simp] theorem core_storePump (s : State) : (storePump s).core = s.core := by simp [storePump]
@[simp] theorem core_storeAdd (s : State) (p : StoreProg) : (storeAdd s p).core = s.core :=
  core_of_mems_modes (mems_storeAdd ..) (modes_storeAdd ..)
@[simp] theorem core_dbkKick (s : State) (h : HalfId) : (dbkKick s h).core = s.core :=
  core_of_mems_modes (mems_dbkKick ..) (modes_dbkKick ..)
@[simp] theorem core_dbkTake (s : State) (h : HalfId) (e : DbkEntry) : (dbkTake s h e).core = s.core :=
  core_of_mems_modes (mems_dbkTake ..) (modes_dbkTake ..)
@[simp] theorem core_reportHalf (s : State) (h : HalfId) (u : DbkUnit) (cls : BitVec 5) (ctx : Option (BitVec 5))
    (lane : Option Lane) (c2 c3 : Cell) : (reportHalf s h u cls ctx lane c2 c3).core = s.core :=
  core_of_mems_modes (mems_reportHalf ..) (modes_reportHalf ..)
@[simp] theorem core_reportCommons (s : State) (u : DbkUnit) (cls : BitVec 5) (c2 c3 : Cell) :
    (reportCommons s u cls c2 c3).core = s.core := by simp [reportCommons]
@[simp] theorem core_dbkEmit (s : State) (h : HalfId) : (dbkEmit s h).core = s.core := by simp [dbkEmit]
@[simp] theorem core_dbkDiscard (s : State) (h : HalfId) : (dbkDiscard s h).core = s.core := by simp [dbkDiscard]

/-! ### Writes -/

@[simp] theorem core_evcSet (s : State) (k : Nat) (b : BitVec 32) : (evcSet s k b).core = s.core := by simp [evcSet]
@[simp] theorem core_evcClr (s : State) (k : Nat) (b : BitVec 32) : (evcClr s k b).core = s.core := by simp [evcClr]
@[simp] theorem core_evcMiss (s : State) : (evcMiss s).core = s.core := by simp [evcMiss]
@[simp] theorem core_evcDoneWrite (s : State) (warden : Bool) (g : BitVec 6) (src : BitVec 8) :
    (evcDoneWrite s warden g src).core = s.core := by simp [evcDoneWrite]
@[simp] theorem core_evcRouteWrite (s : State) (src : Nat) (g : BitVec 6) :
    (evcRouteWrite s src g).core = s.core := by simp [evcRouteWrite]
@[simp] theorem core_evcPriWrite (s : State) (src : Nat) (c : Cell) :
    (evcPriWrite s src c).core = s.core := by simp [evcPriWrite]
@[simp] theorem core_evcCoalWrite (s : State) (src : Nat) (c : Cell) :
    (evcCoalWrite s src c).core = s.core := by simp [evcCoalWrite]
@[simp] theorem core_evcTcmpWrite (s : State) (n : Nat) (lo hi : Cell) :
    (evcTcmpWrite s n lo hi).core = s.core := by simp [evcTcmpWrite]
@[simp] theorem core_evcWrite (s : State) (w : Writer) (o : Nat) (x0 x1 : Cell) :
    (evcWrite s w o x0 x1).core = s.core := by simp [evcWrite]

/-! ### Time (R423) -/

@[simp] theorem core_advance (s : State) (dt : Nat) : (advance s dt).core = s.core := by simp [advance]
theorem wf_execExternalEdge {n : BitVec 7} {level : Bool} {dt : Nat} {s : State} (hs : s.core.Wf) :
    ∀ t, execExternalEdge n level dt s = .next t → t.core.Wf := by
  simp only [execExternalEdge]
  split <;> simp [hs]

/-! ### Line buffers (R185) -/

@[simp] theorem core_lineNotice (s : State) (h : HalfId) (line : Nat) :
    (lineNotice s h line).core = s.core := by simp [lineNotice]

/-! ### Counters of the MEM unit (R341, R342) -/

@[simp] theorem core_perfOne (code : BitVec 6) (h : HalfId) (s : State) (n : Nat) :
    (perfOne code h s n).core = s.core := by simp [perfOne]
@[simp] theorem core_perfCount (s : State) (h : HalfId) (code : BitVec 6) :
    (perfCount s h code).core = s.core := by simp [perfCount]
@[simp] theorem core_perfAccess (s : State) (a : Addr) (reads : Bool) : (perfAccess s a reads).core = s.core := by
  simp only [perfAccess]
  split <;> simp
@[simp] theorem core_perfRun (s : State) (a : Addr) (i : Nat) : (perfRun s a i).core = s.core := by simp [perfRun]

/-! ### The key cache (R323) -/

@[simp] theorem core_keyUse (s : State) (h : HalfId) (t : BitVec 10) : (keyUse s h t).core = s.core := by simp [keyUse]

/-! ### The merge buffer (R325-R328) -/

@[simp] theorem core_nvmFail (s : State) (h : HalfId) (a : Addr) : (nvmFail s h a).core = s.core := by simp [nvmFail]
@[simp] theorem core_mergeAllocate (s : State) (h : HalfId) (line : Nat) (t : BitVec 10) (l : List (Nat × TCell)) :
    (mergeAllocate s h line t l).core = s.core := by
  simp only [mergeAllocate]
  split <;> simp
@[simp] theorem core_lockedDiscard (s : State) (h : HalfId) (line : Nat) (t : BitVec 10) :
    (lockedDiscard s h line t).core = s.core := by simp [lockedDiscard]
@[simp] theorem core_otherDue (s : State) (h : HalfId) (i : Nat) (t : BitVec 10) :
    (otherDue s h i t).core = s.core := by simp [otherDue]
@[simp] theorem core_mergeWrite (s : State) (h : HalfId) (a : Addr) (t : BitVec 10) (c : TCell) :
    (mergeWrite s h a t c).core = s.core := by
  simp only [mergeWrite]
  (repeat' split) <;> simp [*]
@[simp] theorem core_mergeAdmitOne (s : State) (h : HalfId) : (mergeAdmitOne s h).core = s.core := by
  simp only [mergeAdmitOne]
  (repeat' split) <;> simp [*]
@[simp] theorem core_mergeAdmit (h : HalfId) (n : Nat) : ∀ s, (mergeAdmit s h n).core = s.core := by
  induction n with
  | zero => exact fun _ => rfl
  | succ n ih => intro s; simp [mergeAdmit, ih]

/-! ### Reads and writes at home -/

@[simp] theorem core_sramFail (s : State) (h : HalfId) (a : Addr) : (sramFail s h a).core = s.core := by simp [sramFail]
@[simp] theorem core_sramRead (s : State) (h : HalfId) (a : Addr) (r : ReadOutcome) : (sramRead s h a r).1.core = s.core := by
  simp only [sramRead]
  split <;> simp
@[simp] theorem core_nvmRead (s : State) (h : HalfId) (a : Addr) (t : BitVec 10) (r : ReadOutcome) :
    (nvmRead s h a t r).1.core = s.core := by
  simp only [nvmRead]
  (repeat' split) <;> simp [*]
@[simp] theorem core_homeRead (s : State) (a : Addr) (t : BitVec 10) (r : ReadOutcome) :
    (homeRead s a t r).1.core = s.core := by
  simp only [homeRead]
  split <;> simp
@[simp] theorem wf_ramWrite {s : State} {a : Addr} {c : TCell} (hs : s.core.Wf) : (ramWrite s a c).core.Wf :=
  wf_of_memWf (s := s) (ramWrite_memWf s a c hs.mem) rfl hs
@[simp] theorem wf_sramWrite {s : State} {h : HalfId} {a : Addr} {c : TCell} (hs : s.core.Wf) :
    (sramWrite s h a c).core.Wf := by simp [sramWrite, hs]
@[simp] theorem wf_homeWrite {s : State} {a : Addr} {t : BitVec 10} {c : TCell} (hs : s.core.Wf) :
    (homeWrite s a t c).core.Wf := by
  simp only [homeWrite]
  split <;> simp [hs]
@[simp] theorem wf_writeEach {l : List (Addr × BitVec 10 × TCell)} : ∀ {s : State}, s.core.Wf → (writeEach s l).core.Wf := by
  induction l with
  | nil => exact id
  | cons e l ih => exact fun hs => ih (wf_homeWrite hs)
@[simp] theorem core_mendLines (s : State) (l : List Nat) : (mendLines s l).core = s.core := by simp [mendLines]
@[simp] theorem core_meetLine (s : State) (a : Addr) (r : ReadOutcome) : (meetLine s a r).core = s.core := by
  simp only [meetLine]
  split <;> simp
@[simp] theorem wf_homeWritesMeet {s : State} {l : List (Addr × BitVec 10 × TCell)} {r : ReadOutcome} (hs : s.core.Wf) :
    (homeWritesMeet s l r).core.Wf := by
  have ha := core_foldl (f := fun s (x : Addr × BitVec 10 × TCell) => perfAccess s x.1 false) (by simp)
  apply wf_writeEach
  split <;> simp [hs, ha]
@[simp] theorem wf_homeWrites {s : State} {l : List (Addr × BitVec 10 × TCell)} (hs : s.core.Wf) :
    (homeWrites s l).core.Wf := by simp [homeWrites, hs]
@[simp] theorem core_homeReads (n : Nat) : ∀ (s : State) (a : Addr) (t : BitVec 10), (homeReads s a t n).1.core = s.core := by
  induction n with
  | zero => exact fun _ _ _ => rfl
  | succ n ih =>
    intro s a t
    simp only [homeReads]
    split
    · next u c e =>
      have h1 := core_of_eq e (core_homeRead ..)
      split
      · next e2 => exact (core_of_eq e2 (ih ..)).trans h1
      · next e2 => exact (core_of_eq e2 (ih ..)).trans h1
    · next e => exact core_of_eq e (core_homeRead ..)

/-! ### Line programs (R326, R327) -/

@[simp] theorem core_nvmPump (s : State) (h : HalfId) : (nvmPump s h).core = s.core := by
  simp only [nvmPump]
  (repeat' split) <;> simp [*]
@[simp] theorem core_lockLine (s : State) (h : HalfId) (line : Nat) (t : BitVec 10) :
    (lockLine s h line t).core = s.core := by simp [lockLine]
@[simp] theorem wf_programLine {s : State} {h : HalfId} {e : MergeEntry} {fresh : Bool} (hs : s.core.Wf) :
    (programLine s h e fresh).core.Wf := wf_of_memWf (s := s) (programLine_memWf s h e fresh hs.mem) rfl hs
@[simp] theorem wf_lockFailed {s : State} {h : HalfId} {e : MergeEntry} (hs : s.core.Wf) :
    (lockFailed s h e).core.Wf := by simp [lockFailed, hs]
@[simp] theorem wf_runProgram {s : State} {h : HalfId} {e : MergeEntry} {verified again : Bool} (hs : s.core.Wf) :
    (runProgram s h e verified again).core.Wf := by simp [runProgram, hs]
@[simp] theorem core_programEnd (s : State) (h : HalfId) (e : MergeEntry) :
    (programEnd s h e).core = s.core := by simp [programEnd]

/-! ### Memory requests of units (R335) -/

@[simp] theorem core_unitWrite (h : HalfId) (g : BitVec 6) (s : State) (w : Addr × BitVec 10 × TCell) :
    (unitWrite h g s w).core = s.core := by simp [unitWrite]

/-! ### The completion ring (R302, R303) -/

@[simp] theorem core_ringRead (s : State) (h : HalfId) (a : Nat) (t : BitVec 10) :
    (ringRead s h a t).1.core = s.core := by
  grind [ringRead, core_homeRead, core_perfAccess, core_block]
@[simp] theorem core_ringLose (s : State) (h : HalfId) : (ringLose s h).core = s.core := by simp [ringLose]
@[simp] theorem wf_ringPut {s : State} {t : BitVec 10} {a : Nat} {l : List Cell} (hs : s.core.Wf) :
    (ringPut s t a l).core.Wf := by simp [ringPut, hs]
theorem wf_ringRead {s u : State} {h : HalfId} {a : Nat} {t : BitVec 10} {r : Option Cell} (e : ringRead s h a t = (u, r))
    (hs : s.core.Wf) : u.core.Wf := wf_of_eq e (by simpa using hs)

@[simp] theorem wf_completionRing {s : State} {h : HalfId} {t : BitVec 10} {e : List Cell} (hs : s.core.Wf) :
    (completionRing s h t e).core.Wf := by
  simp only [completionRing]
  split
  · next e1 => simpa using wf_ringRead e1 hs
  · next u d e1 =>
    have h1 := wf_ringRead e1 hs
    split
    · simpa using h1
    · split
      · next e2 => simpa using wf_ringRead e2 h1
      · next e2 =>
        have h2 := wf_ringRead e2 h1
        split
        · next e3 => simpa using wf_ringRead e3 h2
        · next e3 =>
          have h3 := wf_ringRead e3 h2
          split
          · split
            · next e4 => simpa using wf_ringRead e4 h3
            · next e4 => exact wf_ringPut (wf_ringRead e4 h3)
          · simp [h3]
@[simp] theorem wf_deliver {s : State} {st : Stamp} {kind : BitVec 4} {id c2 c3 : Cell} {src : Nat} (hs : s.core.Wf) :
    (deliver s st kind id c2 c3 src).core.Wf := by simp [deliver, hs]

/-! ### The end of a reckoner command (R350, R362) -/

@[simp] theorem core_fillSlot (s : State) (h : HalfId) (c : RkCmd) : (fillSlot s h c).core = s.core := by
  simp only [fillSlot]
  split <;> simp
@[simp] theorem wf_completeCmd {h : HalfId} {s : State} {c : RkCmd} (hs : s.core.Wf) : (completeCmd h s c).core.Wf := by
  have hw := core_foldl (f := unitWrite h c.stamp.ctx) fun _ _ => core_unitWrite ..
  apply wf_deliver
  split <;> simp [hs, hw]
@[simp] theorem wf_completeFinished {s : State} {h : HalfId} {num : Cell} (hs : s.core.Wf) :
    (completeFinished s h num).core.Wf :=
  wf_foldl (fun _ _ => wf_completeCmd) _ s hs
@[simp] theorem wf_cmdFinished {s : State} {h : HalfId} {c : RkCmd} (hs : s.core.Wf) :
    (cmdFinished s h c).core.Wf := by simp [cmdFinished, hs]
@[simp] theorem wf_completeIdle {s : State} {h : HalfId} (hs : s.core.Wf) : (completeIdle s h).core.Wf := by
  have hc := wf_foldl (f := completeCmd h) fun _ _ => wf_completeCmd
  simp [completeIdle, hs, hc]

/-! ### Signatures (R246, R247) -/

@[simp] theorem core_signItem (s : State) (h : HalfId) (v : BitVec 64) : (signItem s h v).core = s.core := by simp [signItem]

/-! ### The input log (R263, R265, R267) -/

@[simp] theorem core_logInput (s : State) (h : HalfId) (k : LogKind) (req : Cell) (ctx : BitVec 5) (isolated : Bool)
    (v0 v1 : Cell) : (logInput s h k req ctx isolated v0 v1).core = s.core := by simp [logInput]
@[simp] theorem core_answerInput (s : State) (h : HalfId) (k : LogKind) (req : Cell) (ctx : BitVec 5) (isolated : Bool)
    (v0 v1 : Cell) : (answerInput s h k req ctx isolated v0 v1).core = s.core := by simp [answerInput]

/-! ### The store buffer (R194-R200) -/

@[simp] theorem core_bufferStore (s : State) (h : HalfId) (t : Target) (data : Cell) (tag : Bool) (link : LinkKind)
    (wr : Writer) (snap : Option CapSnap) : (bufferStore s h t data tag link wr snap).core = s.core := by
  simp only [bufferStore]
  split <;> simp
@[simp] theorem core_sealBuffer (s : State) (h : HalfId) : (sealBuffer s h).core = s.core := by simp [sealBuffer]

/-! ### Closes (R242-R249, R255, R281) -/

@[simp] theorem core_prtAfterClose (s : State) (h : HalfId) :
    (prtAfterClose s h).core = s.core := by
  grind [prtAfterClose, core_onWin, core_block]
@[simp] theorem core_actLater (s : State) (h : HalfId) (a : WinAct) : (actLater s h a).core = s.core := by simp [actLater]
@[simp] theorem core_onBankAgreed (s : State) (h : HalfId) (k : BitVec 5) (f : Bank → Bank) :
    (onBankAgreed s h k f).core = s.core := by simp [onBankAgreed]
@[simp] theorem core_gensApply (s : State) (h : HalfId) (p : SbEntry → Bool) : (gensApply s h p).core = s.core :=
  core_foldl (fun _ _ => by split <;> simp) _ s

/-! ### Modes and fences (R37-R40, R284, R493, R563) -/

@[simp] theorem core_rollbackCount (s : State) (h : HalfId) : (rollbackCount s h).core = s.core := by simp [rollbackCount]
@[simp] theorem wf_setMode {s : State} {h : HalfId} {m : BitVec 3} (hm : legalMode m = true) (hs : s.core.Wf) :
    (setMode s h m).core.Wf := by
  have hu := wf_onEx (h := h) (f := fun e => { e with mode := m }) hs hm (hs.before h)
  simp [setMode, hs, hu]
@[simp] theorem wf_setRunMode {s : State} {h : HalfId} {m : BitVec 3} (hm : legalMode m = true) (hs : s.core.Wf) :
    (setRunMode s h m).core.Wf := by
  have hu := wf_onEx (h := h) (f := fun e => { e with modeBefore := m }) hs (hs.mode h) hm
  simp [setRunMode, hs, hu, hm]
@[simp] theorem core_onDbgHalf (s : State) (h : HalfId) (f : DbgHalf → DbgHalf) : (State.onDbgHalf s h f).core = s.core := by
  simp only [State.onDbgHalf]
  split <;> simp
@[simp] theorem wf_tryHalt {s : State} {h : HalfId} (hs : s.core.Wf) : (tryHalt s h).core.Wf := by
  have ht : (s.onDbgHalf h fun _ => DbgHalf.reset).core.Wf := by simpa using hs
  have hu := wf_onEx (h := h) (f := fun e => { e with modeBefore := s.mode h }) ht (ht.mode h) (hs.mode h)
  unfold tryHalt
  split
  · exact wf_setMode rfl hu
  · exact hs
@[simp] theorem core_fenceLane (h : HalfId) (s : State) (l : Lane) : (fenceLane h s l).core = s.core := by simp [fenceLane]
@[simp] theorem wf_afterFence {s : State} {h : HalfId} (hs : s.core.Wf) : (afterFence s h).core.Wf := by
  simp only [afterFence]
  (repeat' split) <;> (try apply_rules [wf_setRunMode]) <;> simp [*]
@[simp] theorem wf_fenceAct {s : State} {h : HalfId} (hs : s.core.Wf) : (fenceAct s h).core.Wf := by
  have hf := core_foldl (f := fenceLane h) fun _ _ => core_fenceLane ..
  simp only [fenceAct]
  split
  · simp [hs]
  · split <;> simp [hs, hf]
@[simp] theorem wf_pllClose {s : State} {h : HalfId} (hs : s.core.Wf) : (pllClose s h).core.Wf := by
  unfold pllClose
  split
  · simp [hs]
  · split
    · simp [hs]
    · split
      · exact wf_setMode legalMode_paired (by simpa using hs)
      · exact hs
@[simp] theorem core_injectStart (s : State) (h : HalfId) : (injectStart s h).core = s.core := by simp [injectStart]
@[simp] theorem core_ownApply (s : State) (h : HalfId) : (ownApply s h).core = s.core := by
  simp only [ownApply]
  split <;> simp
@[simp] theorem wf_atClose {s : State} {h : HalfId} (hs : s.core.Wf) : (atClose s h).core.Wf := by
  simp only [atClose]
  apply_rules [wf_tryHalt, wf_fenceAct, wf_pllClose]
  simp [hs]
@[simp] theorem core_stepClose (s : State) (h : HalfId) : (stepClose s h).core = s.core := by simp [stepClose]
@[simp] theorem core_stepSpend (s : State) (h : HalfId) (n : Nat) : (stepSpend s h n).core = s.core := by simp [stepSpend]
@[simp] theorem wf_closeRaw {s : State} {h : HalfId} {forced : Bool} (hs : s.core.Wf) : (closeRaw s h forced).core.Wf := by
  simp only [closeRaw]
  (repeat' split) <;> (try apply_rules [wf_atClose, wf_completeFinished]) <;> simp [*]
@[simp] theorem core_retireSlot (s : State) (h : HalfId) (p : Pos) (b : Bank) :
    (retireSlot s h p b).core = s.core := by simp [retireSlot]
@[simp] theorem wf_clashClose {s : State} {h : HalfId} (hs : s.core.Wf) : (clashClose s h).core.Wf := by simp [clashClose, hs]

/-! ### Rollback (R201, R253, R256-R259) -/

@[simp] theorem core_rollbackStart (s : State) (h : HalfId) : (rollbackStart s h).core = s.core := by simp [rollbackStart]
@[simp] theorem core_restoreMark (s : State) (h : HalfId) : (restoreMark s h).core = s.core := by
  unfold restoreMark
  split
  · rfl
  · exact core_onHalf s h (fun _ => rfl) (fun _ => rfl)
@[simp] theorem core_restartWindow (s : State) (h : HalfId) : (restartWindow s h).core = s.core := by
  simp only [restartWindow]
  split <;> simp
@[simp] theorem core_firstMark (s : State) (h : HalfId) : (firstMark s h).core = s.core := by simp [firstMark]

/-! ### Admission (R374-R380) -/

@[simp] theorem core_admissionStart (s : State) (h : HalfId) (k : AdmKind) :
    (admissionStart s h k).core = s.core := by simp [admissionStart]
@[simp] theorem core_admissionEnd (s : State) (h : HalfId) : (admissionEnd s h).core = s.core := by
  simp only [admissionEnd]
  split <;> simp
@[simp] theorem core_govBudgetWrite (s : State) (h : HalfId) (v : Cell) :
    (govBudgetWrite s h v).core = s.core := by simp [govBudgetWrite]
@[simp] theorem core_schCommit (s : State) (h : HalfId) : (schCommit s h).core = s.core := by simp [schCommit]
@[simp] theorem core_installAccepted (s : State) (h : HalfId) : (installAccepted s h).core = s.core := by
  simp only [installAccepted]
  split <;> simp

/-! ### Charges (R391, R392) -/

@[simp] theorem core_spend (s : State) (h : HalfId) (n : ℤ) : (spend s h n).core = s.core := by simp [spend]
@[simp] theorem core_spendAllow (s : State) (h : HalfId) (e : Option (BitVec 7)) (n : ℤ) :
    (spendAllow s h e n).core = s.core := by
  simp only [spendAllow]
  split <;> simp
@[simp] theorem core_spendSys (s : State) (h : HalfId) (n : ℤ) : (spendSys s h n).core = s.core := by simp [spendSys]
@[simp] theorem core_leaseBack (s : State) (h : HalfId) (e : Option (BitVec 7)) (l : Lease) :
    (leaseBack s h e l).core = s.core := by simp [leaseBack]
@[simp] theorem core_leaseRelease (s : State) (h : HalfId) (k : BitVec 5) : (leaseRelease s h k).core = s.core := by
  simp only [leaseRelease]
  split <;> simp
@[simp] theorem core_leaseGive (s : State) (h : HalfId) (k : BitVec 5) (i : BitVec 7) (cls : BitVec 4) :
    (leaseGive s h k i cls).core = s.core := by simp [leaseGive]
@[simp] theorem core_leaseCharge (s : State) (h : HalfId) (i : BitVec 7) (cls : BitVec 4) :
    (leaseCharge s h i cls).core = s.core := by simp [leaseCharge]
@[simp] theorem core_leaseRequest (s : State) (h : HalfId) (k : BitVec 5) (cls : BitVec 4) :
    (leaseRequest s h k cls).1.core = s.core := by
  simp only [leaseRequest]
  (repeat' split) <;> simp [*]

/-! ### Standing requests (R392) -/

@[simp] theorem core_countDeferred (s : State) (h : HalfId) (stood : Bool) :
    (countDeferred s h stood).core = s.core := by simp [countDeferred]
@[simp] theorem core_sysCharge (s : State) (h : HalfId) (cls : BitVec 4) :
    (sysCharge s h cls).core = s.core := by simp [sysCharge]
@[simp] theorem core_onProg (s : State) (i : Nat) (f : StoreProg → StoreProg) : (onProg s i f).core = s.core := by
  simp only [onProg]
  split <;> simp
@[simp] theorem core_grantLine (s : State) (h : HalfId) (n : Nat) : (grantLine s h n).core = s.core := by simp [grantLine]
@[simp] theorem core_grantProg (s : State) (h : HalfId) (i : Nat) : (grantProg s h i).core = s.core := by simp [grantProg]
@[simp] theorem core_grantHead (s : State) (h : HalfId) (c : RkCmd) (cls : BitVec 4) (i : BitVec 7) :
    (grantHead s h c cls i).core = s.core := by simp [grantHead]
@[simp] theorem core_standStays (s : State) (h : HalfId) (a : Standing) : (standStays s h a).core = s.core := by
  simp only [standStays]
  split <;> simp

/-! ### Entries (R383-R386) -/

@[simp] theorem core_parkArith (s : State) (h : HalfId) (k : BitVec 5) : (parkArith s h k).core = s.core := by
  simp only [parkArith]
  split <;> simp
@[simp] theorem core_lineResume (s : State) (h : HalfId) : (lineResume s h).core = s.core := by
  simp only [lineResume]
  split <;> simp
@[simp] theorem wf_leaveRunning {s : State} {h : HalfId} (hs : s.core.Wf) : (leaveRunning s h).core.Wf := by
  simp only [leaveRunning]
  split <;> simp [hs]
@[simp] theorem wf_switchTo {s : State} {h : HalfId} {r : Option (BitVec 5)} {cut : Bool} (hs : s.core.Wf) :
    (switchTo s h r cut).core.Wf := by simp [switchTo, hs]
@[simp] theorem core_startLease (s : State) (h : HalfId) (i : BitVec 7) (e : SchEntry) :
    (startLease s h i e).core = s.core := by simp [startLease]
@[simp] theorem wf_startEntry {s : State} {h : HalfId} {i : BitVec 7} {e : SchEntry} (hs : s.core.Wf) :
    (startEntry s h i e).core.Wf := by simp [startEntry, hs]
@[simp] theorem wf_schedPick {s : State} {h : HalfId} (hs : s.core.Wf) : (schedPick s h).core.Wf := by
  simp only [schedPick]
  (repeat' split) <;> simp [*]
@[simp] theorem wf_endEntry {s : State} {h : HalfId} (hs : s.core.Wf) : (endEntry s h).core.Wf := by
  simp only [endEntry]
  split <;> simp [hs]
@[simp] theorem core_useCycles (s : State) (h : HalfId) (n : Nat) : (useCycles s h n).core = s.core := by simp [useCycles]
@[simp] theorem core_useEventCycles (s : State) (h : HalfId) (n : Nat) :
    (useEventCycles s h n).core = s.core := by simp [useEventCycles]
@[simp] theorem wf_schedReturn {s : State} {h : HalfId} (hs : s.core.Wf) : (schedReturn s h).core.Wf := by
  simp only [schedReturn]
  (repeat' split) <;> simp [*]
@[simp] theorem wf_endAndPick {s : State} {h : HalfId} (hs : s.core.Wf) : (endAndPick s h).core.Wf := by simp [endAndPick, hs]

/-! ### The frame (R373, R386-R389, R393) -/

@[simp] theorem core_revokeHeadLease (s : State) (h : HalfId) : (revokeHeadLease s h).core = s.core := by
  simp only [revokeHeadLease]
  (repeat' split) <;> simp [*]
@[simp] theorem core_countSkips (s : State) (h : HalfId) : (countSkips s h).core = s.core := by
  simp only [countSkips]
  split <;> simp
@[simp] theorem wf_cutEntry {s : State} {h : HalfId} (hs : s.core.Wf) : (cutEntry s h).core.Wf := by simp [cutEntry, hs]
@[simp] theorem core_reload (s : State) (h : HalfId) (temp : ℤ) : (reload s h temp).core = s.core := by simp [reload]

/-! ### Supply sag (R394, R395) -/

@[simp] theorem core_withdrawGrants (s : State) (h : HalfId) :
    (withdrawGrants s h).core = s.core := by
  grind [withdrawGrants, core_spendSys, core_spend, core_onGov, core_onDbk, core_onMem, core_block]
@[simp] theorem wf_cutNonEssential {s : State} {h : HalfId} (hs : s.core.Wf) : (cutNonEssential s h).core.Wf := by
  simp only [cutNonEssential]
  split <;> simp [hs]

/-! ### Registers (R397-R403) -/

@[simp] theorem core_schWrite (s : State) (h : HalfId) (o : Nat) (x0 x1 : Cell) :
    (schWrite s h o x0 x1).core = s.core := by simp [schWrite]
@[simp] theorem core_onChan (s : State) (c : BitVec 6) (f : Channel → Channel) :
    (State.onChan s c f).core = s.core := by simp [State.onChan]

/-! ### Stamps and acks (R436, R444) -/

@[simp] theorem core_setAck (s : State) (c : BitVec 6) (inbound : Bool) (a : HostWord) :
    (setAck s c inbound a).core = s.core := by simp [setAck]
@[simp] theorem core_receiverAck (s : State) (c : BitVec 6) (inbound : Bool) (origin : BitVec 2) (code : BitVec 12) :
    (receiverAck s c inbound origin code).core = s.core := by simp [receiverAck]
@[simp] theorem core_ackWrite (s : State) (c : BitVec 6) (inbound : Bool) (origin : BitVec 2) (code : BitVec 12) :
    (ackWrite s c inbound origin code).core = s.core := by simp [ackWrite]

/-! ### Posting and taking (R441, R442) -/

@[simp] theorem core_postEntry (s : State) (c : BitVec 6) (inbound : Bool) (cells : List Cell) (origin : BitVec 2)
    (id : BitVec 10) : (postEntry s c inbound cells origin id).core = s.core := by simp [postEntry]
@[simp] theorem core_hostPost (s : State) (c : BitVec 6) (iid : Octet) :
    OptAll (fun t => t.core = s.core) (hostPost s c iid) := by simp [hostPost]
@[simp] theorem core_blockPost (s : State) (c : BitVec 6) (w : Writer) : (blockPost s c w).core = s.core := by simp [blockPost]
@[simp] theorem core_popEntry (s : State) (c : BitVec 6) (inbound : Bool) : (popEntry s c inbound).core = s.core := by
  simp only [popEntry]
  split <;> simp

/-! ### Resets (R447) -/

@[simp] theorem core_mbxRx (s : State) (c : BitVec 6) (inbound : Bool) : (mbxRx s c inbound).core = s.core := by simp [mbxRx]
@[simp] theorem core_mbxTx (s : State) (c : BitVec 6) (inbound : Bool) : (mbxTx s c inbound).core = s.core := by simp [mbxTx]
@[simp] theorem core_mbxTenantReset (s : State) (t : BitVec 10) : (mbxTenantReset s t).core = s.core :=
  core_foldl (fun _ _ => by simp) _ s
@[simp] theorem core_mbxContextGone (s : State) (b : Bank) : (mbxContextGone s b).core = s.core := by simp [mbxContextGone]
@[simp] theorem core_mbxHomeReset (s : State) (h : HalfId) : (mbxHomeReset s h).core = s.core :=
  core_foldl (fun _ _ => by simp) _ s
@[simp] theorem core_mbxDetachChan (s : State) (c : BitVec 6) : (mbxDetachChan s c).core = s.core := by
  simp only [mbxDetachChan]
  split <;> simp
@[simp] theorem core_mbxDetach (s : State) : (mbxDetach s).core = s.core := by
  have hc := core_foldl (f := mbxDetachChan) core_mbxDetachChan
  simp [mbxDetach, hc]
@[simp] theorem core_mbxBlockReset (s : State) : (mbxBlockReset s).core = s.core := by
  have hc := core_foldl (f := fun s c => s.onChan c Channel.unconfigured) (fun _ _ => core_onChan ..) chanNos (mbxDetach s)
  unfold mbxBlockReset
  generalize chanNos = l at hc ⊢
  simp [hc]
@[simp] theorem core_mbxPowerLoss (s : State) : (mbxPowerLoss s).core = s.core := by simp [mbxPowerLoss]

/-! ### Registers (R439, R440) -/

@[simp] theorem core_mbxRead (s : State) (g : BitVec 6) (o : Nat) :
    OptAll (fun t => t.1.core = s.core) (mbxRead s g o) := by simp [mbxRead]
@[simp] theorem core_mbxCfgWrite (s : State) (c : BitVec 6) (c0 c1 : Cell) :
    (mbxCfgWrite s c c0 c1).core = s.core := by simp [mbxCfgWrite]
@[simp] theorem core_mbxGrantWrite (s : State) (k : Nat) (b : BitVec 32) :
    (mbxGrantWrite s k b).core = s.core := by simp [mbxGrantWrite]
@[simp] theorem core_mbxWrite (s : State) (w : Writer) (o : Nat) (x0 x1 : Cell) :
    (mbxWrite s w o x0 x1).core = s.core := by simp [mbxWrite]

/-! ### The controller's commands -/

@[simp] theorem core_mbxTick (s : State) : (mbxTick s).core = s.core := by simp [mbxTick]
theorem wf_execAckTimeout {c : BitVec 6} {inbound : Bool} {s : State} (hs : s.core.Wf) :
    ∀ t, execAckTimeout c inbound s = .next t → t.core.Wf := by
  simp only [execAckTimeout]
  (repeat' split) <;> simp [*]
theorem wf_execAckDelayedEffect {c : BitVec 6} {inbound : Bool} {s : State} (hs : s.core.Wf) :
    ∀ t, execAckDelayedEffect c inbound s = .next t → t.core.Wf := by
  simp only [execAckDelayedEffect]
  split <;> simp [hs]

/-! ### The queue of programs (R334, R539, R540) -/

@[simp] theorem core_storeSag (s : State) (h : HalfId) (e : DbkEntry) : (storeSag s h e).core = s.core := by simp [storeSag]

/-! ### Monotonic counters (R333, R334) -/

@[simp] theorem core_setMctRes (s : State) (g : BitVec 6) (r : MctRes) : (setMctRes s g r).core = s.core := by simp [setMctRes]
@[simp] theorem core_mctIncrement (s : State) (w : Writer) (k : Octet) :
    (mctIncrement s w k).core = s.core := by simp [mctIncrement]
@[simp] theorem core_mctDone (s : State) (k : Octet) (v : Cell) (g : BitVec 6) :
    (mctDone s k v g).core = s.core := by simp [mctDone]

/-! ### The fleet index (R525-R534) -/

@[simp] theorem core_setFltRes (s : State) (g : BitVec 6) (r : FltRes) : (setFltRes s g r).core = s.core := by simp [setFltRes]
@[simp] theorem core_fltRevoke (s : State) (w : Writer) (m : BitVec 14) : (fltRevoke s w m).core = s.core := by simp [fltRevoke]
@[simp] theorem core_fltDone (s : State) (m : BitVec 14) (gs : List (BitVec 6)) : (fltDone s m gs).core = s.core := by
  unfold fltDone
  exact core_foldl (fun _ _ => by simp) gs _

/-! ### Vault slots (R516, R533) -/

@[simp] theorem core_setVltRes (s : State) (g : BitVec 6) (r : VltRes) : (setVltRes s g r).core = s.core := by simp [setVltRes]
@[simp] theorem core_vltDone (s : State) (i : BitVec 10) (r : VltSlot) (g : Option (BitVec 6)) :
    (vltDone s i r g).core = s.core := by
  simp only [vltDone]
  split <;> simp
@[simp] theorem core_clearResults (s : State) (g : Nat) : (clearResults s g).core = s.core := by simp [clearResults]

/-! ### The daybook ring (R539-R546) -/

@[simp] theorem core_ringWrite (s : State) (e : DbkEntry) : (ringWrite s e).core = s.core := by simp [ringWrite]
@[simp] theorem core_dbkDone (s : State) (h : HalfId) (e : DbkEntry) : (dbkDone s h e).core = s.core := by simp [dbkDone]

/-! ### Completion -/

@[simp] theorem core_storeApply (s : State) (a : StoreOp) : (storeApply s a).core = s.core := by
  simp only [storeApply]
  split <;> simp
theorem wf_execCommonsStoreProgramComplete {s : State} (hs : s.core.Wf) :
    ∀ t, execCommonsStoreProgramComplete s = .next t → t.core.Wf := by
  simp only [execCommonsStoreProgramComplete]
  split <;> simp [hs]

/-! ### Registers of the counters, the fleet index and the daybook -/

@[simp] theorem core_mctWrite (s : State) (w : Writer) (o : Nat) (x0 : Cell) :
    (mctWrite s w o x0).core = s.core := by simp [mctWrite]
@[simp] theorem core_fltWrite (s : State) (w : Writer) (a : Nat) (x0 : Cell) :
    (fltWrite s w a x0).core = s.core := by simp [fltWrite]
@[simp] theorem core_dbkPutWrite (s : State) (w : Writer) (x0 x1 : Cell) :
    (dbkPutWrite s w x0 x1).core = s.core := by simp [dbkPutWrite]
@[simp] theorem core_dbkWrite (s : State) (w : Writer) (o : Nat) (x0 x1 : Cell) :
    (dbkWrite s w o x0 x1).core = s.core := by simp [dbkWrite]

/-! ### Code words and handler heads (R63, R64, R186, R204, R221) -/

@[simp] theorem core_codeRead (s : State) (h : HalfId) (t : BitVec 10) (a : Addr) : (codeRead s h t a).1.core = s.core := by
  unfold codeRead
  generalize codeData a = d
  split
  · rfl
  · have hq : (homeRead (perfAccess s d true) d t .clean).1.core = s.core := by simp
    revert hq
    cases forwarded (s.half h).win d with
    | some c => exact fun _ => rfl
    | none =>
      generalize homeRead _ _ _ _ = q
      obtain ⟨u, r⟩ := q
      cases r <;> exact id
@[simp] theorem core_headTarget (s : State) (h : HalfId) (b : Bank) (c : Nat) :
    (headTarget s h b c).1.core = s.core := by
  grind [headTarget, core_codeRead, core_block]
@[simp] theorem core_headTargets (h : HalfId) (b : Bank) (n : Nat) : ∀ s, (headTargets h b n s).1.core = s.core := by
  induction n with
  | zero => exact fun _ => rfl
  | succ n ih => intro s; simp [headTargets, ih]
@[simp] theorem core_readHeads (s : State) (h : HalfId) (k : BitVec 5) : (readHeads s h k).core = s.core := by
  simp only [readHeads]
  (repeat' split) <;> simp [*]

/-! ### Records and levels (R226-R232) -/

@[simp] theorem core_setRec (s : State) (h : HalfId) (k : BitVec 5) (r : Pair) :
    (setRec s h k r).core = s.core := by simp [setRec]

/-! ### Frames (R159, R166) -/

@[simp] theorem core_pushFrame (s : State) (h : HalfId) (k : BitVec 5) (pl : Place) (p : Pos) (target : Addr) (st : Cell → Cell) :
    (pushFrame s h k pl p target st).core = s.core := by simp [pushFrame]
@[simp] theorem core_stepEnds (s : State) (h : HalfId) : (stepEnds s h).core = s.core := by simp [stepEnds]
@[simp] theorem wf_entryClose {s : State} {h : HalfId} {target : Addr} {cause : BitVec 4} {p : Pos} (hs : s.core.Wf) :
    (entryClose s h target cause p).core.Wf := by
  have hc : ∀ {u : State}, u.core.Wf → (tryHalt (closeRaw u h false) h).core.Wf := fun hu => wf_tryHalt (wf_closeRaw hu)
  simp [entryClose, hs, hc]

/-! ### The return chain (R416) -/

@[simp] theorem core_unlink (s : State) (h : HalfId) (k : BitVec 5) : (unlink s h k).core = s.core := by simp [unlink]
@[simp] theorem wf_endOf {s : State} {h : HalfId} {k : BitVec 5} (hs : s.core.Wf) : (endOf s h k).core.Wf := by
  simp only [endOf]
  split <;> simp [hs]
@[simp] theorem wf_leaveContext {s : State} {h : HalfId} {k : BitVec 5} (hs : s.core.Wf) :
    (leaveContext s h k).core.Wf := by simp [leaveContext, hs]

/-! ### Mints of a context that is gone (R214) -/

@[simp] theorem core_mintDiscard (s : State) (h : HalfId) (k : BitVec 5) :
    (mintDiscard s h k).core = s.core := by
  grind [mintDiscard, core_onEx, core_block]
@[simp] theorem core_clearHeld (s : State) (g : Nat) : (clearHeld s g).core = s.core := by simp [clearHeld]

/-! ### The half restart (R236, R367) -/

@[simp] theorem wf_discardCommands {s : State} {h : HalfId} (hs : s.core.Wf) : (discardCommands s h).core.Wf :=
  wf_foldl (fun _ _ => wf_completionRing) _ _ (by simpa using hs)
@[simp] theorem core_discardLeases (s : State) (h : HalfId) : (discardLeases s h).core = s.core :=
  core_foldl (fun _ _ => by split <;> simp) _ s
@[simp] theorem core_startBoot (s : State) (h : HalfId) (entry : Addr) :
    (startBoot s h entry).core = s.core := by simp [startBoot]
@[simp] theorem core_restartRollback (s : State) (h : HalfId) : (restartRollback s h).core = s.core := by simp [restartRollback]
@[simp] theorem core_bankGone (s : State) (h : HalfId) (k : BitVec 5) : (bankGone s h k).core = s.core := by simp [bankGone]
@[simp] theorem core_loseOthers (s : State) (h : HalfId) : (s.onEx h loseOthers).core = s.core :=
  core_onEx s h (fun x => by rw [loseOthers]) (fun x => by rw [loseOthers])

@[simp] theorem wf_halfRestart {s : State} {h : HalfId} (hs : s.core.Wf) : (halfRestart s h).core.Wf := by
  have he : (endEntry (discardCommands (discardLeases (restartRollback s h) h) h) h).core.Wf :=
    wf_endEntry (wf_discardCommands (by simpa using hs))
  simp [halfRestart, he]

/-! ### Loss and escalation (R231-R235) -/

@[simp] theorem core_loseNow (s : State) (h : HalfId) (k : BitVec 5) (r : Pair) :
    (loseNow s h k r).core = s.core := by simp [loseNow]
@[simp] theorem wf_loadNow {s : State} {h : HalfId} {n : BitVec 5} {b : Bank} (hs : s.core.Wf) :
    (loadNow s h n b).core.Wf := by simp [loadNow, hs]
@[simp] theorem wf_actNow {h : HalfId} {s : State} {a : Cell × WinAct} (hs : s.core.Wf) : (actNow h s a).core.Wf := by
  simp only [actNow]
  split <;> simp [hs]
@[simp] theorem wf_actsSettle {s : State} {h : HalfId} (hs : s.core.Wf) : (actsSettle s h).core.Wf :=
  wf_foldl (fun _ _ => wf_actNow) _ _ (by simpa using hs)
@[simp] theorem wf_contextLost {s : State} {h : HalfId} {k : BitVec 5} {r : Pair} (hs : s.core.Wf) :
    (contextLost s h k r).core.Wf := by
  simp only [contextLost]
  apply_rules [wf_actsSettle, wf_schedReturn, wf_endOf, wf_closeRaw]
  simp [hs]
@[simp] theorem wf_loseOrRestart {s : State} {h : HalfId} {k : BitVec 5} {r : Pair} (hs : s.core.Wf) :
    (loseOrRestart s h k r).core.Wf := by simp [loseOrRestart, hs]
@[simp] theorem wf_escalatedFrame {s : State} {h : HalfId} {pl : Place} {p : Pos} {target : Addr} (hs : s.core.Wf) :
    (escalatedFrame s h pl p target).core.Wf := by simp [escalatedFrame, hs]
@[simp] theorem wf_holdEscalated {s : State} {h : HalfId} {p : Pos} (hs : s.core.Wf) : (holdEscalated s h p).core.Wf := by
  simp only [holdEscalated]
  split <;> simp [hs]
@[simp] theorem wf_enterEscalated {s : State} {h : HalfId} (hs : s.core.Wf) : (enterEscalated s h).core.Wf := by
  simp only [enterEscalated]
  (repeat' split) <;> simp [*]
@[simp] theorem wf_escalate {s : State} {h : HalfId} {k : BitVec 5} {r : Pair} {p : Pos} (hs : s.core.Wf) :
    (escalate s h k r p).core.Wf := by
  simp only [escalate]
  split
  · exact wf_halfRestart hs
  · split
    · exact wf_enterEscalated (by simp [hs])
    · exact wf_actsSettle (wf_enterEscalated (wf_leaveContext (by simp [hs])))

/-! ### Fault entry (R157-R160, R223, R224) -/

@[simp] theorem wf_enterPlaced {s : State} {h : HalfId} {k : BitVec 5} {f : FaultInfo} {imprecise : Bool} {p at_ : Pos}
    {pl : Place} {t : Addr} (hs : s.core.Wf) : (enterPlaced s h k f imprecise p at_ pl t).core.Wf := by simp [enterPlaced, hs]
@[simp] theorem wf_enterFault {s : State} {h : HalfId} {k : BitVec 5} {f : FaultInfo} {imprecise : Bool} {p at_ : Pos}
    (hs : s.core.Wf) : (enterFault s h k f imprecise p at_).core.Wf := by
  simp only [enterFault]
  (repeat' split) <;> simp [*]

/-! ### Faults due at a boundary (R107, R160, R203, R225) -/

@[simp] theorem wf_enterArith {s : State} {h : HalfId} (hs : s.core.Wf) : (enterArith s h).core.Wf := by
  simp only [enterArith]
  split <;> simp [hs]
@[simp] theorem wf_enterBudget {s : State} {h : HalfId} {k : BitVec 5} {b : Bank} {i : BitVec 7} (hs : s.core.Wf) :
    (enterBudget s h k b i).core.Wf := by simp [enterBudget, hs]
@[simp] theorem wf_enterHeld {s : State} {h : HalfId} {k : BitVec 5} {b : Bank} (hs : s.core.Wf) :
    (enterHeld s h k b).core.Wf := by simp [enterHeld, hs]
@[simp] theorem wf_enterBus {s : State} {h : HalfId} {k : BitVec 5} {o : OutRead} (hs : s.core.Wf) :
    (enterBus s h k o).core.Wf := by simp [enterBus, hs]
@[simp] theorem wf_beforeClose {s : State} {h : HalfId} (hs : s.core.Wf) : OptAll (fun t => t.core.Wf) (beforeClose s h) := by
  simp only [beforeClose]
  (repeat' split) <;> simp [*]
@[simp] theorem wf_closeNow {s : State} {h : HalfId} (hs : s.core.Wf) : (closeNow s h).core.Wf :=
  wf_getD (wf_beforeClose hs) (wf_closeRaw hs)
@[simp] theorem wf_enterDue {s : State} {h : HalfId} (hs : s.core.Wf) : OptAll (fun t => t.core.Wf) (enterDue s h) := by
  simp only [enterDue]
  (repeat' split) <;> simp [*]

/-! ### Event entry (R413-R417) -/

@[simp] theorem wf_enterEvent {s : State} {h : HalfId} {k : BitVec 5} {level : BitVec 3} (hs : s.core.Wf) :
    (enterEvent s h k level).core.Wf := by
  simp only [enterEvent]
  split <;> simp [hs]
@[simp] theorem wf_unwind {s : State} {h : HalfId} (hs : s.core.Wf) : (unwind s h).core.Wf := by
  simp only [unwind]
  split
  · split
    · exact wf_getD (wf_beforeClose hs) (wf_schedReturn (by simp [hs]))
    · exact hs
  · exact hs

/-! ### Register writes commanded directly (R15, R86, R210) -/

@[simp] theorem wf_regCommand {s : State} {w h : HalfId} {warden : Bool} {f : Writer → State} (hs : s.core.Wf)
    (hf : ∀ wr, (f wr).core.Wf) : (regCommand s w h warden f).core.Wf := by
  unfold regCommand
  split
  · exact hs
  · exact hf _

/-! ### The hierarchy (R335-R338) -/

@[simp] theorem core_captureRead (s : State) (h : HalfId) (bank : BitVec 4) : (captureRead s h bank).core = s.core := by
  simp only [captureRead]
  split <;> simp
@[simp] theorem core_refreshLine (s : State) (h : HalfId) (line : Nat) : (refreshLine s h line).core = s.core := by
  simp only [refreshLine]
  split <;> simp
@[simp] theorem core_patrolRead (s : State) (h : HalfId) (bank : BitVec 4) (r : ReadOutcome) (twoBits : Bool) :
    (patrolRead s h bank r twoBits).core = s.core := by simp [patrolRead]
@[simp] theorem wf_grantWork {s : State} {h : HalfId} {bank : BitVec 4} {x : GrantInput} {a : ArbWork} (hs : s.core.Wf) :
    (grantWork s h bank x a).core.Wf := by
  simp only [grantWork]
  split <;> simp [hs]
@[simp] theorem core_grantPerf (s : State) (h : HalfId) (r : ArbReq) : (grantPerf s h r).core = s.core := by simp [grantPerf]
@[simp] theorem wf_memoryGrant {s : State} {h : HalfId} {bank : BitVec 4} {x : GrantInput} (hs : s.core.Wf) :
    (memoryGrant s h bank x).core.Wf := by
  simp only [memoryGrant]
  split <;> simp [hs]

/-! ### Returned data (R191, R225) -/

@[simp] theorem core_fillPlace (s : State) (h : HalfId) (place : Nat) (v : Cell) : (fillPlace s h place v).core = s.core := by
  simp only [fillPlace]
  split <;> simp
@[simp] theorem core_returnGood (s : State) (h : HalfId) (o : OutRead) (r : ReadOutcome) :
    (returnGood s h o r).core = s.core := by
  simp only [returnGood]
  split <;> simp
@[simp] theorem core_countFailed (s : State) (o : OutRead) : (countFailed s o).core = s.core := by
  simp only [countFailed]
  (repeat' split) <;> simp [*]
@[simp] theorem core_returnBad (s : State) (h : HalfId) (o : OutRead) : (returnBad s h o).core = s.core := by simp [returnBad]
@[simp] theorem core_grantRetained (s : State) (h : HalfId) : (grantRetained s h).core = s.core := by simp [grantRetained]
@[simp] theorem wf_readReturn {s : State} {h : HalfId} {lanes : LaneRequests} {r : ReadOutcome} (hs : s.core.Wf) :
    (readReturn s h lanes r).core.Wf := by
  simp only [readReturn]
  split <;> simp [hs]

/-! ### Line programs (R326-R328) -/

@[simp] theorem core_sendNotice (s : State) (h : HalfId) (line : Nat) :
    (sendNotice s h line).core = s.core := by simp [sendNotice]
@[simp] theorem wf_programComplete {s : State} {h : HalfId} {verified again : Bool} (hs : s.core.Wf) :
    (programComplete s h verified again).core.Wf := by
  simp only [programComplete]
  (repeat' split) <;> simp [*]
@[simp] theorem core_nvFlush (s : State) (h : HalfId) : (nvFlush s h).core = s.core := by simp [nvFlush]

/-! ### Image pairs (R331, R332) -/

@[simp] theorem core_imageSwap (s : State) (h : HalfId) (k : BitVec 4) : (imageSwap s h k).core = s.core := by simp [imageSwap]
@[simp] theorem core_imgWrite (s : State) (h : HalfId) (k : BitVec 4) (x0 x1 : Cell) :
    (imgWrite s h k x0 x1).core = s.core := by simp [imgWrite]
@[simp] theorem core_exchangeOne (h : HalfId) (s : State) (k : Nat) : (exchangeOne h s k).core = s.core := by simp [exchangeOne]
@[simp] theorem core_exchangeImages (s : State) (h : HalfId) : (exchangeImages s h).core = s.core :=
  core_foldl (fun _ _ => core_exchangeOne ..) _ s

/-! ### Patrols (R317, R340) -/

@[simp] theorem core_patrolAsk (s : State) (h : HalfId) (bank : BitVec 4) (r : ReadOutcome) (twoBits : Bool) :
    (patrolAsk s h bank r twoBits).core = s.core := by simp [patrolAsk]

/-! ### Context resets and mints (R154, R213, R214) -/

@[simp] theorem core_markWithout (s : State) (h : HalfId) (k : BitVec 5) :
    (markWithout s h k).core = s.core := by simp [markWithout]
@[simp] theorem wf_contextReset {s : State} {h : HalfId} {k : BitVec 5} (hs : s.core.Wf) : (contextReset s h k).core.Wf := by
  have hl : ∀ {u : State}, u.core.Wf → (leaveContext u h k).core.Wf := wf_leaveContext
  have hr : ∀ {u : State}, u.core.Wf → (schedReturn u h).core.Wf := wf_schedReturn
  simp only [contextReset, core_mbxContextGone]
  refine hr ?_
  simp only [core_markWithout, core_onBankAgreed, core_bankGone]
  exact hl (by simp [hs])
@[simp] theorem wf_resetsSettle {s : State} {h : HalfId} (hs : s.core.Wf) : (resetsSettle s h).core.Wf :=
  wf_foldl (fun _ _ => wf_contextReset) _ _ (by simpa using hs)
@[simp] theorem wf_settleAgreed {s : State} {h : HalfId} (hs : s.core.Wf) :
    (settleAgreed s h).core.Wf := by simp [settleAgreed, hs]
@[simp] theorem wf_ctxrstGo {s : State} {wr : Writer} {k : BitVec 5} (hs : s.core.Wf) :
    (ctxrstGo s wr k).core.Wf := by simp [ctxrstGo, hs]
@[simp] theorem wf_execContextReset {w : HalfId} {ctx : BitVec 5} {s : State} (hs : s.core.Wf) :
    ∀ t, execContextReset w ctx s = .next t → t.core.Wf :=
  next_wf (wf_regCommand hs fun _ => wf_ctxrstGo (by simpa using hs))
@[simp] theorem core_mintStart (s : State) (wr : Writer) : (mintStart s wr).core = s.core := by simp [mintStart]
@[simp] theorem core_mintDeliver (s : State) (h : HalfId) (k : BitVec 5) : (mintDeliver s h k).core = s.core := by
  simp only [mintDeliver]
  split <;> simp

/-! ### Registers (R226, R237, R331, R339-R342) -/

@[simp] theorem core_perfRead (s : State) (h : HalfId) (n : Nat) : (perfRead s h n).1.core = s.core := by
  simp only [perfRead]
  split <;> simp
@[simp] theorem core_memRead (s : State) (h : HalfId) (k : BitVec 5) (o : Nat) :
    OptAll (fun t => t.1.core = s.core) (memRead s h k o) := by simp [memRead]
@[simp] theorem wf_memWrite {s : State} {wr : Writer} {h : HalfId} {o : Nat} {x0 x1 : Cell} (hs : s.core.Wf) :
    (memWrite s wr h o x0 x1).core.Wf := by simp [memWrite, hs]

/-! ### Standing requests (R392) -/

@[simp] theorem core_headGrant (s : State) (h : HalfId) (c : RkCmd) : OptAll (fun t => t.core = s.core) (headGrant s h c) := by
  simp only [headGrant]
  split <;> simp
@[simp] theorem core_grantStanding (s : State) (h : HalfId) (a : Standing) :
    OptAll (fun t => t.core = s.core) (grantStanding s h a) := by
  simp only [grantStanding]
  split <;> simp
@[simp] theorem core_leaseGrant (s : State) (h : HalfId) : (leaseGrant s h).core = s.core := by
  unfold leaseGrant
  split
  · rfl
  · next q _ =>
    have hg := core_grantStanding s h q
    cases e : grantStanding s h q with
    | none => simp
    | some t => exact hg.of_eq e
@[simp] theorem core_grantAll (h : HalfId) (n : Nat) : ∀ s, (grantAll h n s).core = s.core := by
  induction n with
  | zero => exact fun _ => rfl
  | succ n ih =>
    intro s
    simp only [grantAll]
    split
    · rfl
    · next q _ =>
      split
      · simp
      · next e => exact (ih _).trans ((core_grantStanding s h q).of_eq e)

/-! ### The tick of a half (R33, R245, R272-R277, R373, R386) -/

@[simp] theorem core_waitTick (s : State) (h : HalfId) : (waitTick s h).core = s.core := by simp [waitTick]
@[simp] theorem wf_tickPick {s0 s : State} {h : HalfId} (hs : s.core.Wf) : (tickPick s0 s h).core.Wf := by simp [tickPick, hs]
@[simp] theorem core_tallyTick (s : State) (h : HalfId) : (tallyTick s h).core = s.core := by simp [tallyTick]
@[simp] theorem wf_tickWork {h : HalfId} {s : State} {x : TickInput} (hs : s.core.Wf) : (tickWork h s x).core.Wf := by
  have hc : (cutEntry (countSkips (useCycles s h (tickOf x h).1) h) h).core.Wf := wf_cutEntry (by simp [hs])
  simp only [tickWork, core_dbkKick, core_tallyTick, core_onSch]
  exact wf_tickPick (by simp [hc])
@[simp] theorem wf_ticksSettle {s : State} {h : HalfId} (hs : s.core.Wf) : (ticksSettle s h).core.Wf := by
  unfold ticksSettle
  exact wf_foldl (fun _ _ => wf_tickWork) _ _ (by simp [hs])
@[simp] theorem wf_settleAll {s : State} {h : HalfId} (hs : s.core.Wf) : (settleAll s h).core.Wf := by simp [settleAll, hs]
@[simp] theorem wf_settled {s : State} {h : HalfId} (hs : s.core.Wf) : (settled s h).core.Wf := by simp [settled, hs]
@[simp] theorem wf_tickCut {s : State} {h : HalfId} (hs : s.core.Wf) : (tickCut s h).core.Wf := by
  simp only [tickCut]
  split <;> simp [hs]
@[simp] theorem wf_tickMeet {s : State} {h : HalfId} {acted : Bool} (hs : s.core.Wf) :
    (tickMeet s h acted).core.Wf := by simp [tickMeet, hs]
@[simp] theorem core_tickAwaits (s : State) (h : HalfId) (t : TickInput) :
    (tickAwaits s h t).core = s.core := by simp [tickAwaits]
@[simp] theorem wf_tickHalf {s : State} {h : HalfId} {t : TickInput} (hs : s.core.Wf) :
    (tickHalf s h t).core.Wf := by simp [tickHalf, hs]
@[simp] theorem wf_tickWaiting {s : State} {h : HalfId} {t : TickInput} (hs : s.core.Wf) :
    (tickWaiting s h t).core.Wf := by simp [tickWaiting, hs]
@[simp] theorem wf_tickReach {t : TickInput} {s : State} {h : HalfId} (hs : s.core.Wf) :
    (tickReach t s h).core.Wf := by simp [tickReach, hs]
@[simp] theorem wf_takeEvent {s : State} {h : HalfId} {src : Nat} (hs : s.core.Wf) :
    (takeEvent s h src).core.Wf := by simp [takeEvent, hs]
@[simp] theorem wf_deliverHeld {s : State} {h : HalfId} (hs : s.core.Wf) : OptAll (fun t => t.core.Wf) (deliverHeld s h) := by
  simp only [deliverHeld]
  (repeat' split) <;> simp [*]
@[simp] theorem wf_heldWaiting {s : State} {h : HalfId} (hs : s.core.Wf) : (heldWaiting s h).core.Wf :=
  wf_foldl (fun _ _ => wf_tickWaiting) _ _ (by simpa using hs)
@[simp] theorem wf_sagCut {s : State} {h : HalfId} (hs : s.core.Wf) :
    OptAll (fun t => t.core.Wf) (sagCut s h) := by simp [sagCut, hs]

/-! ### The generator (R371) -/

@[simp] theorem wf_tickAll {s : State} {t : TickInput} (hs : s.core.Wf) : (tickAll s t).core.Wf := by simp [tickAll, hs]
@[simp] theorem core_raiseSync (s : State) : (raiseSync s).core = s.core := by simp [raiseSync]
@[simp] theorem core_tickMissed (s : State) : (tickMissed s).core = s.core := by simp [tickMissed]
@[simp] theorem core_syncTick (s : State) : (syncTick s).core = s.core := by simp [syncTick]

/-! ### Budgets and accounts (R386, R387) -/

@[simp] theorem wf_budgetExpiry {s : State} {h : HalfId} (hs : s.core.Wf) : (budgetExpiry s h).core.Wf := by
  simp only [budgetExpiry]
  split
  · exact hs
  · split
    · simpa using hs
    · exact wf_getD (wf_enterDue (by simpa using hs)) (by simpa using hs)

/-! ### Sag (R394, R395) -/

@[simp] theorem core_vfieldCrossing (level : BitVec 8) (ns : Nat) (s : State) (h : HalfId) :
    (vfieldCrossing level ns s h).core = s.core := by simp [vfieldCrossing]
@[simp] theorem wf_sagStart {s : State} {h : HalfId} (hs : s.core.Wf) : (sagStart s h).core.Wf := by simp [sagStart, hs]

/-! ### What an instruction does -/

@[simp] theorem wf_doneOf {s : State} {b : Bank} {dst : Pos} (hs : s.core.Wf) :
    (doneOf s b dst).s.core.Wf := by simp [doneOf, hs]
@[simp] theorem wf_doneBank {s : State} {b : Bank} {dst : Pos} (hs : s.core.Wf) :
    (doneBank s b dst).Wf := by simp [doneBank, hs]
@[simp] theorem wf_doneStack {s : State} {b : Bank} {dst : Pos} {n : Nat} {l : List Cell} (hs : s.core.Wf) :
    (doneStack s b dst n l).Wf := by simp [doneStack, hs]

/-! ### Stores (R194-R198) -/

@[simp] theorem core_putStores (s : State) (h : HalfId) (wr : Writer) (snap : Option CapSnap) (l : List StoreCell) :
    (putStores s h wr snap l).core = s.core := core_foldl (fun _ _ => core_bufferStore ..) l s

/-! ### Retirement -/

@[simp] theorem core_signSlots (s : State) (h : HalfId) (p : Pos) (d : Done) : (signSlots s h p d).core = s.core := by
  simp only [signSlots]
  (repeat' split) <;> simp [*]
@[simp] theorem wf_retireClose {s : State} {h : HalfId} {close : Bool} (hs : s.core.Wf) :
    (retireClose s h close).core.Wf := by simp [retireClose, hs]
@[simp] theorem wf_yieldEntry {s : State} {h : HalfId} {k : BitVec 5} {used : Nat} (hs : s.core.Wf) :
    (yieldEntry s h k used).core.Wf := by simp [yieldEntry, hs]
@[simp] theorem core_debugReturn (s : State) (h : HalfId) (k : BitVec 5) :
    (debugReturn s h k).core = s.core := by
  grind [debugReturn, core_onEx, core_block]
@[simp] theorem wf_afterRetire {s : State} {h : HalfId} {k : BitVec 5} {p : Pos} {d : Done} (hs : s.core.Wf) :
    (afterRetire s h k p d).core.Wf := by
  simp only [afterRetire]
  split <;> simp [hs]
@[simp] theorem wf_retire {s : State} {h : HalfId} {k : BitVec 5} {wr : Writer} {p : Pos} {d : Done} {joined : Bool}
    {g : Group} (hs : s.core.Wf) : (retire s h k wr p d joined g).core.Wf := by simp [retire, hs]

/-! ### Boundaries -/

@[simp] theorem wf_tickAgain {s : State} {h : HalfId} {acted : Bool} (hs : s.core.Wf) :
    (tickAgain s h acted).core.Wf := by simp [tickAgain, hs]
@[simp] theorem wf_switchAgain {s : State} {h : HalfId} {r : Option (BitVec 5)} {v0 v1 : Cell} (hs : s.core.Wf) :
    (switchAgain s h r v0 v1).core.Wf := by simp [switchAgain, hs]
@[simp] theorem wf_deliverLogged {s : State} {h : HalfId} {e : LogEntry} (hs : s.core.Wf) : (deliverLogged s h e).core.Wf := by
  simp only [deliverLogged]
  split <;> simp [hs]
@[simp] theorem wf_boundary {s : State} {h : HalfId} (hs : s.core.Wf) : OptAll (fun t => t.core.Wf) (boundary s h) := by
  unfold boundary
  split
  · trivial
  · split
    · exact wf_deliverLogged hs
    · split
      · next e => exact (wf_deliverHeld hs).of_eq e
      · split
        · next e => exact (wf_sagCut hs).of_eq e
        · exact wf_enterDue hs
@[simp] theorem wf_preClose {s : State} {h : HalfId} (hs : s.core.Wf) : (preClose s h).Wf := by
  unfold preClose
  split
  · exact hs
  · split
    · exact hs
    · split
      · next e => exact (wf_beforeClose hs).of_eq e
      · exact wf_closeRaw hs
@[simp] theorem wf_raiseAt {s : State} {h : HalfId} {k : BitVec 5} {f : FaultInfo} {p at_ : Pos} (hs : s.core.Wf) :
    (raiseAt s h k f p at_).core.Wf := by simp [raiseAt, hs]
@[simp] theorem wf_raise {s : State} {h : HalfId} {k : BitVec 5} {f : FaultInfo} {p : Pos} (hs : s.core.Wf) :
    (raise s h k f p).core.Wf := by simp [raise, hs]
@[simp] theorem wf_raiseIter {s : State} {h : HalfId} {k : BitVec 5} {b : Bank} {f : FaultInfo} {p at_ : Pos} (hs : s.core.Wf) :
    (raiseIter s h k b f p at_).core.Wf := by simp [raiseIter, hs]
@[simp] theorem wf_raiseBus {s : State} {h : HalfId} {k : BitVec 5} {o : OutRead} (hs : s.core.Wf) :
    (raiseBus s h k o).core.Wf := by simp [raiseBus, hs]

/-! ### Issue -/

@[simp] theorem core_keepLoads (s t : State) (h : HalfId) (k : BitVec 5) : (keepLoads s t h k).core = t.core := by
  simp [keepLoads]
@[simp] theorem core_abandon (s : State) (h : HalfId) : (abandon s h).core = s.core := by
  simp only [abandon]
  split <;> simp
@[simp] theorem wf_retireOrWait {s : State} {h : HalfId} {k : BitVec 5} {wr : Writer} {p : Pos} {o : Op} {d : Done} {joined : Bool}
    (hs : s.core.Wf) (hd : d.s.core.Wf) : (retireOrWait s h k wr p o d joined).core.Wf := by
  simp [retireOrWait, hs, hd]
@[simp] theorem wf_settle {s : State} {h : HalfId} {k : BitVec 5} {wr : Writer} {p : Pos} {o : Op} {joined : Bool}
    {again : State → Res} {r : Res} (hs : s.core.Wf) (ha : ∀ u, u.core.Wf → (again u).Wf) (hr : r.Wf) :
    (settle s h k wr p o joined again r).core.Wf := by
  cases r with
  | done d =>
    simp only [settle]
    split
    · have hp := wf_preClose (h := h) hs
      split
      · next e => rw [e] at hp; exact hp
      · next u e =>
        rw [e] at hp
        have hu := ha u hp
        split
        · next e' => rw [e'] at hu; exact wf_retireOrWait hp hu
        · exact hp
    · exact wf_retireOrWait hs hr
  | fault f => exact wf_raise hs
  | faultIn u f => simp only [settle]; split <;> [exact hs; exact wf_raise hr]
  | iterFault u b f q => simp only [settle]; split <;> [exact hs; exact wf_raiseIter hr]
  | stall => exact hs
  | bus o => exact wf_raiseBus hs
  | clash => exact wf_clashClose hs
  | lost f => simp only [settle]; split <;> [exact hs; exact wf_getD (wf_beforeClose hs) (wf_contextLost hs)]
  | whole u => exact hr
@[simp] theorem wf_runChecked {o : Op} {s : State} {h : HalfId} {k : BitVec 5} {b : Bank} {dst : Pos} (ho : o.Keeps)
    (hs : s.core.Wf) : (runChecked o s h k b dst).Wf := by
  unfold runChecked
  split
  · trivial
  · split
    · split <;> trivial
    · exact ho.run hs
@[simp] theorem wf_issue {s : State} {h : HalfId} {k : BitVec 5} {wr : Writer} {b : Bank} {o : Op} {dst p : Pos}
    (hs : s.core.Wf) (ho : o.Keeps) : (issue s h k wr b o dst p).core.Wf := by
  have hgo : ∀ {u : State} {j}, u.core.Wf → (settle u h k wr p o j (fun s => runChecked o s h k (s.bank h k) dst)
      (runChecked o u h k (u.bank h k) dst)).core.Wf :=
    fun hu => wf_settle hu (fun _ hv => wf_runChecked ho hv) (wf_runChecked ho hu)
  have hp := wf_preClose (h := h) hs
  unfold issue
  extract_lets e joined due go
  clear_value due
  split
  · simp [hs]
  · split
    · split
      · next e => rw [e] at hp; exact hp
      · next e =>
        rw [e] at hp
        split
        · exact hgo hp
        · exact hs
    · exact hgo hs
@[simp] theorem core_dropRepeat (s : State) (h : HalfId) (k : BitVec 5) (rep : Bool) :
    (dropRepeat s h k rep).core = s.core := by simp [dropRepeat]
@[simp] theorem wf_decodeIssue {s : State} {h : HalfId} {k : BitVec 5} {wr : Writer} {f : Form}
    {enc : BitVec 5 → Bank → Option FaultInfo} {o : Op} (hs : s.core.Wf) (ho : o.Keeps) :
    (decodeIssue s h k wr f enc o).core.Wf := by
  simp only [decodeIssue]
  (repeat' split) <;> simp [*]
@[simp] theorem wf_attempt {s : State} {h : HalfId} {f : Form} {rep : Bool} {enc : BitVec 5 → Bank → Option FaultInfo} {o : Op}
    (ho : o.Keeps) (hs : s.core.Wf) : (attempt s h f rep enc o).core.Wf := by
  have hb := wf_boundary (h := h) hs
  have hp : (if windowFull (s.half h).win || prtForces s h || stepDue s h then preClose s h else .go s).Wf := by
    split <;> simp [hs]
  unfold attempt
  split
  · exact hs
  · split
    · next e => exact hb.of_eq e
    · split
      · next e => rw [e] at hp; exact hp
      · next e =>
        rw [e] at hp
        split
        · exact wf_decodeIssue (by simpa using hp) ho
        · exact hp
@[simp] theorem wf_runSlot {s : State} {h : HalfId} {o : Op} (hs : s.core.Wf) (ho : o.Keeps) :
    (runSlot s h o).core.Wf := by simp [runSlot, hs, ho]
@[simp] theorem wf_runExt {s : State} {h : HalfId} {o : Op} (hs : s.core.Wf) (ho : o.Keeps) :
    (runExt s h o).core.Wf := by simp [runExt, hs, ho]
@[simp] theorem wf_runWarden {s : State} {h : HalfId} {o : Op} (hs : s.core.Wf) (ho : o.Keeps) :
    (runWarden s h o).core.Wf := by simp [runWarden, hs, ho]

/-! ### Logged requests (R263-R265) -/

@[simp] theorem wf_request {s : State} {h : HalfId} {k : BitVec 5} {kind : LogKind} {req : Cell} {isolated : Bool}
    {live : State → State × Cell × Cell} (hs : s.core.Wf) (hlive : ∀ v0, v0.core.Wf → (live v0).1.core.Wf) :
    OptAll (fun t => t.1.core.Wf) (request s h k kind req isolated live) := by
  simp only [request]
  (repeat' split) <;> simp [*]
@[simp] theorem wf_pureOp {code : BitVec 6} {cls : PairClass} {pops pushes : Nat} {touch : List Nat} {f : Bank → List Cell} :
    (pureOp code cls pops pushes touch f).Keeps := ⟨wf_doneStack⟩
@[simp] theorem wf_opNop : opNop.Keeps := wf_pureOp
@[simp] theorem wf_opDup : opDup.Keeps := wf_pureOp
@[simp] theorem wf_opDrop : opDrop.Keeps := wf_pureOp
@[simp] theorem wf_opSwap : opSwap.Keeps := wf_pureOp
@[simp] theorem wf_opOver : opOver.Keeps := wf_pureOp
@[simp] theorem wf_opRot : opRot.Keeps := wf_pureOp
@[simp] theorem wf_opNip : opNip.Keeps := wf_pureOp
@[simp] theorem wf_opTuck : opTuck.Keeps := wf_pureOp
@[simp] theorem wf_runTor {s : State} {x : HalfId} {x' : BitVec 5} {b : Bank} {dst : Pos} (hs : s.core.Wf) :
    (runTor s x x' b dst).Wf := by
  simp only [runTor]
  split <;> simp [hs]
@[simp] theorem wf_opTor : opTor.Keeps := ⟨fun hs => by simp [opTor, hs]⟩
@[simp] theorem wf_runFromr {s : State} {x : HalfId} {x' : BitVec 5} {b : Bank} {dst : Pos} (hs : s.core.Wf) :
    (runFromr s x x' b dst).Wf := by
  simp only [runFromr]
  split <;> simp [hs]
@[simp] theorem wf_opFromr : opFromr.Keeps := ⟨fun hs => by simp [opFromr, hs]⟩
@[simp] theorem wf_runAlu {pops : Nat} {f : Bank → AluRes} {s : State} {x : HalfId} {x' : BitVec 5} {b : Bank} {dst : Pos}
    (hs : s.core.Wf) : (runAlu pops f s x x' b dst).Wf := by simp [runAlu, hs]
@[simp] theorem wf_aluOp {code : BitVec 6} {pops : Nat} {touch : List Nat} {f : Bank → AluRes} :
    (aluOp code pops touch f).Keeps := ⟨fun hs => by simp [aluOp, hs]⟩
@[simp] theorem wf_opAdd : opAdd.Keeps := wf_aluOp
@[simp] theorem wf_opSub : opSub.Keeps := wf_aluOp
@[simp] theorem wf_opNeg : opNeg.Keeps := wf_aluOp
@[simp] theorem wf_opAddc : opAddc.Keeps := wf_aluOp
@[simp] theorem wf_binOp {code : BitVec 6} {cls : PairClass} {f : Cell → Cell → Cell} : (binOp code cls f).Keeps := wf_pureOp
@[simp] theorem wf_unOp {code : BitVec 6} {cls : PairClass} {f : Cell → Cell} : (unOp code cls f).Keeps := wf_pureOp
@[simp] theorem wf_opAnd : opAnd.Keeps := wf_binOp
@[simp] theorem wf_opOr : opOr.Keeps := wf_binOp
@[simp] theorem wf_opXor : opXor.Keeps := wf_binOp
@[simp] theorem wf_opNot : opNot.Keeps := wf_unOp
@[simp] theorem wf_opShl : opShl.Keeps := wf_binOp
@[simp] theorem wf_opShr : opShr.Keeps := wf_binOp
@[simp] theorem wf_opSar : opSar.Keeps := wf_binOp
@[simp] theorem wf_opRol : opRol.Keeps := wf_binOp
@[simp] theorem wf_opEq : opEq.Keeps := wf_binOp
@[simp] theorem wf_opLt : opLt.Keeps := wf_binOp
@[simp] theorem wf_opUlt : opUlt.Keeps := wf_binOp
@[simp] theorem wf_opZeq : opZeq.Keeps := wf_unOp
@[simp] theorem wf_opMul : opMul.Keeps := wf_pureOp
@[simp] theorem wf_runDivm {s : State} {x : HalfId} {x' : BitVec 5} {b : Bank} {dst : Pos} (hs : s.core.Wf) :
    (runDivm s x x' b dst).Wf := by simp [runDivm, hs]
@[simp] theorem wf_opDivm : opDivm.Keeps := ⟨fun hs => by simp [opDivm, hs]⟩
@[simp] theorem wf_runUdivm {s : State} {x : HalfId} {x' : BitVec 5} {b : Bank} {dst : Pos} (hs : s.core.Wf) :
    (runUdivm s x x' b dst).Wf := by simp [runUdivm, hs]
@[simp] theorem wf_opUdivm : opUdivm.Keeps := ⟨fun hs => by simp [opUdivm, hs]⟩
@[simp] theorem wf_opPk12 : opPk12.Keeps := wf_pureOp
@[simp] theorem wf_opUp12 : opUp12.Keeps := wf_pureOp
@[simp] theorem wf_opOget : opOget.Keeps := wf_binOp
@[simp] theorem wf_opOput : opOput.Keeps := wf_pureOp

/-! ### Reads of lanes (R191, R197, R290, R335) -/

@[simp] theorem core_startRead (s : State) (h : HalfId) (k : BitVec 5) (o : OutRead) : (startRead s h k o).core = s.core := by
  simp only [startRead]
  split <;> simp
@[simp] theorem wf_loadTop {s : State} {h : HalfId} {k : BitVec 5} {b : Bank} {dst : Pos} {a : Addr} {t : BitVec 10}
    {reg : BitVec 3} {info : BitVec 24} (hs : s.core.Wf) : (loadTop s h k b dst a t reg info).Wf := by
  simp only [loadTop]
  split <;> simp [hs]
@[simp] theorem core_fetchCell (s : State) (h : HalfId) (a : Addr) (t : BitVec 10) (r : ReadOutcome) :
    (fetchCell s h a t r).1.core = s.core := by
  grind [fetchCell, core_homeRead, core_block]

/-! ### LDn and STn (R114, R115) -/

@[simp] theorem wf_runLdn {n : BitVec 2} {s : State} {h : HalfId} {k : BitVec 5} {b : Bank} {dst : Pos} (hs : s.core.Wf) :
    (runLdn n s h k b dst).Wf := by
  simp only [runLdn]
  split <;> simp [hs]
@[simp] theorem wf_opLdn {n : BitVec 2} : (opLdn n).Keeps := ⟨wf_runLdn⟩
@[simp] theorem wf_runStn {n : BitVec 2} {s : State} {h : HalfId} {x : BitVec 5} {b : Bank} {dst : Pos} (hs : s.core.Wf) :
    (runStn n s h x b dst).Wf := by
  simp only [runStn]
  split <;> simp [hs]
@[simp] theorem wf_opStn {n : BitVec 2} : (opStn n).Keeps := ⟨fun hs => by simp [opStn, hs]⟩

/-! ### CLD and CST (R50, R56, R116-R118) -/

@[simp] theorem wf_cldFrom {errs : List (Nat × ReadOutcome)} {s : State} {h : HalfId} {b : Bank} {dst : Pos} {n : BitVec 2}
    {a : Addr} (hs : s.core.Wf) : (cldFrom errs s h b dst n a).Wf := by
  simp only [cldFrom]
  split <;> simp [hs]
@[simp] theorem wf_runCld {errs : List (Nat × ReadOutcome)} {s : State} {h : HalfId} {x : BitVec 5} {b : Bank} {dst : Pos}
    (hs : s.core.Wf) : (runCld errs s h x b dst).Wf := by
  simp only [runCld]
  (repeat' split) <;> simp [*]
@[simp] theorem wf_opCld {errs : List (Nat × ReadOutcome)} : (opCld errs).Keeps := ⟨fun hs => by simp [opCld, hs]⟩
@[simp] theorem wf_cstTo {s : State} {h : HalfId} {b : Bank} {dst : Pos} {n : BitVec 2} {a : Addr} (hs : s.core.Wf) :
    (cstTo s h b dst n a).Wf := by simp [cstTo, hs]
@[simp] theorem wf_runCst {s : State} {h : HalfId} {x : BitVec 5} {b : Bank} {dst : Pos} (hs : s.core.Wf) :
    (runCst s h x b dst).Wf := by
  simp only [runCst]
  (repeat' split) <;> simp [*]
@[simp] theorem wf_opCst : opCst.Keeps := ⟨fun hs => by simp [opCst, hs]⟩

/-! ### CNAR and CGET (R57, R60, R116, R119) -/

@[simp] theorem wf_runCnar {s : State} {x : HalfId} {x' : BitVec 5} {b : Bank} {dst : Pos} (hs : s.core.Wf) :
    (runCnar s x x' b dst).Wf := by
  simp only [runCnar]
  (repeat' split) <;> simp [*]
@[simp] theorem wf_opCnar : opCnar.Keeps := ⟨fun hs => by simp [opCnar, hs]⟩
@[simp] theorem wf_runCget {s : State} {h : HalfId} {x : BitVec 5} {b : Bank} {dst : Pos} (hs : s.core.Wf) :
    (runCget s h x b dst).Wf := by
  simp only [runCget]
  (repeat' split) <;> simp [*]
@[simp] theorem wf_opCget : opCget.Keeps := ⟨fun hs => by simp [opCget, hs]⟩

/-! ### IFETCH (R120, R186) -/

@[simp] theorem wf_runIfetch {s : State} {h : HalfId} {k : BitVec 5} {b : Bank} {dst : Pos} (hs : s.core.Wf) :
    (runIfetch s h k b dst).Wf := by
  unfold runIfetch
  split
  · trivial
  · split
    · exact wf_doneStack (by simp [hs])
    · exact wf_loadTop hs
@[simp] theorem wf_opIfetch : opIfetch.Keeps := ⟨wf_runIfetch⟩

/-! ### Targets (R91) -/

@[simp] theorem wf_transfer {s : State} {b : Bank} {t : Addr} (hs : s.core.Wf) : (transfer s b t).Wf := by simp [transfer, hs]

/-! ### JMP, BZ and BNZ (R83, R124, R172) -/

@[simp] theorem wf_runJmp {t : Addr} {s : State} {h : HalfId} {x : BitVec 5} {b : Bank} {x' : Pos} (hs : s.core.Wf) :
    (runJmp t s h x b x').Wf := by
  simp only [runJmp]
  split <;> simp [hs]
@[simp] theorem wf_opJmp {t : Addr} : (opJmp t).Keeps := ⟨fun hs => by simp [opJmp, hs]⟩
@[simp] theorem wf_runBranch {zero : Bool} {f : BitVec 30} {s : State} {h : HalfId} {x : BitVec 5} {b : Bank} {dst : Pos}
    (hs : s.core.Wf) : (runBranch zero f s h x b dst).Wf := by
  simp only [runBranch]
  (repeat' split) <;> simp [*]
@[simp] theorem wf_opBranch {code : BitVec 6} {zero : Bool} {f : BitVec 30} :
    (opBranch code zero f).Keeps := ⟨fun hs => by simp [opBranch, hs]⟩

/-! ### CALL and CALLI (R80, R81, R125, R164, R165) -/

@[simp] theorem wf_enterCall {s : State} {h : HalfId} {b : Bank} {m : BitVec 5} {target : Nat} {ret : Pos} (hs : s.core.Wf) :
    (enterCall s h b m target ret).Wf := by
  simp only [enterCall]
  (repeat' split) <;> simp [*]
@[simp] theorem wf_opCall {mask : BitVec 6} {t : Addr} : (opCall mask t).Keeps := ⟨wf_enterCall⟩
@[simp] theorem wf_opCalli {mask : BitVec 6} : (opCalli mask).Keeps := ⟨wf_enterCall⟩

/-! ### RET (R92, R126) -/

@[simp] theorem wf_runRet {s : State} {h : HalfId} {x : BitVec 5} {b : Bank} {x' : Pos} (hs : s.core.Wf) :
    (runRet s h x b x').Wf := by
  simp only [runRet]
  (repeat' split) <;> simp [*]
@[simp] theorem wf_opRet : opRet.Keeps := ⟨fun hs => by simp [opRet, hs]⟩

/-! ### LIT and LITH (R83, R85, R172) -/

@[simp] theorem wf_runLit {f : Cell} {s : State} {h : HalfId} {x : BitVec 5} {b : Bank} {dst : Pos} (hs : s.core.Wf) :
    (runLit f s h x b dst).Wf := by
  simp only [runLit]
  (repeat' split) <;> simp [*]
@[simp] theorem wf_opLit {f : Cell} : (opLit f).Keeps := ⟨fun hs => by simp [opLit, hs]⟩
@[simp] theorem wf_runLith {f : BitVec 30} {s : State} {x : HalfId} {x' : BitVec 5} {b : Bank} {dst : Pos} (hs : s.core.Wf) :
    (runLith f s x x' b dst).Wf := by simp [runLith, hs]
@[simp] theorem wf_opLith {f : BitVec 30} : (opLith f).Keeps := ⟨fun hs => by simp [opLith, hs]⟩

/-! ### LOOP (R84, R170, R173) -/

@[simp] theorem wf_runLoop {len : BitVec 6} {s : State} {h : HalfId} {x : BitVec 5} {b : Bank} {dst : Pos} (hs : s.core.Wf) :
    (runLoop len s h x b dst).Wf := by
  simp only [runLoop]
  (repeat' split) <;> simp [*]
@[simp] theorem wf_opLoop {len : BitVec 6} : (opLoop len).Keeps := ⟨fun hs => by simp [opLoop, hs]⟩

/-! ### Cells and X (R135) -/

@[simp] theorem wf_extOp {sel : BitVec 6} {pops pushes : Nat} {touch : List Nat} {f : Bank → List Cell} :
    (extOp sel pops pushes touch f).Keeps := wf_pureOp
@[simp] theorem wf_opClz : opClz.Keeps := wf_extOp
@[simp] theorem wf_opPopc : opPopc.Keeps := wf_extOp
@[simp] theorem wf_opXch : opXch.Keeps := ⟨wf_doneStack⟩
@[simp] theorem wf_opXget : opXget.Keeps := wf_extOp
@[simp] theorem wf_opXput : opXput.Keeps := ⟨wf_doneStack⟩
@[simp] theorem wf_opDepth : opDepth.Keeps := wf_extOp
@[simp] theorem wf_opRdepth : opRdepth.Keeps := wf_extOp
@[simp] theorem wf_opTenant : opTenant.Keeps := wf_extOp
@[simp] theorem wf_opTimeh : opTimeh.Keeps := wf_extOp

/-! ### Spills and fills (R136, R137) -/

@[simp] theorem wf_runSpilld {s : State} {h : HalfId} {x : BitVec 5} {b : Bank} {dst : Pos} (hs : s.core.Wf) :
    (runSpilld s h x b dst).Wf := by
  simp only [runSpilld]
  (repeat' split) <;> simp [*]
@[simp] theorem wf_opSpilld : opSpilld.Keeps := ⟨fun hs => by simp [opSpilld, hs]⟩
@[simp] theorem core_fetchCells (errs : List (Nat × ReadOutcome)) (h : HalfId) (t : BitVec 10) (n : Nat) :
    ∀ (s : State) (a : Addr) (i : Nat), (fetchCells errs s h a t i n).1.core = s.core := by
  induction n with
  | zero => exact fun _ _ _ => rfl
  | succ n ih =>
    intro s a i
    simp only [fetchCells]
    split
    · next e => exact core_of_eq e (by simp)
    · next u c e =>
      have h1 : u.core = s.core := core_of_eq e (by simp)
      split
      · next e2 => exact (core_of_eq e2 (ih ..)).trans h1
      · next e2 => exact (core_of_eq e2 (ih ..)).trans h1
@[simp] theorem wf_runFilld {errs : List (Nat × ReadOutcome)} {s : State} {h : HalfId} {k : BitVec 5} {b : Bank} {dst : Pos}
    (hs : s.core.Wf) : (runFilld errs s h k b dst).Wf := by
  simp only [runFilld]
  split
  · trivial
  · split
    · trivial
    · split
      · next e => exact wf_of_eq e (by simp [hs])
      · next e => exact wf_doneBank (wf_of_eq e (by simp [hs]))
@[simp] theorem wf_opFilld {errs : List (Nat × ReadOutcome)} : (opFilld errs).Keeps := ⟨fun hs => by simp [opFilld, hs]⟩
@[simp] theorem wf_runSpillt {s : State} {h : HalfId} {x : BitVec 5} {b : Bank} {dst : Pos} (hs : s.core.Wf) :
    (runSpillt s h x b dst).Wf := by
  simp only [runSpillt]
  (repeat' split) <;> simp [*]
@[simp] theorem wf_opSpillt : opSpillt.Keeps := ⟨fun hs => by simp [opSpillt, hs]⟩
@[simp] theorem wf_runFillt {errs : List (Nat × ReadOutcome)} {s : State} {h : HalfId} {k : BitVec 5} {b : Bank} {dst : Pos}
    (hs : s.core.Wf) : (runFillt errs s h k b dst).Wf := by
  simp only [runFillt]
  split
  · simp [hs]
  · split
    · trivial
    · split
      · trivial
      · split
        · next e => exact wf_of_eq e (by simp [hs])
        · next e => exact wf_doneBank (wf_of_eq e (by simp [hs]))
@[simp] theorem wf_opFillt {errs : List (Nat × ReadOutcome)} : (opFillt errs).Keeps := ⟨fun hs => by simp [opFillt, hs]⟩

/-! ### Status (R139) -/

@[simp] theorem wf_opGetst : opGetst.Keeps := ⟨wf_doneStack⟩
@[simp] theorem wf_opSetst : opSetst.Keeps := ⟨wf_doneStack⟩

/-! ### RETI (R140, R161, R166, R169, R235) -/

@[simp] theorem wf_runReti {used : Nat} {s : State} {h : HalfId} {k : BitVec 5} {b : Bank} {x : Pos} (hs : s.core.Wf) :
    (runReti used s h k b x).Wf := by
  simp only [runReti]
  (repeat' split) <;> simp [*]
@[simp] theorem wf_opReti {used : Nat} : (opReti used).Keeps := ⟨fun hs => by simp [opReti, hs]⟩

/-! ### YIELD and FENCE (R141, R142, R204, R214) -/

@[simp] theorem wf_opYield {used : Nat} : (opYield used).Keeps := ⟨fun hs => by simp [opYield, hs]⟩
@[simp] theorem core_fenceDone (s : State) (h : HalfId) : (fenceDone s h).core = s.core := by
  simp only [fenceDone]
  (repeat' split) <;> simp [*]
@[simp] theorem wf_opFence : opFence.Keeps := ⟨fun hs => by simp [opFence, hs]⟩

/-! ### Leases, time and fleet (R143-R145) -/

@[simp] theorem wf_pushRequest {o : Option (State × Cell × Cell)} {b : Bank} {dst : Pos} {pops : Nat} {close : Bool}
    (ho : OptAll (fun t => t.1.core.Wf) o) : (pushRequest o b dst pops close).Wf := by
  cases o with
  | none => trivial
  | some t => exact ho
@[simp] theorem wf_runLease {s : State} {h : HalfId} {k : BitVec 5} {b : Bank} {dst : Pos} (hs : s.core.Wf) :
    (runLease s h k b dst).Wf := by simp [runLease, hs]
@[simp] theorem wf_opLease : opLease.Keeps := ⟨wf_runLease⟩
@[simp] theorem wf_runUnlease {s : State} {h : HalfId} {k : BitVec 5} {b : Bank} {dst : Pos} (hs : s.core.Wf) :
    (runUnlease s h k b dst).Wf := by
  unfold runUnlease
  split
  · trivial
  · next e => exact (wf_request hs fun u hu => by simpa using hu).of_eq e
@[simp] theorem wf_opUnlease : opUnlease.Keeps := ⟨wf_runUnlease⟩
@[simp] theorem wf_runTimel {dt : Nat} {s : State} {h : HalfId} {k : BitVec 5} {b : Bank} {dst : Pos} (hs : s.core.Wf) :
    (runTimel dt s h k b dst).Wf := by
  unfold runTimel
  split
  · trivial
  · next e => exact wf_doneStack ((wf_request hs fun u hu => by simpa using hu).of_eq e)
@[simp] theorem wf_opTimel {dt : Nat} : (opTimel dt).Keeps := ⟨wf_runTimel⟩
@[simp] theorem wf_opFleetchk : opFleetchk.Keeps := ⟨fun hs => by simp [opFleetchk, hs]⟩

/-! ### Sealing (R146) -/

@[simp] theorem wf_runSeal {s : State} {x : HalfId} {x' : BitVec 5} {b : Bank} {dst : Pos} (hs : s.core.Wf) :
    (runSeal s x x' b dst).Wf := by
  simp only [runSeal]
  (repeat' split) <;> simp [*]
@[simp] theorem wf_opSeal : opSeal.Keeps := ⟨fun hs => by simp [opSeal, hs]⟩
@[simp] theorem wf_runUnseal {s : State} {x : HalfId} {x' : BitVec 5} {b : Bank} {dst : Pos} (hs : s.core.Wf) :
    (runUnseal s x x' b dst).Wf := by
  simp only [runUnseal]
  (repeat' split) <;> simp [*]
@[simp] theorem wf_opUnseal : opUnseal.Keeps := ⟨fun hs => by simp [opUnseal, hs]⟩

/-! ### CINV (R147, R215-R219) -/

@[simp] theorem wf_cinvEntry {s : State} {h : HalfId} {k : BitVec 5} {b : Bank} {n : BitVec 2} {c : Cap} (hs : s.core.Wf) :
    (cinvEntry s h k b n c).Wf := by simp [cinvEntry, hs]
@[simp] theorem wf_cinvReturn {s : State} {h : HalfId} {b : Bank} {n : BitVec 2} {c : Cap} (hs : s.core.Wf) :
    (cinvReturn s h b n c).Wf := by
  simp only [cinvReturn]
  (repeat' split) <;> simp [*]
@[simp] theorem wf_runCinv {s : State} {h : HalfId} {k : BitVec 5} {b : Bank} {x : Pos} (hs : s.core.Wf) :
    (runCinv s h k b x).Wf := by
  simp only [runCinv]
  (repeat' split) <;> simp [*]
@[simp] theorem wf_opCinv : opCinv.Keeps := ⟨fun hs => by simp [opCinv, hs]⟩

/-! ### CREVOKE (R148, R297, R308) -/

@[simp] theorem wf_runCrevoke {s : State} {h : HalfId} {x : BitVec 5} {b : Bank} {dst : Pos} (hs : s.core.Wf) :
    (runCrevoke s h x b dst).Wf := by simp [runCrevoke, hs]
@[simp] theorem wf_opCrevoke : opCrevoke.Keeps := ⟨fun hs => by simp [opCrevoke, hs]⟩

/-! ### Refusal and acceptance (R347-R350, R360) -/

@[simp] theorem core_passLease (s : State) (h : HalfId) (k : BitVec 5) (c : RkCmd) : (passLease s h k c).1.core = s.core := by
  simp only [passLease]
  (repeat' split) <;> simp [*]
@[simp] theorem core_rkAccept (s : State) (h : HalfId) (k : BitVec 5) (b : Bank) (sel : BitVec 6) (o : List Cell) :
    (rkAccept s h k b sel o).1.core = s.core := by
  simp only [rkAccept]
  split <;> simp
@[simp] theorem wf_runRk {sel : BitVec 6} {n : Nat} {s : State} {h : HalfId} {k : BitVec 5} {b : Bank} {dst : Pos}
    (hs : s.core.Wf) : (runRk sel n s h k b dst).Wf := by simp [runRk, hs]
@[simp] theorem wf_opRk {sel : BitVec 6} {n : Nat} : (opRk sel n).Keeps := ⟨wf_runRk⟩
@[simp] theorem wf_runRkSlot {s : State} {h : HalfId} {o : Op} (hs : s.core.Wf) (ho : o.Keeps) :
    (runRkSlot s h o).core.Wf := by simp [runRkSlot, hs, ho]
@[simp] theorem wf_runRkWarden {s : State} {h : HalfId} {o : Op} (hs : s.core.Wf) (ho : o.Keeps) :
    (runRkWarden s h o).core.Wf := by simp [runRkWarden, hs, ho]

/-! ### Status (R350, R351) -/

@[simp] theorem wf_runStat {s : State} {h : HalfId} {k : BitVec 5} {b : Bank} {dst : Pos} (hs : s.core.Wf) :
    (runStat s h k b dst).Wf := by simp [runStat, hs]
@[simp] theorem wf_opStat : opStat.Keeps := ⟨wf_runStat⟩

/-! ### What ends a WAIT (R129-R131, R450) -/

@[simp] theorem core_setCross (s : State) (g : BitVec 6) (c : Option (BitVec 6)) :
    (setCross s g c).core = s.core := by simp [setCross]
@[simp] theorem core_latchCross (s : State) (g : BitVec 6) (cause : BitVec 4) (n : Nat) :
    (latchCross s g cause n).core = s.core := by simp [latchCross]

/-! ### WAIT and SYNC issue (R129, R245, R351) -/

@[simp] theorem wf_beginWait {s : State} {h : HalfId} {w : Waiting} (hs : s.core.Wf) : (beginWait s h w).Wf := by
  have hp := wf_preClose (h := h) hs
  unfold beginWait
  split
  · next e => rw [e] at hp; exact hp
  · next e =>
    rw [e] at hp
    exact wf_heldWaiting (wf_settled (wf_completeIdle (by simpa using hp)))
@[simp] theorem wf_waitIssue {s : State} {h : HalfId} {k : BitVec 5} {b : Bank} {dst : Pos} (hs : s.core.Wf) :
    (waitIssue s h k b dst).Wf := by
  simp only [waitIssue]
  split <;> simp [hs]
@[simp] theorem wf_runWait {s : State} {h : HalfId} {k : BitVec 5} {b : Bank} {dst : Pos} (hs : s.core.Wf) :
    (runWait s h k b dst).Wf := by
  simp only [runWait]
  split <;> simp [hs]
@[simp] theorem wf_opWait : opWait.Keeps := ⟨wf_runWait⟩
@[simp] theorem wf_runSync {s : State} {h : HalfId} {k : BitVec 5} {b : Bank} {dst : Pos} (hs : s.core.Wf) :
    (runSync s h k b dst).Wf := by
  simp only [runSync]
  split <;> simp [hs]
@[simp] theorem wf_opSync : opSync.Keeps := ⟨wf_runSync⟩

/-! ### The end of a wait (R131, R245, R351) -/

@[simp] theorem wf_endWait {s : State} {h : HalfId} {w : Waiting} {v : Cell} (hs : s.core.Wf) : (endWait s h w v).core.Wf := by
  simp only [endWait]
  split
  · exact wf_retire (by simp [hs])
  · exact hs
@[simp] theorem wf_pollWait {s : State} {h : HalfId} {k : BitVec 5} {w : Waiting} {up : Bool} (hs : s.core.Wf) :
    (pollWait s h k w up).core.Wf := by
  simp only [pollWait]
  split <;> simp [hs]
@[simp] theorem wf_pollSync {s : State} {h : HalfId} {k : BitVec 5} {w : Waiting} (hs : s.core.Wf) :
    (pollSync s h k w).core.Wf := by simp [pollSync, hs]
@[simp] theorem wf_waitEnd {s : State} {h : HalfId} {up : Bool} (hs : s.core.Wf) : (waitEnd s h up).core.Wf := by
  simp only [waitEnd]
  split <;> simp [hs]
@[simp] theorem wf_syncSlot {s : State} {h : HalfId} (hs : s.core.Wf) : (syncSlot s h).core.Wf := by
  simp only [syncSlot]
  split <;> simp [hs]
@[simp] theorem wf_endForEntry {s : State} {h : HalfId} (hs : s.core.Wf) : (endForEntry s h).core.Wf := by
  simp only [endForEntry]
  split <;> simp [hs]

/-! ### Entries at a boundary (R107, R413-R415) -/

@[simp] theorem wf_takeBest {s : State} {h : HalfId} (hs : s.core.Wf) : (takeBest s h).core.Wf := by
  simp only [takeBest]
  split <;> simp [hs]
@[simp] theorem wf_eventEntry {s : State} {h : HalfId} (hs : s.core.Wf) : (eventEntry s h).core.Wf := by simp [eventEntry, hs]
@[simp] theorem wf_arithEntry {s : State} {h : HalfId} (hs : s.core.Wf) : (arithEntry s h).core.Wf := by simp [arithEntry, hs]

/-! ### The limits of a window (R189, R243, R267) -/

@[simp] theorem wf_limitClose {s : State} {h : HalfId} (hs : s.core.Wf) : (limitClose s h).core.Wf := by simp [limitClose, hs]
@[simp] theorem wf_slotLimit {s : State} {h : HalfId} (hs : s.core.Wf) : (slotLimit s h).core.Wf := by simp [slotLimit, hs]
@[simp] theorem wf_logLimit {s : State} {h : HalfId} (hs : s.core.Wf) : (logLimit s h).core.Wf := by simp [logLimit, hs]

/-! ### TRAP and ILL (R72, R89, R133) -/

@[simp] theorem wf_runTrap {n : BitVec 6} {s : State} {x : HalfId} {x' : BitVec 5} {b : Bank} {dst : Pos} (hs : s.core.Wf) :
    (runTrap n s x x' b dst).Wf := by
  simp only [runTrap]
  split <;> simp [hs]
@[simp] theorem wf_opTrap {n : BitVec 6} : (opTrap n).Keeps := ⟨fun hs => by simp [opTrap, hs]⟩
@[simp] theorem wf_opIll {code : BitVec 6} : (opIll code).Keeps := ⟨fun _ => by simp [opIll]⟩
@[simp] theorem wf_illSelector {s : State} {h : HalfId} {rk : Bool} {x : BitVec 6} (hs : s.core.Wf) :
    (illSelector s h rk x).core.Wf := by simp [illSelector, hs]
@[simp] theorem wf_illSlot {s : State} {h : HalfId} {sel : Option (Bool × BitVec 6)} (hs : s.core.Wf) :
    (illSlot s h sel).core.Wf := by
  simp only [illSlot]
  split <;> simp [hs]
@[simp] theorem core_onCrd (s : State) (f : Crd → Crd) : (State.onCrd s f).core = s.core := by simp [State.onCrd]
@[simp] theorem core_onXst (s : State) (f : CrdXst → CrdXst) : (State.onXst s f).core = s.core := by simp [State.onXst]

/-! ### Card state (R470, R471, R475) -/

@[simp] theorem core_crdCard (s : State) (n : BitVec 2) : (crdCard s n).core = s.core := by simp [crdCard]

/-! ### The end of a transfer (R460) -/

@[simp] theorem wf_crdRing {s : State} {e : Stamp × Cell × Pair} (hs : s.core.Wf) :
    (crdRing s e).core.Wf := by simp [crdRing, hs]
@[simp] theorem wf_crdDeliver {s : State} {st : Stamp} (hs : s.core.Wf) : (crdDeliver s st).core.Wf := by simp [crdDeliver, hs]
@[simp] theorem wf_crdResume {s : State} {h : HalfId} (hs : s.core.Wf) : (crdResume s h).core.Wf := by
  unfold crdResume
  exact wf_foldl (fun _ _ ht => by simp [ht]) _ _ (by simp [hs])
@[simp] theorem wf_crdEnd {s : State} {code : BitVec 6} (hs : s.core.Wf) : (crdEnd s code).core.Wf := by
  simp only [crdEnd]
  split <;> simp [hs]

/-! ### Memory (R458, R459) -/

@[simp] theorem core_crdRead (t : BitVec 10) (n : Nat) : ∀ (s : State) (a : Addr), (crdRead t n s a).1.core = s.core := by
  induction n with
  | zero => exact fun _ _ => rfl
  | succ n ih =>
    intro s a
    simp only [crdRead]
    split
    · next u c e =>
      have h1 : u.core = s.core := core_of_eq e (by simp)
      split
      · next e2 => exact (core_of_eq e2 (ih ..)).trans h1
      · next e2 => exact (core_of_eq e2 (ih ..)).trans h1
    · next e => exact core_of_eq e (by simp)
@[simp] theorem core_crdFetch (s : State) (x : CrdXfer) (octets : Nat) :
    (crdFetch s x octets).1.core = s.core := by
  grind [crdFetch, core_crdRead, core_block]
@[simp] theorem wf_crdStore {s : State} {x : CrdXfer} (hs : s.core.Wf) : (crdStore s x).core.Wf := by
  simp only [crdStore]
  split <;> simp [hs]
@[simp] theorem wf_crdCommit {s : State} {x : CrdXfer} (hs : s.core.Wf) : (crdCommit s x).core.Wf := by
  simp only [crdCommit]
  (repeat' split) <;> simp [*]
@[simp] theorem wf_crdCommitDone {s : State} (hs : s.core.Wf) : (crdCommitDone s).core.Wf := by
  simp only [crdCommitDone]
  split <;> simp [hs]

/-! ### Removal (R471) -/

@[simp] theorem wf_crdGone {s : State} (hs : s.core.Wf) : (crdGone s).core.Wf := by simp [crdGone, hs]

/-! ### The folio link (R461-R463) -/

@[simp] theorem core_crdSend (s : State) (p : CrdPhase) : (crdSend s p).core = s.core := by simp [crdSend]
@[simp] theorem wf_crdReady {s : State} {card : BitVec 2} (hs : s.core.Wf) : (crdReady s card).core.Wf := by simp [crdReady, hs]
@[simp] theorem wf_isoUnready {s : State} (hs : s.core.Wf) : (isoUnready s).core.Wf := by simp [isoUnready, hs]
@[simp] theorem core_isoActivateAt (s : State) (b : Bool) : (isoActivateAt s b).core = s.core := by simp [isoActivateAt]
@[simp] theorem wf_isoActivate {s : State} (hs : s.core.Wf) : (isoActivate s).core.Wf := by simp [isoActivate, hs]
@[simp] theorem wf_crdStartUp {s : State} (hs : s.core.Wf) : (crdStartUp s).core.Wf := by simp [crdStartUp, hs]
@[simp] theorem wf_crdNoFolio {s : State} (hs : s.core.Wf) : (crdNoFolio s).core.Wf := by simp [crdNoFolio, hs]
@[simp] theorem core_crdAgain (s : State) : (crdAgain s).core = s.core := by simp [crdAgain]
@[simp] theorem core_crdFallback (s : State) : (crdFallback s).core = s.core := by simp [crdFallback]
@[simp] theorem wf_crdExhausted {s : State} {silent : Bool} (hs : s.core.Wf) : (crdExhausted s silent).core.Wf := by
  simp only [crdExhausted]
  split <;> simp [hs]
@[simp] theorem wf_crdRetry {s : State} {silent : Bool} (hs : s.core.Wf) : (crdRetry s silent).core.Wf := by simp [crdRetry, hs]
@[simp] theorem wf_crdBlockRetry {s : State} {code : BitVec 6} (hs : s.core.Wf) :
    (crdBlockRetry s code).core.Wf := by simp [crdBlockRetry, hs]
@[simp] theorem core_crdCrc (s : State) : (crdCrc s).core = s.core := by simp [crdCrc]
@[simp] theorem core_crdLate (s : State) : (crdLate s).core = s.core := by simp [crdLate]
@[simp] theorem wf_crdAccepted {s : State} {f : BitVec 24} (hs : s.core.Wf) : (crdAccepted s f).core.Wf := by
  simp only [crdAccepted]
  (repeat' split) <;> simp [*]
@[simp] theorem core_crdKeep (s : State) (f : BitVec 24) : (crdKeep s f).core = s.core := by simp [crdKeep]
@[simp] theorem wf_crdError {s : State} (hs : s.core.Wf) : (crdError s).core.Wf := by
  simp only [crdError]
  split <;> simp [hs]
@[simp] theorem wf_crdResponse {s : State} {f : BitVec 24} (hs : s.core.Wf) :
    (crdResponse s f).core.Wf := by simp [crdResponse, hs]
@[simp] theorem wf_crdBlock {s : State} {lines : List LineFrame} (hs : s.core.Wf) : (crdBlock s lines).core.Wf := by
  simp only [crdBlock]
  split <;> simp [hs]
@[simp] theorem wf_crdReceipt {s : State} {f : BitVec 10} (hs : s.core.Wf) :
    (crdReceipt s f).core.Wf := by simp [crdReceipt, hs]
@[simp] theorem wf_crdRelease {s : State} (hs : s.core.Wf) : (crdRelease s).core.Wf := by
  simp only [crdRelease]
  split <;> simp [hs]
@[simp] theorem wf_crdTimeout {s : State} (hs : s.core.Wf) : (crdTimeout s).core.Wf := by
  simp only [crdTimeout]
  split <;> simp [hs]

/-! ### The smart-card fall-back (R464-R468) -/

@[simp] theorem wf_isoNext {s : State} {b : Bool} (hs : s.core.Wf) : (isoNext s b).core.Wf := by simp [isoNext, hs]
@[simp] theorem wf_isoPair {s : State} {a : AtrInfo} (hs : s.core.Wf) : (isoPair s a).core.Wf := by
  simp only [isoPair]
  split <;> simp [hs]
@[simp] theorem wf_isoAtr {s : State} {l : List Octet} (hs : s.core.Wf) : (isoAtr s l).core.Wf := by
  simp only [isoAtr]
  split <;> simp [hs]
@[simp] theorem core_isoPpsFailed (s : State) : (isoPpsFailed s).core = s.core := by simp [isoPpsFailed]
@[simp] theorem wf_isoPps {s : State} {l : List Octet} (hs : s.core.Wf) : (isoPps s l).core.Wf := by simp [isoPps, hs]
@[simp] theorem wf_isoFail {s : State} {code : BitVec 6} (hs : s.core.Wf) : (isoFail s code).core.Wf := by simp [isoFail, hs]
@[simp] theorem core_isoSent (s : State) (n : Nat) : (isoSent s n).core = s.core := by simp [isoSent]
@[simp] theorem wf_isoProcedure {s : State} {x : CrdXfer} {o : Octet} (hs : s.core.Wf) :
    (isoProcedure s x o).core.Wf := by simp [isoProcedure, hs]
@[simp] theorem core_isoData (s : State) (x : CrdXfer) (one : Bool) (o : Octet) :
    (isoData s x one o).core = s.core := by simp [isoData]
@[simp] theorem wf_isoCharFailed {s : State} (hs : s.core.Wf) : (isoCharFailed s).core.Wf := by
  simp only [isoCharFailed]
  (repeat' split) <;> simp [*]
@[simp] theorem wf_isoCharacter {s : State} {o : Octet} {parityOk : Bool} (hs : s.core.Wf) :
    (isoCharacter s o parityOk).core.Wf := by
  simp only [isoCharacter]
  (repeat' split) <;> simp [*]
@[simp] theorem wf_isoErrorSignal {s : State} (hs : s.core.Wf) : (isoErrorSignal s).core.Wf := by simp [isoErrorSignal, hs]
@[simp] theorem wf_isoWaited {s : State} (hs : s.core.Wf) : (isoWaited s).core.Wf := by
  simp only [isoWaited]
  split <;> simp [hs]
@[simp] theorem wf_isoActivationLate {s : State} (hs : s.core.Wf) : (isoActivationLate s).core.Wf := by
  simp only [isoActivationLate]
  split <;> simp [hs]
@[simp] theorem core_isoClockStop (s : State) : (isoClockStop s).core = s.core := by simp [isoClockStop]

/-! ### Starts (R455-R457) -/

@[simp] theorem wf_startRun {s : State} {x : CrdXfer} (hs : s.core.Wf) :
    (startRun s x).core.Wf := by
  grind [startRun, core_onCrd, wf_crdStartUp, core_crdFetch, wf_crdEnd, core_block]
@[simp] theorem wf_crdGo {s : State} {w : Writer} {snap : CapSnap} {op : BitVec 3} (hs : s.core.Wf) :
    (crdGo s w snap op).core.Wf := by
  simp only [crdGo]
  split <;> simp [hs]
@[simp] theorem wf_crdAbort {s : State} (hs : s.core.Wf) : (crdAbort s).core.Wf := by simp [crdAbort, hs]
@[simp] theorem wf_crdGoWrite {s : State} {w : Writer} {snap : CapSnap} {x : Cell} (hs : s.core.Wf) :
    (crdGoWrite s w snap x).core.Wf := by simp [crdGoWrite, hs]

/-! ### Presence (R454, R470, R474) -/

@[simp] theorem wf_crdFollow {s : State} (hs : s.core.Wf) : (crdFollow s).core.Wf := by simp [crdFollow, hs]
@[simp] theorem wf_crdDetect {s : State} {level : Bool} (hs : s.core.Wf) :
    (crdDetect s level).core.Wf := by simp [crdDetect, hs]
@[simp] theorem wf_crdCfgWrite {s : State} {x : Cell} (hs : s.core.Wf) : (crdCfgWrite s x).core.Wf := by simp [crdCfgWrite, hs]
@[simp] theorem wf_crdInstall {s : State} {x : Cell} (hs : s.core.Wf) : (crdInstall s x).core.Wf := by simp [crdInstall, hs]

/-! ### Registers (R473-R478) -/

@[simp] theorem wf_crdWrite {s : State} {w : Writer} {snap : CapSnap} {o : Nat} {x0 x1 : Cell} (hs : s.core.Wf) :
    (crdWrite s w snap o x0 x1).core.Wf := by simp [crdWrite, hs]
@[simp] theorem wf_crdStart {s : State} {w : HalfId} {op : BitVec 3} {n : BitVec 2} (hs : s.core.Wf) :
    (crdStart s w op n).core.Wf := by simp [crdStart, hs]
@[simp] theorem wf_crdInput {s : State} {f : State → State} (hs : s.core.Wf) (hf : ∀ v0, v0.core.Wf → (f v0).core.Wf) :
    (crdInput s f).core.Wf := by simp [crdInput, hs, hf]
theorem wf_execFolioResponse {f : BitVec 24} {s : State} (hs : s.core.Wf) : ∀ t, execFolioResponse f s = .next t → t.core.Wf :=
  next_wf (wf_crdInput hs fun _ hu => by simp [hu])
theorem wf_execFolioDataBlock {lines : List LineFrame} {s : State} (hs : s.core.Wf) :
    ∀ t, execFolioDataBlock lines s = .next t → t.core.Wf :=
  next_wf (wf_crdInput hs fun _ hu => by simp [hu])
theorem wf_execFolioReceipt {f : BitVec 10} {s : State} (hs : s.core.Wf) : ∀ t, execFolioReceipt f s = .next t → t.core.Wf :=
  next_wf (wf_crdInput hs fun _ hu => by simp [hu])
theorem wf_execFolioBusyRetry {s : State} (hs : s.core.Wf) : ∀ t, execFolioBusyRetry s = .next t → t.core.Wf := by
  simp only [execFolioBusyRetry]
  split <;> simp [hs]
theorem wf_execCardDetect {level : Bool} {s : State} (hs : s.core.Wf) : ∀ t, execCardDetect level s = .next t → t.core.Wf :=
  next_wf (wf_crdInput hs fun _ hu => by simp [hu])
theorem wf_execAtr {octets : List Octet} {s : State} (hs : s.core.Wf) : ∀ t, execAtr octets s = .next t → t.core.Wf :=
  next_wf (wf_crdInput hs fun _ hu => by simp [hu])
theorem wf_execPpsResponse {octets : List Octet} {s : State} (hs : s.core.Wf) :
    ∀ t, execPpsResponse octets s = .next t → t.core.Wf :=
  next_wf (wf_crdInput hs fun _ hu => by simp [hu])
theorem wf_execCharacterReceive {o : Octet} {parityOk : Bool} {s : State} (hs : s.core.Wf) :
    ∀ t, execCharacterReceive o parityOk s = .next t → t.core.Wf :=
  next_wf (wf_crdInput hs fun _ hu => by simp [hu])
theorem wf_execCharacterErrorSignal  {s : State} (hs : s.core.Wf) : ∀ t, execCharacterErrorSignal  s = .next t → t.core.Wf :=
  next_wf (wf_crdInput hs fun _ hu => by simp [hu])
theorem wf_execCommandLineRelease  {s : State} (hs : s.core.Wf) : ∀ t, execCommandLineRelease  s = .next t → t.core.Wf :=
  next_wf (wf_crdInput hs fun _ hu => by simp [hu])

/-! ### The choice of a slot (R490-R493) -/

@[simp] theorem core_prtClear (s : State) : (prtClear s).core = s.core := by simp [prtClear]
@[simp] theorem core_prtCheck (s : State) : (prtCheck s).core = s.core := by simp [prtCheck]
@[simp] theorem core_prtHalfReset (s : State) (h : HalfId) : (prtHalfReset s h).core = s.core := by simp [prtHalfReset]
@[simp] theorem core_prtCloseWrite (s : State) (x : Cell) : (prtCloseWrite s x).core = s.core := by simp [prtCloseWrite]
@[simp] theorem core_prtSigWrite (s : State) (x : Cell) : (prtSigWrite s x).core = s.core := by simp [prtSigWrite]
@[simp] theorem core_prtSet (s : State) (o : Nat) (x : Cell) : (prtSet s o x).core = s.core := by
  simp only [prtSet]
  split <;> simp
@[simp] theorem core_prtWrite (s : State) (o : Nat) (x : Cell) : (prtWrite s o x).core = s.core := by simp [prtWrite]

/-! ### Keys and signatures on the curves (FIPS 186-5, RFC 7748) -/

@[simp] theorem core_onDrbg (s : State) (h : HalfId) (f : Drbg → Drbg) :
    (State.onDrbg s h f).core = s.core := by simp [State.onDrbg]
@[simp] theorem core_onRng (s : State) (f : Rng → Rng) : (State.onRng s f).core = s.core := by simp [State.onRng]

/-! ### Generate calls (R523) -/

@[simp] theorem core_drbgCall (s : State) (h : HalfId) : OptAll (fun t => t.core = s.core) (drbgCall s h) := by simp [drbgCall]
@[simp] theorem core_rngOutRead (s : State) (h : HalfId) : (rngOutRead s h).1.core = s.core := by
  simp only [rngOutRead]
  split
  · rfl
  · split
    · simp
    · split
      · rfl
      · next e => simpa using (core_drbgCall s h).of_eq e

/-! ### Seeds (R521, R523) -/

@[simp] theorem core_reseed (s : State) (h : HalfId) : (reseed s h).core = s.core := by simp [reseed]

/-! ### Health tests (R522) -/

@[simp] theorem core_rngReport (s : State) : (rngReport s).core = s.core := by simp [rngReport]

/-! ### Raw-sample test mode (R524, R532) -/

@[simp] theorem core_rawMode (s : State) (on : Bool) (src : BitVec 2) : (rawMode s on src).core = s.core := by simp [rawMode]
@[simp] theorem core_rngCtrlWrite (s : State) (x0 : Cell) : (rngCtrlWrite s x0).core = s.core := by simp [rngCtrlWrite]
@[simp] theorem core_rngRawRead (s : State) : (rngRawRead s).1.core = s.core := by
  simp only [rngRawRead]
  split <;> simp
@[simp] theorem core_rngRead (s : State) (h : HalfId) (o : Nat) :
    OptAll (fun t => t.1.core = s.core) (rngRead s h o) := by simp [rngRead]

/-! ### Memory references (R352-R354) -/

@[simp] theorem core_rkCells (h : HalfId) (t : BitVec 10) (q : List (Addr × Cell)) (n : Nat) :
    ∀ (s : State) (a : Addr), (rkCells h t q n s a).1.core = s.core := by
  induction n with
  | zero => exact fun _ _ => rfl
  | succ n ih =>
    intro s a
    simp only [rkCells]
    split
    · split
      · next e => exact core_of_eq e (ih ..)
      · exact ih ..
    · split
      · next u c e =>
        have h1 : u.core = s.core := core_of_eq e (by simp)
        split
        · next e2 => exact (core_of_eq e2 (ih ..)).trans h1
        · exact (ih ..).trans h1
      · next e => exact core_of_eq e (by simp)
@[simp] theorem core_rkBadRead (s : State) (a : Addr) : (rkBadRead s a).1.core = s.core := by
  simp only [rkBadRead]
  split <;> simp
@[simp] theorem core_rkRead (s : State) (h : HalfId) (c : RkCmd) (bad : Bool) (m : Cell) (n : Nat) :
    (rkRead s h c bad m n).1.core = s.core := by
  simp only [rkRead]
  (repeat' split) <;> simp [*]

/-! ### Register and control commands (R345, R355, R366) -/

@[simp] theorem core_prepSave (s : State) (h : HalfId) (c : RkCmd) : (prepSave s h c).1.core = s.core := by
  simp only [prepSave]
  (repeat' split) <;> simp [*]
@[simp] theorem core_prepLoad (s : State) (h : HalfId) (bad : Bool) (c : RkCmd) :
    (prepLoad s h bad c).1.core = s.core := by
  grind [prepLoad, core_rkRead, core_block]
@[simp] theorem core_prepClear (s : State) (h : HalfId) (c : RkCmd) : (prepClear s h c).1.core = s.core := by
  simp only [prepClear]
  split <;> simp
@[simp] theorem core_prepWld (s : State) (h : HalfId) (bad : Bool) (c : RkCmd) :
    (prepWld s h bad c).1.core = s.core := by
  grind [prepWld, core_rkRead, core_block]
@[simp] theorem core_prepWst (s : State) (h : HalfId) (c : RkCmd) : (prepWst s h c).1.core = s.core := by
  simp only [prepWst]
  split <;> simp
@[simp] theorem core_prepMul (s : State) (h : HalfId) (c : RkCmd) : (prepMul s h c).1.core = s.core := by
  simp only [prepMul]
  split <;> simp
@[simp] theorem core_prepKeys (s : State) (h : HalfId) (c : RkCmd) : (prepKeys s h c).1.core = s.core := by simp [prepKeys]
@[simp] theorem core_prepBlock (s : State) (h : HalfId) (c : RkCmd) : (prepBlock s h c).1.core = s.core := by
  simp only [prepBlock]
  split <;> simp
@[simp] theorem core_prepKeccak (s : State) (h : HalfId) (c : RkCmd) :
    (prepKeccak s h c).1.core = s.core := by simp [prepKeccak]
@[simp] theorem core_prepPoly (s : State) (h : HalfId) (c : RkCmd) : (prepPoly s h c).1.core = s.core := by
  simp only [prepPoly]
  split <;> simp

/-! ### GCM (R356) -/

@[simp] theorem core_rkOctets (s : State) (h : HalfId) (c : RkCmd) (bad : Bool) (m : Cell) (n : Nat) :
    (rkOctets s h c bad m n).1.core = s.core := by
  grind [rkOctets, core_rkRead, core_block]
@[simp] theorem core_gcmIn (s : State) (h : HalfId) (c : RkCmd) (bad : Bool) (b : List Cell) (n : Nat) :
    (gcmIn s h c bad b n).1.core = s.core := by
  have hr : ∀ {u v : State} {m k r}, rkOctets u h c bad m k = (v, r) → u.core = s.core → v.core = s.core :=
    fun e hu => core_of_eq e (by simpa using hu)
  simp only [gcmIn]
  split
  · rfl
  · split
    · next e1 => exact hr e1 rfl
    · next e1 =>
      have h1 := hr e1 rfl
      split
      · next e2 => exact hr e2 h1
      · next e2 =>
        have h2 := hr e2 h1
        split
        · next e3 => exact hr e3 h2
        · next u3 _ e3 =>
          have h3 := hr e3 h2
          split
          · exact h3
          · have h4 : ∀ {k : Bool} {r} {v : State},
                (if k then rkOctets u3 h c bad (b.getD 7 0) 16 else (u3, .ok [])) = (v, r) → v.core = s.core := by
              intro k r v e4
              split at e4
              · exact hr e4 h3
              · cases e4; exact h3
            split
            · next e4 => exact h4 e4
            · next e4 => split <;> exact h4 e4
@[simp] theorem core_keepMessage (s : State) (n : Nat) (m : Option Message) : (keepMessage s n m).core = s.core := by
  simp only [keepMessage]
  split <;> simp
@[simp] theorem core_prepGcm (s : State) (h : HalfId) (bad : Bool) (c : RkCmd) :
    (prepGcm s h bad c).1.core = s.core := by
  grind [prepGcm, core_rkRead, core_gcmIn, core_keepMessage, core_block]

/-! ### Hashes (R356) -/

@[simp] theorem core_prepHash (s : State) (h : HalfId) (bad : Bool) (c : RkCmd) :
    (prepHash s h bad c).1.core = s.core := by
  grind [prepHash, core_rkRead, core_rkOctets, core_keepMessage, core_block]

/-! ### Algorithm blocks (R356, R517, R518) -/

@[simp] theorem core_gatherOne (s : State) (h : HalfId) (c : RkCmd) (bad : Bool) (b : List Cell) (e : Nat × BlkKind × Nat)
    (g : Gather) : (gatherOne s h c bad b e g).1.core = s.core := by
  grind [gatherOne, core_rkOctets, core_block]
@[simp] theorem core_gatherAll (h : HalfId) (c : RkCmd) (bad : Bool) (b : List Cell) (l : List (Nat × BlkKind × Nat)) :
    ∀ (s : State) (g : Gather), (gatherAll h c bad b l s g).1.core = s.core := by
  induction l with
  | nil => exact fun _ _ => rfl
  | cons e l ih =>
    intro s g
    have h1 := core_gatherOne s h c bad b e g
    simp only [gatherAll]
    split
    · next e => exact core_of_eq e h1
    · next e => exact (ih ..).trans (core_of_eq e h1)
@[simp] theorem core_algoEnd (s : State) (c : RkCmd) (g : Gather) : (algoEnd s c g).1.core = s.core := by
  simp only [algoEnd]
  split <;> simp
@[simp] theorem core_prepAlgo (s : State) (h : HalfId) (bad : Bool) (c : RkCmd) :
    (prepAlgo s h bad c).1.core = s.core := by
  grind [prepAlgo, core_rkRead, core_gatherAll, core_algoEnd, core_block]

/-! ### The start -/

@[simp] theorem core_prepare (s : State) (h : HalfId) (bad : Bool) (c : RkCmd) : (prepare s h bad c).1.core = s.core := by
  simp only [prepare]
  (repeat' split) <;> simp [*]
@[simp] theorem core_rkSet (s : State) (h : HalfId) (c : RkCmd) (st : BitVec 3) :
    (rkSet s h c st).core = s.core := by simp [rkSet]

/-! ### Charges (R358, R359, R391) -/

@[simp] theorem core_rkRelease (s : State) (h : HalfId) (c : RkCmd) : (rkRelease s h c).1.core = s.core := by
  simp only [rkRelease]
  split <;> simp
@[simp] theorem core_chargeLight (s : State) (h : HalfId) (c : RkCmd) : (chargeLight s h c).core = s.core := by
  simp only [chargeLight]
  split <;> simp
@[simp] theorem core_rkCharge (s : State) (h : HalfId) (c : RkCmd) : (rkCharge s h c).1.core = s.core := by
  simp only [rkCharge]
  split <;> simp

/-! ### Failure (R350, R362-R364) -/

@[simp] theorem core_rkReport (s : State) (h : HalfId) (c : RkCmd) (code : BitVec 6) :
    (rkReport s h c code).core = s.core := by simp [rkReport]
@[simp] theorem wf_rkFail {s : State} {h : HalfId} {c : RkCmd} {code : BitVec 6} (hs : s.core.Wf) :
    (rkFail s h c code).core.Wf := by simp [rkFail, hs]
@[simp] theorem wf_rkFailAll {h : HalfId} {code : BitVec 6} {l : List RkCmd} {s : State} (hs : s.core.Wf) :
    (rkFailAll h code l s).core.Wf := wf_foldl (fun _ _ => wf_rkFail) l s hs
@[simp] theorem wf_rkReading {s : State} {h : HalfId} (hs : s.core.Wf) : (rkReading s h).core.Wf := by simp [rkReading, hs]
@[simp] theorem wf_rkVaultLock {s : State} {h : HalfId} (hs : s.core.Wf) :
    (rkVaultLock s h).core.Wf := by simp [rkVaultLock, hs]

/-! ### Start (R345, R349, R359) -/

@[simp] theorem wf_rkLease {s : State} {h : HalfId} {c : RkCmd} (hs : s.core.Wf) : (rkLease s h c).core.Wf := by
  simp only [rkLease]
  split <;> simp [hs]
@[simp] theorem wf_rkBegin {s : State} {h : HalfId} {bad : Bool} {c : RkCmd} (hs : s.core.Wf) :
    (rkBegin s h bad c).core.Wf := by
  simp only [rkBegin]
  split
  · next e => exact wf_rkFail (wf_of_eq e (by simpa using hs))
  · next e => simp [wf_of_eq e (by simpa using hs)]
@[simp] theorem wf_commandStart {s : State} {h : HalfId} {bad : Bool} (hs : s.core.Wf) : (commandStart s h bad).core.Wf := by
  simp only [commandStart]
  (repeat' split) <;> simp [*]

/-! ### Slices (R361) -/

@[simp] theorem wf_sliceEnd {s : State} {h : HalfId} (hs : s.core.Wf) : (sliceEnd s h).core.Wf := by
  simp only [sliceEnd]
  split <;> simp [hs]

/-! ### Finish (R345, R346, R362, R364, R365) -/

@[simp] theorem core_drawFor (s : State) (h : HalfId) (c : RkCmd) :
    OptAll (fun t => t.core = s.core) (drawFor s h c) := by simp [drawFor]
@[simp] theorem wf_checkFailed {s : State} {h : HalfId} {c : RkCmd} (hs : s.core.Wf) :
    (checkFailed s h c).core.Wf := by simp [checkFailed, hs]
@[simp] theorem wf_commandFinish {s : State} {h : HalfId} {checkFails : Bool} (hs : s.core.Wf) :
    (commandFinish s h checkFails).core.Wf := by
  unfold commandFinish
  split
  · exact hs
  · next c _ =>
    split
    · exact hs
    · split
      · exact hs
      · next u e =>
        have hu : u.core.Wf := by rw [(core_drawFor s h c).of_eq e]; exact hs
        extract_lets lost r q c1 c2
        split
        · exact wf_rkFail hu
        · split
          · exact wf_checkFailed hu
          · exact wf_cmdFinished (by simp [q, r, hu])

/-! ### Registers (R344, R370) -/

@[simp] theorem wf_rknOwnWrite {s : State} {w : Writer} {h : HalfId} {x0 : Cell} (hs : s.core.Wf) :
    (rknOwnWrite s w h x0).core.Wf := by simp [rknOwnWrite, hs]

/-! ### Span states (R289) -/

@[simp] theorem core_spanCut (s : State) (h : HalfId) : (spanCut s h).core = s.core := by simp [spanCut]
@[simp] theorem core_spanTo (s : State) (h : HalfId) (new : BitVec 2) : (spanTo s h new).core = s.core := by simp [spanTo]
@[simp] theorem core_spanRefreshHalf (s : State) (h : HalfId) : (spanRefreshHalf s h).core = s.core := by simp [spanRefreshHalf]
@[simp] theorem core_spanRefresh (s : State) : (spanRefresh s).core = s.core := by simp [spanRefresh]

/-! ### Paths (R288, R289, R291, R294) -/

@[simp] theorem core_pathFall (s : State) (b : Bool) : (pathFall s b).core = s.core := by simp [pathFall]
@[simp] theorem core_pathFail (s : State) (h : HalfId) (b : Bool) : (pathFail s h b).core = s.core := by simp [pathFail]
@[simp] theorem core_spanHeartbeat (s : State) (h : HalfId) (b good : Bool) :
    (spanHeartbeat s h b good).core = s.core := by simp [spanHeartbeat]

/-! ### Registers (R292-R296, R298, R302) -/

@[simp] theorem core_spnCtrl (s : State) (h : HalfId) (v : Cell) : (spnCtrl s h v).core = s.core := by simp [spnCtrl]

/-! ### Migration (R298, R299) -/

@[simp] theorem core_migrationStart (s : State) (h : HalfId) : (migrationStart s h).core = s.core := by simp [migrationStart]
@[simp] theorem wf_restampPair {m : Migration} {s : State} {a : Addr} (hs : s.core.Wf) : (restampPair m s a).core.Wf := by
  simp only [restampPair]
  split
  · next e =>
    have hu := wf_of_eq e (by simpa using hs)
    split
    · exact wf_homeWrite (wf_homeWrite hu)
    · exact hu
  · next e => exact wf_of_eq e (by simpa using hs)
@[simp] theorem wf_restamp {s : State} {m : Migration} (hs : s.core.Wf) : (restamp s m).core.Wf :=
  wf_foldl (fun _ _ => wf_restampPair) _ s hs
@[simp] theorem wf_migrationDone {s : State} {h : HalfId} (hs : s.core.Wf) :
    (migrationDone s h).core.Wf := by simp [migrationDone, hs]
@[simp] theorem core_spnWrite (s : State) (h : HalfId) (o : Nat) (x0 x1 : Cell) :
    (spnWrite s h o x0 x1).core = s.core := by simp [spnWrite]

/-! ### Generations across the halves (R297, R299) -/

@[simp] theorem core_applyGenTo (s : State) (h : HalfId) (t : BitVec 10) (g : BitVec 4) (a : GenKind) :
    (applyGenTo s h t g a).core = s.core := by
  simp only [applyGenTo]
  split <;> simp
@[simp] theorem wf_forcedClose {s : State} {h : HalfId} (hs : s.core.Wf) :
    OptAll (fun t => t.core.Wf) (forcedClose s h) := by simp [forcedClose, hs]
@[simp] theorem wf_generationApply {s : State} {h : HalfId} (hs : s.core.Wf) : (generationApply s h).core.Wf := by
  unfold generationApply
  split
  · exact hs
  · split
    · exact hs
    · split
      · exact hs
      · next e => simpa using (wf_forcedClose hs).of_eq e

/-! ### A half held in reset (R479) -/

@[simp] theorem wf_scrub {s : State} {h : HalfId} (hs : s.core.Wf) : (scrub s h).core.Wf :=
  wf_of_memWf (s := s) (scrub_memWf s h hs.mem) rfl hs
@[simp] theorem core_banksGone (s : State) (h : HalfId) : (banksGone s h).core = s.core := by
  unfold banksGone
  exact (core_foldl (fun _ _ => by simp) _ _).trans (core_foldl (fun _ _ => by simp) _ _)
@[simp] theorem core_modeOff (s : State) (h : HalfId) (old : BitVec 3) : (modeOff s h old).core = s.core := by simp [modeOff]
theorem wf_onHalf_kept {s : State} {h : HalfId} (hs : s.core.Wf) : (s.onHalf h Half.kept).core.Wf := by
  cases h
  · exact { hs with mode0 := rfl, before0 := rfl }
  · exact { hs with mode1 := rfl, before1 := rfl }

@[simp] theorem wf_holdHalf {s : State} {h : HalfId} (hs : s.core.Wf) : (holdHalf s h).core.Wf := by
  have hk := wf_onHalf_kept (h := h) (wf_scrub (h := h) (s := banksGone (dbkDiscard s h) h) (by simpa using hs))
  simpa [holdHalf] using hk
@[simp] theorem wf_halfReset {s : State} {h : HalfId} (hs : s.core.Wf) : (halfReset s h).core.Wf := by simp [halfReset, hs]

/-! ### Block reset (R479) -/

@[simp] theorem core_evcReset (s : State) : (evcReset s).core = s.core := by simp [evcReset]
@[simp] theorem core_unitsReset (s : State) (kind : ResetKind) : (unitsReset s kind).core = s.core := by simp [unitsReset]
@[simp] theorem wf_blockReset {s : State} {kind : ResetKind} (hs : s.core.Wf) : (blockReset s kind).core.Wf := by
  unfold blockReset
  extract_lets kd u t v
  have hu : u.core.Wf := by simp only [u, core_dbkDiscard]; exact hs
  have hv : v.core.Wf := by
    simp only [v, core_mbxBlockReset]
    exact ⟨hu.ram, hu.nvm, rfl, rfl, rfl, rfl⟩
  rw [core_unitsReset, core_evcReset]
  exact wf_scrub (wf_scrub hv)

/-! ### Zeroisation and bulk erase (R330, R514, R515) -/

@[simp] theorem wf_eraseAll {s : State} (hs : s.core.Wf) : (eraseAll s).core.Wf := by
  have hu : ((s.onMem .h0 MemUnit.erase).onMem .h1 MemUnit.erase).core.Wf := by
    rw [core_onMem, core_onMem]; exact hs
  unfold eraseAll
  extract_lets u
  rw [core_storePump]
  exact ⟨hu.ram, rfl, hu.mode0, hu.before0, hu.mode1, hu.before1⟩
@[simp] theorem core_tampRecord (s : State) (cause : BitVec 3) (resp : BitVec 2) :
    (tampRecord s cause resp).core = s.core := by simp [tampRecord]
@[simp] theorem wf_tamperErase {s : State} {cause : BitVec 3} (hs : s.core.Wf) :
    (tamperErase s cause).core.Wf := by simp [tamperErase, hs]
@[simp] theorem wf_vaultLock {s : State} {cause : BitVec 3} (hs : s.core.Wf) :
    (vaultLock s cause).core.Wf := by simp [vaultLock, hs]

/-! ### Release (R279, R481, R511, R560) -/

@[simp] theorem core_stuckHalf (s : State) (h : HalfId) : (stuckHalf s h).core = s.core := by simp [stuckHalf]
@[simp] theorem core_startLanes (s : State) (h : HalfId) : (startLanes s h).core = s.core := by simp [startLanes]
@[simp] theorem core_bringupAudits (s : State) (h : HalfId) : (bringupAudits s h).core = s.core := by simp [bringupAudits]
@[simp] theorem core_releaseHalf (s : State) (h : HalfId) : (releaseHalf s h).core = s.core := by simp [releaseHalf]
@[simp] theorem wf_resetWaiting {s : State} {h : HalfId} (hs : s.core.Wf) :
    (resetWaiting s h).core.Wf := by simp [resetWaiting, hs]
@[simp] theorem core_wakeStamp (s : State) : (wakeStamp s).core = s.core := by simp [wakeStamp]
@[simp] theorem core_detachBegin (s : State) : (detachBegin s).core = s.core := by simp [detachBegin]
@[simp] theorem core_attachEnd (s : State) : (attachEnd s).core = s.core := by simp [attachEnd]
@[simp] theorem wf_unisolate {s : State} (hs : s.core.Wf) : (unisolate s).core.Wf := by simp [unisolate, hs]
@[simp] theorem wf_relockEnd {s : State} (hs : s.core.Wf) : (relockEnd s).core.Wf := by simp [relockEnd, hs]
@[simp] theorem wf_resetRelease {s : State} (hs : s.core.Wf) :
    (resetRelease s).core.Wf := by
  grind [resetRelease, wf_unisolate, wf_relockEnd, wf_resetWaiting, core_spanRefresh, core_releaseHalf, core_block]

/-! ### Writes of CHT_CTL (R480) -/

@[simp] theorem wf_halfResetWrite {s : State} {w h : HalfId} (hs : s.core.Wf) :
    (halfResetWrite s w h).core.Wf := by simp [halfResetWrite, hs]
@[simp] theorem wf_chtCtlWrite {s : State} {w : HalfId} {x : Cell} (hs : s.core.Wf) :
    (chtCtlWrite s w x).core.Wf := by simp [chtCtlWrite, hs]

/-! ### Mismatch events and attacks (R272-R275) -/

@[simp] theorem core_auditDue (s : State) (h : HalfId) (l : Lane) (g : AuditTrigger) :
    (auditDue s h l g).core = s.core := by simp [auditDue]
@[simp] theorem core_chargeLane (h : HalfId) (s : State) (l : Lane) : (chargeLane h s l).core = s.core := by simp [chargeLane]
@[simp] theorem wf_attackResponse {s : State} {r : BitVec 2} (hs : s.core.Wf) :
    (attackResponse s r).core.Wf := by simp [attackResponse, hs]
@[simp] theorem core_attackDetected (s : State) (h : HalfId) (burst : Bool) :
    (attackDetected s h burst).core = s.core := by simp [attackDetected]
@[simp] theorem core_countEvent (s : State) (h : HalfId) : (countEvent s h).1.core = s.core := by simp [countEvent]
@[simp] theorem core_mismatch (s : State) (h : HalfId) (c : ClosedWin) (lanesC tellers : BitVec 3) (chk noMaj : Bool) :
    (mismatch s h c lanesC tellers chk noMaj).1.core = s.core := by
  have hc := core_foldl (f := chargeLane h) fun _ _ => core_chargeLane ..
  simp only [mismatch]
  split
  · simp
  · split <;> simp [hc]

/-! ### Outcomes (R251-R253, R255, R261) -/

@[simp] theorem core_takesClose (s : State) (h : HalfId) : (takesClose s h).core = s.core := by simp [takesClose]
@[simp] theorem wf_enterRoom {s : State} {h : HalfId} {l : Lane} (hs : s.core.Wf) : (enterRoom s h l).core.Wf := by
  unfold enterRoom
  extract_lets u v
  have hv : v.core.Wf := by simp [v, u, hs]
  split
  · exact hv
  · exact wf_rkReading (wf_setRunMode legalMode_reading hv)
@[simp] theorem wf_fenceWork {s : State} {h : HalfId} (hs : s.core.Wf) : (fenceWork s h).core.Wf := by simp [fenceWork, hs]
@[simp] theorem wf_windowAgrees {s : State} {h : HalfId} {c : ClosedWin} (hs : s.core.Wf) :
    (windowAgrees s h c).core.Wf := by simp [windowAgrees, hs]
@[simp] theorem wf_afterAgreed {s : State} {h : HalfId} (hs : s.core.Wf) :
    (afterAgreed s h).core.Wf := by simp [afterAgreed, hs]
@[simp] theorem wf_dissents {s : State} {h : HalfId} {l : Lane} (hs : s.core.Wf) : (dissents s h l).core.Wf := by
  simp only [dissents]
  split
  · simpa using hs
  · split
    · exact wf_enterRoom (by simpa using hs)
    · split
      · exact wf_setRunMode rfl (by simpa using hs)
      · simpa using hs
@[simp] theorem wf_settleVerdict {s : State} {h : HalfId} {c : ClosedWin} {a : Outcome} (hs : s.core.Wf) :
    (settleVerdict s h c a).core.Wf := by
  simp only [settleVerdict]
  (repeat' split) <;> (try apply_rules [wf_afterAgreed, wf_windowAgrees, wf_dissents, wf_enterRoom]) <;> simp [*]
@[simp] theorem wf_verdict {s : State} {h : HalfId} {v : VerdictInput} (hs : s.core.Wf) : (verdict s h v).core.Wf := by
  simp only [verdict]
  (repeat' split) <;> simp [*]
@[simp] theorem wf_reexecutionLimit {s : State} {h : HalfId} (hs : s.core.Wf) :
    (reexecutionLimit s h).core.Wf := by simp [reexecutionLimit, hs]

/-! ### Resynchronisation (R261, R262) -/

@[simp] theorem wf_copyComplete {s : State} {h : HalfId} {l : Lane} (hs : s.core.Wf) :
    (copyComplete s h l).core.Wf := by simp [copyComplete, hs]
@[simp] theorem wf_joinMode {s : State} {h : HalfId} (hs : s.core.Wf) : (joinMode s h).core.Wf := by
  simp only [joinMode]
  (repeat' split) <;> apply_rules [wf_setMode]
@[simp] theorem core_laneJoins (h : HalfId) (s : State) (l : Lane) : (laneJoins h s l).core = s.core := by simp [laneJoins]
@[simp] theorem wf_resyncJoin {s : State} {h : HalfId} {l : Lane} (hs : s.core.Wf) : (resyncJoin s h l).core.Wf := by
  have hj := core_foldl (f := laneJoins h) fun _ _ => core_laneJoins ..
  simp only [resyncJoin]
  split
  · exact wf_joinMode (by simp [hs, hj])
  · exact hs

/-! ### Comparator injection (R270, R282) -/

@[simp] theorem core_leaveRoom (s : State) (h : HalfId) : (leaveRoom s h).core = s.core := by
  unfold leaveRoom
  split
  · exact core_foldl (fun _ _ => by simp) _ s
  · rfl
@[simp] theorem core_injectResult (s : State) (h : HalfId) (cases : BitVec 8) (occasion : BitVec 2) :
    (injectResult s h cases occasion).core = s.core := by simp [injectResult]
@[simp] theorem wf_injectRequested {s : State} {h : HalfId} {cases : BitVec 8} (hs : s.core.Wf) :
    (injectRequested s h cases).core.Wf := by simp [injectRequested, hs]
@[simp] theorem core_injectLeaving (s : State) (h : HalfId) (cases : BitVec 8) :
    (injectLeaving s h cases).core = s.core := by simp [injectLeaving]
@[simp] theorem wf_injectRunning {s : State} {h : HalfId} {cases : BitVec 8} (hs : s.core.Wf) :
    (injectRunning s h cases).core.Wf := by simp [injectRunning, hs]

/-! ### Audits (R277-R280) -/

@[simp] theorem wf_auditBegin {s : State} {h : HalfId} {l : Lane} {g : AuditTrigger} (hs : s.core.Wf) :
    (auditBegin s h l g).core.Wf := by
  simp only [auditBegin]
  split
  · exact wf_rkReading (wf_setMode rfl (by simp [hs]))
  · split
    · exact wf_setMode rfl (by simp [hs])
    · simp [hs]
@[simp] theorem wf_auditStart {s : State} {h : HalfId} (hs : s.core.Wf) : (auditStart s h).core.Wf := by
  simp only [auditStart]
  (repeat' split) <;> simp [*]
@[simp] theorem core_auditBringUp (s : State) (h : HalfId) : (auditBringUp s h).core = s.core := by simp [auditBringUp]
@[simp] theorem core_roomRestored (s : State) (h : HalfId) : (roomRestored s h).core = s.core := by simp [roomRestored]
@[simp] theorem core_auditPassed (s : State) (h : HalfId) (l : Lane) :
    (auditPassed s h l).core = s.core := by simp [auditPassed]
@[simp] theorem wf_auditFailed {s : State} {h : HalfId} {l : Lane} (hs : s.core.Wf) :
    (auditFailed s h l).core.Wf := by simp [auditFailed, hs]
@[simp] theorem wf_auditComplete {s : State} {h : HalfId} {l : Lane} {pass : Bool} (hs : s.core.Wf) :
    (auditComplete s h l pass).core.Wf := by simp [auditComplete, hs]

/-! ### READING-ROOM and the clocks (R38, R39, R481) -/

@[simp] theorem wf_readingRoom {s : State} {h : HalfId} {loss : PathLoss} (hs : s.core.Wf) :
    (readingRoom s h loss).core.Wf := by simp [readingRoom, hs]
@[simp] theorem core_pathRestored (s : State) (h : HalfId) (loss : PathLoss) (cases : BitVec 8) :
    (pathRestored s h loss cases).core = s.core := by simp [pathRestored]
@[simp] theorem core_thirdAudit (s : State) (h : HalfId) : (thirdAudit s h).core = s.core := by
  simp only [thirdAudit]
  (repeat' split) <;> simp [*]

/-! ### The TLY registers (R240, R249, R271, R276, R280, R283-R285) -/

@[simp] theorem wf_fenceRequest {s : State} {h : HalfId} {m : BitVec 3} (hs : s.core.Wf) :
    (fenceRequest s h m).core.Wf := by simp [fenceRequest, hs]
@[simp] theorem core_auditRequest (s : State) (h : HalfId) : (auditRequest s h).core = s.core := by simp [auditRequest]
@[simp] theorem core_injectRequest (s : State) (h : HalfId) : (injectRequest s h).core = s.core := by simp [injectRequest]
@[simp] theorem wf_tlyWrite {s : State} {h : HalfId} {o : Nat} {x : Cell} (hs : s.core.Wf) : (tlyWrite s h o x).core.Wf := by
  simp only [tlyWrite]
  split <;> simp [hs]

/-! ### Acceptance and fault (R483, R491-R494, R559) -/

@[simp] theorem core_recordChoice (s : State) (c : CharterInput) (r : Choice) :
    (recordChoice s c r).core = s.core := by simp [recordChoice]
@[simp] theorem wf_unlockCheck {s : State} {ok : Bool} (hs : s.core.Wf) :
    (unlockCheck s ok).core.Wf := by simp [unlockCheck, hs]
@[simp] theorem wf_acceptSlot {s : State} {p : List HalfId} {c : CharterInput} {second : Bool} (hs : s.core.Wf) :
    (acceptSlot s p c second).core.Wf :=
  wf_unlockCheck (wf_foldl (fun _ _ ht => by simp [ht]) p _ (by simpa using hs))
@[simp] theorem core_bootHold (s : State) (h : HalfId) : (bootHold s h).core = s.core := by simp [bootHold]
@[simp] theorem core_charterFault (s : State) : (charterFault s).core = s.core := by simp [charterFault]
@[simp] theorem wf_charterDecide {s : State} (hs : s.core.Wf) : (charterDecide s).core.Wf := by
  simp only [charterDecide]
  (repeat' split) <;> simp [*]
@[simp] theorem wf_charterVerified {s : State} {c : CharterInput} (hs : s.core.Wf) :
    (charterVerified s c).core.Wf := by simp [charterVerified, hs]

/-! ### Comparator injection at bring-up (R270, R481) -/

@[simp] theorem wf_injectBringUp {s : State} {h : HalfId} {cases : BitVec 8} (hs : s.core.Wf) :
    (injectBringUp s h cases).core.Wf := by simp [injectBringUp, hs]
@[simp] theorem wf_injection {s : State} {h : HalfId} {cases : BitVec 8} (hs : s.core.Wf) :
    (injection s h cases).core.Wf := by simp [injection, hs]

/-! ### Installation of the global units (R488, R495, R526) -/

@[simp] theorem core_installSource (s : State) (n : Nat) : (installSource s n).core = s.core := by simp [installSource]
@[simp] theorem core_installEnable (s : State) (k : Nat) : (installEnable s k).core = s.core := by simp [installEnable]
@[simp] theorem core_installEvents (s : State) : (installEvents s).core = s.core := by
  unfold installEvents
  split
  · exact (core_foldl core_installEnable _ _).trans (core_foldl core_installSource _ s)
  · rfl
@[simp] theorem core_installMail (s : State) : (installMail s).core = s.core := by
  unfold installMail
  split
  · exact core_foldl (fun _ _ => by simp) _ s
  · rfl
@[simp] theorem wf_installBlock {s : State} (hs : s.core.Wf) : (installBlock s).core.Wf := by
  simp only [installBlock]
  (repeat' split) <;> apply_rules [wf_crdInstall]
@[simp] theorem core_fleetReplace (s : State) : (fleetReplace s).core = s.core := by simp [fleetReplace]
@[simp] theorem core_installFleet (s : State) : (installFleet s).core = s.core := by simp [installFleet]
@[simp] theorem core_tampReport (s : State) (sensor : BitVec 3) (resp : BitVec 2) (rtc : BitVec 48) :
    (tampReport s sensor resp rtc).core = s.core := by simp [tampReport]
@[simp] theorem core_wakeDeliver (s : State) : (wakeDeliver s).core = s.core := by
  have hr := core_foldl (f := raiseSource) core_raiseSource
  simp [wakeDeliver, hr]
@[simp] theorem core_keepReports (s : State) : (keepReports s).core = s.core := by
  have ht := core_foldl (f := fun s (e : BitVec 3 × BitVec 2 × BitVec 48) => tampReport s e.1 e.2.1 e.2.2)
    fun _ _ => core_tampReport ..
  simp only [keepReports]
  split <;> simp [ht]
@[simp] theorem wf_installGlobal {s : State} (hs : s.core.Wf) : (installGlobal s).core.Wf := by simp [installGlobal, hs]

/-! ### Installation of a half (R374, R380, R495) -/

@[simp] theorem core_installTally (s : State) (h : HalfId) : (installTally s h).core = s.core := by simp [installTally]
@[simp] theorem core_installEnergy (s : State) (h : HalfId) : (installEnergy s h).core = s.core := by simp [installEnergy]
@[simp] theorem core_installTable (s : State) (h : HalfId) : (installTable s h).core = s.core := by simp [installTable]
@[simp] theorem core_installHomes (s : State) (h : HalfId) : (installHomes s h).core = s.core := by
  unfold installHomes
  split
  · exact core_foldl (fun _ _ => by simp) _ s
  · rfl
@[simp] theorem wf_imageFails {s : State} {h : HalfId} (hs : s.core.Wf) : (imageFails s h).core.Wf := by
  simp only [imageFails, core_bootHold]
  exact wf_setMode rfl (by simp [hs])
@[simp] theorem core_wardenChecked (s : State) (pass : Bool) : (wardenChecked s pass).core = s.core := by simp [wardenChecked]
@[simp] theorem wf_enterEarly {s : State} {h : HalfId} {pass : Bool} (hs : s.core.Wf) : (enterEarly s h pass).core.Wf := by
  unfold enterEarly
  extract_lets s1 s2 s3 s4
  have h3 : s3.core.Wf := wf_setMode legalMode_early (by simp [s2, s1, hs])
  have h4 : s4.core.Wf := by simp [s4, h3]
  split
  · exact wf_tryHalt (by simpa using h4)
  · exact wf_imageFails h4
@[simp] theorem wf_installHalf {s : State} {h : HalfId} {pass : Bool} (hs : s.core.Wf) :
    (installHalf s h pass).core.Wf := by simp [installHalf, hs]
@[simp] theorem wf_installStep {s : State} {h : HalfId} {pass : Bool} (hs : s.core.Wf) :
    (installStep s h pass).core.Wf := by simp [installStep, hs]

/-! ### Image states (R497, R499) -/

@[simp] theorem core_chtTstWrite (s : State) (x : Cell) : (chtTstWrite s x).core = s.core := by simp [chtTstWrite]

/-! ### Updates (R500, R501) -/

@[simp] theorem core_setUst (s : State) (st : BitVec 3) (code : BitVec 6) : (setUst s st code).core = s.core := by simp [setUst]
@[simp] theorem core_updateImage (s : State) (snap : CapSnap) :
    (updateImage s snap).1.core = s.core := by
  grind [updateImage, core_crdRead, core_block]
@[simp] theorem core_updateStart (s : State) : (updateStart s).core = s.core := by simp [updateStart]
@[simp] theorem core_chtUpdate (s : State) (w : Writer) (snap : CapSnap) :
    (chtUpdate s w snap).core = s.core := by
  grind [chtUpdate, core_setUst, core_updateImage, core_updateStart, core_block]
theorem wf_execFlashStatusPoll {busy : Bool} {s : State} (hs : s.core.Wf) :
    ∀ t, execFlashStatusPoll busy s = .next t → t.core.Wf := by
  simp only [execFlashStatusPoll]
  split <;> simp [hs]
@[simp] theorem core_updateEnd (s : State) (st : BitVec 3) (code : BitVec 6) :
    (updateEnd s st code).core = s.core := by simp [updateEnd]
theorem wf_execCharterUpdateDone {r : FlashResult} {s : State} (hs : s.core.Wf) :
    ∀ t, execCharterUpdateDone r s = .next t → t.core.Wf := by
  simp only [execCharterUpdateDone]
  (repeat' split) <;> simp [*]

/-! ### The CHT registers (R503, R504) -/

@[simp] theorem wf_chtWrite {s : State} {w : Writer} {snap : CapSnap} {o : Nat} {x0 x1 : Cell} (hs : s.core.Wf) :
    (chtWrite s w snap o x0 x1).core.Wf := by simp [chtWrite, hs]

/-! ### CTXSV (R149, R177, R594) -/

@[simp] theorem wf_saveGroup {s : State} {b : Bank} {dst : Pos} {n : BitVec 5} {a : Addr} {img : List TCell} (hs : s.core.Wf) :
    (saveGroup s b dst n a img).Wf := by simp [saveGroup, hs]
@[simp] theorem wf_runCtxsv {s : State} {h : HalfId} {k : BitVec 5} {b : Bank} {dst : Pos} (hs : s.core.Wf) :
    (runCtxsv s h k b dst).Wf := by
  simp only [runCtxsv]
  (repeat' split) <;> simp [*]
@[simp] theorem wf_opCtxsv : opCtxsv.Keeps := ⟨wf_runCtxsv⟩

/-! ### CTXLD (R149, R176) -/

@[simp] theorem core_loadLater (s : State) (h : HalfId) (n : BitVec 5) (b : Bank) :
    (loadLater s h n b).core = s.core := by simp [loadLater]
@[simp] theorem wf_runCtxld {errs : List (Nat × ReadOutcome)} {s : State} {h : HalfId} {k : BitVec 5} {b : Bank} {dst : Pos}
    (hs : s.core.Wf) : (runCtxld errs s h k b dst).Wf := by
  unfold runCtxld
  split
  · trivial
  · split
    · trivial
    · split
      · trivial
      · split
        · next e => exact wf_of_eq e (by simp [hs])
        · next e =>
          have hu := wf_of_eq e (by simp [hs])
          split
          · exact hu
          · split
            · exact hu
            · simpa [doneOf] using hu
@[simp] theorem wf_opCtxld {errs : List (Nat × ReadOutcome)} : (opCtxld errs).Keeps := ⟨wf_runCtxld⟩
@[simp] theorem core_onKeep (s : State) (f : Keep → Keep) : (State.onKeep s f).core = s.core := by simp [State.onKeep]

/-! ### Wake (R510, R511, R562) -/

@[simp] theorem core_wakeArise (s : State) (code : Nat) (input : Octet) :
    (wakeArise s code input).core = s.core := by simp [wakeArise]
@[simp] theorem core_alarmTest (s : State) : (alarmTest s).core = s.core := by simp [alarmTest]
@[simp] theorem wf_modeBack {s : State} {h : HalfId} (hs : s.core.Wf) : (modeBack s h).core.Wf := by
  simp [modeBack, hs, hs.before]
@[simp] theorem wf_emulationEnd {s : State} (hs : s.core.Wf) : (emulationEnd s).core.Wf := by simp [emulationEnd, hs]
@[simp] theorem wf_wake {s : State} (hs : s.core.Wf) : (wake s).core.Wf := by simp [wake, hs]

/-! ### KEEP entry (R41, R421, R509, R543, R562) -/

@[simp] theorem core_isolate (s : State) : (isolate s).core = s.core := by simp [isolate]
@[simp] theorem wf_keepEnter {s : State} (hs : s.core.Wf) : (keepEnter s).core.Wf := by
  unfold keepEnter
  extract_lets n sense u d1 d2 v w
  have hv : v.core.Wf := by simp [v, u, hs]
  have hw : w.core.Wf := wf_onEx (wf_onEx hv legalMode_keep (hv.before .h0)) legalMode_keep (hv.before .h1)
  simp [hw]
@[simp] theorem wf_emulateHalf {s : State} {h : HalfId} (hs : s.core.Wf) : (emulateHalf s h).core.Wf := by
  unfold emulateHalf
  split
  · exact wf_setMode legalMode_keep (wf_onEx hs (hs.mode h) (hs.mode h))
  · exact hs
@[simp] theorem wf_keepEmulate {s : State} (hs : s.core.Wf) : (keepEmulate s).core.Wf := by simp [keepEmulate, hs]
@[simp] theorem wf_keepEntry {s : State} (hs : s.core.Wf) : (keepEntry s).core.Wf := by simp [keepEntry, hs]
@[simp] theorem core_keepAsk (s : State) : (keepAsk s).core = s.core := by simp [keepAsk]

/-! ### Attach and detach (R433, R434) -/

@[simp] theorem core_isoRise (s : State) : (isoRise s).core = s.core := by simp [isoRise]
@[simp] theorem core_isoFall (s : State) : (isoFall s).core = s.core := by simp [isoFall]

/-! ### Latches (R421, R510) -/

@[simp] theorem core_latchEdge (s : State) (n : BitVec 7) : (latchEdge s n).core = s.core := by simp [latchEdge]

/-! ### The witness (R304, R305) -/

@[simp] theorem core_witnessBeat (s : State) (h : HalfId) : (witnessBeat s h).core = s.core := by simp [witnessBeat]
@[simp] theorem core_witnessOpen (s : State) (kind : BitVec 2) : (witnessOpen s kind).core = s.core := by simp [witnessOpen]
@[simp] theorem core_witnessReport (s : State) (h : HalfId) (n : Nat) :
    (witnessReport s h n).core = s.core := by simp [witnessReport]
@[simp] theorem core_witnessTell (s : State) (h : HalfId) : (witnessTell s h).core = s.core := by
  simp only [witnessTell]
  (repeat' split) <;> simp [*]
@[simp] theorem core_witnessTick (s : State) : (witnessTick s).core = s.core := by simp [witnessTick]
@[simp] theorem core_witnessClose (s : State) : (witnessClose s).core = s.core := by simp [witnessClose]

/-! ### The RTC (R506, R510) -/

@[simp] theorem core_rtcCount (s : State) : (rtcCount s).core = s.core := by simp [rtcCount]
@[simp] theorem core_rtcTick (s : State) : (rtcTick s).core = s.core := by simp [rtcTick]
@[simp] theorem core_rtcSet (s : State) (x0 x1 : Cell) : (rtcSet s x0 x1).core = s.core := by simp [rtcSet]

/-! ### Tamper (R512-R514, R583) -/

@[simp] theorem core_tampSay (s : State) (sensor : BitVec 3) (resp : BitVec 2) :
    (tampSay s sensor resp).core = s.core := by simp [tampSay]
@[simp] theorem wf_tamperTrip {s : State} {sensor : BitVec 3} (hs : s.core.Wf) :
    (tamperTrip s sensor).core.Wf := by simp [tamperTrip, hs]

/-! ### Supplies (R329, R332, R447, R505, R543, R589) -/

@[simp] theorem wf_retainedClear {s : State} (hs : s.core.Wf) : (retainedClear s).core.Wf :=
  wf_of_memWf (s := s) (retainedClear_memWf s hs.mem) rfl hs
@[simp] theorem wf_coldReset {s : State} (hs : s.core.Wf) : (coldReset s).core.Wf := by simp [coldReset, hs]
@[simp] theorem wf_breakLine {s : State} {h : HalfId} {e : MergeEntry} (hs : s.core.Wf) : (breakLine s h e).core.Wf :=
  wf_of_memWf (s := s) (breakLine_memWf s h e hs.mem) rfl hs
@[simp] theorem wf_cutProgram {s : State} {h : HalfId} (hs : s.core.Wf) : (cutProgram s h).core.Wf := by
  simp only [cutProgram]
  (repeat' split) <;> simp [*]
@[simp] theorem wf_memPowerLoss {s : State} {h : HalfId} (hs : s.core.Wf) :
    (memPowerLoss s h).core.Wf := by simp [memPowerLoss, hs]
@[simp] theorem wf_powerLoss {s : State} (hs : s.core.Wf) : (powerLoss s).core.Wf := by simp [powerLoss, hs]
@[simp] theorem wf_attachedLoss {s : State} (hs : s.core.Wf) : (attachedLoss s).core.Wf := by simp [attachedLoss, hs]
@[simp] theorem wf_vcoreLoss {s : State} (hs : s.core.Wf) : (vcoreLoss s).core.Wf := by simp [vcoreLoss, hs]

/-! ### The KEP registers (R529-R531) -/

@[simp] theorem core_kepCtrl (s : State) (x : Cell) : (kepCtrl s x).core = s.core := by simp [kepCtrl]
@[simp] theorem core_kepWrite (s : State) (o : Nat) (x0 x1 : Cell) : (kepWrite s o x0 x1).core = s.core := by simp [kepWrite]
@[simp] theorem core_vltFetch (s : State) (w : Writer) (snap : CapSnap) :
    (vltFetch s w snap).1.core = s.core := by
  grind [vltFetch, core_crdRead, core_block]
@[simp] theorem core_vltRefuse (s : State) (w : Writer) (slot : BitVec 10) (code : BitVec 6) :
    (vltRefuse s w slot code).core = s.core := by simp [vltRefuse]
@[simp] theorem core_vltProgram (s : State) (w : Writer) (slot : BitVec 10) (r : VltSlot) :
    (vltProgram s w slot r).core = s.core := by simp [vltProgram]
@[simp] theorem core_vltImportGo (s : State) (w : Writer) (snap : CapSnap) (slot : BitVec 10) :
    (vltImportGo s w snap slot).core = s.core := by
  grind [vltImportGo, core_vltFetch, core_vltRefuse, core_vltProgram, core_block]
@[simp] theorem wf_vltLock {s : State} {w : Writer} {slot : BitVec 10} (hs : s.core.Wf) :
    (vltLock s w slot).core.Wf := by simp [vltLock, hs]
@[simp] theorem wf_vltRun {s : State} {w : Writer} {snap : CapSnap} {op : BitVec 3} {slot : BitVec 10} {type : BitVec 4}
    {owner : BitVec 10} (hs : s.core.Wf) : (vltRun s w snap op slot type owner).core.Wf := by simp [vltRun, hs]
@[simp] theorem wf_vltGoWrite {s : State} {w : Writer} {snap : CapSnap} {x : Cell} (hs : s.core.Wf) :
    (vltGoWrite s w snap x).core.Wf := by simp [vltGoWrite, hs]
@[simp] theorem wf_vltWrite {s : State} {w : Writer} {snap : CapSnap} {o : Nat} {x0 : Cell} (hs : s.core.Wf) :
    (vltWrite s w snap o x0).core.Wf := by simp [vltWrite, hs]
@[simp] theorem wf_vltCommand {s : State} {w : HalfId} {op : BitVec 3} {slot : BitVec 10} {type : BitVec 4}
    {owner : BitVec 10} (hs : s.core.Wf) : (vltCommand s w op slot type owner).core.Wf := by simp [vltCommand, hs]
@[simp] theorem core_onDbg (s : State) (f : Dbg → Dbg) : (State.onDbg s f).core = s.core := by simp [State.onDbg]
@[simp] theorem core_overflowPacket (s : State) : (overflowPacket s).core = s.core := by simp [overflowPacket]
@[simp] theorem core_stimWrite (s : State) (w : Writer) (port : BitVec 5) (data : Cell) :
    (stimWrite s w port data).core = s.core := by simp [stimWrite]
@[simp] theorem core_trrdRead (s : State) : (trrdRead s).1.core = s.core := by
  simp only [trrdRead]
  split <;> simp
@[simp] theorem core_trcWrite (s : State) (x : Cell) : (trcWrite s x).core = s.core := by simp [trcWrite]
@[simp] theorem core_dbgFwWrite (s : State) (w : Writer) (o : Nat) (x : Cell) :
    (dbgFwWrite s w o x).core = s.core := by simp [dbgFwWrite]
@[simp] theorem core_orZero (s : State) (o : Option (Cell × Cell)) : (orZero s o).1.core = s.core := by simp [orZero]
@[simp] theorem core_orSame (s : State) {o : Option (State × Cell × Cell)} (ho : OptAll (fun t => t.1.core = s.core) o) :
    (orSame s o).1.core = s.core := by
  cases o with
  | none => rfl
  | some t => exact ho
@[simp] theorem core_keepUnits (s : State) (r : Reader) (a : Nat) : (keepUnits s r a).1.core = s.core := by
  simp only [keepUnits]
  (repeat' split) <;> simp [*]
@[simp] theorem core_halfRead (s : State) (h : HalfId) (r : Reader) (a : Nat) : (halfRead s h r a).1.core = s.core := by
  simp only [halfRead]
  (repeat' split) <;> simp [*]
@[simp] theorem core_ioRead (s : State) (r : Reader) (a : Nat) : (ioRead s r a).1.core = s.core := by
  simp only [ioRead]
  (repeat' split) <;> simp [*]
@[simp] theorem wf_keepWrite {s : State} {w : Writer} {snap : CapSnap} {a : Nat} {x0 x1 : Cell} (hs : s.core.Wf) :
    (keepWrite s w snap a x0 x1).core.Wf := by simp [keepWrite, hs]
@[simp] theorem wf_halfWrite {s : State} {h : HalfId} {w : Writer} {a : Nat} {x0 x1 : Cell} (hs : s.core.Wf) :
    (halfWrite s h w a x0 x1).core.Wf := by simp [halfWrite, hs]
@[simp] theorem wf_ioWrite {s : State} {w : Writer} {snap : CapSnap} {a : Nat} {x0 x1 : Cell} (hs : s.core.Wf) :
    (ioWrite s w snap a x0 x1).core.Wf := by simp [ioWrite, hs]

/-! ### IN -/

@[simp] theorem core_exchangeRead (s : State) (r : Reader) (a d1 d2 : Nat) :
    (exchangeRead s r a d1 d2).1.core = s.core := by simp [exchangeRead]
@[simp] theorem core_inRead (b : Bank) (eff : Bool) (d1 d2 : Nat) (s : State) (r : Reader) (a : Nat) :
    (inRead b eff d1 d2 s r a).1.core = s.core := by
  simp only [inRead]
  split <;> simp
@[simp] theorem wf_runIn {d1 d2 : Nat} {s : State} {h : HalfId} {k : BitVec 5} {b : Bank} {dst : Pos} (hs : s.core.Wf) :
    (runIn d1 d2 s h k b dst).Wf := by
  simp only [runIn]
  split
  · trivial
  · split
    · trivial
    · split
      · trivial
      · next e => exact (wf_request hs fun u hu => by simp [hu]).of_eq e
@[simp] theorem wf_opIn {b : Bank} {d1 d2 : Nat} : (opIn b d1 d2).Keeps := ⟨wf_runIn⟩

/-! ### OUT -/

@[simp] theorem wf_runOut {s : State} {h : HalfId} {x : BitVec 5} {b : Bank} {dst : Pos} (hs : s.core.Wf) :
    (runOut s h x b dst).Wf := by
  simp only [runOut]
  split <;> simp [hs]
@[simp] theorem wf_opOut {b : Bank} : (opOut b).Keeps := ⟨fun hs => by simp [opOut, hs]⟩

/-! ### Drains (R49, R194, R200, R290, R297) -/

@[simp] theorem wf_drainNear {s : State} {h : HalfId} {ws : List (Addr × BitVec 10 × TCell)} {r : ReadOutcome} (hs : s.core.Wf) :
    (drainNear s h ws r).core.Wf := by simp [drainNear, hs]
@[simp] theorem core_sendFlit (s : State) (h : HalfId) (f : Flit) : (sendFlit s h f).core = s.core := by simp [sendFlit]
@[simp] theorem core_offerGen (s : State) (h : HalfId) (t : BitVec 10) (g : BitVec 4) :
    (offerGen s h t g).core = s.core := by simp [offerGen]
@[simp] theorem core_offerEntry (s : State) (h : HalfId) (e : SbEntry) : (offerEntry s h e).core = s.core := by
  simp only [offerEntry]
  split <;> simp
@[simp] theorem wf_takeEntry {s : State} {h : HalfId} {e : SbEntry} {f : Option SbEntry} {r : ReadOutcome} (hs : s.core.Wf) :
    (takeEntry s h e f r).core.Wf := by
  simp only [takeEntry]
  split <;> simp [hs]
@[simp] theorem wf_drainEntry {s : State} {h : HalfId} {e : SbEntry} {f : Option SbEntry} {l : List SbEntry} {r : ReadOutcome}
    (hs : s.core.Wf) : (drainEntry s h e f l r).core.Wf := by simp [drainEntry, hs]
@[simp] theorem wf_storeDrain {s : State} {h : HalfId} {r : ReadOutcome} (hs : s.core.Wf) : (storeDrain s h r).core.Wf := by
  simp only [storeDrain]
  (repeat' split) <;> simp [*]

/-! ### Flits (R25, R288-R291, R299) -/

@[simp] theorem core_spanRequest (s : State) (h : HalfId) (a : Addr) (w : ArbWork) :
    (spanRequest s h a w).core = s.core := by simp [spanRequest]
@[simp] theorem core_takeReply (s : State) (h : HalfId) (id : Nat) (v : TCell) (bad : Bool) :
    (takeReply s h id v bad).core = s.core := by simp [takeReply]
@[simp] theorem core_queueGen (s : State) (h : HalfId) (t : BitVec 10) (g : BitVec 4) (k : GenKind) :
    (queueGen s h t g k).core = s.core := by simp [queueGen]
@[simp] theorem wf_applyFlit {s : State} {h : HalfId} {a : Flit} (hs : s.core.Wf) : (applyFlit s h a).core.Wf := by
  simp only [applyFlit]
  (repeat' split) <;> simp [*]
@[simp] theorem core_flitFails (s : State) (h : HalfId) (goodA goodB : Bool) :
    (flitFails s h goodA goodB).core = s.core := by simp [flitFails]
@[simp] theorem core_flitReject (s : State) (h : HalfId) : (flitReject s h).core = s.core := by simp [flitReject]
@[simp] theorem wf_flitReceive {s : State} {h : HalfId} {goodA goodB same : Bool} (hs : s.core.Wf) :
    (flitReceive s h goodA goodB same).core.Wf := by
  simp only [flitReceive]
  (repeat' split) <;> simp [*]

/-! ### Recovery (R310) -/

@[simp] theorem core_refuseMigration (s : State) (h : HalfId) (t : BitVec 10) :
    (refuseMigration s h t).core = s.core := by simp [refuseMigration]
@[simp] theorem wf_recoverFlit {h : HalfId} {s : State} {a : Flit} (hs : s.core.Wf) : (recoverFlit h s a).core.Wf := by
  simp only [recoverFlit]
  split <;> simp [hs]
@[simp] theorem wf_resend {s : State} {h : HalfId} (hs : s.core.Wf) : (resend s h).core.Wf := by
  unfold resend
  exact wf_foldl (fun _ _ => wf_recoverFlit) _ _ (by simp [hs])
@[simp] theorem core_recoverQueue (s : State) (h : HalfId) : (recoverQueue s h).core = s.core := by
  unfold recoverQueue
  exact (core_onSpn ..).trans (core_foldl (fun _ _ => by simp) _ s)
@[simp] theorem core_adopt (s : State) (h : HalfId) (t : TenantTables) : (adopt s h t).core = s.core := by simp [adopt]
@[simp] theorem core_staleFar (s : State) (h : HalfId) : (staleFar s h).core = s.core := by simp [staleFar]
@[simp] theorem core_recovered (s : State) (h : HalfId) : (recovered s h).core = s.core := by simp [recovered]
@[simp] theorem wf_spanRecovery {s : State} (hs : s.core.Wf) : (spanRecovery s).core.Wf := by simp [spanRecovery, hs]

/-! ### Simple opcodes (R73, R74) -/

@[simp] theorem wf_lowOp {code : Nat} : OptAll Op.Keeps (lowOp code) := by
  unfold lowOp
  split <;> simp
@[simp] theorem wf_midOp {code : Nat} : OptAll Op.Keeps (midOp code) := by
  unfold midOp
  split <;> simp
@[simp] theorem wf_memOp {code : Nat} {b : Bank} : OptAll Op.Keeps (memOp code b) := by
  unfold memOp
  split <;> simp
@[simp] theorem wf_simpleOp {code : BitVec 6} {b : Bank} : OptAll Op.Keeps (simpleOp code b) := by
  simp [simpleOp]

/-! ### Prefixes (R77-R79, R167-R169) -/

@[simp] theorem wf_repRetire {d : Done} {pl : RepPlace} {first : Option Bank} {n : Nat} {h : HalfId} {uninterrupted : Bool}
    (hd : d.s.core.Wf) : (repRetire d pl first n h uninterrupted).s.core.Wf := by simp [repRetire, hd]
@[simp] theorem wf_repIterate {o : Op} {s : State} {h : HalfId} {k : BitVec 5} {b : Bank} {pl : RepPlace} {first : Option Bank}
    {n : Nat} {uninterrupted : Bool} (ho : o.Keeps) (hs : s.core.Wf) : (repIterate o s h k b pl first n uninterrupted).Wf := by
  have hr := wf_runChecked (h := h) (k := k) (b := { b with repActive := false, repLeft := 0 }) (dst := pl.after) ho hs
  unfold repIterate
  split
  · exact hs
  · next e => rw [e] at hr; exact hr
  · next e => rw [e] at hr; exact wf_repRetire hr
  · exact hr
@[simp] theorem wf_repRun {target : BitVec 6} {s : State} {h : HalfId} {k : BitVec 5} {b : Bank} {pl : RepPlace} {first : Bool}
    {n : Nat} {uninterrupted : Bool} (hs : s.core.Wf) : (repRun target s h k b pl first n uninterrupted).Wf := by
  unfold repRun
  split
  · trivial
  · next e =>
    split
    · exact hs
    · exact wf_repIterate (wf_simpleOp.of_eq e) hs
@[simp] theorem wf_runRep {target : BitVec 6} {s : State} {h : HalfId} {k : BitVec 5} {b : Bank} {dst : Pos} (hs : s.core.Wf) :
    (runRep target s h k b dst).Wf := by simp [runRep, hs]
@[simp] theorem wf_runRepu {count target : BitVec 6} {s : State} {h : HalfId} {k : BitVec 5} {b : Bank} {dst : Pos}
    (hs : s.core.Wf) : (runRepu count target s h k b dst).Wf := by simp [runRepu, hs]
@[simp] theorem wf_opRep {target : BitVec 6} {b : Bank} : (opRep target b).Keeps := ⟨wf_runRep⟩
@[simp] theorem wf_opRepu {count target : BitVec 6} {b : Bank} : (opRepu count target b).Keeps := ⟨wf_runRepu⟩

/-! ### Decoding (R70-R75, R86-R88) -/

@[simp] theorem wf_Spelled_simple {o : Op} (ho : o.Keeps) : (Spelled.simple o).Keeps := by simp [Spelled.simple, ho]
@[simp] theorem wf_extOpen (x : BitVec 6) : OptAll Op.Keeps (extOpen x) := by
  simp only [extOpen]
  split <;> simp
@[simp] theorem wf_extWarden (x : BitVec 6) : OptAll Op.Keeps (extWarden x) := by
  simp only [extWarden]
  split <;> simp
@[simp] theorem wf_spellExt (x : BitVec 6) : (spellExt x).Keeps := by
  unfold spellExt
  split
  · next e => exact (wf_extOpen x).of_eq e
  · next e => exact (wf_extWarden x).of_eq e
  · simp
@[simp] theorem wf_spellRk (x : BitVec 6) : (spellRk x).Keeps := by
  simp only [spellRk]
  (repeat' split) <;> simp [*]
@[simp] theorem wf_spellLong (w : Cell) (i : Nat) : (spellLong w i).Keeps := by
  simp only [spellLong]
  split <;> simp
@[simp] theorem wf_spell {w : Cell} {i : Nat} {b : Bank} : (spell w i b).Keeps := by
  simp only [spell]
  split
  · next e => exact wf_simpleOp.of_eq e
  · split
    · exact wf_spellLong w i
    · split <;> simp

/-! ### How a fed word ends (R567) -/

@[simp] theorem wf_fedClose {s : State} {h : HalfId} (hs : s.core.Wf) : (fedClose s h).core.Wf := by simp [fedClose, hs]
@[simp] theorem wf_fedEnd {s : State} {h : HalfId} {f : Fed} {r : Pair} (hs : s.core.Wf) :
    (fedEnd s h f r).core.Wf := by simp [fedEnd, hs]
@[simp] theorem wf_fedFault {s : State} {h : HalfId} {f : Fed} {g : FaultInfo} {imprecise : Bool} {p : Pos} (hs : s.core.Wf) :
    (fedFault s h f g imprecise p).core.Wf := by simp [fedFault, hs]
@[simp] theorem wf_fedWhole {s : State} {h : HalfId} {f : Fed} (hs : s.core.Wf) :
    (fedWhole s h f).core.Wf := by simp [fedWhole, hs]
@[simp] theorem wf_fedTransfer {s : State} {h : HalfId} {f : Fed} {o : Op} {d : Done} (hs : s.core.Wf) :
    (fedTransfer s h f o d).core.Wf := by
  simp only [fedTransfer]
  cases d.after <;> simp [hs]

/-! ### Reads of a fed word -/

@[simp] theorem core_dropReads (s : State) (h : HalfId) : (dropReads s h).core = s.core := by simp [dropReads]
@[simp] theorem core_fedRead (s : State) (h : HalfId) (k : BitVec 5) :
    (fedRead s h k).1.core = s.core := by
  grind [fedRead, core_dropReads, core_homeRead, core_perfAccess, core_onWin, core_onBank, core_draw, core_block]

/-! ### Slots of a fed word -/

@[simp] theorem wf_fedPause {s : State} {h : HalfId} {f : Fed} (hs : s.core.Wf) :
    (fedPause s h f).core.Wf := by simp [fedPause, hs]
@[simp] theorem wf_fedYield {s : State} {h : HalfId} {k : BitVec 5} {a : After} (hs : s.core.Wf) :
    (fedYield s h k a).core.Wf := by
  simp only [fedYield]
  split <;> simp [hs]
@[simp] theorem wf_fedOn {s : State} {h : HalfId} {f : Fed} {p : Pos} {d : Done} (hs : s.core.Wf) : (fedOn s h f p d).Wf := by
  simp [fedOn, hs]
@[simp] theorem wf_fedRetire {s : State} {h : HalfId} {f : Fed} {wr : Writer} {p : Pos} {o : Op} {d : Done} (hs : s.core.Wf) :
    (fedRetire s h f wr p o d).Wf := by
  simp only [fedRetire]
  split
  · next e => exact wf_fedFault (wf_of_eq e (by simp [hs]))
  · next e =>
    have hu := wf_of_eq e (by simp [hs])
    split
    · exact wf_fedFault hu
    · exact wf_fedFault hu
    · split
      · exact wf_fedTransfer hu
      · exact wf_fedOn (wf_fedYield hu)
@[simp] theorem wf_fedSettleRes {s : State} {h : HalfId} {f : Fed} {wr : Writer} {p : Pos} {o : Op} {r : Res} (hs : s.core.Wf)
    (hr : r.Wf) : (fedSettleRes s h f wr p o r).Wf := by
  cases r with
  | done d =>
    simp only [fedSettleRes]
    split
    · exact wf_fedPause hs
    · exact wf_fedRetire hr
  | fault g => exact wf_fedFault hs
  | faultIn u g => exact wf_fedFault hr
  | iterFault u b g q => exact wf_fedFault ((core_setBank ..).symm ▸ hr)
  | stall => exact wf_fedPause hs
  | bus o => exact wf_fedPause hs
  | clash => exact wf_clashClose hs
  | lost g => exact wf_contextLost (wf_fedFault hs)
  | whole u => exact hr
@[simp] theorem wf_fedStep {s : State} {h : HalfId} {f : Fed} (hs : s.core.Wf) : (fedStep s h f).Wf := by
  unfold fedStep
  extract_lets b p
  split
  · exact wf_fedWhole hs
  · split
    · exact wf_fedPause hs
    · split
      · exact wf_fedFault hs
      · next form enc o e =>
        have ho : o.Keeps := by
          have hk := wf_spell (w := f.word) (i := f.slot) (b := b)
          rw [e] at hk
          exact hk
        split
        · exact wf_fedFault hs
        · split
          · exact wf_fedFault hs
          · exact wf_fedSettleRes hs (wf_runChecked ho hs)
@[simp] theorem wf_fedLoop {h : HalfId} {n : Nat} : ∀ {s : State} {f : Fed}, s.core.Wf → (fedLoop h n s f).core.Wf := by
  induction n with
  | zero => exact fun hs => wf_fedPause hs
  | succ n ih =>
    intro s f hs
    have hf := wf_fedStep (h := h) (f := f) hs
    unfold fedLoop
    split
    · next e => rw [e] at hf; exact hf
    · next e => rw [e] at hf; exact ih hf
@[simp] theorem wf_fedRun {s : State} {h : HalfId} (hs : s.core.Wf) : (fedRun s h).core.Wf := by
  simp only [fedRun]
  split <;> simp [hs]
@[simp] theorem wf_fedBegin {s : State} {h : HalfId} {k : BitVec 5} {warden : Bool} {w : Cell} (hs : s.core.Wf) :
    (fedBegin s h k warden w).core.Wf := by simp [fedBegin, hs]

/-! ### Attachment (R561, R562, R574) -/

@[simp] theorem wf_attachChange {s t : State} (ht : t.core.Wf) : (attachChange s t).core.Wf := by simp [attachChange, ht]

/-! ### Resume and step (R564) -/

@[simp] theorem wf_resumeNow {s : State} {h : HalfId} (hs : s.core.Wf) : (resumeNow s h).core.Wf := by
  have hm : (setMode s h (s.ex h).modeBefore).core.Wf := wf_setMode (hs.before h) hs
  simp only [resumeNow, core_storePump, core_dbkKick]
  exact wf_completeIdle (wf_crdResume (by simpa using hm))
@[simp] theorem wf_resumeHalf {s : State} {h : HalfId} {n : Option Nat} (hs : s.core.Wf) :
    (resumeHalf s h n).core.Wf := by simp [resumeHalf, hs]
@[simp] theorem wf_haltHalf {s : State} {h : HalfId} (hs : s.core.Wf) : (haltHalf s h).core.Wf := by simp [haltHalf, hs]

/-! ### The end of a fed word (R566, R567) -/

@[simp] theorem wf_fedSettle {s : State} {h : HalfId} (hs : s.core.Wf) : (fedSettle s h).core.Wf := by
  simp only [fedSettle]
  (repeat' split) <;> (try apply_rules [wf_attachChange, wf_resumeNow]) <;> simp [*]
@[simp] theorem wf_fedGo {s : State} {h : HalfId} (hs : s.core.Wf) : (fedGo s h).core.Wf := by simp [fedGo, hs]
@[simp] theorem wf_fenceOn {s : State} {h : HalfId} (hs : s.core.Wf) : (fenceOn s h).core.Wf := by simp [fenceOn, hs]
@[simp] theorem wf_fencesOn {s : State} (hs : s.core.Wf) : (fencesOn s).core.Wf := by simp [fencesOn, hs]

/-! ### What a scan op answers (R553, R554) -/

@[simp] theorem wf_scanDone {s : State} {x : Cell} (hs : s.core.Wf) : (scanDone s x).s.core.Wf := by simp [scanDone, hs]
@[simp] theorem wf_scanRefused {s : State} (hs : s.core.Wf) : (scanRefused s).s.core.Wf := by simp [scanRefused, hs]
@[simp] theorem wf_scanNone {s : State} (hs : s.core.Wf) : (scanNone s).s.core.Wf := by simp [scanNone, hs]
@[simp] theorem wf_scanRead {s : State} {a : Nat} (hs : s.core.Wf) : (scanRead s a).s.core.Wf := by simp [scanRead, hs]

/-! ### DBG_CTRL (R556-R561) -/

@[simp] theorem core_drawChal (s : State) : (drawChal s).core = s.core := by simp [drawChal]
@[simp] theorem wf_ctrlWrite {s : State} {x : Cell} (hs : s.core.Wf) : (ctrlWrite s x).s.core.Wf := by simp [ctrlWrite, hs]

/-! ### DBG_HALT (R563, R564) -/

@[simp] theorem wf_haltAct {x : Cell} {n : BitVec 11} {s : State} {h : HalfId} (hs : s.core.Wf) :
    (haltAct x n s h).core.Wf := by simp [haltAct, hs]
@[simp] theorem wf_haltWrite {s : State} {x : Cell} (hs : s.core.Wf) :
    (haltWrite s x).s.core.Wf := by
  grind [haltWrite, wf_scanRefused, core_onDbg, wf_scanDone, wf_haltAct, core_block]

/-! ### Feeding (R566, R567) -/

@[simp] theorem wf_feedRefused {s : State} (hs : s.core.Wf) : (feedRefused s).s.core.Wf := by simp [feedRefused, hs]
@[simp] theorem wf_feedWrite {s : State} {w : Cell} (hs : s.core.Wf) :
    (feedWrite s w).s.core.Wf := by
  grind [feedWrite, wf_feedRefused, core_onDbg, wf_scanDone, wf_fedSettle, wf_fedBegin, core_block]

/-! ### Memory access (R568) -/

@[simp] theorem core_accessEnd (s : State) (x st : Cell) : (accessEnd s x st).core = s.core := by simp [accessEnd]
@[simp] theorem core_accessFail (s : State) (code : BitVec 6) : (accessFail s code).core = s.core := by simp [accessFail]
@[simp] theorem wf_memAccess {s : State} {write : Bool} {t : BitVec 10} {a : Addr} {r : ReadOutcome} (hs : s.core.Wf) :
    (memAccess s write t a r).core.Wf := by
  grind [memAccess, core_accessFail, wf_homeWrites, core_accessEnd, core_homeRead, core_perfAccess, core_block]
@[simp] theorem wf_maddrWrite {s : State} {x : Cell} {r : ReadOutcome} (hs : s.core.Wf) :
    (maddrWrite s x r).s.core.Wf := by simp [maddrWrite, hs]

/-! ### Mailbox access (R441, R569) -/

@[simp] theorem core_debugPost (s : State) (c : BitVec 6) : (debugPost s c).core = s.core := by simp [debugPost]
@[simp] theorem wf_mpostWrite {s : State} {x : Cell} (hs : s.core.Wf) : (mpostWrite s x).s.core.Wf := by simp [mpostWrite, hs]

/-! ### Writes through DBG_SCAN -/

@[simp] theorem wf_bpWrite {s : State} {k : Nat} {x : Cell} (hs : s.core.Wf) :
    (bpWrite s k x).s.core.Wf := by simp [bpWrite, hs]
@[simp] theorem core_rselWrite (s : State) (x : Cell) : (rselWrite s x).core = s.core := by simp [rselWrite]
@[simp] theorem wf_scanPut {s : State} {a : Nat} {x : Cell} {r : ReadOutcome} (hs : s.core.Wf) :
    (scanPut s a x r).s.core.Wf := by simp [scanPut, hs]
@[simp] theorem wf_scanWrite {s : State} {a : Nat} {x : Cell} {r : ReadOutcome} (hs : s.core.Wf) :
    (scanWrite s a x r).s.core.Wf := by simp [scanWrite, hs]
@[simp] theorem wf_scanOp {s : State} {op : BitVec 2} {a : IoAddr} {x : Cell} {r : ReadOutcome} (hs : s.core.Wf) :
    (scanOp s op a x r).core.Wf := by
  simp only [scanOp]
  (repeat' split) <;> apply_rules [wf_scanRead, wf_scanWrite]

/-! ### Breakpoints (R565, R574) -/

@[simp] theorem wf_bpHalt {s : State} {h : HalfId} (hs : s.core.Wf) : (bpHalt s h).core.Wf := by simp [bpHalt, hs]
@[simp] theorem core_noteDebug (s : State) (h : HalfId) (k : BitVec 5) : (noteDebug s h k).core = s.core := by
  simp only [noteDebug]
  split <;> simp
@[simp] theorem wf_bpRaise {s : State} {h : HalfId} {k : BitVec 5} {p : Pos} (hs : s.core.Wf) :
    (bpRaise s h k p).core.Wf := by simp [bpRaise, hs]
@[simp] theorem wf_bpAct {s : State} {h : HalfId} {k : BitVec 3} (hs : s.core.Wf) : (bpAct s h k).core.Wf := by
  simp only [bpAct]
  split <;> simp [hs]
@[simp] theorem wf_breakpointMatch {s : State} {h : HalfId} {k : BitVec 3} (hs : s.core.Wf) :
    (breakpointMatch s h k).core.Wf := by
  unfold breakpointMatch
  split
  · exact hs
  · split
    · next e => exact (wf_boundary hs).of_eq e
    · simp [hs]

/-! ### Fuses (R592) -/

@[simp] theorem core_fuseFrame (s : State) (f : BitVec 40) : (fuseFrame s f).core = s.core := by simp [fuseFrame]
@[simp] theorem core_fuseProgram (s : State) : (fuseProgram s).core = s.core := by
  simp only [fuseProgram]
  split <;> simp
@[simp] theorem wf_hostData {s : State} {d : HostWord} (hs : s.core.Wf) : (hostData s d).s.core.Wf := by simp [hostData, hs]
@[simp] theorem wf_hostDone {s : State} (hs : s.core.Wf) : (hostDone s).s.core.Wf := by simp [hostDone, hs]
@[simp] theorem wf_hostFail {s : State} {e : HostErr} (hs : s.core.Wf) : (hostFail s e).s.core.Wf := by simp [hostFail, hs]

/-! ### Block registers (R435) -/

@[simp] theorem wf_hpCtl {s : State} {d : HostWord} (hs : s.core.Wf) : (hpCtl s d).s.core.Wf := by simp [hpCtl, hs]
@[simp] theorem wf_hpRead {s : State} {a : Nat} {iid : Octet} (hs : s.core.Wf) :
    (hpRead s a iid).s.core.Wf := by simp [hpRead, hs]
@[simp] theorem wf_hpWrite {s : State} {a : Nat} {d : HostWord} (hs : s.core.Wf) :
    (hpWrite s a d).s.core.Wf := by simp [hpWrite, hs]

/-! ### Channels (R437, R438) -/

@[simp] theorem wf_hchRead {s : State} {c : BitVec 6} {o : Nat} (hs : s.core.Wf) :
    (hchRead s c o).s.core.Wf := by simp [hchRead, hs]
@[simp] theorem core_hchCtl (s : State) (c : BitVec 6) (d : HostWord) : (hchCtl s c d).core = s.core := by simp [hchCtl]
@[simp] theorem wf_hchPost {s : State} {c : BitVec 6} {iid : Octet} (hs : s.core.Wf) : (hchPost s c iid).s.core.Wf := by
  unfold hchPost
  split
  · exact hs
  · next e => rw [hostDone, (core_hostPost s c iid).of_eq e]; exact hs
@[simp] theorem wf_hchWrite {s : State} {c : BitVec 6} {o : Nat} {d : HostWord} {iid : Octet} (hs : s.core.Wf) :
    (hchWrite s c o d iid).s.core.Wf := by simp [hchWrite, hs]

/-! ### Doorbells (R451) -/

@[simp] theorem wf_dbRead {s : State} {a : Nat} (hs : s.core.Wf) : (dbRead s a).s.core.Wf := by
  simp only [dbRead]
  (repeat' split) <;> simp [*]
@[simp] theorem wf_dbWrite {s : State} {a : Nat} {d : HostWord} (hs : s.core.Wf) : (dbWrite s a d).s.core.Wf := by
  simp only [dbWrite]
  (repeat' split) <;> simp [*]

/-! ### Event bridge and mirror (R452, R453) -/

@[simp] theorem core_bridgeSet (s : State) (k : Nat) (b : BitVec 32) : (bridgeSet s k b).core = s.core := by simp [bridgeSet]
@[simp] theorem wf_bridgeRead {s : State} {a : Nat} (hs : s.core.Wf) : (bridgeRead s a).s.core.Wf := by simp [bridgeRead, hs]
@[simp] theorem wf_bridgeWrite {s : State} {a : Nat} {d : HostWord} (hs : s.core.Wf) :
    (bridgeWrite s a d).s.core.Wf := by simp [bridgeWrite, hs]
@[simp] theorem wf_mirrorRead {s : State} {a : Nat} (hs : s.core.Wf) : (mirrorRead s a).s.core.Wf := by simp [mirrorRead, hs]
@[simp] theorem wf_mirrorWrite {s : State} {a : Nat} (hs : s.core.Wf) : (mirrorWrite s a).s.core.Wf := by simp [mirrorWrite, hs]

/-! ### Accesses and beats (R67, R68, R430-R432) -/

@[simp] theorem wf_windowRead {s : State} {a : Nat} {iid : Octet} (hs : s.core.Wf) :
    (windowRead s a iid).s.core.Wf := by simp [windowRead, hs]
@[simp] theorem wf_windowWrite {s : State} {a : Nat} {d : HostWord} {iid : Octet} (hs : s.core.Wf) :
    (windowWrite s a d iid).s.core.Wf := by simp [windowWrite, hs]
@[simp] theorem wf_beatAnswer {s : State} {b : HostBeat} (hs : s.core.Wf) :
    (beatAnswer s b).s.core.Wf := by simp [beatAnswer, hs]
@[simp] theorem wf_hostBeat {s : State} {b : HostBeat} (hs : s.core.Wf) : (hostBeat s b).core.Wf := by simp [hostBeat, hs]
@[simp] theorem wf_hostPut {s : State} {a : Nat} {d : HostWord} {iid : Octet} (hs : s.core.Wf) :
    (hostPut s a d iid).core.Wf := by simp [hostPut, hs]
@[simp] theorem wf_registerWrite {s : State} {h : HalfId} {a : Nat} {x0 x1 : Cell} (hs : s.core.Wf) :
    (registerWrite s h a x0 x1).core.Wf := by
  simp only [registerWrite]
  split <;> simp [hs]
@[simp] theorem core_registerRead (s : State) (h : HalfId) (a : Nat) : (registerRead s h a).core = s.core := by
  simp only [registerRead]
  split <;> simp

/-! ## Every command -/

theorem wf_exec {i : Instr} {s : State} (hs : s.core.Wf) : ∀ t, exec i s = .next t → t.core.Wf := by
  cases i with
  | externalEdge _ _ _ => exact wf_execExternalEdge hs
  | ackTimeout _ _ => exact wf_execAckTimeout hs
  | ackDelayedEffect _ _ => exact wf_execAckDelayedEffect hs
  | flashStatusPoll _ => exact wf_execFlashStatusPoll hs
  | charterUpdateDone _ => exact wf_execCharterUpdateDone hs
  | contextReset _ _ => exact wf_execContextReset hs
  | commonsStoreProgramComplete => exact wf_execCommonsStoreProgramComplete hs
  | folioResponse _ => exact wf_execFolioResponse hs
  | folioDataBlock _ => exact wf_execFolioDataBlock hs
  | folioReceipt _ => exact wf_execFolioReceipt hs
  | folioBusyRetry => exact wf_execFolioBusyRetry hs
  | cardDetect _ => exact wf_execCardDetect hs
  | atr _ => exact wf_execAtr hs
  | ppsResponse _ => exact wf_execPpsResponse hs
  | characterReceive _ _ => exact wf_execCharacterReceive hs
  | commandLineRelease => exact wf_execCommandLineRelease hs
  | characterErrorSignal => exact wf_execCharacterErrorSignal hs
  | _ => exact next_wf (by simp [hs])

/-- Settles O60: the forms are a property of the core, and every command keeps it well formed (`wf_exec`). -/
theorem everyStepKeepsTheForms : Obligations.EveryStepKeepsTheForms := by
  intro s t hm hd ht
  rw [← core_wf_iff]
  have hs := (core_wf_iff s).2 ⟨hm, hd⟩
  unfold step at ht
  split at ht
  · cases ht; exact hs
  · exact wf_exec (by simpa using hs) t ht
end Sys2Proof.Machine


/-! # The reset values (R37, R150, R314, R479, R507, R580; O59) -/

namespace Sys2Proof.Machine

/-- The compare timers of R423 stand at the largest time. -/
theorem reset_compareTimers (n : BitVec 2) : (ioRead State.reset ⟨.h0, 0, 0, true⟩ (0o010060 + 2 * n.toNat)).2 =
    (BitVec.allOnes 36, BitVec.allOnes 36) := by
  revert n; decide

/-- Every source's coalescer has the count threshold 1 (R418). -/
theorem reset_coalescers (n : Octet) (hn : n.toNat < 224) : (ioRead State.reset ⟨.h0, 0, 0, true⟩ (0o011400 + n.toNat)).2 =
    (atBits (1 : Octet) 24, 0) := by
  revert n; decide

/-- No channel is configured: its acknowledgement timeout reads 255 (R440). -/
theorem reset_channels (c : BitVec 6) : (ioRead State.reset ⟨.h0, 0, 0, true⟩ (chanAddr c 0o14)).2 = (atBits (255 : Octet) 22, 0) := by
  revert c; decide

/-- A half at reset: OFF, its banks empty, its registers at their reset columns. -/
theorem reset_half (h : HalfId) :
    let s := State.reset
    let reads (a : Nat) (x y : Cell) : Prop := (ioRead s ⟨h, 0, 0, true⟩ a).2 = (x, y)
    s.mode h = mOff ∧ (∀ k, (s.bank h k).ds = [] ∧ (s.bank h k).rs = [] ∧ (s.bank h k).rv = [] ∧ (s.bank h k).status = 0 ∧
      (s.bank h k).c0 = Cap.zero ∧ (s.bank h k).pcc = Cap.zero ∧ (s.bank h k).x = 0) ∧
    reads 0o100000 (atBits (16 : Octet) 16 ||| atBit true 13) 0 ∧ reads 0o100004 0o24 0 ∧
    reads 0o100006 (atBits (4095 : BitVec 12) 12) 0 ∧ reads 0o100010 3600000 1200000 ∧ reads 0o110000 (atBit true 34) 0 ∧
    reads 0o110100 (atBits (42 : Octet) 16 ||| 125) 0 ∧ reads 0o110102 (atBits (104 : BitVec 9) 9 ||| 88) 60 ∧
    reads 0o120000 0 0 ∧ reads 0o130000 (atBit true 34 ||| 64) 0 ∧ reads 0o133700 (BitVec.allOnes 36) 0o7700 ∧
    reads 0o134000 (atBits (2 : BitVec 2) 34) 0 ∧ reads 0o134001 (atBits (16 : Octet) 16) 0 := by
  cases h <;> exact ⟨rfl, fun _ => ⟨rfl, rfl, rfl, rfl, rfl, rfl, rfl⟩, by decide⟩

/-- Settles O59: every value is the model's reset record read through its registers, evaluated; the retained cells and the SRAM
are an empty table. -/
theorem resetLeavesTheStatedValues : Obligations.ResetLeavesTheStatedValues := by
  unfold Obligations.ResetLeavesTheStatedValues
  refine ⟨rfl, rfl, rfl, rfl, by decide, by decide, fun _ => rfl, reset_half, ?_⟩
  exact ⟨by decide, by decide, by decide, by decide, reset_compareTimers, reset_coalescers, reset_channels, by decide⟩

end Sys2Proof.Machine

/-! # KEEP and wake (R41, R421, R433-R435, R509-R511, R543; O44) -/

namespace Sys2Proof.Machine

/-- A register command of the running context reaches its unit (R24, R25, R210). -/
theorem regCommand_of_mayWrite {s : State} {w h : HalfId} {warden : Bool} (hw : mayWrite s w h warden) (f : Writer → State) :
    ∃ k, (s.ex w).running = some k ∧ regCommand s w h warden f = f (writerOf s w k) := by
  obtain ⟨k, hk, hwd, hspan⟩ := hw
  refine ⟨k, hk, ?_⟩
  have hwriter : s.writer w = some (writerOf s w k) := by
    simp [State.writer, State.runBank, hk, writerOf]
  have hgate : ((warden && !(writerOf s w k).warden) || (w != h && !spanOpen s w)) = false := by
    cases warden <;> rcases hspan with rfl | hspan <;> simp_all [writerOf]
  simp [regCommand, regGate, hwriter, hgate]

/-! ## Detach of the channels (R434) -/

/-- What a detach leaves of a channel: its inbound queue and the block's staging empty, both epochs of the block one further. -/
structure Detached (x y : Channel) : Prop where
  queue : y.inp.queue = []
  recvEpoch : y.inp.recvEpoch = x.inp.recvEpoch + 1
  sendEpoch : y.outp.sendEpoch = x.outp.sendEpoch + 1
  blockStage : y.blockStage = zeroCells

theorem chan_onChan_same (s : State) (c : BitVec 6) (f : Channel → Channel) : (s.onChan c f).chan c = f (s.chan c) := by
  simp [State.onChan, State.chan]

theorem chan_onChan_ne (s : State) {c d : BitVec 6} (f : Channel → Channel) (hd : d ≠ c) : (s.onChan c f).chan d = s.chan d := by
  have : d.toNat ≠ c.toNat := fun e => hd (BitVec.eq_of_toNat_eq e)
  simp [State.onChan, State.chan, sget_sput_ne _ _ _ _ _ this]

theorem chan_setAck_ne (s : State) {c d : BitVec 6} (i : Bool) (a : HostWord) (hd : d ≠ c) : (setAck s c i a).chan d = s.chan d := by
  rw [← chan_onChan_ne s (fun x => x.onDir i fun d => { d with ack := a, timer := none }) hd]
  cases i <;> rfl

theorem chan_setAck_same (s : State) (c : BitVec 6) (i : Bool) (a : HostWord) :
    (setAck s c i a).chan c = (s.chan c).onDir i fun d => { d with ack := a, timer := none } := by
  rw [← chan_onChan_same s c fun x => x.onDir i fun d => { d with ack := a, timer := none }]
  cases i <;> rfl

theorem mbxDetachChan_ne (s : State) {c d : BitVec 6} (hd : d ≠ c) : (mbxDetachChan s c).chan d = s.chan d := by
  simp only [mbxDetachChan]
  split
  · exact chan_onChan_ne s _ hd
  · rw [chan_setAck_ne _ _ _ hd, chan_onChan_ne s _ hd]

theorem mbxDetachChan_same (s : State) (c : BitVec 6) : Detached (s.chan c) ((mbxDetachChan s c).chan c) := by
  simp only [mbxDetachChan]
  split
  · rw [chan_onChan_same]
    exact ⟨rfl, rfl, rfl, rfl⟩
  · rw [chan_setAck_same, chan_onChan_same]
    exact ⟨rfl, rfl, rfl, rfl⟩

/-- A detach of a channel touches the mailboxes only. -/
theorem mbxDetachChan_block (s : State) (c : BitVec 6) : ({ mbxDetachChan s c with mbx := s.mbx } : State) = s := by
  simp only [mbxDetachChan, setAck]
  split <;> rfl

theorem mbxDetach_fold_ne {d : BitVec 6} (l : List (BitVec 6)) : ∀ s : State, d ∉ l → (l.foldl mbxDetachChan s).chan d = s.chan d := by
  induction l with
  | nil => exact fun _ _ => rfl
  | cons c l ih =>
    intro s hd
    simp only [List.mem_cons, not_or] at hd
    exact (ih _ hd.2).trans (mbxDetachChan_ne s hd.1)

theorem mbxDetach_fold_mem {d : BitVec 6} (l : List (BitVec 6)) :
    ∀ s : State, l.Nodup → d ∈ l → Detached (s.chan d) ((l.foldl mbxDetachChan s).chan d) := by
  induction l with
  | nil => exact fun _ _ hd => absurd hd (by simp)
  | cons c l ih =>
    intro s hl hd
    obtain ⟨hc, hl⟩ := List.nodup_cons.1 hl
    by_cases hdc : d = c
    · subst hdc
      rw [List.foldl_cons, mbxDetach_fold_ne l _ hc]
      exact mbxDetachChan_same s d
    · have hm := ih (mbxDetachChan s c) hl ((List.mem_cons.1 hd).resolve_left hdc)
      rwa [mbxDetachChan_ne s hdc] at hm

theorem mbxDetach_fold_block (l : List (BitVec 6)) : ∀ s : State, ({ l.foldl mbxDetachChan s with mbx := s.mbx } : State) = s := by
  induction l with
  | nil => exact fun _ => rfl
  | cons c l ih =>
    intro s
    have h1 := ih (mbxDetachChan s c)
    have h2 := mbxDetachChan_block s c
    rw [List.foldl_cons]
    rw [← h1] at h2
    exact h2

theorem chanNos_nodup : chanNos.Nodup := by decide

theorem mem_chanNos (c : BitVec 6) : c ∈ chanNos := by
  simp only [chanNos, List.mem_map, List.mem_range]
  exact ⟨c.toNat, c.isLt, by simp⟩

/-- A detach reaches every channel (R434). -/
theorem mbxDetach_chan {s : State} (hs : s.mbx.detached = false) (c : BitVec 6) :
    Detached (s.chan c) ((mbxDetach s).chan c) := by
  have hm := mbxDetach_fold_mem chanNos s chanNos_nodup (mem_chanNos c)
  unfold mbxDetach
  generalize chanNos = l at hm ⊢
  rw [if_neg (by simp [hs])]
  exact hm

theorem mbxDetach_block (s : State) : ({ mbxDetach s with mbx := s.mbx } : State) = s := by
  have hb := mbxDetach_fold_block chanNos s
  unfold mbxDetach
  generalize chanNos = l at hb ⊢
  split
  · rfl
  · exact hb

/-- A detach asks for KEEP, and leaves the halves (R433, R434). -/
theorem detachBegin_spec {s : State} (hs : s.mbx.detached = false) :
    (detachBegin s).host = { s.host with detach := true } ∧ (detachBegin s).keep = { s.keep with keepReq := true } ∧
    (detachBegin s).h0 = s.h0 ∧ (detachBegin s).h1 = s.h1 ∧ ∀ c, Detached (s.chan c) ((detachBegin s).chan c) := by
  have hc := mbxDetach_chan hs
  have hb := mbxDetach_block s
  simp only [detachBegin]
  generalize mbxDetach s = u at hb hc
  rw [← hb]
  exact ⟨rfl, rfl, rfl, rfl, hc⟩

/-! ## Requests -/

theorem keepAsk_asks {s : State} (hi : s.isolated = false) (he : s.dbg.emulated = false) :
    keepAsk s = { s with keep := { s.keep with keepReq := true } } := by
  simp [keepAsk, hi, he, State.onKeep]

/-- HP_CTL is reached by a one-beat write of 0x100 (R432, R435). -/
theorem hostKeep_eq {s : State} (ha : hostAbsent s = false) :
    exec .hostKeep s = .next { (hpCtl s 1).s with host := { (hpCtl s 1).s.host with resp := ⟨(hpCtl s 1).data, (hpCtl s 1).err⟩ } } := by
  have hb : beatAnswer s ⟨true, 0x100, 0, 0, 1, 15, 0⟩ = hpCtl s 1 := by
    simp [beatAnswer, ha, beatFits, burstLen, windowWrite, hpWrite]
  show Host.Outcome.next (hostBeat s ⟨true, 0x100, 0, 0, 1, 15, 0⟩) = _
  rw [hostBeat, hb]

theorem hpCtl_keep {s : State} (ha : hostAbsent s = false) (hk : s.mbx.hostKeep = true) (he : s.dbg.emulated = false) :
    hpCtl s 1 = hostDone { s with keep := { s.keep with keepReq := true } } := by
  have hi : s.isolated = false := by simp_all [hostAbsent]
  simp [hpCtl, hk, bit, keepAsk_asks hi he]

theorem hpCtl_keep_refused {s : State} (hk : s.mbx.hostKeep = false) : hpCtl s 1 = hostFail s .refused := by
  simp [hpCtl, hk, bit]

/-! ## Entry -/

theorem dbkLose_half (s : State) (n : Nat) (g : HalfId) : (dbkLose s n).half g = s.half g := by
  simp only [dbkLose, commonsOverflow]
  split
  · rw [raiseSource_half]; cases g <;> rfl
  · cases g <;> rfl

theorem storePump_half (s : State) (g : HalfId) : (storePump s).half g = s.half g := by
  unfold storePump
  split
  · rfl
  · cases g <;> rfl

theorem dbkDiscard_half (s : State) (h : HalfId) : (dbkDiscard s h).half h =
    { s.half h with dbk := { (s.half h).dbk with queue := [], overflow := false, coal := [], counts := [], commits := 0 } } := by
  simp only [dbkDiscard, dbkLose_half, half_onDbk, storePump_half]
  cases h <;> rfl

theorem dbkDiscard_half_other (s : State) (h : HalfId) : (dbkDiscard s h).half h.other = s.half h.other := by
  simp only [dbkDiscard, dbkLose_half, half_onDbk_other, storePump_half]
  cases h <;> rfl

theorem raiseSource_keep (s : State) (n : Nat) : (raiseSource s n).keep = s.keep := by
  have hb := congrArg State.keep (raiseSource_block s n)
  exact hb

theorem dbkDiscard_keep (s : State) (h : HalfId) : (dbkDiscard s h).keep = s.keep := by
  simp only [dbkDiscard, dbkLose, commonsOverflow, storePump]
  repeat' split
  all_goals simp [raiseSource_keep]

theorem dbkDiscard_ram (s : State) (h : HalfId) : (dbkDiscard s h).ram = s.ram := congrArg Core.ram (core_dbkDiscard s h)
theorem dbkDiscard_nvm (s : State) (h : HalfId) : (dbkDiscard s h).nvm = s.nvm := congrArg Core.nvm (core_dbkDiscard s h)

/-- A cause of the wake changes the three wake fields of the keep domain (R511). -/
theorem arise_fields (k : Keep) (code : Nat) (i : Octet) : ∃ a b c, k.arise code i = { k with causes := a, wakeRtc := b, wakeInput := c } := by
  simp only [Keep.arise]
  repeat' split
  all_goals exact ⟨_, _, _, rfl⟩

/-- The first cause of the wake is recorded with its time and input. -/
theorem arise_first {k : Keep} (hk : k.causes = 0) (code : Nat) (i : Octet) :
    k.arise code i = { k with causes := setBit 0 code true, wakeRtc := fld k.rtc 0 36, wakeInput := i } := by
  simp [Keep.arise, hk]

theorem wakeArise_fields (s : State) (code : Nat) (i : Octet) : ∃ a b c,
    wakeArise s code i = { s with keep := { s.keep with causes := a, wakeRtc := b, wakeInput := c } } := by
  unfold wakeArise
  split
  · obtain ⟨a, b, c, e⟩ := arise_fields s.keep code i
    exact ⟨a, b, c, by rw [State.onKeep, e]⟩
  · exact ⟨_, _, _, rfl⟩

theorem wakeArise_inKeep {s : State} (hi : s.keep.inKeep = true) (hc : s.keep.causes = 0) (code : Nat) (i : Octet) :
    wakeArise s code i =
      { s with keep := { s.keep with causes := setBit 0 code true, wakeRtc := fld s.keep.rtc 0 36, wakeInput := i } } := by
  simp [wakeArise, hi, State.onKeep, arise_first hc]

/-- Isolation of the block leaves the halves and the memories (R433). -/
theorem isolate_fields (s : State) : ∃ a b c, isolate s =
    { s with host := { s.host with isoAck := true, detach := false }
             keep := { s.keep with causes := a, wakeRtc := b, wakeInput := c } } := by
  simp only [isolate]
  split
  · obtain ⟨a, b, c, e⟩ := wakeArise_fields { s with host := { s.host with isoAck := true, detach := false } } 3 0
    exact ⟨a, b, c, e⟩
  · exact ⟨_, _, _, rfl⟩

/-- What the entry of KEEP leaves (R41, R421, R509). -/
structure KeptFrom (s t : State) : Prop where
  mode : ∀ h, t.mode h = mKeep
  inKeep : t.keep.inKeep = true
  keepReq : t.keep.keepReq = false
  latches : t.keep.latches = 0
  isoAck : t.host.isoAck = true
  detach : t.host.detach = false
  isolated : t.isolated = true
  lost : t.dbk.keepLost = some (cellOf (dbkQueued s .h0 + dbkQueued s .h1), fld s.keep.rtc 0 36)
  queue : ∀ h, (t.half h).dbk.queue = []
  ram : t.ram = s.ram
  nvm : t.nvm = s.nvm
  bank : ∀ h j, t.bank h j = s.bank h j

theorem keepEnter_kept (s : State) : KeptFrom s (keepEnter s) := by
  simp only [keepEnter]
  generalize hu : dbkDiscard (dbkDiscard s .h0) .h1 = u
  have hkeep : u.keep = s.keep := by rw [← hu, dbkDiscard_keep, dbkDiscard_keep]
  have hram : u.ram = s.ram := by rw [← hu, dbkDiscard_ram, dbkDiscard_ram]
  have hnvm : u.nvm = s.nvm := by rw [← hu, dbkDiscard_nvm, dbkDiscard_nvm]
  have hhalf : ∀ h, (u.half h).dbk.queue = [] ∧ (u.half h).ex = (s.half h).ex := by
    rintro (_ | _) <;> rw [← hu]
    · rw [show HalfId.h0 = HalfId.h1.other from rfl, dbkDiscard_half_other]
      simp [HalfId.other, dbkDiscard_half]
    · rw [dbkDiscard_half, show HalfId.h1 = HalfId.h0.other from rfl, dbkDiscard_half_other]
      simp
  have hbank : ∀ h j, u.bank h j = s.bank h j := fun h j => by simp [State.bank, Half.bank, (hhalf h).2]
  obtain ⟨a, b, c, e⟩ := isolate_fields
    (((({ u with
      dbk := { u.dbk with keepLost := some (cellOf (dbkQueued s .h0 + dbkQueued s .h1), fld u.keep.rtc 0 36) }
      dbg := { u.dbg with emulated := false } } : State).onEx .h0 fun e => { e with mode := mKeep }).onEx .h1
        fun e => { e with mode := mKeep }).onKeep
      fun k => { k with inKeep := true, keepReq := false, latches := 0, sense := senseCopy s, causes := 0 })
  rw [e]
  refine ⟨?_, rfl, rfl, rfl, rfl, rfl, rfl, by rw [← hkeep]; rfl, ?_, hram, hnvm, ?_⟩
  · rintro (_ | _) <;> rfl
  · rintro (_ | _)
    · exact (hhalf .h0).1
    · exact (hhalf .h1).1
  · rintro (_ | _) j
    · exact hbank .h0 j
    · exact hbank .h1 j

/-! ## The obligation -/

/-- Settles O44: the entry is `keepEnter_kept`, the detach `detachBegin_spec`, and every wake the record of a first cause
(`wakeArise_inKeep`). -/
theorem keepIsEnteredAndLeft : Obligations.KeepIsEnteredAndLeft := by
  unfold Obligations.KeepIsEnteredAndLeft
  intro s w asked
  refine ⟨?_, ?_, ?_, ?_, ?_, ?_, ?_, ?_, ?_, ?_⟩
  · intro hw hi he
    obtain ⟨k, _, e⟩ := regCommand_of_mayWrite hw fun _ => keepAsk s
    show Host.Outcome.next (regCommand s w w true fun _ => keepAsk s) = _
    rw [e, keepAsk_asks hi he]
  · intro ha hk he
    rw [hostKeep_eq ha, hpCtl_keep ha hk he]
    rfl
  · intro ha hk
    rw [hostKeep_eq ha, hpCtl_keep_refused hk]
    rfl
  · intro hr ha hd
    obtain ⟨hh, hk, h0, h1, hc⟩ := detachBegin_spec (s := { s with host := { s.host with isoReq := true } }) hd
    exact ⟨_, by simp [exec, execIsoReqRise, isoRise, hr, ha], hh, hk, h0, h1, fun c =>
      ⟨(hc c).queue, (hc c).recvEpoch, (hc c).sendEpoch, (hc c).blockStage⟩⟩
  · intro hr ha
    simp [exec, execIsoReqFall, isoFall, hr, ha]
  · intro hr ha hi hc
    refine ⟨_, rfl, ?_⟩
    simp [isoFall, hr, ha, wakeArise_inKeep, hi, hc, setBit]
  · intro hq hi he h0 h1 ha
    have hk := keepEnter_kept s
    exact ⟨keepEnter s, by simp [exec, execKeepEntry, keepEntry, hq, hi, he, h0, h1, ha], hk.mode, hk.inKeep, hk.keepReq, hk.latches,
      hk.isoAck, hk.detach, hk.isolated, hk.lost, hk.queue, hk.ram, hk.nvm, hk.bank⟩
  · intro n hi hk hv hn hc
    refine ⟨_, rfl, ?_⟩
    cases hb : bit s.keep.wen n.toNat <;>
      simp [latchEdge, hi, hv, Nat.not_le.2 hn, State.onKeep, hb, wakeArise_inKeep, hk, hc, setBit]
  · intro hk hv hw ha hc
    refine ⟨_, rfl, ?_⟩
    simp [hv, alarmTest, hw, ha, wakeArise_inKeep, hk, hc, setBit]
  · intro hc hk he
    show Host.Outcome.next (wake s) = _
    rw [wake, if_neg hc]
    simp [hk, he, State.onKeep]

end Sys2Proof.Machine

/-! # What the background leaves of a half -/

namespace Sys2Proof.Machine

/-! ## The crew of a half -/

/-- What is a half's own: its execution state, windows, lanes and bring-up, and the frame of its schedule. -/
structure Own where
  ex : Exec
  win : Windows
  tal : Tally
  up : BringUp
  frame : Cell
  ticked : Bool
  halt : Bool

/-- What reports, sources, completions, charges and daybook entries leave: what is a half's own, and of the block its keep
domain, charter, random numbers and programmed lines, and whether its host port and its vault are open. -/
structure Crew where
  own : Own
  keep : Keep
  cht : Cht
  rng : Rng
  nvm : Sparse (Option NvmLine)
  ready : Bool
  roots : Bool

def State.crew (s : State) (g : HalfId) : Crew :=
  let x := s.half g
  ⟨⟨x.ex, x.win, x.tal, x.up, x.sch.frame, x.gov.ticked, (s.dbgHalf g).halt⟩, s.keep, s.cht, s.rng, s.nvm, s.host.ready, s.vlt.roots⟩

/-- What a tick changes of a half's schedule and governor. -/
structure Pace where
  frame : Cell
  ticked : Bool

def Crew.pace (c : Crew) : Pace := ⟨c.own.frame, c.own.ticked⟩

/-- What the bring-up of one half leaves of the block. -/
structure Rest where
  keep : Keep
  installed : Bool
  slot : BitVec 2
  rng : Rng
  nvm : Sparse (Option NvmLine)
  ready : Bool
  roots : Bool

def Crew.rest (c : Crew) : Rest := ⟨c.keep, c.cht.installed, c.cht.slot, c.rng, c.nvm, c.ready, c.roots⟩

/-- An update of the block outside the halves and what the crew holds of it. -/
@[simp] theorem crew_block (s : State) (g : HalfId) (evc mbx crd rollback store mct flt dbk prt tick bnd ram free messages pending) :
    State.crew ⟨s.h0, s.h1, evc, mbx, s.host, crd, s.cht, rollback, store, mct, flt, s.vlt, s.rng, dbk, prt, s.dbg, s.keep, tick,
      bnd, ram, s.nvm, free, messages, pending⟩ g = s.crew g := by
  cases g <;> rfl

section
variable (s : State) (h g : HalfId)

@[simp] theorem crew_onMem (f : MemUnit → MemUnit) : (s.onMem h f).crew g = s.crew g := by cases h <;> cases g <;> rfl
@[simp] theorem crew_onRkn (f : Reckoner → Reckoner) : (s.onRkn h f).crew g = s.crew g := by cases h <;> cases g <;> rfl
@[simp] theorem crew_onSpn (f : SpanEnd → SpanEnd) : (s.onSpn h f).crew g = s.crew g := by cases h <;> cases g <;> rfl
@[simp] theorem crew_onDbk (f : DbkQueue → DbkQueue) : (s.onDbk h f).crew g = s.crew g := by cases h <;> cases g <;> rfl

@[simp] theorem crew_onSch {f : Sched → Sched} (hf : ∀ x, (f x).frame = x.frame) : (s.onSch h f).crew g = s.crew g := by
  cases h <;> cases g <;> simp [State.crew, State.onSch, State.onHalf, State.setHalf, State.half, State.dbgHalf, hf]

@[simp] theorem crew_onGov {f : Gov → Gov} (ht : ∀ x, (f x).ticked = x.ticked) : (s.onGov h f).crew g = s.crew g := by
  cases h <;> cases g <;> simp [State.crew, State.onGov, State.onHalf, State.setHalf, State.half, State.dbgHalf, ht]

@[simp] theorem crew_onHalf {f : Half → Half} (hf : ∀ x, (f x).ex = x.ex ∧ (f x).win = x.win ∧ (f x).tal = x.tal ∧ (f x).up = x.up ∧
    (f x).sch = x.sch ∧ (f x).gov = x.gov) : (s.onHalf h f).crew g = s.crew g := by
  have ⟨a, b, c, d, e, i⟩ := hf (s.half h)
  cases h <;> cases g <;> simp_all [State.crew, State.onHalf, State.setHalf, State.half, State.dbgHalf]

@[simp] theorem crew_onDbgHalf {f : DbgHalf → DbgHalf} (hh : ∀ x, (f x).halt = x.halt) :
    (s.onDbgHalf h f).crew g = s.crew g := by
  cases h <;> cases g <;> simp [State.crew, State.onDbgHalf, State.half, State.dbgHalf, hh]

/-! ## The other half, and the pace -/

section

@[simp] theorem other_onEx (f : Exec → Exec) : ((s.onEx h f).crew h.other).own = (s.crew h.other).own := by cases h <;> rfl
@[simp] theorem other_onWin (f : Windows → Windows) :
    ((s.onWin h f).crew h.other).own = (s.crew h.other).own := by cases h <;> rfl
@[simp] theorem other_onTal (f : Tally → Tally) : ((s.onTal h f).crew h.other).own = (s.crew h.other).own := by cases h <;> rfl
@[simp] theorem other_onUp (f : BringUp → BringUp) :
    ((s.onUp h f).crew h.other).own = (s.crew h.other).own := by cases h <;> rfl
@[simp] theorem other_onDbgHalf (f : DbgHalf → DbgHalf) : ((s.onDbgHalf h f).crew h.other).own = (s.crew h.other).own := by
  cases h <;> rfl
@[simp] theorem other_onTrec (f : TallyRec → TallyRec) : ((s.onTrec h f).crew g).own = (s.crew g).own := by
  cases h <;> cases g <;> rfl
@[simp] theorem other_setBank (k : BitVec 5) (b : Bank) : ((s.setBank h k b).crew h.other).own = (s.crew h.other).own := by
  cases h <;> rfl

@[simp] theorem pace_onEx (f : Exec → Exec) : ((s.onEx h f).crew g).pace = (s.crew g).pace := by cases h <;> cases g <;> rfl
@[simp] theorem pace_onWin (f : Windows → Windows) :
    ((s.onWin h f).crew g).pace = (s.crew g).pace := by cases h <;> cases g <;> rfl
@[simp] theorem pace_onTal (f : Tally → Tally) : ((s.onTal h f).crew g).pace = (s.crew g).pace := by cases h <;> cases g <;> rfl
@[simp] theorem pace_onUp (f : BringUp → BringUp) :
    ((s.onUp h f).crew g).pace = (s.crew g).pace := by cases h <;> cases g <;> rfl
@[simp] theorem pace_onDbgHalf (f : DbgHalf → DbgHalf) : ((s.onDbgHalf h f).crew g).pace = (s.crew g).pace := by
  cases h <;> cases g <;> rfl
@[simp] theorem pace_onTrec (f : TallyRec → TallyRec) : ((s.onTrec h f).crew g).pace = (s.crew g).pace := by
  cases h <;> cases g <;> rfl
@[simp] theorem pace_onBank (k : BitVec 5) (f : Bank → Bank) : ((s.onBank h k f).crew g).pace = (s.crew g).pace := by
  cases h <;> cases g <;> rfl

@[simp] theorem rest_onEx (f : Exec → Exec) : ((s.onEx h f).crew g).rest = (s.crew g).rest := by
  cases h <;> cases g <;> rfl
@[simp] theorem rest_onWin (f : Windows → Windows) : ((s.onWin h f).crew g).rest = (s.crew g).rest := by
  cases h <;> cases g <;> rfl
@[simp] theorem rest_onTal (f : Tally → Tally) : ((s.onTal h f).crew g).rest = (s.crew g).rest := by
  cases h <;> cases g <;> rfl
@[simp] theorem rest_onUp (f : BringUp → BringUp) : ((s.onUp h f).crew g).rest = (s.crew g).rest := by
  cases h <;> cases g <;> rfl
@[simp] theorem rest_onDbgHalf (f : DbgHalf → DbgHalf) : ((s.onDbgHalf h f).crew g).rest = (s.crew g).rest := by
  cases h <;> cases g <;> rfl

end

@[simp] theorem crew_ite {c : Prop} [Decidable c] {a b : State} :
    (if c then a else b).crew g = if c then a.crew g else b.crew g :=
  apply_ite (State.crew · g) ..

end

/-- A step that leaves what `P` reads, made for every entry of a list. -/
theorem foldl_keeps {α β γ : Type} (P : α → γ) {f : α → β → α} (hf : ∀ t x, P (f t x) = P t) (l : List β) :
    ∀ t, P (l.foldl f t) = P t := by
  induction l with
  | nil => exact fun _ => rfl
  | cons x l ih => exact fun t => (ih _).trans (hf t x)

theorem crew_foldl {β : Type} {f : State → β → State} {g : HalfId} (hf : ∀ t x, (f t x).crew g = t.crew g) (l : List β) (t : State) :
    (l.foldl f t).crew g = t.crew g := foldl_keeps (fun t => t.crew g) hf l t

theorem other_foldl {β : Type} {f : State → β → State} {g : HalfId} (hf : ∀ t x, ((f t x).crew g).own = (t.crew g).own) (l : List β)
    (t : State) : ((l.foldl f t).crew g).own = (t.crew g).own := foldl_keeps (fun t => (t.crew g).own) hf l t

theorem pace_foldl {β : Type} {f : State → β → State} {g : HalfId} (hf : ∀ t x, ((f t x).crew g).pace = (t.crew g).pace) (l : List β)
    (t : State) : ((l.foldl f t).crew g).pace = (t.crew g).pace := foldl_keeps (fun t => (t.crew g).pace) hf l t

theorem crew_of_eq {α : Type} {p : State × α} {u : State} {r : α} {g : HalfId} {c : Crew} (e : p = (u, r)) (h : p.1.crew g = c) :
    u.crew g = c := by
  rw [e] at h; exact h

@[simp] theorem own_ite {c : Prop} [Decidable c] {a b : Crew} :
    (if c then a else b).own = if c then a.own else b.own := apply_ite ..
@[simp] theorem rest_ite {c : Prop} [Decidable c] {a b : Crew} :
    (if c then a else b).rest = if c then a.rest else b.rest := apply_ite ..
@[simp] theorem pace_ite {c : Prop} [Decidable c] {a b : Crew} : (if c then a else b).pace = if c then a.pace else b.pace :=
  apply_ite ..

/-! ## What runs in the background -/

@[simp] theorem crew_setPending (s : State) (src : Nat) (g : HalfId) :
    (setPending s src).crew g = s.crew g := by simp [setPending]
@[simp] theorem crew_coalFire (s : State) (src : Nat) (g : HalfId) : (coalFire s src).crew g = s.crew g := by simp [coalFire]
@[simp] theorem crew_raiseSource (s : State) (src : Nat) (g : HalfId) :
    (raiseSource s src).crew g = s.crew g := by simp [raiseSource]
@[simp] theorem crew_raiseHalf (s : State) (h : HalfId) (base : Nat) (g : HalfId) :
    (raiseHalf s h base).crew g = s.crew g := by simp [raiseHalf]
@[simp] theorem crew_commonsOverflow (s : State) (g : HalfId) :
    (commonsOverflow s).crew g = s.crew g := by simp [commonsOverflow]
@[simp] theorem crew_dbkLose (s : State) (n : Nat) (g : HalfId) : (dbkLose s n).crew g = s.crew g := by simp [dbkLose]
@[simp] theorem crew_storePump (s : State) (g : HalfId) : (storePump s).crew g = s.crew g := by simp [storePump]
@[simp] theorem crew_storeAdd (s : State) (p : StoreProg) (g : HalfId) : (storeAdd s p).crew g = s.crew g := by simp [storeAdd]
@[simp] theorem crew_dbkKick (s : State) (h g : HalfId) : (dbkKick s h).crew g = s.crew g := by
  simp only [dbkKick]
  (repeat' split) <;> simp [*]
@[simp] theorem crew_dbkTake (s : State) (h : HalfId) (e : DbkEntry) (g : HalfId) :
    (dbkTake s h e).crew g = s.crew g := by simp [dbkTake]
@[simp] theorem crew_reportHalf (s : State) (h : HalfId) (u : DbkUnit) (cls : BitVec 5) (ctx : Option (BitVec 5))
    (lane : Option Lane) (c2 c3 : Cell) (g : HalfId) : (reportHalf s h u cls ctx lane c2 c3).crew g = s.crew g :=
  by simp [reportHalf]
@[simp] theorem crew_reportCommons (s : State) (u : DbkUnit) (cls : BitVec 5) (c2 c3 : Cell) (g : HalfId) :
    (reportCommons s u cls c2 c3).crew g = s.crew g := by simp [reportCommons]
@[simp] theorem crew_evcRouteWrite (s : State) (src : Nat) (g' : BitVec 6) (g : HalfId) :
    (evcRouteWrite s src g').crew g = s.crew g := by simp [evcRouteWrite]
@[simp] theorem crew_evcPriWrite (s : State) (src : Nat) (c : Cell) (g : HalfId) :
    (evcPriWrite s src c).crew g = s.crew g := by simp [evcPriWrite]
@[simp] theorem crew_evcCoalWrite (s : State) (src : Nat) (c : Cell) (g : HalfId) :
    (evcCoalWrite s src c).crew g = s.crew g := by simp [evcCoalWrite]
@[simp] theorem crew_perfOne (code : BitVec 6) (h : HalfId) (s : State) (n : Nat) (g : HalfId) :
    (perfOne code h s n).crew g = s.crew g := by simp [perfOne]
@[simp] theorem crew_perfCount (s : State) (h : HalfId) (code : BitVec 6) (g : HalfId) :
    (perfCount s h code).crew g = s.crew g := by simp [perfCount]
@[simp] theorem crew_perfAccess (s : State) (a : Addr) (reads : Bool) (g : HalfId) :
    (perfAccess s a reads).crew g = s.crew g := by
  simp only [perfAccess]
  split <;> simp
@[simp] theorem crew_keyUse (s : State) (h : HalfId) (t : BitVec 10) (g : HalfId) :
    (keyUse s h t).crew g = s.crew g := by simp [keyUse]
@[simp] theorem crew_nvmFail (s : State) (h : HalfId) (a : Addr) (g : HalfId) :
    (nvmFail s h a).crew g = s.crew g := by simp [nvmFail]
@[simp] theorem crew_mergeAllocate (s : State) (h : HalfId) (line : Nat) (t : BitVec 10) (l : List (Nat × TCell)) (g : HalfId) :
    (mergeAllocate s h line t l).crew g = s.crew g := by
  simp only [mergeAllocate]
  split <;> simp
@[simp] theorem crew_lockedDiscard (s : State) (h : HalfId) (line : Nat) (t : BitVec 10) (g : HalfId) :
    (lockedDiscard s h line t).crew g = s.crew g := by simp [lockedDiscard]
@[simp] theorem crew_otherDue (s : State) (h : HalfId) (i : Nat) (t : BitVec 10) (g : HalfId) :
    (otherDue s h i t).crew g = s.crew g := by simp [otherDue]
@[simp] theorem crew_mergeWrite (s : State) (h : HalfId) (a : Addr) (t : BitVec 10) (c : TCell) (g : HalfId) :
    (mergeWrite s h a t c).crew g = s.crew g := by
  simp only [mergeWrite]
  (repeat' split) <;> simp [*]
@[simp] theorem crew_sramFail (s : State) (h : HalfId) (a : Addr) (g : HalfId) :
    (sramFail s h a).crew g = s.crew g := by simp [sramFail]
@[simp] theorem crew_sramRead (s : State) (h : HalfId) (a : Addr) (r : ReadOutcome) (g : HalfId) :
    (sramRead s h a r).1.crew g = s.crew g := by
  simp only [sramRead]
  split <;> simp
@[simp] theorem crew_nvmRead (s : State) (h : HalfId) (a : Addr) (t : BitVec 10) (r : ReadOutcome) (g : HalfId) :
    (nvmRead s h a t r).1.crew g = s.crew g := by
  simp only [nvmRead]
  (repeat' split) <;> simp [*]
@[simp] theorem crew_homeRead (s : State) (a : Addr) (t : BitVec 10) (r : ReadOutcome) (g : HalfId) :
    (homeRead s a t r).1.crew g = s.crew g := by
  simp only [homeRead]
  split <;> simp
@[simp] theorem crew_ramWrite (s : State) (a : Addr) (c : TCell) (g : HalfId) :
    (ramWrite s a c).crew g = s.crew g := by simp [ramWrite]
@[simp] theorem crew_sramWrite (s : State) (h : HalfId) (a : Addr) (c : TCell) (g : HalfId) :
    (sramWrite s h a c).crew g = s.crew g := by simp [sramWrite]
@[simp] theorem crew_homeWrite (s : State) (a : Addr) (t : BitVec 10) (c : TCell) (g : HalfId) :
    (homeWrite s a t c).crew g = s.crew g := by
  simp only [homeWrite]
  split <;> simp
@[simp] theorem crew_writeEach (l : List (Addr × BitVec 10 × TCell)) (g : HalfId) : ∀ s, (writeEach s l).crew g = s.crew g := by
  induction l with
  | nil => exact fun _ => rfl
  | cons e l ih => exact fun s => (ih _).trans (crew_homeWrite ..)
@[simp] theorem crew_mendLines (s : State) (l : List Nat) (g : HalfId) :
    (mendLines s l).crew g = s.crew g := by simp [mendLines]
@[simp] theorem crew_meetLine (s : State) (a : Addr) (r : ReadOutcome) (g : HalfId) : (meetLine s a r).crew g = s.crew g := by
  simp only [meetLine]
  split <;> simp
@[simp] theorem crew_homeWritesMeet (s : State) (l : List (Addr × BitVec 10 × TCell)) (r : ReadOutcome) (g : HalfId) :
    (homeWritesMeet s l r).crew g = s.crew g := by
  have ha := crew_foldl (f := fun s (x : Addr × BitVec 10 × TCell) => perfAccess s x.1 false) (g := g) (by simp)
  simp only [homeWritesMeet, crew_writeEach]
  split <;> simp [ha]
@[simp] theorem crew_homeWrites (s : State) (l : List (Addr × BitVec 10 × TCell)) (g : HalfId) :
    (homeWrites s l).crew g = s.crew g := by simp [homeWrites]
@[simp] theorem crew_nvmPump (s : State) (h g : HalfId) : (nvmPump s h).crew g = s.crew g := by
  simp only [nvmPump]
  (repeat' split) <;> simp [*]
@[simp] theorem crew_unitWrite (h : HalfId) (g' : BitVec 6) (s : State) (w : Addr × BitVec 10 × TCell) (g : HalfId) :
    (unitWrite h g' s w).crew g = s.crew g := by simp [unitWrite]
@[simp] theorem crew_ringRead (s : State) (h : HalfId) (a : Nat) (t : BitVec 10) (g : HalfId) :
    (ringRead s h a t).1.crew g = s.crew g := by
  grind [ringRead, crew_homeRead, crew_perfAccess, crew_block]
@[simp] theorem crew_ringLose (s : State) (h g : HalfId) : (ringLose s h).crew g = s.crew g := by simp [ringLose]
@[simp] theorem crew_ringPut (s : State) (t : BitVec 10) (a : Nat) (l : List Cell) (g : HalfId) :
    (ringPut s t a l).crew g = s.crew g := by simp [ringPut]
theorem crew_of_ringRead {s u : State} {h g : HalfId} {a : Nat} {t : BitVec 10} {r : Option Cell} (e : ringRead s h a t = (u, r)) :
    u.crew g = s.crew g := crew_of_eq e (crew_ringRead ..)

@[simp] theorem crew_completionRing (s : State) (h : HalfId) (t : BitVec 10) (e : List Cell) (g : HalfId) :
    (completionRing s h t e).crew g = s.crew g := by
  simp only [completionRing]
  split
  · next e1 => simp [crew_of_ringRead e1]
  · next e1 =>
    split
    · simp [crew_of_ringRead e1]
    · split
      · next e2 => simp [crew_of_ringRead e1, crew_of_ringRead e2]
      · next e2 =>
        split
        · next e3 => simp [crew_of_ringRead e1, crew_of_ringRead e2, crew_of_ringRead e3]
        · next e3 =>
          split
          · split
            · next e4 => simp [crew_of_ringRead e1, crew_of_ringRead e2, crew_of_ringRead e3, crew_of_ringRead e4]
            · next e4 => simp [crew_of_ringRead e1, crew_of_ringRead e2, crew_of_ringRead e3, crew_of_ringRead e4]
          · simp [crew_of_ringRead e1, crew_of_ringRead e2, crew_of_ringRead e3]
@[simp] theorem crew_deliver (s : State) (st : Stamp) (kind : BitVec 4) (id c2 c3 : Cell) (src : Nat) (g : HalfId) :
    (deliver s st kind id c2 c3 src).crew g = s.crew g := by simp [deliver]
@[simp] theorem crew_fillSlot (s : State) (h : HalfId) (c : RkCmd) (g : HalfId) : (fillSlot s h c).crew g = s.crew g := by
  simp only [fillSlot]
  split <;> simp
@[simp] theorem crew_completeCmd (h : HalfId) (s : State) (c : RkCmd) (g : HalfId) : (completeCmd h s c).crew g = s.crew g := by
  have hw := crew_foldl (f := unitWrite h c.stamp.ctx) (g := g) fun _ _ => crew_unitWrite ..
  simp only [completeCmd, crew_deliver]
  split <;> simp [hw]
@[simp] theorem crew_completeFinished (s : State) (h : HalfId) (num : Cell) (g : HalfId) :
    (completeFinished s h num).crew g = s.crew g := crew_foldl (fun _ _ => crew_completeCmd ..) _ s
@[simp] theorem crew_cmdFinished (s : State) (h : HalfId) (c : RkCmd) (g : HalfId) :
    (cmdFinished s h c).crew g = s.crew g := by simp [cmdFinished]
@[simp] theorem crew_completeIdle (s : State) (h g : HalfId) : (completeIdle s h).crew g = s.crew g := by
  have hc := crew_foldl (f := completeCmd h) (g := g) fun _ _ => crew_completeCmd ..
  simp [completeIdle, hc]
@[simp] theorem crew_gensApply (s : State) (h : HalfId) (p : SbEntry → Bool) (g : HalfId) :
    (gensApply s h p).crew g = s.crew g :=
  crew_foldl (fun _ _ => by split <;> simp) _ s
@[simp] theorem crew_rollbackCount (s : State) (h g : HalfId) : (rollbackCount s h).crew g = s.crew g := by simp [rollbackCount]
@[simp] theorem crew_ownApply (s : State) (h g : HalfId) : (ownApply s h).crew g = s.crew g := by
  simp only [ownApply]
  split <;> simp
@[simp] theorem crew_stepSpend (s : State) (h : HalfId) (n : Nat) (g : HalfId) :
    (stepSpend s h n).crew g = s.crew g := by simp [stepSpend]
@[simp] theorem crew_spend (s : State) (h : HalfId) (n : ℤ) (g : HalfId) : (spend s h n).crew g = s.crew g := by simp [spend]
@[simp] theorem crew_spendAllow (s : State) (h : HalfId) (e : Option (BitVec 7)) (n : ℤ) (g : HalfId) :
    (spendAllow s h e n).crew g = s.crew g := by
  simp only [spendAllow]
  split <;> simp
@[simp] theorem crew_spendSys (s : State) (h : HalfId) (n : ℤ) (g : HalfId) :
    (spendSys s h n).crew g = s.crew g := by simp [spendSys]
@[simp] theorem crew_leaseBack (s : State) (h : HalfId) (e : Option (BitVec 7)) (l : Lease) (g : HalfId) :
    (leaseBack s h e l).crew g = s.crew g := by simp [leaseBack]
@[simp] theorem crew_leaseRelease (s : State) (h : HalfId) (k : BitVec 5) (g : HalfId) :
    (leaseRelease s h k).crew g = s.crew g := by
  simp only [leaseRelease]
  split <;> simp
@[simp] theorem crew_leaseGive (s : State) (h : HalfId) (k : BitVec 5) (i : BitVec 7) (cls : BitVec 4) (g : HalfId) :
    (leaseGive s h k i cls).crew g = s.crew g := by simp [leaseGive]
@[simp] theorem crew_leaseCharge (s : State) (h : HalfId) (i : BitVec 7) (cls : BitVec 4) (g : HalfId) :
    (leaseCharge s h i cls).crew g = s.crew g := by simp [leaseCharge]
@[simp] theorem crew_countDeferred (s : State) (h : HalfId) (stood : Bool) (g : HalfId) :
    (countDeferred s h stood).crew g = s.crew g := by simp [countDeferred]
@[simp] theorem crew_sysCharge (s : State) (h : HalfId) (cls : BitVec 4) (g : HalfId) :
    (sysCharge s h cls).crew g = s.crew g := by simp [sysCharge]
@[simp] theorem crew_onProg (s : State) (i : Nat) (f : StoreProg → StoreProg) (g : HalfId) :
    (onProg s i f).crew g = s.crew g := by
  simp only [onProg]
  split <;> simp
@[simp] theorem crew_grantLine (s : State) (h : HalfId) (n : Nat) (g : HalfId) :
    (grantLine s h n).crew g = s.crew g := by simp [grantLine]
@[simp] theorem crew_grantProg (s : State) (h : HalfId) (i : Nat) (g : HalfId) :
    (grantProg s h i).crew g = s.crew g := by simp [grantProg]
@[simp] theorem crew_grantHead (s : State) (h : HalfId) (c : RkCmd) (cls : BitVec 4) (i : BitVec 7) (g : HalfId) :
    (grantHead s h c cls i).crew g = s.crew g := by simp [grantHead]
@[simp] theorem crew_standStays (s : State) (h : HalfId) (a : Standing) (g : HalfId) :
    (standStays s h a).crew g = s.crew g := by
  simp only [standStays]
  split <;> simp
@[simp] theorem crew_startLease (s : State) (h : HalfId) (i : BitVec 7) (e : SchEntry) (g : HalfId) :
    (startLease s h i e).crew g = s.crew g := by simp [startLease]
@[simp] theorem crew_useCycles (s : State) (h : HalfId) (n : Nat) (g : HalfId) :
    (useCycles s h n).crew g = s.crew g := by simp [useCycles]
@[simp] theorem crew_revokeHeadLease (s : State) (h g : HalfId) : (revokeHeadLease s h).crew g = s.crew g := by
  simp only [revokeHeadLease]
  (repeat' split) <;> simp [*]
@[simp] theorem crew_countSkips (s : State) (h g : HalfId) : (countSkips s h).crew g = s.crew g := by
  simp only [countSkips]
  split <;> simp
@[simp] theorem crew_onChan (s : State) (c : BitVec 6) (f : Channel → Channel) (g : HalfId) :
    (State.onChan s c f).crew g = s.crew g := by simp [State.onChan]
@[simp] theorem crew_clearResults (s : State) (n : Nat) (g : HalfId) : (clearResults s n).crew g = s.crew g := by
  cases g <;> rfl
@[simp] theorem crew_codeRead (s : State) (h : HalfId) (t : BitVec 10) (a : Addr) (g : HalfId) :
    (codeRead s h t a).1.crew g = s.crew g := by
  unfold codeRead
  generalize codeData a = d
  split
  · rfl
  · have hq : (homeRead (perfAccess s d true) d t .clean).1.crew g = s.crew g := by simp
    revert hq
    cases forwarded (s.half h).win d with
    | some c => exact fun _ => rfl
    | none =>
      generalize homeRead _ _ _ _ = q
      obtain ⟨u, r⟩ := q
      cases r <;> exact id
@[simp] theorem crew_headTarget (s : State) (h : HalfId) (b : Bank) (c : Nat) (g : HalfId) :
    (headTarget s h b c).1.crew g = s.crew g := by
  grind [headTarget, crew_codeRead, crew_block]
@[simp] theorem crew_headTargets (h : HalfId) (b : Bank) (n : Nat) (g : HalfId) :
    ∀ s, (headTargets h b n s).1.crew g = s.crew g := by
  induction n with
  | zero => exact fun _ => rfl
  | succ n ih => intro s; simp [headTargets, ih]
@[simp] theorem crew_grantPerf (s : State) (h : HalfId) (r : ArbReq) (g : HalfId) :
    (grantPerf s h r).crew g = s.crew g := by simp [grantPerf]
@[simp] theorem crew_exchangeOne (h : HalfId) (s : State) (k : Nat) (g : HalfId) :
    (exchangeOne h s k).crew g = s.crew g := by simp [exchangeOne]
@[simp] theorem crew_exchangeImages (s : State) (h g : HalfId) : (exchangeImages s h).crew g = s.crew g :=
  crew_foldl (fun _ _ => crew_exchangeOne ..) _ s
@[simp] theorem crew_headGrant (s : State) (h : HalfId) (c : RkCmd) (g : HalfId) :
    OptAll (fun t => t.crew g = s.crew g) (headGrant s h c) := by
  simp only [headGrant]
  split <;> simp
@[simp] theorem crew_grantStanding (s : State) (h : HalfId) (q : Standing) (g : HalfId) :
    OptAll (fun t => t.crew g = s.crew g) (grantStanding s h q) := by
  cases q <;> simp [grantStanding]
@[simp] theorem crew_grantAll (h : HalfId) (n : Nat) (g : HalfId) : ∀ s, (grantAll h n s).crew g = s.crew g := by
  induction n with
  | zero => exact fun _ => rfl
  | succ n ih =>
    intro s
    simp only [grantAll]
    split
    · rfl
    · next q _ =>
      split
      · simp
      · next e => exact (ih _).trans ((crew_grantStanding s h q g).of_eq e)
@[simp] theorem crew_onCrd (s : State) (f : Crd → Crd) (g : HalfId) :
    (State.onCrd s f).crew g = s.crew g := by simp [State.onCrd]
@[simp] theorem crew_onXst (s : State) (f : CrdXst → CrdXst) (g : HalfId) :
    (State.onXst s f).crew g = s.crew g := by simp [State.onXst]
@[simp] theorem crew_crdCard (s : State) (n : BitVec 2) (g : HalfId) : (crdCard s n).crew g = s.crew g := by simp [crdCard]
@[simp] theorem crew_crdRing (s : State) (e : Stamp × Cell × Pair) (g : HalfId) :
    (crdRing s e).crew g = s.crew g := by simp [crdRing]
@[simp] theorem crew_crdDeliver (s : State) (st : Stamp) (g : HalfId) :
    (crdDeliver s st).crew g = s.crew g := by simp [crdDeliver]
@[simp] theorem crew_crdEnd (s : State) (code : BitVec 6) (g : HalfId) : (crdEnd s code).crew g = s.crew g := by
  simp only [crdEnd]
  split <;> simp
@[simp] theorem crew_crdGone (s : State) (g : HalfId) : (crdGone s).crew g = s.crew g := by simp [crdGone]
@[simp] theorem crew_crdReady (s : State) (card : BitVec 2) (g : HalfId) :
    (crdReady s card).crew g = s.crew g := by simp [crdReady]
@[simp] theorem crew_isoUnready (s : State) (g : HalfId) : (isoUnready s).crew g = s.crew g := by simp [isoUnready]
@[simp] theorem crew_isoActivateAt (s : State) (b : Bool) (g : HalfId) :
    (isoActivateAt s b).crew g = s.crew g := by simp [isoActivateAt]
@[simp] theorem crew_isoActivate (s : State) (g : HalfId) : (isoActivate s).crew g = s.crew g := by simp [isoActivate]
@[simp] theorem crew_crdStartUp (s : State) (g : HalfId) : (crdStartUp s).crew g = s.crew g := by simp [crdStartUp]
@[simp] theorem crew_crdFollow (s : State) (g : HalfId) : (crdFollow s).crew g = s.crew g := by simp [crdFollow]
@[simp] theorem crew_crdInstall (s : State) (x : Cell) (g : HalfId) : (crdInstall s x).crew g = s.crew g := by simp [crdInstall]
@[simp] theorem crew_rkRelease (s : State) (h : HalfId) (c : RkCmd) (g : HalfId) : (rkRelease s h c).1.crew g = s.crew g := by
  simp only [rkRelease]
  split <;> simp
@[simp] theorem crew_rkReport (s : State) (h : HalfId) (c : RkCmd) (code : BitVec 6) (g : HalfId) :
    (rkReport s h c code).crew g = s.crew g := by simp [rkReport]
@[simp] theorem crew_rkFail (s : State) (h : HalfId) (c : RkCmd) (code : BitVec 6) (g : HalfId) :
    (rkFail s h c code).crew g = s.crew g := by simp [rkFail]
@[simp] theorem crew_rkFailAll (h : HalfId) (code : BitVec 6) (l : List RkCmd) (s : State) (g : HalfId) :
    (rkFailAll h code l s).crew g = s.crew g := crew_foldl (fun _ _ => crew_rkFail ..) l s
@[simp] theorem crew_rkReading (s : State) (h g : HalfId) : (rkReading s h).crew g = s.crew g := by simp [rkReading]
@[simp] theorem crew_scrub (s : State) (h g : HalfId) : (scrub s h).crew g = s.crew g := by simp [scrub]
@[simp] theorem crew_installSource (s : State) (n : Nat) (g : HalfId) :
    (installSource s n).crew g = s.crew g := by simp [installSource]
@[simp] theorem crew_installEnable (s : State) (k : Nat) (g : HalfId) :
    (installEnable s k).crew g = s.crew g := by simp [installEnable]
@[simp] theorem crew_installEvents (s : State) (g : HalfId) : (installEvents s).crew g = s.crew g := by
  have hs := crew_foldl (f := installSource) (g := g) fun _ _ => crew_installSource ..
  have he := crew_foldl (f := installEnable) (g := g) fun _ _ => crew_installEnable ..
  unfold installEvents
  split
  · rw [he, hs]
  · rfl
@[simp] theorem crew_installMail (s : State) (g : HalfId) : (installMail s).crew g = s.crew g := by
  have hc := crew_foldl (f := fun s c => s.onChan c fun x => x.config (chtCell s 7 (2 * c.toNat)) (chtCell s 7 (2 * c.toNat + 1)))
    (g := g) (fun _ _ => crew_onChan ..) chanNos s
  unfold installMail
  generalize chanNos = l at hc ⊢
  split
  · exact hc
  · rfl
@[simp] theorem crew_fleetReplace (s : State) (g : HalfId) : (fleetReplace s).crew g = s.crew g := by simp [fleetReplace]
@[simp] theorem crew_installFleet (s : State) (g : HalfId) : (installFleet s).crew g = s.crew g := by simp [installFleet]
@[simp] theorem crew_tampReport (s : State) (sensor : BitVec 3) (resp : BitVec 2) (rtc : BitVec 48) (g : HalfId) :
    (tampReport s sensor resp rtc).crew g = s.crew g := by simp [tampReport]
@[simp] theorem crew_installTable (s : State) (h g : HalfId) : (installTable s h).crew g = s.crew g := by
  simp only [installTable]
  (repeat' split) <;> simp [*]
@[simp] theorem crew_installHomes (s : State) (h g : HalfId) : (installHomes s h).crew g = s.crew g := by
  unfold installHomes
  split
  · exact crew_foldl (fun _ _ => crew_onSpn ..) _ s
  · rfl
@[simp] theorem crew_drainNear (s : State) (h : HalfId) (ws : List (Addr × BitVec 10 × TCell)) (r : ReadOutcome) (g : HalfId) :
    (drainNear s h ws r).crew g = s.crew g := by simp [drainNear]

/-! ## What a half does to itself -/

@[simp] theorem other_prtAfterClose (s : State) (h : HalfId) :
    ((prtAfterClose s h).crew h.other).own = (s.crew h.other).own := by
  grind [prtAfterClose, other_onWin, crew_block]
@[simp] theorem other_setMode (s : State) (h : HalfId) (m : BitVec 3) :
    ((setMode s h m).crew h.other).own = (s.crew h.other).own := by simp [setMode]
@[simp] theorem other_setRunMode (s : State) (h : HalfId) (m : BitVec 3) :
    ((setRunMode s h m).crew h.other).own = (s.crew h.other).own := by simp [setRunMode]
@[simp] theorem other_tryHalt (s : State) (h : HalfId) :
    ((tryHalt s h).crew h.other).own = (s.crew h.other).own := by simp [tryHalt]
@[simp] theorem other_fenceLane (h : HalfId) (s : State) (l : Lane) :
    ((fenceLane h s l).crew h.other).own = (s.crew h.other).own := by simp [fenceLane]
@[simp] theorem other_afterFence (s : State) (h : HalfId) :
    ((afterFence s h).crew h.other).own = (s.crew h.other).own := by simp [afterFence]
@[simp] theorem other_fenceAct (s : State) (h : HalfId) : ((fenceAct s h).crew h.other).own = (s.crew h.other).own := by
  have hf := other_foldl (f := fenceLane h) fun _ _ => other_fenceLane ..
  simp only [fenceAct]
  split
  · simp
  · split <;> simp [hf]
@[simp] theorem other_pllClose (s : State) (h : HalfId) :
    ((pllClose s h).crew h.other).own = (s.crew h.other).own := by simp [pllClose]
@[simp] theorem other_injectStart (s : State) (h : HalfId) :
    ((injectStart s h).crew h.other).own = (s.crew h.other).own := by simp [injectStart]
@[simp] theorem other_atClose (s : State) (h : HalfId) :
    ((atClose s h).crew h.other).own = (s.crew h.other).own := by simp [atClose]
@[simp] theorem other_stepClose (s : State) (h : HalfId) : ((stepClose s h).crew h.other).own = (s.crew h.other).own := by
  simp only [stepClose]
  split <;> simp
@[simp] theorem other_closeRaw (s : State) (h : HalfId) (forced : Bool) :
    ((closeRaw s h forced).crew h.other).own = (s.crew h.other).own := by
  simp [closeRaw]
@[simp] theorem other_firstMark (s : State) (h : HalfId) :
    ((firstMark s h).crew h.other).own = (s.crew h.other).own := by simp [firstMark]
@[simp] theorem other_startBoot (s : State) (h : HalfId) (entry : Addr) :
    ((startBoot s h entry).crew h.other).own = (s.crew h.other).own := by simp [startBoot]
@[simp] theorem other_stuckHalf (s : State) (h : HalfId) :
    ((stuckHalf s h).crew h.other).own = (s.crew h.other).own := by simp [stuckHalf]
@[simp] theorem other_startLanes (s : State) (h : HalfId) :
    ((startLanes s h).crew h.other).own = (s.crew h.other).own := by simp [startLanes]
@[simp] theorem other_bringupAudits (s : State) (h : HalfId) :
    ((bringupAudits s h).crew h.other).own = (s.crew h.other).own := by simp [bringupAudits]
@[simp] theorem other_releaseHalf (s : State) (h : HalfId) :
    ((releaseHalf s h).crew h.other).own = (s.crew h.other).own := by simp [releaseHalf]
@[simp] theorem other_thirdAudit (s : State) (h : HalfId) : ((thirdAudit s h).crew h.other).own = (s.crew h.other).own := by
  simp only [thirdAudit]
  (repeat' split) <;> simp [*]
@[simp] theorem other_bootHold (s : State) (h : HalfId) :
    ((bootHold s h).crew h.other).own = (s.crew h.other).own := by simp [bootHold]
@[simp] theorem other_installTally (s : State) (h : HalfId) :
    ((installTally s h).crew h.other).own = (s.crew h.other).own := by simp [installTally]
@[simp] theorem other_installEnergy (s : State) (h : HalfId) :
    ((installEnergy s h).crew h.other).own = (s.crew h.other).own := by simp [installEnergy]
@[simp] theorem other_imageFails (s : State) (h : HalfId) :
    ((imageFails s h).crew h.other).own = (s.crew h.other).own := by simp [imageFails]
@[simp] theorem other_wardenChecked (s : State) (pass : Bool) (g : HalfId) :
    ((wardenChecked s pass).crew g).own = (s.crew g).own := by
  cases g <;> rfl
@[simp] theorem other_enterEarly (s : State) (h : HalfId) (pass : Bool) :
    ((enterEarly s h pass).crew h.other).own = (s.crew h.other).own := by simp [enterEarly]
@[simp] theorem other_installHalf (s : State) (h : HalfId) (pass : Bool) :
    ((installHalf s h pass).crew h.other).own = (s.crew h.other).own := by simp [installHalf]

/-! ## What keeps the pace of a half -/

@[simp] theorem pace_logInput (s : State) (h : HalfId) (k : LogKind) (req : Cell) (ctx : BitVec 5) (isolated : Bool)
    (v0 v1 : Cell) (g : HalfId) : ((logInput s h k req ctx isolated v0 v1).crew g).pace = (s.crew g).pace := by simp [logInput]
@[simp] theorem pace_prtAfterClose (s : State) (h g : HalfId) : ((prtAfterClose s h).crew g).pace = (s.crew g).pace := by
  grind [prtAfterClose, pace_onWin, crew_block]
@[simp] theorem pace_setMode (s : State) (h : HalfId) (m : BitVec 3) (g : HalfId) :
    ((setMode s h m).crew g).pace = (s.crew g).pace := by simp [setMode]
@[simp] theorem pace_setRunMode (s : State) (h : HalfId) (m : BitVec 3) (g : HalfId) :
    ((setRunMode s h m).crew g).pace = (s.crew g).pace := by simp [setRunMode]
@[simp] theorem pace_tryHalt (s : State) (h g : HalfId) : ((tryHalt s h).crew g).pace = (s.crew g).pace := by simp [tryHalt]
@[simp] theorem pace_fenceLane (h : HalfId) (s : State) (l : Lane) (g : HalfId) :
    ((fenceLane h s l).crew g).pace = (s.crew g).pace := by simp [fenceLane]
@[simp] theorem pace_afterFence (s : State) (h g : HalfId) :
    ((afterFence s h).crew g).pace = (s.crew g).pace := by simp [afterFence]
@[simp] theorem pace_fenceAct (s : State) (h g : HalfId) : ((fenceAct s h).crew g).pace = (s.crew g).pace := by
  have hf := pace_foldl (f := fenceLane h) (g := g) fun _ _ => pace_fenceLane ..
  simp only [fenceAct]
  split
  · simp
  · split <;> simp [hf]
@[simp] theorem pace_pllClose (s : State) (h g : HalfId) : ((pllClose s h).crew g).pace = (s.crew g).pace := by simp [pllClose]
@[simp] theorem pace_injectStart (s : State) (h g : HalfId) :
    ((injectStart s h).crew g).pace = (s.crew g).pace := by simp [injectStart]
@[simp] theorem pace_atClose (s : State) (h g : HalfId) : ((atClose s h).crew g).pace = (s.crew g).pace := by simp [atClose]
@[simp] theorem pace_stepClose (s : State) (h g : HalfId) : ((stepClose s h).crew g).pace = (s.crew g).pace := by
  simp only [stepClose]
  split <;> simp
@[simp] theorem pace_closeRaw (s : State) (h : HalfId) (forced : Bool) (g : HalfId) :
    ((closeRaw s h forced).crew g).pace = (s.crew g).pace := by
  simp [closeRaw]
@[simp] theorem pace_parkArith (s : State) (h : HalfId) (k : BitVec 5) (g : HalfId) :
    ((parkArith s h k).crew g).pace = (s.crew g).pace := by
  simp only [parkArith]
  split <;> simp
@[simp] theorem pace_lineResume (s : State) (h g : HalfId) : ((lineResume s h).crew g).pace = (s.crew g).pace := by
  simp only [lineResume]
  split <;> simp
@[simp] theorem pace_leaveRunning (s : State) (h g : HalfId) : ((leaveRunning s h).crew g).pace = (s.crew g).pace := by
  simp only [leaveRunning]
  split <;> simp
@[simp] theorem pace_switchTo (s : State) (h : HalfId) (r : Option (BitVec 5)) (cut : Bool) (g : HalfId) :
    ((switchTo s h r cut).crew g).pace = (s.crew g).pace := by simp [switchTo]
@[simp] theorem pace_startEntry (s : State) (h : HalfId) (i : BitVec 7) (e : SchEntry) (g : HalfId) :
    ((startEntry s h i e).crew g).pace = (s.crew g).pace := by simp [startEntry]
@[simp] theorem pace_schedPick (s : State) (h g : HalfId) : ((schedPick s h).crew g).pace = (s.crew g).pace := by
  simp only [schedPick]
  (repeat' split) <;> simp [*]
@[simp] theorem pace_endEntry (s : State) (h g : HalfId) : ((endEntry s h).crew g).pace = (s.crew g).pace := by
  simp only [endEntry]
  split <;> simp
@[simp] theorem pace_cutEntry (s : State) (h g : HalfId) : ((cutEntry s h).crew g).pace = (s.crew g).pace := by simp [cutEntry]
@[simp] theorem pace_tickPick (s0 s : State) (h g : HalfId) : ((tickPick s0 s h).crew g).pace = (s.crew g).pace := by
  simp [tickPick]
@[simp] theorem pace_tallyTick (s : State) (h g : HalfId) :
    ((tallyTick s h).crew g).pace = (s.crew g).pace := by simp [tallyTick]

/-! ## What the bring-up of a half leaves of the block -/

@[simp] theorem rest_setMode (s : State) (h : HalfId) (m : BitVec 3) (g : HalfId) :
    ((setMode s h m).crew g).rest = (s.crew g).rest := by simp [setMode]
@[simp] theorem rest_tryHalt (s : State) (h g : HalfId) : ((tryHalt s h).crew g).rest = (s.crew g).rest := by simp [tryHalt]
@[simp] theorem rest_firstMark (s : State) (h g : HalfId) :
    ((firstMark s h).crew g).rest = (s.crew g).rest := by simp [firstMark]
@[simp] theorem rest_thirdAudit (s : State) (h g : HalfId) : ((thirdAudit s h).crew g).rest = (s.crew g).rest := by
  simp only [thirdAudit]
  (repeat' split) <;> simp [*]
@[simp] theorem rest_bootHold (s : State) (h g : HalfId) : ((bootHold s h).crew g).rest = (s.crew g).rest := by simp [bootHold]
@[simp] theorem rest_installTally (s : State) (h g : HalfId) :
    ((installTally s h).crew g).rest = (s.crew g).rest := by simp [installTally]
@[simp] theorem rest_installEnergy (s : State) (h g : HalfId) :
    ((installEnergy s h).crew g).rest = (s.crew g).rest := by simp [installEnergy]
@[simp] theorem rest_imageFails (s : State) (h g : HalfId) :
    ((imageFails s h).crew g).rest = (s.crew g).rest := by simp [imageFails]
@[simp] theorem rest_wardenChecked (s : State) (pass : Bool) (g : HalfId) :
    ((wardenChecked s pass).crew g).rest = (s.crew g).rest := by
  cases g <;> rfl
@[simp] theorem rest_enterEarly (s : State) (h : HalfId) (pass : Bool) (g : HalfId) :
    ((enterEarly s h pass).crew g).rest = (s.crew g).rest := by simp [enterEarly]
@[simp] theorem rest_installHalf (s : State) (h : HalfId) (pass : Bool) (g : HalfId) :
    ((installHalf s h pass).crew g).rest = (s.crew g).rest := by simp [installHalf]

end Sys2Proof.Machine

/-! # Lanes, modes and READING-ROOM -/

namespace Sys2Proof.Machine

/-! ## Reading the crew -/

section
variable {s t : State} {g : HalfId} (e : t.crew g = s.crew g)
include e

theorem ex_of_crew : t.ex g = s.ex g := congrArg (·.own.ex) e
theorem win_of_crew : (t.half g).win = (s.half g).win := congrArg (·.own.win) e
theorem tal_of_crew : (t.half g).tal = (s.half g).tal := congrArg (·.own.tal) e
theorem up_of_crew : (t.half g).up = (s.half g).up := congrArg (·.own.up) e
theorem halt_of_crew : (t.dbgHalf g).halt = (s.dbgHalf g).halt := congrArg (·.own.halt) e
theorem keep_of_crew : t.keep = s.keep := congrArg Crew.keep e
theorem cht_of_crew : t.cht = s.cht := congrArg Crew.cht e
theorem mode_of_crew : t.mode g = s.mode g := congrArg Exec.mode (ex_of_crew e)
theorem bank_of_crew (k : BitVec 5) : t.bank g k = s.bank g k := congrArg (fun x : Exec => sget Bank.reset x.banks k.toNat) (ex_of_crew e)
theorem runMode_of_crew : t.runMode g = s.runMode g := by simp only [State.runMode, mode_of_crew e, ex_of_crew e]
theorem trec_of_crew (h : HalfId) : t.trec h = s.trec h := by
  have hk := keep_of_crew e
  cases h
  · exact congrArg Keep.rec0 hk
  · exact congrArg Keep.rec1 hk

end

/-! ## Modes (R37, R38) -/

/-- A change of the mode is one of the execution state; the rest is reports, sources and the rollback count. -/
theorem crew_setMode (s : State) (h : HalfId) (m : BitVec 3) (g : HalfId) :
    (setMode s h m).crew g = (s.onEx h fun e => { e with mode := m }).crew g := by
  simp only [setMode]
  split
  · next hm =>
    subst hm
    cases h <;> cases g <;> rfl
  · simp

theorem runMode_running {s : State} {h : HalfId} (hr : s.running h = true) : s.runMode h = s.mode h := by
  have hm : ¬(s.mode h = mHalt ∨ s.mode h = mKeep) := by
    rintro (e | e) <;> rw [State.running, e] at hr <;> exact absurd hr (by decide)
  rw [State.runMode, if_neg hm]

theorem setRunMode_running {s : State} {h : HalfId} (hr : s.running h = true) (m : BitVec 3) : setRunMode s h m = setMode s h m := by
  have hm : ¬(s.mode h = mHalt ∨ s.mode h = mKeep) := by
    rintro (e | e) <;> rw [State.running, e] at hr <;> exact absurd hr (by decide)
  rw [setRunMode, if_neg hm]

theorem mode_setMode (s : State) (h : HalfId) (m : BitVec 3) : (setMode s h m).mode h = m := by
  have := mode_of_crew (crew_setMode s h m h)
  simpa [State.mode] using this

theorem tal_setMode (s : State) (h : HalfId) (m : BitVec 3) : ((setMode s h m).half h).tal = (s.half h).tal := by
  simpa using tal_of_crew (crew_setMode s h m h)

@[simp] theorem mode_onTal (s : State) (h g : HalfId) (f : Tally → Tally) : (s.onTal h f).mode g = s.mode g := by
  simp [State.mode]
@[simp] theorem runMode_onTal (s : State) (h g : HalfId) (f : Tally → Tally) : (s.onTal h f).runMode g = s.runMode g := by
  simp [State.runMode]
@[simp] theorem trec_onTal (s : State) (h g : HalfId) (f : Tally → Tally) : (s.onTal h f).trec g = s.trec g := by
  cases g <;> simp [State.trec]

/-! ## Lanes -/

@[simp] theorem lane_onLane_same (t : Tally) (l : Lane) (f : LaneState → LaneState) : (t.onLane l f).lane l = f (t.lane l) := by
  cases l <;> rfl
theorem lane_onLane_ne (t : Tally) {l m : Lane} (f : LaneState → LaneState) (hm : m ≠ l) : (t.onLane l f).lane m = t.lane m := by
  cases l <;> cases m <;> first | rfl | exact absurd rfl hm
@[simp] theorem recLane_onLane_same (r : TallyRec) (l : Lane) (f : LaneRec → LaneRec) : (r.onLane l f).lane l = f (r.lane l) := by
  cases l <;> rfl
theorem recLane_onLane_ne (r : TallyRec) {l m : Lane} (f : LaneRec → LaneRec) (hm : m ≠ l) : (r.onLane l f).lane m = r.lane m := by
  cases l <;> cases m <;> first | rfl | exact absurd rfl hm

/-- The lanes of a tally unit that holds the same lane states. -/
theorem lane_congr {t u : Tally} (ha : u.la = t.la) (hb : u.lb = t.lb) (hc : u.lc = t.lc) : u.lane = t.lane := by
  funext l
  cases l
  · exact ha
  · exact hb
  · exact hc

theorem leadLane_congr {t u : Tally} (hl : u.lane = t.lane) : leadLane u = leadLane t := by
  simp only [leadLane, Tally.inService, hl]

theorem work_serve (t : Tally) (l : List Lane) (m : Lane) : ((t.serve l).lane m).work =
    if l.contains m then .inService else if (t.lane m).work = .audit then .audit else .out := by
  cases m <;> rfl

/-- The lanes served are the lanes in service (R279). -/
theorem inService_serve (t : Tally) (l : List Lane) : (t.serve l).inService = lanes.filter fun m => l.contains m := by
  refine List.filter_congr fun m _ => ?_
  rw [work_serve]
  generalize l.contains m = b
  cases b
  · rw [if_neg (by decide)]
    split <;> rfl
  · rfl

theorem inService_serve_one (t : Tally) (l : Lane) : (t.serve [l]).inService = [l] := by
  rw [inService_serve]
  cases l <;> rfl

/-! ## READING-ROOM (R38, R281) -/

/-- Entry of READING-ROOM on one lane. -/
theorem enterRoom_spec {s : State} {h : HalfId} (hr : s.running h = true) (hm : s.mode h ≠ mReading) (l : Lane) :
    (enterRoom s h l).mode h = mReading ∧ ((enterRoom s h l).half h).tal = (s.half h).tal.serve [l] := by
  have hbegin : ∀ u : State, u = (if (s.half h).win.closed.isEmpty then s else rollbackStart s h) →
      u.ex h = s.ex h ∧ (u.half h).tal = (s.half h).tal := by
    rintro u rfl
    split <;> simp [rollbackStart]
  obtain ⟨hex, htal⟩ := hbegin _ rfl
  simp only [enterRoom]
  generalize (if (s.half h).win.closed.isEmpty then s else rollbackStart s h) = u at hex htal
  have hmode : (takesClose (u.onTal h fun t => t.serve [l]) h).mode h = s.mode h := by simp [takesClose, State.mode, hex]
  have hrun : (takesClose (u.onTal h fun t => t.serve [l]) h).running h = true := by rw [State.running, hmode]; exact hr
  rw [if_neg (by rw [runMode_running hrun, hmode]; exact hm), setRunMode_running hrun]
  rw [mode_of_crew (crew_rkReading _ h h), tal_of_crew (crew_rkReading _ h h), mode_setMode, tal_setMode]
  simp [takesClose, htal]

theorem readingRoom_spec {s : State} {h : HalfId} (hr : s.running h = true) (hm : s.mode h ≠ mReading) (loss : PathLoss) :
    let t := readingRoom s h loss
    t.mode h = mReading ∧ (t.half h).tal.inService = [leadLane (s.half h).tal] ∧
    (loss = .compare → (t.half h).tal.cmpLost = true) ∧ (loss = .commonsPort → (t.half h).tal.portLost = true) := by
  simp only [readingRoom, runMode_running hr]
  rw [if_neg (by simpa [State.running] using hr)]
  generalize hu : (s.onTal h fun t => match loss with
      | .compare => { t with cmpLost := true }
      | .commonsPort => { t with portLost := true }) = u
  have hmode : u.mode h = s.mode h := by simp [← hu, State.mode]
  have hrun : u.running h = true := by rw [State.running, hmode]; exact hr
  have hlead : leadLane (u.half h).tal = leadLane (s.half h).tal := by
    rw [← hu, half_onTal]
    exact leadLane_congr (by cases loss <;> rfl)
  have hloss : (loss = .compare → (u.half h).tal.cmpLost = true) ∧ (loss = .commonsPort → (u.half h).tal.portLost = true) := by
    rw [← hu, half_onTal]
    constructor <;> rintro rfl <;> rfl
  rw [if_neg (by rw [runMode_running hrun, hmode]; exact hm), hlead]
  obtain ⟨he, ht⟩ := enterRoom_spec hrun (by rw [hmode]; exact hm) (leadLane (s.half h).tal)
  rw [he, ht]
  exact ⟨rfl, inService_serve_one .., hloss⟩

/-! ## Comparator injection (R270, R271, R282) -/

/-- The result of an injection on the tally unit. -/
def injected (t : Tally) (cases : BitVec 8) (ok : Bool) : Tally :=
  { t with injGo := false, injState := if ok then 2 else 3, injCases := cases, injOk := ok }

theorem crew_injectResult (s : State) (h : HalfId) (cases : BitVec 8) (o : BitVec 2) (g : HalfId) :
    (injectResult s h cases o).crew g = (s.onTal h fun t => injected t cases (cases == BitVec.allOnes 8)).crew g := by
  simp only [injectResult, crew_raiseHalf, injected]
  split <;> simp

theorem tal_injectResult (s : State) (h : HalfId) (cases : BitVec 8) (o : BitVec 2) :
    ((injectResult s h cases o).half h).tal = injected (s.half h).tal cases (cases == BitVec.allOnes 8) := by
  simpa using tal_of_crew (crew_injectResult s h cases o h)

theorem charterDecide_unseen {s : State} (hs : s.cht.seen = none) : charterDecide s = s := by
  rw [charterDecide, hs]

theorem injection_bringUp {s : State} {h : HalfId} (hd : injectDue s h = true) (hs : s.cht.seen = none) {cases : BitVec 8}
    (hc : cases = BitVec.allOnes 8) :
    ((injection s h cases).half h).up.injected = true ∧ ((injection s h cases).half h).tal = injected (s.half h).tal cases true := by
  have hcrew := crew_injectResult s h cases 0 h
  have hok : (cases == BitVec.allOnes 8) = true := by simpa using hc
  have htal := tal_injectResult s h cases 0
  rw [hok] at htal
  rw [injection, if_pos hd, injectBringUp]
  generalize injectResult s h cases 0 = u at hcrew htal
  have hseen : (u.onUp h fun x => { x with injected := true }).cht.seen = none := by
    rw [onUp_cht, cht_of_crew hcrew, onTal_cht, hs]
  simp only [htal, injected, if_true]
  rw [charterDecide_unseen hseen]
  simp [htal, injected]

theorem injection_fails {s : State} {h : HalfId} (hr : s.running h = true) (hm : s.mode h ≠ mReading)
    (hg : (s.half h).tal.injGo = true) (hi : (s.half h).tal.injState = 1) {cases : BitVec 8} (hc : cases ≠ BitVec.allOnes 8) :
    (injection s h cases).mode h = mReading ∧ ((injection s h cases).half h).tal =
      { injected (s.half h).tal cases false with failedInject := true }.serve [leadLane (s.half h).tal] := by
  have hcrew := crew_injectResult s h cases 1 h
  have hok : (cases == BitVec.allOnes 8) = false := by simpa using hc
  have htal := tal_injectResult s h cases 1
  rw [hok] at htal
  have hdue : injectDue s h = false := by
    have : s.mode h ≠ mOff := by rintro e; rw [State.running, e] at hr; exact absurd hr (by decide)
    simp [injectDue, this]
  have hlead : leadLane (injected (s.half h).tal cases false) = leadLane (s.half h).tal :=
    leadLane_congr (lane_congr rfl rfl rfl)
  rw [injection, if_neg (by simp [hdue]), injectRunning]
  simp only [hg, hi, injectRequested]
  generalize injectResult s h cases 1 = u at hcrew htal
  have hmode : (u.onTal h fun t => { t with failedInject := true }).mode h = s.mode h := by
    have := mode_of_crew hcrew
    simpa [State.mode] using this
  have henter := enterRoom_spec (s := u.onTal h fun t => { t with failedInject := true }) (by rw [State.running, hmode]; exact hr)
    (by rw [hmode]; exact hm) (leadLane (s.half h).tal)
  simp only [htal, half_onTal] at henter ⊢
  rw [hlead]
  simpa [injected] using henter

/-! ## The end of READING-ROOM (R39, R284) -/

/-- Lanes set to copying. -/
def copyLanes (l : List Lane) (t : Tally) : Tally := l.foldl (fun t l => t.onLane l fun x => { x with work := .copying }) t

theorem leaveRoom_fold (h : HalfId) (l : List Lane) : ∀ s : State,
    l.foldl (fun s l => s.onTal h fun t => t.onLane l fun x => { x with work := .copying }) s = s.onTal h (copyLanes l) := by
  induction l with
  | nil => intro s; cases h <;> rfl
  | cons x l ih =>
    intro s
    rw [List.foldl_cons, ih]
    cases h <;> rfl

theorem copyLanes_cmpLost (l : List Lane) : ∀ t, (copyLanes l t).cmpLost = t.cmpLost := by
  induction l with
  | nil => exact fun _ => rfl
  | cons x l ih => exact fun t => (ih _).trans (by cases x <;> rfl)

theorem copyLanes_keeps {m : Lane} (l : List Lane) : ∀ t, (t.lane m).work = .copying → ((copyLanes l t).lane m).work = .copying := by
  induction l with
  | nil => exact fun _ => id
  | cons x l ih =>
    intro t ht
    refine ih _ ?_
    by_cases hm : m = x
    · subst hm; rw [lane_onLane_same]
    · rwa [lane_onLane_ne t _ hm]

theorem copyLanes_mem {m : Lane} (l : List Lane) : ∀ t, m ∈ l → ((copyLanes l t).lane m).work = .copying := by
  induction l with
  | nil => exact fun _ hm => absurd hm (by simp)
  | cons x l ih =>
    intro t hm
    by_cases hx : m = x
    · subst hx
      exact copyLanes_keeps l _ (by rw [lane_onLane_same])
    · exact ih _ ((List.mem_cons.1 hm).resolve_left hx)

theorem runMode_reading {s : State} {h : HalfId} (hm : s.mode h = mReading) : s.runMode h = mReading := by
  rw [State.runMode, hm]; rfl

theorem roomOpen_iff (s : State) (h : HalfId) : roomOpen s h = true ↔ s.runMode h = mReading ∧ (s.half h).tal.cmpLost = false ∧
    (s.half h).tal.portLost = false ∧ (s.half h).tal.failedInject = false := by
  simp [roomOpen, and_assoc]

theorem idleLanes_congr {s t : State} {h : HalfId} (hr : t.trec h = s.trec h) (hl : (t.half h).tal.lane = (s.half h).tal.lane) :
    idleLanes t h = idleLanes s h := by
  simp only [idleLanes, hr, hl]

/-- The comparison path restored with an injection that passes. -/
theorem pathRestored_compare {s : State} {h : HalfId} (hm : s.mode h = mReading) (hc : (s.half h).tal.cmpLost = true)
    (hp : (s.half h).tal.portLost = false) (hf : (s.half h).tal.failedInject = false) {cases : BitVec 8}
    (hok : (cases == BitVec.allOnes 8) = true) :
    let t := pathRestored s h .compare cases
    (t.half h).tal.cmpLost = false ∧ ∀ l ∈ idleLanes s h, ((t.half h).tal.lane l).work = .copying := by
  have hopen : roomOpen (s.onTal h fun t => { t with cmpLost := false }) h = true :=
    (roomOpen_iff _ _).2 (by simp [runMode_reading hm, hp, hf])
  have hcrew := crew_injectResult (s.onTal h fun t => { t with cmpLost := false }) h cases 2 h
  have htal := tal_injectResult (s.onTal h fun t => { t with cmpLost := false }) h cases 2
  rw [hok] at htal
  simp only [pathRestored, hc]
  rw [if_neg (by simp), if_pos hopen, injectLeaving]
  generalize injectResult _ h cases 2 = u at hcrew htal
  rw [half_onTal] at htal
  have hroom : roomOpen u h = true :=
    (roomOpen_iff _ _).2 (by rw [runMode_of_crew hcrew, htal]; simp [runMode_reading hm, injected, hp, hf])
  have hidle : idleLanes u h = idleLanes s h :=
    idleLanes_congr (by rw [trec_of_crew hcrew]; simp) (by rw [htal]; exact lane_congr rfl rfl rfl)
  simp only [htal, injected, if_true, leaveRoom, hroom, hidle, leaveRoom_fold, half_onTal, copyLanes_cmpLost]
  exact ⟨trivial, fun l hl => copyLanes_mem _ _ hl⟩

/-! ## TLY_FENCE (R284, R285) -/

theorem bit_laneBits (p : Lane → Bool) (l : Lane) : bit (laneBits p) (2 - (laneNo l).toNat) = p l := by
  cases ha : p .a <;> cases hb : p .b <;> cases hc : p .c <;> cases l <;> simp [laneBits, ha, hb, hc] <;> decide

theorem fenceMarks_zero {s : State} {h : HalfId} (hz : fenceMarks s h = 0) (l : Lane) : ((s.trec h).lane l).fenced = false := by
  rw [← bit_laneBits (fun l => ((s.trec h).lane l).fenced) l, ← fenceMarks, hz]
  simp [bit]

/-- The one lane requested is the one fenced. -/
theorem fenceList_one {s : State} {h : HalfId} {l : Lane} (hq : (s.half h).tal.fenceReq = laneBits fun m => m == l)
    (hz : fenceMarks s h = 0) : fenceList s h = [l] := by
  simp only [fenceList, hq, hz]
  cases l <;> decide

/-- A lane that is fenced goes out of service with its mark. -/
theorem fenceLane_spec {s : State} {h : HalfId} {l : Lane} (hf : ((s.trec h).lane l).fenced = false) :
    (fenceLane h s l).ex h = s.ex h ∧ ((fenceLane h s l).half h).tal.lane = ((s.half h).tal.onLane l fun x => { x with work := .out }).lane ∧
    (((fenceLane h s l).trec h).lane l).fenced = true := by
  have hcrew : (fenceLane h s l).crew h = ((s.onTrec h fun r => r.onLane l fun x => { x with fenced := true }).onTal h fun t =>
      { t.onLane l fun x => { x with work := .out } with audits := t.audits.filter fun a => a.1 != l || a.2 == .request }).crew h := by
    simp [fenceLane, hf]
  refine ⟨by rw [ex_of_crew hcrew]; cases h <;> rfl, ?_, ?_⟩
  · rw [tal_of_crew hcrew, half_onTal, half_onTrec]
    exact lane_congr rfl rfl rfl
  · rw [trec_of_crew hcrew, trec_onTal, trec_onTrec, recLane_onLane_same]

theorem inService_congr {t u : Tally} (hl : u.lane = t.lane) : u.inService = t.inService := by
  simp only [Tally.inService, hl]

/-- Three lanes in service, less one. -/
theorem inService_left_length {t : Tally} (ht : t.inService = lanes) (l : Lane) {w : LaneWork} (hne : w ≠ .inService) :
    (t.onLane l fun x => { x with work := w }).inService.length = 2 := by
  have hw : ∀ m, (t.lane m).work = .inService := fun m => by
    have hm : m ∈ t.inService := by rw [ht]; cases m <;> decide
    simpa [Tally.inService] using (List.mem_filter.1 hm).2
  have hfil : (t.onLane l fun x => { x with work := w }).inService = lanes.filter fun m => m != l := by
    refine List.filter_congr fun m _ => ?_
    by_cases hm : m = l
    · subst hm; rw [lane_onLane_same]; simpa using hne
    · rw [lane_onLane_ne t _ hm, hw m]; simp [hm]
  rw [hfil]
  cases l <;> decide

theorem runMode_tallied {s : State} {h : HalfId} (hm : s.mode h = mTallied) : s.runMode h = mTallied := by
  rw [State.runMode, hm]; rfl

theorem crew_afterFence_two {s : State} {h : HalfId} (hm : s.mode h = mTallied) (hl : (s.half h).tal.inService.length = 2) (g : HalfId) :
    (afterFence s h).crew g = (s.onEx h fun e => { e with mode := mPaired }).crew g := by
  have hne : mTallied ≠ mReading := by decide
  have hrun : s.running h = true := by rw [State.running, hm]; rfl
  simp [afterFence, hl, runMode_tallied hm, hne, setRunMode_running hrun, crew_setMode]

/-- One lane of three fenced: it is out with its mark, and the half is PAIRED. -/
theorem fenceAct_one {s : State} {h : HalfId} {l : Lane} (hm : s.mode h = mTallied) (hl : (s.half h).tal.inService = lanes)
    (hc : (s.half h).win.closed.isEmpty = true) (hq : fenceList s h = [l]) (hf : ((s.trec h).lane l).fenced = false) :
    let t := fenceAct s h
    t.mode h = mPaired ∧ ((t.half h).tal.lane l).work = .out ∧ ((t.trec h).lane l).fenced = true := by
  obtain ⟨hex, hlane, hfen⟩ := fenceLane_spec hf
  have hact : fenceAct s h = afterFence ((fenceLane h s l).onTal h fun t => { t with fenceReq := 0 }) h := by
    simp [fenceAct, hq, hc]
  have hcrew : (fenceAct s h).crew h =
      (((fenceLane h s l).onTal h fun t => { t with fenceReq := 0 }).onEx h fun e => { e with mode := mPaired }).crew h := by
    rw [hact]
    refine crew_afterFence_two ?_ ?_ h
    · rw [mode_onTal, State.mode, hex]; exact hm
    · have hin : ({ ((fenceLane h s l).half h).tal with fenceReq := 0 } : Tally).inService =
          ((s.half h).tal.onLane l fun x => { x with work := .out }).inService :=
        inService_congr ((lane_congr rfl rfl rfl).trans hlane)
      rw [half_onTal]
      exact (congrArg List.length hin).trans (inService_left_length hl l (by decide))
  refine ⟨by rw [mode_of_crew hcrew]; simp [State.mode], ?_, ?_⟩
  · have hout : ({ ((fenceLane h s l).half h).tal with fenceReq := 0 } : Tally).lane l = { (s.half h).tal.lane l with work := .out } :=
      (congrFun ((lane_congr rfl rfl rfl).trans hlane) l).trans (lane_onLane_same ..)
    rw [tal_of_crew hcrew, half_onEx, half_onTal]
    exact congrArg LaneState.work hout
  · have hrec : (((fenceLane h s l).onTal h fun t => { t with fenceReq := 0 }).onEx h fun e => { e with mode := mPaired }).trec h =
        (fenceLane h s l).trec h := by cases h <;> rfl
    rw [trec_of_crew hcrew, hrec]
    exact hfen

/-- A request for one lane of three at an agreed close acts at once. -/
theorem fenceRequest_now {s : State} {h : HalfId} {l : Lane} (hn : noWindow s h = true) (ha : agreedClose s h = true)
    (hm : s.mode h = mTallied) (hl : (s.half h).tal.inService = lanes) (hq : (s.half h).tal.fenceReq = 0) (hz : fenceMarks s h = 0) :
    let t := fenceRequest s h (laneBits fun m => m == l)
    t.mode h = mPaired ∧ ((t.half h).tal.lane l).work = .out ∧ ((t.trec h).lane l).fenced = true := by
  have hrec := trec_onTal s h h fun t => { t with fenceReq := t.fenceReq ||| laneBits fun m => m == l }
  simp only [fenceRequest]
  generalize hs : (s.onTal h fun t => { t with fenceReq := t.fenceReq ||| laneBits fun m => m == l }) = u at hrec
  have hreq : (u.half h).tal.fenceReq = laneBits fun m => m == l := by simp [← hs, hq]
  have hin : (u.half h).tal.inService = lanes := by
    rw [← hl, ← hs, half_onTal]
    exact inService_congr (lane_congr rfl rfl rfl)
  have hwin : (u.half h).win = (s.half h).win := by rw [← hs, half_onTal]
  have hex : u.ex h = s.ex h := by rw [← hs, ex_onTal]
  have hmarks : fenceMarks u h = 0 := by rw [fenceMarks, hrec]; exact hz
  have hgo : (noWindow u h && agreedClose u h) = true := by
    simp only [noWindow, agreedClose, hex, hwin] at hn ha ⊢
    rw [hn, ha]; rfl
  have hclosed : (u.half h).win.closed.isEmpty = true := by rw [hwin]; simp_all [agreedClose]
  have hblank : (u.half h).win.blank = true := by rw [hwin]; simp_all [agreedClose, Windows.blank]
  have hone := fenceAct_one (by rw [State.mode, hex]; exact hm) hin hclosed (fenceList_one hreq hmarks) (fenceMarks_zero hmarks l)
  have hnr : (fenceAct u h).runMode h ≠ mReading := by
    rw [runMode_running (by rw [State.running, hone.1]; rfl), hone.1]; decide
  rw [if_pos hgo, fenceWork, if_pos hblank, if_neg fun c => hnr c.1]
  exact hone

/-! ## The lock of the PLL (R277, R481) -/

theorem thirdAudit_spec {s : State} {h : HalfId} {l : Lane} (hm : s.mode h = mEarly) (hp : s.bnd.pllLocked = true)
    (ha : auditFree (s.half h).tal = true) (hl : (lanes.filter fun m => ((s.half h).tal.lane m).work == .out) = [l]) :
    thirdAudit s h = s.onTal h fun t => t.auditBegins l .bringup := by
  rw [thirdAudit, if_pos ⟨hm, hp, ha⟩, hl]

theorem thirdAudit_other (s : State) (h : HalfId) : (thirdAudit s h).half h.other = s.half h.other ∧ (thirdAudit s h).bnd = s.bnd := by
  simp only [thirdAudit]
  split
  · split <;> simp
  · simp

/-- The audit of the third lane begins with the lock. -/
theorem pllLock_audits {s : State} {h : HalfId} {l : Lane} (hm : s.mode h = mEarly) (ha : auditFree (s.half h).tal = true)
    (hl : (lanes.filter fun m => ((s.half h).tal.lane m).work == .out) = [l]) :
    let t := thirdAudit (thirdAudit { s with bnd := { s.bnd with pllLocked := true } } .h0) .h1
    t.bnd.pllLocked = true ∧ (t.half h).tal = (s.half h).tal.auditBegins l .bringup := by
  generalize hs : ({ s with bnd := { s.bnd with pllLocked := true } } : State) = u
  have hp : u.bnd.pllLocked = true := by rw [← hs]
  have hhalf : u.half h = s.half h := by rw [← hs]; cases h <;> rfl
  have hbegin : ∀ v : State, v.half h = s.half h → v.bnd.pllLocked = true →
      ((thirdAudit v h).half h).tal = (s.half h).tal.auditBegins l .bringup := fun v hv hb => by
    rw [thirdAudit_spec (l := l) (by rw [State.mode, ex_eq, hv]; exact hm) hb (by rw [hv]; exact ha) (by rw [hv]; exact hl),
      half_onTal, hv]
  refine ⟨by rw [(thirdAudit_other _ .h1).2, (thirdAudit_other _ .h0).2, hp], ?_⟩
  cases h
  · rw [show HalfId.h0 = HalfId.h1.other from rfl, (thirdAudit_other _ .h1).1]
    exact hbegin u hhalf hp
  · refine hbegin _ ?_ (by rw [(thirdAudit_other _ .h0).2, hp])
    rw [show HalfId.h1 = HalfId.h0.other from rfl, (thirdAudit_other _ .h0).1]
    exact hhalf

theorem work_auditBegins (t : Tally) (l : Lane) : ((t.auditBegins l .bringup).lane l).work = .audit := by
  cases l <;> rfl

theorem pllLock_runs {s : State} {h : HalfId} (hp : s.bnd.pllLocked = false) (hi : s.isolated = false)
    (hr : s.heldInReset h = false) : exec .pllLock s =
      .next (thirdAudit (thirdAudit { s with bnd := { s.bnd with pllLocked := true } } .h0) .h1) := by
  have hheld : (s.heldInReset .h0 && s.heldInReset .h1) = false := by cases h <;> simp [hr]
  show Host.Outcome.next (if s.bnd.pllLocked || s.isolated || (s.heldInReset .h0 && s.heldInReset .h1) then s else _) = _
  rw [hp, hi, hheld]
  rfl

/-! ## Requests noted (R271, R283, R284) -/

theorem onTal_onTal (s : State) (h : HalfId) (f g : Tally → Tally) : (s.onTal h f).onTal h g = s.onTal h fun t => g (f t) := by
  cases h <;> rfl

theorem injectRequest_eq (s : State) (h : HalfId) : injectRequest s h =
    s.onTal h fun t => { t with injGo := true, injState := if noWindow s h then 1 else t.injState } := by
  have hn : noWindow (s.onTal h fun t => { t with injGo := true }) h = noWindow s h := by simp [noWindow]
  rw [injectRequest, hn]
  split <;> simp [injectStart, onTal_onTal]

theorem auditRequest_eq {s : State} {h : HalfId}
    (ha : (s.half h).tal.audits.contains (laneOf (s.half h).tal.auditNext, .request) = false) : auditRequest s h =
      s.onTal h fun t => { t with auditNow := true, audits := t.audits ++ [(laneOf t.auditNext, .request)] } := by
  simp only [auditRequest, auditDue, onTal_onTal]
  cases h <;> simp_all [State.onTal, State.onHalf, State.setHalf, State.half]

theorem fenceRequest_later {s : State} {h : HalfId} (hn : noWindow s h = false) (m : BitVec 3) :
    fenceRequest s h m = s.onTal h fun t => { t with fenceReq := t.fenceReq ||| m } := by
  have hn' : noWindow (s.onTal h fun t => { t with fenceReq := t.fenceReq ||| m }) h = false := by simpa [noWindow] using hn
  rw [fenceRequest, hn']
  rfl

/-! ## The obligation -/

/-- Settles O38: each command is its unit's function (`injection_bringUp`, `injection_fails`, `readingRoom_spec`,
`pathRestored_compare`, `fenceRequest_now`, `pllLock_audits`); reports and sources leave lanes and modes (`State.crew`). -/
theorem injectionFencesAndReadingRoom : Obligations.InjectionFencesAndReadingRoom := by
  unfold Obligations.InjectionFencesAndReadingRoom
  intro s h w t0 room
  refine ⟨?_, ?_, ?_, ?_, ?_, ?_⟩
  · intro cases hm hd hs hc
    obtain ⟨hup, htal⟩ := injection_bringUp hd hs hc
    exact ⟨_, rfl, hup, by rw [htal]; rfl, by rw [htal]; rfl, by rw [htal]; rfl⟩
  · intro cases hr hm hg hi hc
    obtain ⟨hmode, htal⟩ := injection_fails hr hm hg hi hc
    exact ⟨_, rfl, ⟨hmode, by rw [htal]; exact inService_serve_one ..⟩, by rw [htal]; rfl, by rw [htal]; rfl, by rw [htal]; rfl,
      by rw [htal]; rfl⟩
  · intro hr hm loss
    obtain ⟨hmode, hlead, hcmp, hport⟩ := readingRoom_spec hr hm loss
    exact ⟨_, rfl, ⟨hmode, hlead⟩, hcmp, hport⟩
  · intro hm hc hp hf
    exact ⟨_, rfl, pathRestored_compare hm hc hp hf (by simp)⟩
  · intro hw
    have hgo : ∀ u : State, Host.Outcome.next (regCommand s w h true fun _ => u) = (.next u : Host.Outcome State Fault Refusal) :=
      fun u => (regCommand_of_mayWrite hw fun _ => u).elim fun _ e => congrArg _ e.2
    refine ⟨(hgo _).trans (congrArg _ (injectRequest_eq s h)), fun ha => (hgo _).trans (congrArg _ (auditRequest_eq ha)),
      fun m hn => (hgo _).trans (congrArg _ (fenceRequest_later hn m)), ?_⟩
    · intro l hn ha hm hl hq hz
      exact ⟨_, hgo _, fenceRequest_now hn ha hm hl hq hz⟩
  · intro l hp hi hr hm ha hl
    obtain ⟨hbnd, htal⟩ := pllLock_audits hm ha hl
    exact ⟨_, pllLock_runs hp hi hr, hbnd, by rw [htal]; exact work_auditBegins .., by rw [htal]; cases l <;> rfl⟩

end Sys2Proof.Machine

/-! # Bring-up (R38, R279, R314, R481, R490-R496; O46) -/

namespace Sys2Proof.Machine

/-! ## The span after a reset (R289) -/

/-- What a cut of the span leaves of a half: all but its pending reads and revocations. -/
structure Seat where
  mode : BitVec 3
  running : Option (BitVec 5)
  banks : Sparse Bank
  tal : Tally
  up : BringUp

def Own.seat (o : Own) : Seat := ⟨o.ex.mode, o.ex.running, o.ex.banks, o.tal, o.up⟩

theorem seat_spanCut (s : State) (h g : HalfId) : ((spanCut s h).crew g).own.seat = (s.crew g).own.seat := by
  cases h <;> cases g <;> rfl

theorem seat_spanRefreshHalf (s : State) (h g : HalfId) : ((spanRefreshHalf s h).crew g).own.seat = (s.crew g).own.seat := by
  simp only [spanRefreshHalf, spanTo]
  split
  · rfl
  · split
    · rfl
    · split <;> simp [seat_spanCut]

theorem seat_spanRefresh (s : State) (g : HalfId) : ((spanRefresh s).crew g).own.seat = (s.crew g).own.seat :=
  (seat_spanRefreshHalf ..).trans (seat_spanRefreshHalf ..)

theorem rest_spanCut (s : State) (h g : HalfId) : ((spanCut s h).crew g).rest = (s.crew g).rest := by
  cases h <;> cases g <;> rfl

theorem rest_spanRefreshHalf (s : State) (h g : HalfId) : ((spanRefreshHalf s h).crew g).rest = (s.crew g).rest := by
  simp only [spanRefreshHalf, spanTo]
  split
  · rfl
  · split
    · rfl
    · split <;> simp [rest_spanCut]

theorem rest_spanRefresh (s : State) (g : HalfId) : ((spanRefresh s).crew g).rest = (s.crew g).rest :=
  (rest_spanRefreshHalf ..).trans (rest_spanRefreshHalf ..)

section
variable {s t : State} {h : HalfId} (e : (t.crew h).own.seat = (s.crew h).own.seat)
include e

theorem mode_of_seat : t.mode h = s.mode h := congrArg Seat.mode e
theorem running_of_seat : (t.ex h).running = (s.ex h).running := congrArg Seat.running e
theorem tal_of_seat : (t.half h).tal = (s.half h).tal := congrArg Seat.tal e
theorem up_of_seat : (t.half h).up = (s.half h).up := congrArg Seat.up e
theorem bank_of_seat (k : BitVec 5) : t.bank h k = s.bank h k := congrArg (fun x : Seat => sget Bank.reset x.banks k.toNat) e

end

/-! ## RESET_RELEASE (R279, R481, R490) -/

theorem unisolate_not {s : State} (hi : s.isolated = false) : unisolate s = s := by
  have : (s.host.isoAck && s.keep.vcoreOk && s.keep.vfieldOn && !s.dbg.emulated &&
      (s.keep.causes != 0 || (s.cht.kind == .cold && !s.host.isoReq))) = false := by
    simp [State.isolated] at hi
    simp_all
  simp only [unisolate, this]
  rfl

theorem unfenced_all {s : State} {h : HalfId} (hf : ∀ l, ((s.trec h).lane l).fenced = false) : unfenced s h = lanes := by
  simp [unfenced, hf]

theorem bank_onEx {s : State} {h : HalfId} {f : Exec → Exec} (hf : ∀ e, (f e).banks = e.banks) (g : HalfId) (k : BitVec 5) :
    (s.onEx h f).bank g k = s.bank g k := by
  cases h <;> cases g <;> simp [State.bank, Half.bank, State.onEx, State.onHalf, State.setHalf, State.half, hf]

/-- A half whose two boot lanes run the boot ROM from `a` (R279, R490). -/
structure Booted (s : State) (h : HalfId) (a : Addr) : Prop where
  released : (s.half h).up.released = true
  inService : (s.half h).tal.inService = [.a, .b]
  running : (s.ex h).running = some 0
  status : (s.bank h 0).status = setBit 0 35 true
  valid : (s.bank h 0).valid = true
  resume : (s.bank h 0).resume = ⟨a, 0⟩

theorem Booted.of_seat {s t : State} {h : HalfId} {a : Addr} (e : (t.crew h).own.seat = (s.crew h).own.seat) (b : Booted s h a) :
    Booted t h a :=
  ⟨by rw [up_of_seat e, b.released], by rw [tal_of_seat e, b.inService], by rw [running_of_seat e, b.running],
    by rw [bank_of_seat e, b.status], by rw [bank_of_seat e, b.valid], by rw [bank_of_seat e, b.resume]⟩

theorem startBoot_booted {s : State} {h : HalfId} (hr : (s.half h).up.released = true) (hl : (s.half h).tal.inService = [.a, .b])
    (a : Addr) : Booted (startBoot s h a) h a := by
  have hb : (startBoot s h a).bank h 0 =
      { Bank.reset with pcc := bootPcc s h, status := setBit 0 35 true, valid := true, resume := ⟨a, 0⟩ } :=
    (bank_onEx (by intro e; rfl) ..).trans (bank_setBank ..)
  exact ⟨by simp [startBoot, hr], by simp [startBoot, hl], by simp [startBoot], by rw [hb], by rw [hb], by rw [hb]⟩

/-- A half neither released nor stuck, with no lane fenced, is started in the boot ROM. -/
theorem releaseHalf_booted {s : State} {h : HalfId} (hr : (s.half h).up.released = false) (hk : (s.half h).up.stuck = false)
    (hf : ∀ l, ((s.trec h).lane l).fenced = false) : Booted (releaseHalf s h) h (bootEntry (s.half h).up) := by
  generalize hu : (s.onUp h fun u => { u with released := true }) = u
  have hf' : ∀ l, ((u.trec h).lane l).fenced = false := by rw [← hu]; cases h <;> exact hf
  have hup : (u.half h).up = { (s.half h).up with released := true } := by simp [← hu]
  have hrel : releaseHalf s h = startBoot (u.onTal h fun t => t.serve [.a, .b]) h (bootEntry (u.half h).up) := by
    have hb : bringupAudits u h = u := by simp [bringupAudits, hf']
    simp only [releaseHalf, hr, hk, hu, hb, startLanes, unfenced_all hf']
    rfl
  have hboot := startBoot_booted (s := u.onTal h fun t => t.serve [.a, .b]) (h := h) (by rw [half_onTal, hup])
    (by rw [half_onTal, inService_serve]; rfl) (bootEntry (u.half h).up)
  rw [← hrel, hup] at hboot
  exact hboot

theorem releaseHalf_keep (s : State) (h : HalfId) : (releaseHalf s h).keep = s.keep := by
  have hb : ∀ u : State, (bringupAudits u h).keep = u.keep := fun u => by
    simp only [bringupAudits]
    split <;> split <;> simp
  have hr : ∀ u : State, (stuckHalf u h).keep = u.keep := fun u => by
    rw [stuckHalf, onUp_keep]
    exact keep_of_crew (crew_reportHalf (g := h) ..)
  simp only [releaseHalf, startLanes]
  split
  · rfl
  · split
    · simp [startBoot, hb]
    · split <;> simp [hr, hb]

theorem resetWaiting_not {s : State} {h : HalfId} (hq : (s.half h).up.resetReq = false) : resetWaiting s h = s := by
  simp [resetWaiting, hq]

theorem relockEnd_not {s : State} (hl : s.dbg.lock ≠ .relock) : relockEnd s = s := by
  rw [relockEnd, if_neg fun c => hl c.1]

/-- Where no reset waits, RESET_RELEASE releases both halves. -/
theorem resetRelease_eq {s : State} (hi : s.isolated = false) (hl : s.dbg.lock ≠ .relock)
    (hq : ∀ g, (s.half g).up.resetReq = false) : resetRelease s = spanRefresh (releaseHalf (releaseHalf s .h0) .h1) := by
  simp [resetRelease, unisolate_not hi, hi, resetWaiting_not (hq _), relockEnd_not hl]

/-- What the other half's release leaves of a half. -/
theorem releaseHalf_other (s : State) (h : HalfId) : ((releaseHalf s h).half h.other).up = (s.half h.other).up ∧
    ((releaseHalf s h).crew h.other).own = (s.crew h.other).own ∧ (releaseHalf s h).trec h.other = s.trec h.other := by
  refine ⟨congrArg Own.up (other_releaseHalf s h), other_releaseHalf s h, ?_⟩
  cases h <;> simp [State.trec, HalfId.other, releaseHalf_keep]

/-- A release of both halves boots each that was neither released nor stuck. -/
theorem resetRelease_booted {s : State} {h : HalfId} (hr : (s.half h).up.released = false) (hk : (s.half h).up.stuck = false)
    (hf : ∀ l, ((s.trec h).lane l).fenced = false) :
    Booted (spanRefresh (releaseHalf (releaseHalf s .h0) .h1)) h (bootEntry (s.half h).up) := by
  refine Booted.of_seat (seat_spanRefresh ..) ?_
  cases h
  · exact Booted.of_seat (congrArg Own.seat (releaseHalf_other _ .h1).2.1) (releaseHalf_booted hr hk hf)
  · obtain ⟨hup, -, hrec⟩ := releaseHalf_other s .h0
    have hboot := releaseHalf_booted (s := releaseHalf s .h0) (h := .h1) ((congrArg BringUp.released hup).trans hr)
      ((congrArg BringUp.stuck hup).trans hk) fun l => (congrArg (fun r => (TallyRec.lane r l).fenced) hrec).trans (hf l)
    rwa [show ((releaseHalf s .h0).half .h1).up = (s.half .h1).up from hup] at hboot

/-! ## CHARTER_VERIFIED (R490-R494) -/

/-- The halves of a list marked as verified. -/
def markVerified (l : List HalfId) (s : State) : State := l.foldl (fun s h => s.onUp h fun u => { u with verified := true }) s

theorem markVerified_cht (l : List HalfId) : ∀ s, (markVerified l s).cht = s.cht := by
  induction l with
  | nil => exact fun _ => rfl
  | cons g l ih => exact fun s => (ih _).trans (onUp_cht ..)

theorem markVerified_dbg (l : List HalfId) : ∀ s, (markVerified l s).dbg = s.dbg := by
  induction l with
  | nil => exact fun _ => rfl
  | cons g l ih => exact fun s => (ih _).trans (onUp_dbg ..)

theorem markVerified_keeps {h : HalfId} (l : List HalfId) : ∀ s, (s.half h).up.verified = true →
    ((markVerified l s).half h).up.verified = true := by
  induction l with
  | nil => exact fun _ => id
  | cons g l ih =>
    intro s hv
    refine ih _ ?_
    cases g <;> cases h <;> first | rfl | exact hv

theorem markVerified_mem {h : HalfId} (l : List HalfId) : ∀ s, h ∈ l → ((markVerified l s).half h).up.verified = true := by
  induction l with
  | nil => exact fun _ hm => absurd hm (by simp)
  | cons g l ih =>
    intro s hm
    by_cases hg : h = g
    · subst hg
      exact markVerified_keeps l _ (by simp)
    · exact ih _ ((List.mem_cons.1 hm).resolve_left hg)

theorem charterVerified_decides {s : State} {c : CharterInput} (hi : s.cht.installed = false) (hf : s.cht.fault = false)
    (hz : s.cht.slot = 0) (hs : s.cht.seen = none) (hv : verifiers s ≠ []) :
    charterVerified s c = charterDecide { s with cht := { s.cht with seen := some c } } := by
  simp [charterVerified, hi, hf, hz, hs, hv]

theorem charterDecide_accepts {s : State} {c : CharterInput} {second : Bool} (hs : s.cht.seen = some c) (hv : verifiers s ≠ [])
    (hr : (choiceOf s (verifiers s) c).slot = some second) :
    charterDecide s = acceptSlot (recordChoice s c (choiceOf s (verifiers s) c)) (verifiers s) c second := by
  simp [charterDecide, hs, hv, hr]

theorem charterDecide_faults {s : State} {c : CharterInput} (hs : s.cht.seen = some c) (hv : verifiers s ≠ [])
    (hr : (choiceOf s (verifiers s) c).slot = none) (hm : mayAccept s (verifiers s) c = false) :
    charterDecide s = charterFault (recordChoice s c (choiceOf s (verifiers s) c)) := by
  have hm' : mayAccept (recordChoice s c (choiceOf s (verifiers s) c)) (verifiers s) c = false := hm
  simp [charterDecide, hs, hv, hr, hm']

theorem acceptSlot_eq {s : State} (hl : s.dbg.lock ≠ .armed) (p : List HalfId) (c : CharterInput) (second : Bool) :
    acceptSlot s p c second = markVerified p { s with cht := { s.cht with
      buf := cellTable 0 ((slotOf c second).cells.take (slotImage (slotOf c second)).length), slot := if second then 2 else 1
      quad := (slotImage (slotOf c second)).quad, fault := false, ver := (slotImage (slotOf c second)).version } } := by
  simp only [acceptSlot]
  rw [unlockCheck, if_pos (by rw [show List.foldl _ _ p = markVerified p _ from rfl, markVerified_dbg]; exact hl)]
  rfl

theorem raiseSource_mbx (s : State) (n : Nat) : (raiseSource s n).mbx = s.mbx := by
  have hb := congrArg State.mbx (raiseSource_block s n)
  exact hb

theorem reportCommons_mbx (s : State) (u : DbkUnit) (cls : BitVec 5) (c2 c3 : Cell) : (reportCommons s u cls c2 c3).mbx = s.mbx := by
  simp only [reportCommons, dbkTake, dbkKick, storeAdd, storePump, dbkLose, commonsOverflow]
  repeat' split
  all_goals simp [raiseSource_mbx]

/-- A half held is not released and runs nothing; the other half is as it was (R493). -/
theorem bootHold_spec (s : State) (h : HalfId) : (bootHold s h).half h.other = s.half h.other ∧
    ((bootHold s h).half h).up.released = false ∧ ((bootHold s h).half h).ex.running = none := by
  simp [bootHold]

/-- A charter fault holds both halves (R493). -/
theorem charterFault_spec (s : State) : (charterFault s).cht.fault = true ∧ (charterFault s).cht.slot = 0 ∧
    (charterFault s).mbx.hostReset = true ∧
    ∀ g, ((charterFault s).half g).up.released = false ∧ ((charterFault s).half g).ex.running = none := by
  have hold : ∀ u : State, (bootHold (bootHold u .h0) .h1).cht = u.cht ∧ (bootHold (bootHold u .h0) .h1).mbx = u.mbx ∧
      ∀ g, ((bootHold (bootHold u .h0) .h1).half g).up.released = false ∧ ((bootHold (bootHold u .h0) .h1).half g).ex.running = none := by
    intro u
    refine ⟨by simp [bootHold], by simp [bootHold], ?_⟩
    rintro (_ | _)
    · rw [show ((bootHold (bootHold u .h0) .h1).half .h0) = (bootHold u .h0).half .h0 from (bootHold_spec _ .h1).1]
      exact (bootHold_spec u .h0).2
    · exact (bootHold_spec _ .h1).2
  simp only [charterFault]
  obtain ⟨hc, hm, hh⟩ := hold (reportCommons { s with cht := { s.cht with fault := true, slot := 0 }, mbx := { s.mbx with hostReset := true } }
    .cht 2 (atBits s.cht.rej0 32 ||| atBits s.cht.rej1 28) 0)
  rw [hc, hm, cht_of_crew (crew_reportCommons (g := .h0) ..), reportCommons_mbx]
  exact ⟨rfl, rfl, rfl, hh⟩

/-! ## CHARTER_INSTALL (R495) -/

/-- `t` leaves what is half `g`'s own, the tally records, and of what one half's bring-up leaves of the block all but the keep
domain. -/
structure Calm (s t : State) (g : HalfId) : Prop where
  own : (t.crew g).own = (s.crew g).own
  trec : ∀ h, t.trec h = s.trec h
  rest : ∃ k, (t.crew g).rest = { (s.crew g).rest with keep := k }

theorem Calm.trans {s t u : State} {g : HalfId} (a : Calm s t g) (b : Calm t u g) : Calm s u g := by
  obtain ⟨k, hk⟩ := a.rest
  obtain ⟨l, hl⟩ := b.rest
  exact ⟨b.own.trans a.own, fun h => (b.trec h).trans (a.trec h), l, by rw [hl, hk]⟩

theorem Calm.of_crew {s t : State} {g : HalfId} (e : t.crew g = s.crew g) : Calm s t g :=
  ⟨congrArg Crew.own e, trec_of_crew e, s.keep, congrArg Crew.rest e⟩

theorem calm_keep (s : State) (g : HalfId) {k : Keep} (h0 : k.rec0 = s.keep.rec0) (h1 : k.rec1 = s.keep.rec1) :
    Calm s { s with keep := k } g := by
  refine ⟨by cases g <;> rfl, ?_, k, by cases g <;> rfl⟩
  rintro (_ | _)
  · exact h0
  · exact h1

theorem calm_wakeDeliver (s : State) (g : HalfId) : Calm s (wakeDeliver s) g := by
  have hl := crew_foldl (f := raiseSource) (g := g) fun _ _ => crew_raiseSource ..
  simp only [wakeDeliver]
  split
  · exact .of_crew rfl
  · exact (Calm.of_crew ((crew_raiseSource ..).trans (hl ..))).trans (calm_keep _ g rfl rfl)

theorem calm_keepReports (s : State) (g : HalfId) : Calm s (keepReports s) g := by
  have herase : Calm s (if s.keep.erase then reportCommons { s with keep := { s.keep with erase := false } } .kep 21
      (trecCells s.keep.trec).c0 (trecCells s.keep.trec).c1 else s) g := by
    split
    · exact (calm_keep s g (k := { s.keep with erase := false }) rfl rfl).trans (.of_crew (crew_reportCommons ..))
    · exact .of_crew rfl
  have hl := crew_foldl (f := fun s (e : BitVec 3 × BitVec 2 × BitVec 48) => tampReport s e.1 e.2.1 e.2.2) (g := g)
    fun _ _ => crew_tampReport ..
  simp only [keepReports]
  generalize (if s.keep.erase then reportCommons { s with keep := { s.keep with erase := false } } .kep 21
      (trecCells s.keep.trec).c0 (trecCells s.keep.trec).c1 else s) = u at herase
  refine herase.trans ((Calm.of_crew (hl u.keep.held u)).trans ?_)
  generalize List.foldl _ u u.keep.held = v
  refine (calm_keep v g (k := { v.keep with held := [] }) rfl rfl).trans ?_
  split
  · exact .of_crew rfl
  · exact .of_crew ((crew_reportCommons ..).trans (by cases g <;> rfl))

theorem crew_mbxGrantWrite_fold (s : State) (g : HalfId) (c : Nat → Cell) (l : List Nat) :
    (l.foldl (fun s k => mbxGrantWrite s k (fld (c (10 + k)) 0 32)) s).crew g = s.crew g :=
  crew_foldl (fun _ _ => by simp [mbxGrantWrite]) l s

theorem calm_installBlock (s : State) (g : HalfId) : Calm s (installBlock s) g := by
  simp only [installBlock]
  split
  · refine Calm.trans ?_ (.of_crew ((crew_crdInstall ..).trans (crew_mbxGrantWrite_fold _ g (chtCell s 1) _)))
    exact ⟨by cases g <;> rfl, by rintro (_ | _) <;> rfl, s.keep, by cases g <;> rfl⟩
  · exact .of_crew rfl

/-- The installation of the global units leaves what is the halves' own, and readies the host port and the roots (R488, R495, R526). -/
theorem installGlobal_spec (s : State) (g : HalfId) : ((installGlobal s).crew g).own = (s.crew g).own ∧
    (∀ h, (installGlobal s).trec h = s.trec h) ∧
    ∃ k, ((installGlobal s).crew g).rest = { (s.crew g).rest with keep := k, installed := true, ready := true, roots := true } := by
  have hunits : Calm s (installFleet (installBlock (installMail (installEvents s)))) g :=
    (Calm.of_crew ((crew_installMail ..).trans (crew_installEvents ..))).trans ((calm_installBlock ..).trans (.of_crew (crew_installFleet ..)))
  simp only [installGlobal]
  generalize installFleet (installBlock (installMail (installEvents s))) = u at hunits
  have hend : ∀ v : State, Calm v (keepReports (wakeDeliver v)) g := fun v => (calm_wakeDeliver v g).trans (calm_keepReports _ g)
  obtain ⟨ho, ht, k, hr⟩ := hend { u with
    vlt := { u.vlt with roots := true }
    cht := { u.cht with installed := true, seen := none }
    host := { u.host with ready := true } }
  obtain ⟨l, hu⟩ := hunits.rest
  refine ⟨ho.trans ?_, fun h => (ht h).trans ?_, k, hr.trans ?_⟩
  · rw [← hunits.own]; cases g <;> rfl
  · rw [← hunits.trec h]; cases h <;> rfl
  · have hv : Crew.rest (State.crew { u with
        vlt := { u.vlt with roots := true }
        cht := { u.cht with installed := true, seen := none }
        host := { u.host with ready := true } } g) = { (u.crew g).rest with installed := true, ready := true, roots := true } := by
      cases g <;> rfl
    rw [hv, hu]

/-! ## One half -/

theorem unfenced_congr {s t : State} {h : HalfId} (e : t.trec h = s.trec h) : unfenced t h = unfenced s h := by
  simp only [unfenced, e]

theorem installDue_congr {s t : State} {h : HalfId} (ho : (t.crew h).own = (s.crew h).own) (hs : t.cht.slot = s.cht.slot)
    (hg : t.rng = s.rng) : installDue t h = installDue s h := by
  have hm : t.mode h = s.mode h := congrArg (fun o : Own => o.ex.mode) ho
  have hu : (t.half h).up = (s.half h).up := congrArg Own.up ho
  have ht : (t.half h).tal = (s.half h).tal := congrArg Own.tal ho
  simp only [installDue, hm, hu, ht, hs, hg]

theorem inService_auditBegins {t : Tally} {l : Lane} (hl : (t.lane l).work = .out) :
    (t.auditBegins l .bringup).inService = t.inService := by
  refine List.filter_congr fun m _ => ?_
  have hb : (t.auditBegins l .bringup).lane m = (t.onLane l fun x => { x with work := .audit }).lane m := by cases m <;> rfl
  rw [hb]
  by_cases hm : m = l
  · subst hm; rw [lane_onLane_same, hl]; rfl
  · rw [lane_onLane_ne t _ hm]

/-- The third lane's audit takes no lane out of service. -/
theorem thirdAudit_seat (s : State) (h : HalfId) : (thirdAudit s h).ex h = s.ex h ∧ (thirdAudit s h).ram = s.ram ∧
    (thirdAudit s h).dbgHalf h = s.dbgHalf h ∧ ((thirdAudit s h).half h).tal.inService = (s.half h).tal.inService := by
  simp only [thirdAudit]
  split
  · split
    · next l hl =>
      have hout : ((s.half h).tal.lane l).work = .out := by
        have hm : l ∈ lanes.filter fun l => ((s.half h).tal.lane l).work == .out := by rw [hl]; simp
        simpa using (List.mem_filter.1 hm).2
      exact ⟨by simp, by simp, by cases h <;> rfl, by simp [inService_auditBegins hout]⟩
    · exact ⟨rfl, rfl, rfl, rfl⟩
  · exact ⟨rfl, rfl, rfl, rfl⟩

theorem take_unfenced (s : State) (h : HalfId) :
    (lanes.filter fun m => ((unfenced s h).take 2).contains m) = (unfenced s h).take 2 := by
  have hall : ∀ p : Lane → Bool, (lanes.filter fun m => ((lanes.filter p).take 2).contains m) = (lanes.filter p).take 2 := by
    intro p
    cases ha : p .a <;> cases hb : p .b <;> cases hc : p .c <;> simp [lanes, List.filter, ha, hb, hc]
  exact hall _

/-- What the tables of the charter leave of a half: its execution state, its bring-up and its halt request (R374, R380). -/
theorem installTables_spec (s : State) (h : HalfId) :
    let u := installHomes (installTable (installEnergy (installTally s h) h) h) h
    u.ex h = s.ex h ∧ (u.half h).up = (s.half h).up ∧ (u.dbgHalf h).halt = (s.dbgHalf h).halt ∧ u.keep = s.keep := by
  intro u
  have hcrew : u.crew h = (installEnergy (installTally s h) h).crew h := (crew_installHomes ..).trans (crew_installTable ..)
  rw [ex_of_crew hcrew, up_of_crew hcrew, halt_of_crew hcrew, keep_of_crew hcrew]
  simp only [installEnergy, installTally]
  split <;> split <;> cases h <;> exact ⟨rfl, rfl, rfl, rfl⟩

/-- The half at the moment its firmware is checked: EARLY on its first two lanes, its SRAM zero (R314, R495). -/
def atCheck (s : State) (h : HalfId) (pass : Bool) : State :=
  let s := s.onTal h fun t => t.serve ((unfenced s h).take 2)
  let s := reportHalf s h .firmware 1 none none (atBits (resetCode s h) 0 ||| atBits s.evc.wake.cause 4) (fld s.keep.rtc 0 36)
  let s := setMode (s.onEx h fun e => { e with onPll := false }) h mEarly
  wardenChecked (firstMark (scrub s h) h) pass

theorem enterEarly_eq (s : State) (h : HalfId) (pass : Bool) : enterEarly s h pass =
    if pass then tryHalt (thirdAudit (atCheck s h pass) h) h else imageFails (atCheck s h pass) h := rfl

/-! ### The memory (R314) -/

theorem sget_filter {α : Type} {d : α} {p : Nat → Bool} (t : Sparse α) (a : Nat) :
    sget d (t.filter fun e => p e.1) a = if p a then sget d t a else d := by
  induction t with
  | nil => simp [sget]
  | cons e t ih =>
    obtain ⟨k, v⟩ := e
    by_cases hk : p k = true <;> by_cases ha : a = k <;> simp_all [sget]

theorem ram_setMode (s : State) (h : HalfId) (m : BitVec 3) : (setMode s h m).ram = s.ram := by
  have hu : (s.onEx h fun e => { e with mode := m }).ram = s.ram := by simp
  have hr : ∀ u : State, (raiseHalf u h 230).ram = u.ram := fun u => congrArg Core.ram (core_raiseHalf ..)
  have hp : ∀ u x y, (reportHalf u h .tly 8 none none x y).ram = u.ram := fun u x y => congrArg Core.ram (core_reportHalf ..)
  have hc : ∀ u : State, (rollbackCount u h).ram = u.ram := fun u => congrArg Core.ram (core_rollbackCount ..)
  simp only [setMode]
  split
  · rfl
  · split <;> split <;> simp only [hc, hp, hr, hu]

/-! ### The half at its check, and after it (R495) -/

/-- The half is EARLY on the first two of the lanes that `s` does not hold fenced, with its banks. -/
structure Early (s t : State) (h : HalfId) : Prop where
  mode : t.mode h = mEarly
  lanes : (t.half h).tal.inService = (unfenced s h).take 2
  bank : ∀ j, t.bank h j = s.bank h j

/-- The half is held in reset. -/
structure Held (t : State) (h : HalfId) : Prop where
  mode : t.mode h = mOff
  released : (t.half h).up.released = false
  lanes : (t.half h).tal.inService = []
  running : (t.ex h).running = none

theorem Early.of_seat {s t u : State} {h : HalfId} (e : (u.crew h).own.seat = (t.crew h).own.seat) (b : Early s t h) : Early s u h :=
  ⟨(mode_of_seat e).trans b.mode, (congrArg Tally.inService (tal_of_seat e)).trans b.lanes, fun j => (bank_of_seat e j).trans (b.bank j)⟩

theorem Held.of_seat {t u : State} {h : HalfId} (e : (u.crew h).own.seat = (t.crew h).own.seat) (b : Held t h) : Held u h :=
  ⟨(mode_of_seat e).trans b.mode, (congrArg BringUp.released (up_of_seat e)).trans b.released,
    (congrArg Tally.inService (tal_of_seat e)).trans b.lanes, (running_of_seat e).trans b.running⟩

theorem bank_of_banks {s t : State} {h : HalfId} (e : (t.ex h).banks = (s.ex h).banks) (j : BitVec 5) : t.bank h j = s.bank h j :=
  congrArg (fun b => sget Bank.reset b j.toNat) e

theorem atCheck_spec (s : State) (h : HalfId) (pass : Bool) : Early s (atCheck s h pass) h ∧
    ((atCheck s h pass).dbgHalf h).halt = (s.dbgHalf h).halt ∧
    (atCheck s h pass).ram = s.ram.filter fun e => e.1 / 262144 != h.toNat := by
  simp only [atCheck]
  generalize hu : s.onTal h (fun t => t.serve ((unfenced s h).take 2)) = u
  generalize hv : reportHalf u h .firmware 1 none none _ _ = v
  have hcrew : v.crew h = u.crew h := by rw [← hv]; exact crew_reportHalf ..
  generalize hw : setMode (v.onEx h fun e => { e with onPll := false }) h mEarly = w
  have hmode : w.mode h = mEarly := by rw [← hw]; exact mode_setMode ..
  have hbanks : (w.ex h).banks = (s.ex h).banks := by
    rw [← hw, ex_of_crew (crew_setMode ..)]
    simp [ex_of_crew hcrew, ← hu]
  have htal : (w.half h).tal = (s.half h).tal.serve ((unfenced s h).take 2) := by
    rw [← hw, tal_setMode, half_onEx, show (v.half h).tal = _ from tal_of_crew hcrew, ← hu, half_onTal]
  have hhalt : (w.dbgHalf h).halt = (s.dbgHalf h).halt := by
    have hd : (v.dbgHalf h).halt = (u.dbgHalf h).halt := halt_of_crew hcrew
    rw [← hw, halt_of_crew (crew_setMode ..)]
    cases h <;> exact hd.trans (by rw [← hu]; rfl)
  have hram : w.ram = s.ram := by
    rw [← hw, ram_setMode, onEx_ram, ← hv, show (reportHalf u ..).ram = u.ram from congrArg Core.ram (core_reportHalf ..), ← hu,
      onTal_ram]
  have hend : ∀ x : State, x.ex h = w.ex h → (x.half h).tal = (w.half h).tal → Early s x h := fun x he ht =>
    ⟨(congrArg Exec.mode he).trans hmode, by rw [ht, htal, inService_serve]; exact take_unfenced s h,
      bank_of_banks ((congrArg Exec.banks he).trans hbanks)⟩
  refine ⟨hend _ ?_ ?_, Eq.trans ?_ hhalt, Eq.trans ?_ (congrArg _ hram)⟩ <;> cases h <;> rfl

theorem tryHalt_not {s : State} {h : HalfId} (hd : (s.dbgHalf h).halt = false) : tryHalt s h = s := by
  simp [tryHalt, hd]

theorem ram_tryHalt (s : State) (h : HalfId) : (tryHalt s h).ram = s.ram := by
  simp only [tryHalt]
  split
  · rw [ram_setMode, onEx_ram]; cases h <;> rfl
  · rfl

theorem ram_imageFails (s : State) (h : HalfId) : (imageFails s h).ram = s.ram := by
  simp only [imageFails, bootHold, onUp_ram, onEx_ram, onTal_ram, ram_setMode]
  exact congrArg Core.ram (core_reportHalf ..)

theorem ram_enterEarly (s : State) (h : HalfId) (pass : Bool) :
    (enterEarly s h pass).ram = s.ram.filter fun e => e.1 / 262144 != h.toNat := by
  rw [enterEarly_eq, ← (atCheck_spec s h pass).2.2]
  split
  · rw [ram_tryHalt, (thirdAudit_seat ..).2.1]
  · exact ram_imageFails ..

/-- Where the firmware passes and no halt is asked for, the half is EARLY. -/
theorem enterEarly_pass {s : State} {h : HalfId} (hd : (s.dbgHalf h).halt = false) : Early s (enterEarly s h true) h := by
  obtain ⟨hearly, hhalt, -⟩ := atCheck_spec s h true
  obtain ⟨hex, -, hdb, hin⟩ := thirdAudit_seat (atCheck s h true) h
  rw [enterEarly_eq, if_pos rfl, tryHalt_not (((congrArg DbgHalf.halt hdb).trans hhalt).trans hd)]
  exact ⟨(congrArg Exec.mode hex).trans hearly.mode, hin.trans hearly.lanes,
    fun j => (bank_of_banks (congrArg Exec.banks hex) j).trans (hearly.bank j)⟩

theorem imageFails_held (s : State) (h : HalfId) : Held (imageFails s h) h := by
  simp only [imageFails]
  generalize reportHalf s h .firmware 3 none none 0 _ = u
  have hm : (setMode u h mOff).mode h = mOff := mode_setMode ..
  generalize setMode u h mOff = v at hm
  refine ⟨?_, (bootHold_spec v h).2.1, ?_, (bootHold_spec v h).2.2⟩
  · simpa [bootHold, State.mode] using hm
  · simp only [bootHold, half_onUp, half_onEx, half_onTal, inService_serve]
    rfl

theorem installHalf_pass {s : State} {h : HalfId} (hd : (s.dbgHalf h).halt = false) : Early s (installHalf s h true) h := by
  obtain ⟨hex, -, hh, hk⟩ := installTables_spec s h
  simp only [installHalf]
  generalize installHomes (installTable (installEnergy (installTally s h) h) h) h = u at *
  have hrec : u.trec h = s.trec h := by cases h <;> simp [State.trec, hk]
  obtain ⟨hmode, hlanes, hbank⟩ := enterEarly_pass (hh.trans hd)
  exact ⟨hmode, hlanes.trans (congrArg (List.take 2) (unfenced_congr hrec)),
    fun j => (hbank j).trans (bank_of_banks (congrArg Exec.banks hex) j)⟩

theorem installHalf_fail (s : State) (h : HalfId) : Held (installHalf s h false) h := imageFails_held ..

theorem ram_installHalf (s : State) (h : HalfId) (pass : Bool) :
    (installHalf s h pass).ram = s.ram.filter fun e => e.1 / 262144 != h.toNat := by
  have hcore : (installHomes (installTable (installEnergy (installTally s h) h) h) h).core = s.core := by simp
  rw [installHalf, ram_enterEarly, show State.ram _ = s.ram from congrArg Core.ram hcore]

/-! ### Both halves -/

section
variable {t : State} {g : HalfId} {r : Rest} (e : (t.crew g).rest = r)
include e

theorem installed_of_rest : t.cht.installed = r.installed := e ▸ rfl
theorem nvm_of_rest : t.nvm = r.nvm := e ▸ rfl
theorem ready_of_rest : t.host.ready = r.ready := e ▸ rfl
theorem roots_of_rest : t.vlt.roots = r.roots := e ▸ rfl
theorem slot_of_rest : t.cht.slot = r.slot := e ▸ rfl
theorem rng_of_rest : t.rng = r.rng := e ▸ rfl
theorem trec_of_rest (h : HalfId) : t.trec h = (match h with | .h0 => r.keep.rec0 | .h1 => r.keep.rec1) := e ▸ by cases h <;> rfl

end

/-- One half's step leaves what is the other half's own, and of the block what one half's bring-up leaves. -/
theorem installStep_other {s : State} (hi : s.cht.installed = true) (h : HalfId) (pass : Bool) :
    ((installStep s h pass).crew h.other).own = (s.crew h.other).own ∧
    ∀ g, ((installStep s h pass).crew g).rest = (s.crew g).rest := by
  simp only [installStep, hi]
  split
  · exact ⟨rfl, fun _ => rfl⟩
  · exact ⟨other_installHalf .., fun g => rest_installHalf ..⟩

/-- A step clears no cell outside its half, and writes none (R314). -/
theorem installStep_zero {s : State} (hi : s.cht.installed = true) (h : HalfId) (pass : Bool) {a : Nat}
    (hz : sget TCell.zero s.ram a = TCell.zero) : sget TCell.zero (installStep s h pass).ram a = TCell.zero := by
  simp only [installStep, hi]
  split
  · exact hz
  · rw [if_pos trivial, ram_installHalf, sget_filter (p := fun a => a / 262144 != h.toNat), hz, ite_self]

/-- `u` is the state whose half `h` is installed: with the global units in place. -/
structure Opened (s u : State) (h : HalfId) : Prop where
  own : (u.crew h).own = (s.crew h).own
  trec : u.trec h = s.trec h
  installed : u.cht.installed = true
  nvm : u.nvm = s.nvm
  opens : s.cht.installed = false → u.host.ready = true ∧ u.vlt.roots = true

theorem opened_installGlobal (s : State) (h : HalfId) : Opened s (installGlobal s) h := by
  obtain ⟨ho, ht, k, hr⟩ := installGlobal_spec s h
  exact ⟨ho, ht h, installed_of_rest hr, nvm_of_rest hr, fun _ => ⟨ready_of_rest hr, roots_of_rest hr⟩⟩

/-- Both steps and the span after them leave the half as its own step left it. -/
theorem install_course {s : State} {h : HalfId} {p0 p1 p : Bool} (hp : (match h with | .h0 => p0 | .h1 => p1) = p)
    (hd : installDue s h = true) (hg : s.cht.installed = true ∨ h = .h0) :
    ∃ u, Opened s u h ∧
      let v := installHalf u h p
      let t := spanRefresh (installStep (installStep s .h0 p0) .h1 p1)
      (t.crew h).own.seat = (v.crew h).own.seat ∧ (t.crew h).rest = (u.crew h).rest ∧
      ∀ a, sget TCell.zero v.ram a = TCell.zero → sget TCell.zero t.ram a = TCell.zero := by
  have hspan : ∀ x : State, (spanRefresh x).ram = x.ram := fun x => congrArg Core.ram (core_spanRefresh x)
  subst hp
  cases h
  · obtain ⟨u, hu, hs⟩ : ∃ u, Opened s u .h0 ∧ installStep s .h0 p0 = installHalf u .h0 p0 := by
      by_cases hi : s.cht.installed = true
      · exact ⟨s, ⟨rfl, rfl, hi, rfl, fun hn => absurd hi (by simp [hn])⟩, by simp [installStep, hd, hi]⟩
      · exact ⟨installGlobal s, opened_installGlobal s .h0, by simp [installStep, hd, hi]⟩
    have hrest : ((installHalf u .h0 p0).crew .h0).rest = (u.crew .h0).rest := rest_installHalf ..
    have hi := (installed_of_rest hrest).trans hu.installed
    obtain ⟨ho, hr⟩ := installStep_other hi .h1 p1
    refine ⟨u, hu, ?_, ?_, fun a hz => ?_⟩ <;> rw [hs]
    · exact (seat_spanRefresh ..).trans (congrArg Own.seat ho)
    · exact (rest_spanRefresh ..).trans ((hr _).trans hrest)
    · rw [hspan]
      exact installStep_zero hi .h1 p1 hz
  · have hi : s.cht.installed = true := hg.resolve_right (by decide)
    obtain ⟨ho, hr⟩ := installStep_other hi .h0 p0
    have hi' := (installed_of_rest (hr .h1)).trans hi
    have hd' : installDue _ .h1 = true := (installDue_congr ho (slot_of_rest (hr .h1)) (rng_of_rest (hr .h1))).trans hd
    refine ⟨installStep s .h0 p0, ⟨ho, trec_of_rest (hr .h1) .h1, hi', nvm_of_rest (hr .h1), fun hn => absurd hi (by simp [hn])⟩, ?_⟩
    have hs : installStep (installStep s .h0 p0) .h1 p1 = installHalf (installStep s .h0 p0) .h1 p1 := by
      simp [installStep.eq_def (installStep s .h0 p0), hd', hi']
    refine ⟨?_, ?_, fun a hz => ?_⟩ <;> rw [hs]
    · exact seat_spanRefresh ..
    · exact (rest_spanRefresh ..).trans (rest_installHalf ..)
    · rw [hspan]
      exact hz

/-! ## The obligation -/

/-- Settles O46: each step is carried through the functions it is made of, and the other half's step, the reports and the span
leave what is the half's own. -/
theorem bringUpReachesEarly : Obligations.BringUpReachesEarly := by
  unfold Obligations.BringUpReachesEarly
  intro s h
  refine ⟨fun hi hl hq hr hk hf => ?_, fun c hi hf hz hs hv => ?_, fun p0 p1 hd hg hh hp => ?_, fun p0 p1 hd hg hp => ?_⟩
  · obtain ⟨hrel, hin, hrun, hst, hvl, hre⟩ := resetRelease_booted hr hk hf
    have hcore : (spanRefresh (releaseHalf (releaseHalf s .h0) .h1)).core = s.core := by simp
    exact ⟨_, congrArg Host.Outcome.next (resetRelease_eq hi hl hq), hrel, hin, hrun, hst, hvl, hre, congrArg Core.ram hcore,
      congrArg Core.nvm hcore⟩
  · let u : State := { s with cht := { s.cht with seen := some c } }
    refine ⟨fun second hr hl => ?_, fun hr hm => ?_⟩
    · have e := (charterVerified_decides hi hf hz hs hv).trans ((charterDecide_accepts (s := u) rfl hv hr).trans
        (acceptSlot_eq (s := recordChoice u c _) hl _ c second))
      refine ⟨_, congrArg Host.Outcome.next e, ?_, ?_, ?_, ?_, ?_, ?_, fun g hg => markVerified_mem _ _ hg⟩ <;> rw [markVerified_cht] <;> rfl
    · have e := (charterVerified_decides hi hf hz hs hv).trans (charterDecide_faults (s := u) rfl hv hr hm)
      exact ⟨_, congrArg Host.Outcome.next e, charterFault_spec _⟩
  · obtain ⟨u, hu, hseat, hrest, hzero⟩ := install_course hp hd hg
    have hearly := Early.of_seat hseat (installHalf_pass ((congrArg Own.halt hu.own).trans hh))
    refine ⟨_, rfl, hearly.mode, hearly.lanes.trans (congrArg (List.take 2) (unfenced_congr hu.trec)),
      (installed_of_rest hrest).trans hu.installed, fun hn => ?_, fun a ha => hzero a ?_, (nvm_of_rest hrest).trans hu.nvm,
      fun j => (hearly.bank j).trans (bank_of_banks (congrArg (·.ex.banks) hu.own) j)⟩
    · exact ⟨(ready_of_rest hrest).trans (hu.opens hn).1, (roots_of_rest hrest).trans (hu.opens hn).2⟩
    · rw [ram_installHalf, sget_filter (p := fun a => a / 262144 != h.toNat), if_neg (by simp [ha])]
  · obtain ⟨u, hu, hseat, hrest, -⟩ := install_course hp hd hg
    obtain ⟨hm, hrel, hin, hrun⟩ := Held.of_seat hseat (installHalf_fail u h)
    exact ⟨_, rfl, hm, hrel, hin, hrun, (installed_of_rest hrest).trans hu.installed⟩

end Sys2Proof.Machine

/-! # What a close leaves of a half (R189, R248, R250, R281) -/

namespace Sys2Proof.Machine

theorem onWin_self {s : State} {h : HalfId} {f : Windows → Windows} (hf : f (s.half h).win = (s.half h).win) : s.onWin h f = s := by
  cases h <;> simp only [State.onWin, State.onHalf, State.setHalf, State.half] at hf ⊢ <;> rw [hf]

theorem onEx_self {s : State} {h : HalfId} {f : Exec → Exec} (hf : f (s.ex h) = s.ex h) : s.onEx h f = s := by
  cases h <;> simp only [State.onEx, State.onHalf, State.setHalf, State.half, State.ex] at hf ⊢ <;> rw [hf]

/-! ## What the start of a window leaves (R248) -/

/-- The start of a window leaves a half's windows and its execution state but the modes, and the memories. -/
structure Still where
  win : Windows
  ex : Exec
  ram : Sparse TCell
  nvm : Sparse (Option NvmLine)

def State.still (s : State) (g : HalfId) : Still :=
  ⟨(s.half g).win, { s.ex g with mode := 0, modeBefore := 0, onPll := false }, s.ram, s.nvm⟩

theorem still_with_ram {s t : State} {g : HalfId} (hc : t.crew g = s.crew g) : t.still g = { s.still g with ram := t.ram } := by
  have hw : (t.half g).win = (s.half g).win := win_of_crew hc
  have hx : t.ex g = s.ex g := ex_of_crew hc
  have hn : t.nvm = s.nvm := congrArg Crew.nvm hc
  simp only [State.still, hw, hx, hn]

theorem still_of_crew {s t : State} {g : HalfId} (hc : t.crew g = s.crew g) (hr : t.ram = s.ram) : t.still g = s.still g := by
  rw [still_with_ram hc, hr]
  rfl

theorem still_quiet {s t : State} {g : HalfId} (hc : t.crew g = s.crew g) (hk : t.core = s.core) : t.still g = s.still g :=
  still_of_crew hc (congrArg Core.ram hk)

section
variable (s : State) (h g : HalfId)

theorem still_onTal (f : Tally → Tally) : (s.onTal h f).still g = s.still g := by cases h <;> cases g <;> rfl
theorem still_onUp (f : BringUp → BringUp) : (s.onUp h f).still g = s.still g := by cases h <;> cases g <;> rfl
theorem still_onTrec (f : TallyRec → TallyRec) : (s.onTrec h f).still g = s.still g := by cases h <;> cases g <;> rfl
theorem still_onDbgHalf (f : DbgHalf → DbgHalf) : (s.onDbgHalf h f).still g = s.still g := by
  cases h <;> cases g <;> rfl
theorem still_onEx {f : Exec → Exec}
    (hf : ∀ e, { f e with mode := 0, modeBefore := 0, onPll := false } = { e with mode := 0, modeBefore := 0, onPll := false }) :
    (s.onEx h f).still g = s.still g := by
  cases h <;> cases g
  · simp only [State.still, onEx_ram, onEx_nvm, half_onEx, State.ex, hf]
  · rfl
  · rfl
  · simp only [State.still, onEx_ram, onEx_nvm, half_onEx, State.ex, hf]

theorem still_setMode (m : BitVec 3) : (setMode s h m).still g = s.still g :=
  (still_of_crew (crew_setMode ..) ((ram_setMode ..).trans (onEx_ram ..).symm)).trans (still_onEx _ _ _ (by intro e; rfl))

theorem still_setRunMode (m : BitVec 3) : (setRunMode s h m).still g = s.still g := by
  simp only [setRunMode]
  split
  · exact still_onEx _ _ _ (by intro e; rfl)
  · exact still_setMode ..

theorem still_fenceLane (l : Lane) : (fenceLane h s l).still g = s.still g := by
  simp only [fenceLane]
  split
  · rfl
  · exact (still_quiet ((crew_raiseHalf ..).trans (crew_reportHalf ..)) ((core_raiseHalf ..).trans (core_reportHalf ..))).trans
      ((still_onTal ..).trans (still_onTrec ..))

theorem still_afterFence : (afterFence s h).still g = s.still g := by
  simp only [afterFence]
  (repeat' split) <;> simp [still_onUp, still_onTal, still_setRunMode]

theorem still_fenceAct : (fenceAct s h).still g = s.still g := by
  simp only [fenceAct]
  split
  · exact still_onTal ..
  · split
    · rfl
    · exact (still_afterFence ..).trans ((still_onTal ..).trans
        (foldl_keeps (fun t => t.still g) (fun t l => still_fenceLane t h g l) _ s))

theorem still_tryHalt : (tryHalt s h).still g = s.still g := by
  simp only [tryHalt]
  split
  · exact (still_setMode ..).trans ((still_onEx _ _ _ (by intro e; rfl)).trans (still_onDbgHalf ..))
  · rfl

theorem still_pllClose : (pllClose s h).still g = s.still g := by
  have hp : (s.onEx h fun e => { e with onPll := true }).still g = s.still g :=
    still_onEx _ _ _ fun _ => rfl
  simp only [pllClose]
  split
  · rfl
  · split
    · exact hp
    · split
      · exact (still_setMode ..).trans hp
      · rfl

/-- The work at the start of a window changes no execution state but the modes, and no window (R248). -/
theorem still_atClose : (atClose s h).still g = s.still g := by
  refine (still_tryHalt ..).trans ((still_fenceAct ..).trans ((still_onTal ..).trans ((still_pllClose ..).trans ?_)))
  exact still_quiet (crew_ownApply ..) (core_ownApply ..)

end

section
variable {s t : State} {g : HalfId} (e : t.still g = s.still g)
include e

end

theorem still_perf (s : State) (h g : HalfId) (c : BitVec 6) : (stepClose (perfCount s h c) h).still g = s.still g := by
  have hp : (perfCount s h c).still g = s.still g := still_quiet (crew_perfCount ..) (core_perfCount ..)
  simp only [stepClose]
  split
  · exact (still_onDbgHalf ..).trans hp
  · exact hp

/-! ## What a close does (R189, R250, R281) -/

theorem closeRaw_blank {s : State} {h : HalfId} (hb : (s.half h).win.blank = true) (forced : Bool) : closeRaw s h forced = s := by
  obtain ⟨hz, hg⟩ : (s.half h).win.slots = 0 ∧ (s.half h).win.group = false := by simpa [Windows.blank] using hb
  rw [closeRaw, if_pos ⟨hz, hg⟩]

theorem still_prtAfterClose (s : State) (h : HalfId) : ∃ n,
    (prtAfterClose s h).still h = { s.still h with win := { (s.half h).win with prtCloses := n } } := by
  simp only [prtAfterClose]
  split
  · refine ⟨(s.half h).win.prtCloses + 1, ?_⟩
    split <;> cases h <;> rfl
  · exact ⟨(s.half h).win.prtCloses, rfl⟩

/-- A close stores the level of the faults that the next window reads; the rest of the execution state stays, but the modes. -/
def Still.levelled (x : Still) : Exec := { x.ex with flevelEff := x.ex.flevel }

theorem still_close (s : State) (h : HalfId) : let u := (stepClose (perfCount s h 0o07) h).onEx h fun e => { e with flevelEff := e.flevel }
    u.still h = { s.still h with ex := (s.still h).levelled } ∧ u.runMode h = s.runMode h := by
  have hp := still_perf s h h 0o07
  have hm : (stepClose (perfCount s h 0o07) h).runMode h = s.runMode h := by
    rw [← runMode_of_crew (crew_perfCount s h 0o07 h)]
    simp only [stepClose]
    split <;> cases h <;> rfl
  generalize stepClose (perfCount s h 0o07) h = v at hp hm
  refine ⟨?_, Eq.trans ?_ hm⟩
  · rw [Still.levelled, ← hp]; cases h <;> rfl
  · cases h <;> rfl

/-- A close in READING-ROOM: the window in progress agrees at once (R281). -/
theorem closeRaw_reading {s : State} {h : HalfId} (hb : (s.half h).win.blank = false) (hm : s.runMode h = mReading) (forced : Bool) :
    ∃ m r, (closeRaw s h forced).still h = { s.still h with
        win := { (agreeAll (s.half h).win).opened with mark := m, log := [] }, ex := (s.still h).levelled, ram := r } := by
  have hne : ¬ ((s.half h).win.slots = 0 ∧ (s.half h).win.group = false) := by
    simpa [Windows.blank] using hb
  obtain ⟨hs, hr⟩ := still_close s h
  simp only [closeRaw, if_neg hne, hr, hm]
  generalize (stepClose (perfCount s h 0o07) h).onEx h _ = u at hs
  have hq : (stepSpend (gensApply u h fun e => !e.agreed) h (s.half h).win.slots).still h = u.still h :=
    still_quiet ((crew_stepSpend ..).trans (crew_gensApply ..)) ((core_stepSpend ..).trans (core_gensApply ..))
  generalize stepSpend (gensApply u h fun e => !e.agreed) h (s.half h).win.slots = v at hq
  have hv := hq.trans hs
  have hx : (v.onWin h fun w => { (agreeAll w).opened with mark := some (snapshot u h), log := [] }).still h =
      { v.still h with win := { (agreeAll (v.half h).win).opened with mark := some (snapshot u h), log := [] } } := by
    cases h <;> rfl
  generalize v.onWin h _ = x at hx ⊢
  have e := (still_atClose (completeFinished x h (s.half h).win.num) h h).trans (still_with_ram (crew_completeFinished ..))
  rw [hx, hv, show (v.half h).win = (s.half h).win from congrArg Still.win hv] at e
  exact ⟨_, _, e⟩

/-- A close out of READING-ROOM: the window waits for its verdict (R189, R250). -/
theorem closeRaw_logged {s : State} {h : HalfId} (hb : (s.half h).win.blank = false) (hm : s.runMode h ≠ mReading) (forced : Bool) :
    ∃ c n, c.num = (s.half h).win.num ∧ c.forced = forced ∧ (closeRaw s h forced).still h =
      { s.still h with
        win := { (s.half h).win.opened with closed := (s.half h).win.closed ++ [c], prtCloses := n }, ex := (s.still h).levelled } := by
  have hne : ¬ ((s.half h).win.slots = 0 ∧ (s.half h).win.group = false) := by
    simpa [Windows.blank] using hb
  obtain ⟨hs, hr⟩ := still_close s h
  simp only [closeRaw, if_neg hne, hr, if_neg hm]
  generalize (stepClose (perfCount s h 0o07) h).onEx h _ = u at hs
  have hw : (u.half h).win = (s.half h).win := congrArg Still.win hs
  generalize hc : closedWin u h forced = c
  obtain ⟨n, hn⟩ := still_prtAfterClose (u.onWin h fun w => { w.opened with closed := w.closed ++ [c] }) h
  refine ⟨c, n, by rw [← hc, ← hw]; rfl, by rw [← hc]; rfl, (still_atClose ..).trans (hn.trans ?_)⟩
  have hx : (u.onWin h fun w => { w.opened with closed := w.closed ++ [c] }).still h =
      { u.still h with win := { (u.half h).win.opened with closed := (u.half h).win.closed ++ [c] } } := by
    cases h <;> rfl
  rw [hx, hs, half_onWin, hw]

end Sys2Proof.Machine

/-! # Ticks (R33-R35, R386-R389; O39)

The clause on BUDGET-OVERRUN fails: the entry that the overrun ends leaves the half dozing where no other entry is ready and the
window in progress is blank, a command of the reckoner that finished in that window completes at once (R362), and where the
context that gave it is gone its report goes to the completion ring in memory (R301, R303). -/

namespace Sys2Proof.Machine

/-- Context 0 of half 0, which runs under entry 0 with its window blank; a command of tenant 7, of which no bank holds a context,
has finished in this window, and the ring of tenant 7, of one entry at address 16, is named at address 7. -/
def overrunBesideRing : State :=
  let entry : SchEntry := { SchEntry.zero with valid := true }
  let code : Cap := ⟨true, spInstr, 0, 0, 0, 0o240, 0o10000⟩
  let finished : RkCmd := ⟨0, 0, [], [], ⟨7, 0, 0⟩, none, .finished, true, 0, none, false, 0, 0, [], [], none, none, false, [], false,
    0, 1, 0⟩
  let s := State.reset.onEx .h0 fun e => { e with
    mode := mTallied, running := some 0, heads := [(0, ⟨List.replicate 16 (some 0o200), none⟩)]
    banks := [(0, { Bank.reset with pcc := code, valid := true, status := 0o400000000000 })] }
  let s := (s.onTal .h0 fun t => t.serve lanes).onSch .h0 fun c =>
    { c with active := { c.active with entries := [(0, entry)] }, cur := some 0, started := [0] }
  let s := (s.onGov .h0 fun g => { g with ticked := true }).onRkn .h0 fun r => { r with queue := [finished] }
  { s with cht := { s.cht with installed := true }, host := { s.host with isoAck := false }, keep := { s.keep with vcoreOk := true }
           ram := [(7, TCell.plain (atBits (1 : BitVec 6) 24 ||| atBits (16 : BitVec 24) 0))] }

theorem overrunBesideRing_meets : tickRuns overrunBesideRing = true ∧ steady overrunBesideRing .h0 0 = true ∧
    ownEntry overrunBesideRing .h0 0 = some 0 ∧ (overrunBesideRing.half .h0).sch.starved = false ∧
    enterable overrunBesideRing .h0 0 cBudget 0o200 ∧ overrunBesideRing.mode .h0 ≠ mReading := by
  unfold enterable; decide +kernel

/-- The overrun writes the completion ring: the cell at address 16 counts its entry. -/
theorem budgetExpiry_writes_ring : sget TCell.zero (budgetExpiry overrunBesideRing .h0).ram 16 = TCell.plain 1 := by decide +kernel

/-- Refutes O39: BUDGET-OVERRUN with a blank window, no other entry ready and a finished command of a context that is gone writes
the completion ring, so the memories are not as they were. -/
theorem not_ticksCountFramesAndReload : ¬ Obligations.TicksCountFramesAndReload := by
  unfold Obligations.TicksCountFramesAndReload
  intro h
  obtain ⟨hruns, hsteady, hown, hstarved, henter, hmode⟩ := overrunBesideRing_meets
  obtain ⟨-, -, -, hbudget, -⟩ := h overrunBesideRing .h0 hruns
  obtain ⟨t, ht, -, -, -, hmem, -⟩ := hbudget 0 0 0o200 hsteady hown hstarved henter
  obtain rfl : budgetExpiry overrunBesideRing .h0 = t := Host.Outcome.next.inj ht
  have hring : sget TCell.zero overrunBesideRing.ram 16 = TCell.zero := by decide +kernel
  rw [← (hmem hmode).1, budgetExpiry_writes_ring] at hring
  exact absurd hring (by decide)

end Sys2Proof.Machine

/-! # Reads return and writes drain (R28, R200, R225, R312, R316, R335, R336; O36) -/

namespace Sys2Proof.Machine

/-! ## The queue and the broken lines of a memory unit -/

/-- What the counters, the reports and the pump of the programs leave of a memory unit. -/
structure Port where
  arb : List ArbReq
  lastServed : BitVec 6
  bad : List Nat

def State.port (s : State) (g : HalfId) : Port :=
  let m := (s.half g).mem
  ⟨m.arb, m.lastServed, m.bad⟩

section
variable (s : State) (h g : HalfId)

theorem port_onMem {f : MemUnit → MemUnit} (ha : ∀ m, (f m).arb = m.arb) (hl : ∀ m, (f m).lastServed = m.lastServed)
    (hb : ∀ m, (f m).bad = m.bad) : (s.onMem h f).port g = s.port g := by
  cases h <;> cases g <;> simp [State.port, State.onMem, State.onHalf, State.setHalf, State.half, ha, hl, hb]

theorem port_perfCount (c : BitVec 6) : (perfCount s h c).port g = s.port g := by
  obtain ⟨hh, ho, -⟩ := perfCount_only s h c
  rcases (by cases g <;> cases h <;> simp [HalfId.other] : g = h ∨ g = h.other) with rfl | rfl
  · have ha := congrArg (fun x : Half => x.mem.arb) hh
    have hl := congrArg (fun x : Half => x.mem.lastServed) hh
    have hb := congrArg (fun x : Half => x.mem.bad) hh
    dsimp only at ha hl hb
    simp only [State.port, ha, hl, hb]
  · simp only [State.port, ho]

theorem port_perfAccess (a : Addr) (reads : Bool) : (perfAccess s a reads).port g = s.port g := by
  simp only [perfAccess]
  split
  · exact port_perfCount ..
  · split
    · exact port_perfCount ..
    · rfl
  · rfl

theorem port_grantPerf (r : ArbReq) : (grantPerf s h r).port g = s.port g := by
  simp only [grantPerf]
  split <;> split <;> simp only [port_perfCount]

theorem port_nvmPump : (nvmPump s h).port g = s.port g := by
  simp only [nvmPump]
  split
  · rfl
  · split
    · rfl
    · exact port_onMem _ _ _ (fun _ => rfl) (fun _ => rfl) (fun _ => rfl)

theorem port_block (evc mbx host crd cht rollback store mct flt vlt rng dbk prt dbg keep tick bnd ram nvm free messages pending) :
    State.port ⟨s.h0, s.h1, evc, mbx, host, crd, cht, rollback, store, mct, flt, vlt, rng, dbk, prt, dbg, keep, tick, bnd, ram, nvm,
      free, messages, pending⟩ g = s.port g := by
  cases g <;> rfl

theorem port_onDbk (f : DbkQueue → DbkQueue) : (s.onDbk h f).port g = s.port g := by cases h <;> cases g <;> rfl

theorem port_raiseSource (n : Nat) : (raiseSource s n).port g = s.port g := by simp only [State.port, raiseSource_half]

theorem port_storeAdd (p : StoreProg) : (storeAdd s p).port g = s.port g := by
  simp only [storeAdd, storePump]
  split <;> simp only [port_block]

theorem port_dbkKick : (dbkKick s h).port g = s.port g := by
  simp only [dbkKick]
  split
  · rfl
  · split
    · rfl
    · split <;> simp only [port_onDbk, port_storeAdd]

theorem port_dbkTake (e : DbkEntry) : (dbkTake s h e).port g = s.port g := by
  simp only [dbkTake, dbkLose, commonsOverflow]
  (repeat' split) <;> simp only [port_dbkKick, port_onDbk, port_block, port_raiseSource]

theorem port_reportHalf (u : DbkUnit) (cls : BitVec 5) (ctx : Option (BitVec 5)) (l : Option Lane) (c2 c3 : Cell) :
    (reportHalf s h u cls ctx l c2 c3).port g = s.port g := port_dbkTake ..

end

/-! ## A cell written at home (R312, R316) -/

/-- The other cell of a line of SRAM. -/
theorem mate_toNat (a : Addr) : (a ^^^ 1#24).toNat / 2 = a.toNat / 2 ∧ (a ^^^ 1#24).toNat ≠ a.toNat := by
  have hx : (a ^^^ 1#24).toNat = a.toNat ^^^ 1 := by simp
  rw [hx]
  constructor
  · rw [← Nat.shiftRight_one, ← Nat.shiftRight_one, Nat.shiftRight_xor_distrib]; simp
  · intro e
    have := congrArg (a.toNat ^^^ ·) e
    simp at this

theorem mate_ne (a : Addr) : a ≠ a ^^^ 1#24 := fun e => (mate_toNat a).2 (congrArg BitVec.toNat e).symm

/-- The memory `n` holds `c` at `a`; where the line failed its check, the other cell of the line is zero, and the rest is as it
was in `m` (R316). -/
structure Wrote (m n : Sparse TCell) (a : Addr) (c : TCell) (failed : Prop) : Prop where
  cell : sget TCell.zero n a.toNat = c
  kept : ¬ failed → ∀ i, i ≠ a.toNat → sget TCell.zero n i = sget TCell.zero m i
  zeroes : failed → sget TCell.zero n (a ^^^ 1#24).toNat = TCell.zero ∧
    ∀ i, i ≠ a.toNat → i ≠ (a ^^^ 1#24).toNat → sget TCell.zero n i = sget TCell.zero m i

theorem ramWrite_keeps (s : State) {a : Addr} (c : TCell) {i : Nat} (hi : i ≠ a.toNat) :
    sget TCell.zero (ramWrite s a c).ram i = sget TCell.zero s.ram i := sget_sput_ne _ _ _ _ _ hi

theorem wrote_ramWrite (s : State) (a : Addr) (c : TCell) {failed : Prop} (hf : ¬ failed) :
    Wrote s.ram (ramWrite s a c).ram a c failed :=
  ⟨ramWrite_read .., fun _ _ hi => ramWrite_keeps s c hi, fun hn => absurd hn hf⟩

theorem wrote_line (s : State) (a : Addr) (c : TCell) {failed : Prop} (hf : failed) :
    Wrote s.ram (ramWrite (ramWrite s (a ^^^ 1#24) TCell.zero) a c).ram a c failed :=
  ⟨ramWrite_read .., fun hn => absurd hf hn, fun _ => ⟨(ramWrite_keeps _ c (mate_toNat a).2).trans (ramWrite_read ..),
    fun _ hi hm => (ramWrite_keeps _ c hi).trans (ramWrite_keeps s TCell.zero hm)⟩⟩

theorem sramWrite_good {s : State} {h : HalfId} {a : Addr} (hb : (s.half h).mem.bad.contains (a.toNat / 2) = false) (c : TCell) :
    sramWrite s h a c = ramWrite s a c := by
  rw [sramWrite, hb]
  rfl

theorem sramWrite_wrote (s : State) (h : HalfId) (a : Addr) (c : TCell) :
    Wrote s.ram (sramWrite s h a c).ram a c ((s.half h).mem.bad.contains (a.toNat / 2) = true) := by
  by_cases hb : (s.half h).mem.bad.contains (a.toNat / 2) = true
  · have hr : (sramWrite s h a c).ram = (ramWrite (ramWrite s (a ^^^ 1#24) TCell.zero) a c).ram := by
      rw [sramWrite, if_pos hb]
      exact (congrArg Core.ram (core_reportHalf ..)).trans (onMem_ram ..)
    exact hr ▸ wrote_line s a c hb
  · rw [sramWrite_good (by simpa using hb)]
    exact wrote_ramWrite s a c hb

theorem wholeLines_one (a : Addr) (k : BitVec 10) (c : TCell) : wholeLines [(a, k, c)] = [] := by
  simp [wholeLines, mate_ne]

theorem homeWritesMeet_one (s : State) (a : Addr) (k : BitVec 10) (c : TCell) (r : ReadOutcome) :
    homeWritesMeet s [(a, k, c)] r = homeWrite (perfAccess (meetLine s a r) a false) a k c := by
  simp [homeWritesMeet, wholeLines_one, writeEach]

/-- What meets a line of SRAM, and then the access, leaves all memories as they were; a failed check breaks the line. -/
theorem meetLine_sram {s : State} {h : HalfId} {a : Addr} (ha : regionOf a = .sram h) (r : ReadOutcome) :
    (perfAccess (meetLine s a r) a false).core = s.core ∧
    (((perfAccess (meetLine s a r) a false).half h).mem.bad.contains (a.toNat / 2) = true ↔
      (s.half h).mem.bad.contains (a.toNat / 2) = true ∨ r = .failed) := by
  have hbad : ((perfAccess (meetLine s a r) a false).half h).mem.bad = ((meetLine s a r).half h).mem.bad :=
    congrArg Port.bad (port_perfAccess _ h a false)
  rw [hbad]
  cases r <;> simp [meetLine, ha]

theorem homeWritesMeet_sram {s : State} {h : HalfId} {a : Addr} (ha : regionOf a = .sram h) (k : BitVec 10) (c : TCell)
    (r : ReadOutcome) :
    Wrote s.ram (homeWritesMeet s [(a, k, c)] r).ram a c ((s.half h).mem.bad.contains (a.toNat / 2) = true ∨ r = .failed) := by
  obtain ⟨hcore, hbad⟩ := meetLine_sram ha r
  rw [homeWritesMeet_one, ← propext hbad, ← show (perfAccess (meetLine s a r) a false).ram = s.ram from congrArg Core.ram hcore]
  simp only [homeWrite, ha]
  exact sramWrite_wrote ..

theorem homeWritesMeet_retained {s : State} {a : Addr} (ha : regionOf a = .retained) (k : BitVec 10) (c : TCell) (r : ReadOutcome)
    {failed : Prop} (hf : ¬ failed) : Wrote s.ram (homeWritesMeet s [(a, k, c)] r).ram a c failed := by
  have hw : homeWritesMeet s [(a, k, c)] r = ramWrite s a c := by
    simp [homeWritesMeet_one, homeWrite, perfAccess, meetLine, ha]
  rw [hw]
  exact wrote_ramWrite s a c hf

/-! ## STORE_DRAIN (R62, R200, R312, R316) -/

theorem mendLines_spec (s : State) (h : HalfId) (l : List Nat) (n : Nat) (hn : n ∈ l) :
    (mendLines s l).ram = s.ram ∧ ((mendLines s l).half h).mem.bad.contains n = false := by
  have hb : (List.filter (fun n => !l.contains n) (s.half h).mem.bad).contains n = false := by simp [hn]
  refine ⟨by simp [mendLines], ?_⟩
  cases h <;> exact hb

theorem perfAccesses_spec (s : State) (l : List (Addr × BitVec 10 × TCell)) (h : HalfId) :
    (l.foldl (fun s x => perfAccess s x.1 false) s).ram = s.ram ∧
    (l.foldl (fun s x => perfAccess s x.1 false) s).port h = s.port h :=
  ⟨foldl_keeps State.ram (fun t x => show (perfAccess t x.1 false).ram = t.ram from congrArg Core.ram (core_perfAccess ..)) l s,
    foldl_keeps (fun t => t.port h) (fun t x => port_perfAccess t h x.1 false) l s⟩

/-- A linked pair that fills a line of SRAM is written in one access (R200, R312). -/
theorem homeWritesMeet_pair {s : State} {h : HalfId} {a : Addr} (ha : regionOf a = .sram h) (hm : regionOf (a ^^^ 1#24) = .sram h)
    (j k : BitVec 10) (c d : TCell) (r : ReadOutcome) :
    (homeWritesMeet s [(a, j, c), (a ^^^ 1#24, k, d)] r).ram = (ramWrite (ramWrite s a c) (a ^^^ 1#24) d).ram := by
  have hinv : a ^^^ 1#24 ^^^ 1#24 = a := by rw [BitVec.xor_assoc, BitVec.xor_self, BitVec.xor_zero]
  have hw : wholeLines [(a, j, c), (a ^^^ 1#24, k, d)] = [a.toNat / 2, a.toNat / 2] := by
    simp only [wholeLines, List.filter, List.any, hinv, beq_self_eq_true, Bool.or_true, Bool.true_or, List.map, (mate_toNat a).1]
  obtain ⟨hmr, hmb⟩ := mendLines_spec s h [a.toNat / 2, a.toNat / 2] (a.toNat / 2) (by simp)
  simp only [homeWritesMeet, hw, List.isEmpty_cons, Bool.false_eq_true, if_false]
  generalize mendLines s [a.toNat / 2, a.toNat / 2] = u at hmr hmb
  generalize hq : (a, j, c) :: List.filter _ _ = q
  obtain ⟨hur, hup⟩ := perfAccesses_spec u q h
  generalize List.foldl (fun s x => perfAccess s x.1 false) u q = v at hur hup
  have hbad : ∀ (t : State) (n : Nat), t.port h = v.port h → n = a.toNat / 2 → (t.half h).mem.bad.contains n = false := by
    rintro t n ht rfl
    rw [show (t.half h).mem.bad = (u.half h).mem.bad from (congrArg Port.bad ht).trans (congrArg Port.bad hup)]
    exact hmb
  have hwrite : writeEach v [(a, j, c), (a ^^^ 1#24, k, d)] = ramWrite (ramWrite v a c) (a ^^^ 1#24) d := by
    simp only [writeEach, homeWrite, ha, hm]
    rw [sramWrite_good (hbad v _ rfl rfl), sramWrite_good (hbad (ramWrite v a c) _ ?_ (mate_toNat a).1)]
    cases h <;> rfl
  rw [hwrite]
  simp only [ramWrite, hur, hmr]

theorem fenceDone_not {s : State} {h : HalfId} (hf : (s.ex h).fencing = false) : fenceDone s h = s := by
  simp [fenceDone, hf]

theorem fedGo_none {s : State} {h : HalfId} (hf : (s.ex h).fed = none) : fedGo s h = s := by
  have hr : fedRun s h = s := by simp [fedRun, hf]
  simp [fedGo, hr, fedSettle, hf]

/-- Where no FENCE and no fed word waits, STORE_DRAIN is the drain of the oldest entry, or of the oldest two. -/
theorem storeDrain_next {s t : State} {h : HalfId} {r : ReadOutcome} {e : SbEntry} {f : Option SbEntry} {l : List SbEntry}
    (hi : s.isolated = false) (hd : drainHead (s.half h).win.sb = some (e, f, l)) (ha : e.agreed = true)
    (ht : drainEntry s h e f l r = t) (hf : (t.ex h).fencing = false) (hg : (t.ex h).fed = none) :
    exec (.storeDrain ⟨h, r⟩) s = .next t := by
  have hs : storeDrain s h r = t := by
    simp only [storeDrain, hi, hd, ha, ht]
    exact fenceDone_not hf
  show Host.Outcome.next (fedGo (storeDrain s h r) h) = _
  rw [hs, fedGo_none hg]

theorem drainHead_single {e : SbEntry} (hl : e.link = .single) (l : List SbEntry) : drainHead (e :: l) = some (e, none, l) := by
  cases l <;> simp [drainHead, hl]

theorem drainHead_first {e : SbEntry} (hl : e.link = .first) (f : SbEntry) (l : List SbEntry) :
    drainHead (e :: f :: l) = some (e, some f, l) := by simp [drainHead, hl]

theorem drainHead_head (e : SbEntry) (l : List SbEntry) : ∃ f q, drainHead (e :: l) = some (e, f, q) := by
  cases l with
  | nil => exact ⟨_, _, rfl⟩
  | cons f l => simp only [drainHead]; split <;> exact ⟨_, _, rfl⟩

/-- What a near drain writes (R200): the entry leaves the buffer, and the half's own is as it was but for that. -/
theorem drainEntry_near {s : State} {h : HalfId} {e : SbEntry} {a : Addr} {k : BitVec 10} (ht : e.target = .data a k)
    (hf : farData h a = false) (hl : laneWaits (s.half h).mem = false) (hp : regionOf a = .retained → (s.half h).tal.portLost = false)
    (f : Option SbEntry) (l : List SbEntry) (r : ReadOutcome) :
    drainEntry s h e f l r = drainNear (s.onWin h fun w => { w with sb := l }) h (dataWrites e f) r := by
  have hacc : accepts s h e = true := by
    by_cases hr : regionOf a = .retained
    · simp [accepts, ht, hl, hp hr]
    · simp [accepts, ht, hl, hr]
  have ho : offerEntry s h e = s := by simp [offerEntry, ht]
  simp [drainEntry, ho, hacc, takeEntry, ht, hf]

theorem farData_near {h : HalfId} {a : Addr} (hr : regionOf a = .retained ∨ regionOf a = .sram h) : farData h a = false := by
  obtain hr | hr := hr <;> simp [farData, hr, Region.half?]

theorem drainNear_own (s : State) (h g : HalfId) (ws : List (Addr × BitVec 10 × TCell)) (r : ReadOutcome) :
    (drainNear s h ws r).crew g = s.crew g ∧ (drainNear s h ws r).ram = (homeWritesMeet s ws r).ram := by
  refine ⟨crew_drainNear .., ?_⟩
  simp [drainNear]

/-- Clause on STORE_DRAIN for one cell that the half holds at home. -/
theorem storeDrain_single {s : State} {h : HalfId} {e : SbEntry} {l : List SbEntry} {a : Addr} {k : BitVec 10} (r : ReadOutcome)
    (hfed : (s.ex h).fed = none) (hi : s.isolated = false) (hsb : (s.half h).win.sb = e :: l) (ha : e.agreed = true)
    (ht : e.target = .data a k) (hf : (s.ex h).fencing = false) (hlink : e.link = .single) (hl : laneWaits (s.half h).mem = false)
    (hr : regionOf a = .retained ∧ (s.half h).tal.portLost = false ∨ regionOf a = .sram h) :
    ∃ t, exec (.storeDrain ⟨h, r⟩) s = .next t ∧ (∀ g, t.crew g = (s.onWin h fun w => { w with sb := l }).crew g) ∧
      Wrote s.ram t.ram a ⟨e.data, e.tag⟩ (regionOf a = .sram h ∧ ((s.half h).mem.bad.contains (a.toNat / 2) = true ∨ r = .failed)) := by
  generalize hu : (s.onWin h fun w => { w with sb := l }) = u
  have hd := drainEntry_near ht (farData_near (hr.imp_left And.left)) hl
    (fun hret => hr.elim And.right fun hs => absurd (hret.symm.trans hs) (by simp)) none l r
  have hws : dataWrites e none = [(a, k, ⟨e.data, e.tag⟩)] := by simp [dataWrites, ht, SbEntry.cell]
  rw [hu, hws] at hd
  obtain ⟨hown, hram⟩ : (∀ g, (drainNear u h [(a, k, ⟨e.data, e.tag⟩)] r).crew g = u.crew g) ∧ _ :=
    ⟨fun g => (drainNear_own u h g _ r).1, (drainNear_own u h h [(a, k, ⟨e.data, e.tag⟩)] r).2⟩
  have hex : (drainNear u h [(a, k, ⟨e.data, e.tag⟩)] r).ex h = s.ex h := (ex_of_crew (hown h)).trans (by rw [← hu]; simp)
  refine ⟨_, storeDrain_next hi (by rw [hsb, drainHead_single hlink]) ha hd (by rw [hex, hf]) (by rw [hex, hfed]), hown, ?_⟩
  have hur : u.ram = s.ram := by rw [← hu, onWin_ram]
  have hub : (u.half h).mem = (s.half h).mem := by rw [← hu]; simp
  rw [(drainNear_own u h h _ r).2, ← hur, ← hub]
  obtain ⟨hret, -⟩ | hs := hr
  · exact homeWritesMeet_retained hret _ _ _ fun hn => absurd (hret.symm.trans hn.1) (by simp)
  · simp only [hs, true_and]
    exact homeWritesMeet_sram hs ..

/-- Clause on STORE_DRAIN for a linked pair that fills a line of SRAM at home. -/
theorem storeDrain_pair {s : State} {h : HalfId} {e f : SbEntry} {l : List SbEntry} {a : Addr} {k : BitVec 10} (r : ReadOutcome)
    (hfed : (s.ex h).fed = none) (hi : s.isolated = false) (hsb : (s.half h).win.sb = e :: f :: l) (hag : e.agreed = true)
    (ht : e.target = .data a k) (hf : (s.ex h).fencing = false) (hlink : e.link = .first) (htf : f.target = .data (a ^^^ 1#24) k)
    (hl : laneWaits (s.half h).mem = false) (ha : regionOf a = .sram h) (hm : regionOf (a ^^^ 1#24) = .sram h) :
    ∃ t, exec (.storeDrain ⟨h, r⟩) s = .next t ∧ (∀ g, t.crew g = (s.onWin h fun w => { w with sb := l }).crew g) ∧
      t.ram = (ramWrite (ramWrite s a ⟨e.data, e.tag⟩) (a ^^^ 1#24) ⟨f.data, f.tag⟩).ram := by
  have hd := drainEntry_near ht (farData_near (.inr ha)) hl (fun hret => absurd (hret.symm.trans ha) (by simp)) (some f) l r
  have hws : dataWrites e (some f) = [(a, k, ⟨e.data, e.tag⟩), (a ^^^ 1#24, k, ⟨f.data, f.tag⟩)] := by
    simp [dataWrites, ht, htf, SbEntry.cell]
  generalize hu : (s.onWin h fun w => { w with sb := l }) = u at hd
  have hur : u.ram = s.ram := by rw [← hu, onWin_ram]
  rw [hws] at hd
  have hown := fun g => (drainNear_own u h g [(a, k, ⟨e.data, e.tag⟩), (a ^^^ 1#24, k, ⟨f.data, f.tag⟩)] r).1
  have hex := (ex_of_crew (hown h)).trans (show u.ex h = s.ex h by rw [← hu]; simp)
  refine ⟨_, storeDrain_next hi (by rw [hsb, drainHead_first hlink]) hag hd (by rw [hex, hf]) (by rw [hex, hfed]), hown, ?_⟩
  rw [(drainNear_own u h h _ r).2, homeWritesMeet_pair ha hm]
  simp only [ramWrite, hur]

theorem storeDrain_blocked {s : State} {h : HalfId} {e : SbEntry} {l : List SbEntry} {a : Addr} {k : BitVec 10} (r : ReadOutcome)
    (hfed : (s.ex h).fed = none) (hi : s.isolated = false) (hsb : (s.half h).win.sb = e :: l) (hag : e.agreed = true)
    (ht : e.target = .data a k) (hf : (s.ex h).fencing = false) (ha : regionOf a = .retained) (hp : (s.half h).tal.portLost = true) :
    exec (.storeDrain ⟨h, r⟩) s = .next s := by
  obtain ⟨f, q, hd⟩ := drainHead_head e l
  refine storeDrain_next hi (hsb ▸ hd) hag ?_ hf hfed
  simp [drainEntry, offerEntry, ht, accepts, ha, hp]

theorem storeDrain_far {s : State} {h : HalfId} {e : SbEntry} {l : List SbEntry} {a : Addr} {k : BitVec 10} (r : ReadOutcome)
    (hfed : (s.ex h).fed = none) (hi : s.isolated = false) (hsb : (s.half h).win.sb = e :: l) (hag : e.agreed = true)
    (ht : e.target = .data a k) (hf : (s.ex h).fencing = false) (hlink : e.link = .single) (hfar : farData h a = true) :
    exec (.storeDrain ⟨h, r⟩) s = .next ((s.onWin h fun w => { w with sb := l }).onSpn h fun p =>
      { p with out := p.out ++ [.write [(a, k, ⟨e.data, e.tag⟩)]] }) := by
  have hr : regionOf a ≠ .retained := fun hret => by simp [farData, hret, Region.half?] at hfar
  refine storeDrain_next hi (by rw [hsb, drainHead_single hlink]) hag ?_ ?_ ?_
  · simp [drainEntry, offerEntry, ht, accepts, hfar, hr, takeEntry, sendFlit, dataWrites, SbEntry.cell]
  · simpa using hf
  · simpa using hfed

/-! ## REGISTER_WRITE (R122, R200) -/

theorem registerWrite_taken {s : State} {h : HalfId} {k : BitVec 5} (hk : (s.ex h).running = some k) {a : IoAddr} {x0 : Cell}
    (ht : writeTakes s h (s.bank h k) a.toNat x0 = true) (x1 : Cell) : exec (.registerWrite h a x0 x1) s =
      .next (ioWrite s (writerOf s h k) ((outSnap s h (s.bank h k) a.toNat x0).getD CapSnap.none) a.toNat x0 x1) := by
  have hb : s.runBank h = some (k, s.bank h k) := by simp [State.runBank, hk]
  have hw : s.writer h = some (writerOf s h k) := by simp [State.writer, hb, writerOf]
  show Host.Outcome.next (registerWrite s h a.toNat x0 x1) = _
  simp only [registerWrite, hb, hw, ht, if_true]

/-! ## READ_DATA_RETURN (R28, R62, R225) -/

theorem grantRetained_self {s : State} {h : HalfId} (hr : ∀ r ∈ (s.ex h).reads, r.granted = true ∨ regionOf r.addr ≠ .retained) :
    grantRetained s h = s := by
  have hm : (s.ex h).reads.map (OutRead.answered s) = (s.ex h).reads := by
    refine (List.map_congr_left fun r h' => ?_).trans (List.map_id _)
    rw [OutRead.answered, if_neg fun c => ?_, id]
    obtain hg | hn := hr r h'
    · exact absurd c.2 (by simp [hg])
    · exact hn c.1
  simp only [grantRetained]
  split
  · rfl
  · refine onEx_self ?_
    rw [hm]

/-- With its lanes asking alike, READ_DATA_RETURN delivers or voids the oldest read. -/
theorem readReturn_head {s : State} {h : HalfId} {o : OutRead} {l : List OutRead} (hl : (s.ex h).reads = o :: l)
    (hg : o.granted = true) (hv : o.void = false) (hr : ∀ r ∈ l, r.granted = true ∨ regionOf r.addr ≠ .retained)
    (x : LaneRequests) (r : ReadOutcome) : readReturn s h x r =
      if requestsSplit s h x then clashClose s h else if o.failed || r == .failed then returnBad s h o else returnGood s h o r := by
  have hs := grantRetained_self (s := s) (h := h) (by rw [hl]; simpa [hg] using hr)
  have hn : nextReturn (s.ex h) = some o := by simp [nextReturn, hl, hv]
  simp [readReturn, hs, hn, hg]

theorem requestsSplit_same (s : State) (h : HalfId) : requestsSplit s h .same = false := by
  simp only [requestsSplit]
  split <;> rfl

/-- A read's place filled: in the running context's bank, and in the window's items. -/
theorem fillPlace_spec {s : State} {h : HalfId} {k : BitVec 5} (hk : (s.ex h).running = some k) (p : Nat) (v : Cell) :
    ((fillPlace s h p v).ex h).banks = sput Bank.reset (s.ex h).banks k.toNat ((s.bank h k).setPlace p v) ∧
    ((fillPlace s h p v).ex h).reads = (s.ex h).reads ∧
    ((fillPlace s h p v).half h).win = (s.half h).win.fillItems p v ∧ (fillPlace s h p v).ex h.other = s.ex h.other ∧
    (fillPlace s h p v).core = s.core ∧ (fillPlace s h p v).free = s.free := by
  simp only [fillPlace, hk]
  refine ⟨?_, ?_, ?_, ?_, by simp, ?_⟩ <;> cases h <;> rfl

/-- The returned cell in its place, and nothing else of what a program sees (R191, R225). -/
structure Returned (s t : State) (h : HalfId) (k : BitVec 5) (p : Nat) (v : Cell) : Prop where
  bank : ∀ g j, t.bank g j = if g = h ∧ j = k then (s.bank h k).setPlace p v else s.bank g j
  win : (t.half h).win = (s.half h).win.fillItems p v
  ram : t.ram = s.ram
  nvm : t.nvm = s.nvm

/-- A change of what is read or drawn, after the place is filled. -/
theorem returned_of {s u t : State} {h : HalfId} {k : BitVec 5} {p : Nat} {v : Cell} (hk : (u.ex h).running = some k)
    (hu : ∀ g, u.crew g = s.crew g) (hc : u.core = s.core) (htb : (t.ex h).banks = ((fillPlace u h p v).ex h).banks)
    (hto : t.ex h.other = (fillPlace u h p v).ex h.other) (htw : (t.half h).win = ((fillPlace u h p v).half h).win)
    (htc : t.core = (fillPlace u h p v).core) : Returned s t h k p v := by
  obtain ⟨hb, -, hw, ho, hcore, -⟩ := fillPlace_spec hk p v
  have hm := htc.trans (hcore.trans hc)
  refine ⟨fun g j => ?_, htw.trans (hw.trans (by rw [win_of_crew (hu h)])), congrArg Core.ram hm, congrArg Core.nvm hm⟩
  rcases (by cases g <;> cases h <;> simp [HalfId.other] : g = h ∨ g = h.other) with rfl | rfl
  · have hg : t.bank g j = sget Bank.reset (sput Bank.reset (u.ex g).banks k.toNat ((u.bank g k).setPlace p v)) j.toNat :=
      congrArg (fun b => sget Bank.reset b j.toNat) (htb.trans hb)
    rw [hg]
    by_cases hj : j = k
    · subst hj
      rw [if_pos ⟨rfl, rfl⟩, sget_sput_same, bank_of_crew (hu g)]
    · rw [if_neg fun c => hj c.2, sget_sput_ne _ _ _ _ _ fun e => hj (BitVec.eq_of_toNat_eq e)]
      exact bank_of_crew (hu g) j
  · rw [if_neg fun c => absurd c.1 (by cases h <;> simp [HalfId.other])]
    exact (bank_of_banks (congrArg Exec.banks (hto.trans ho)) j).trans (bank_of_crew (hu h.other) j)

theorem countFailed_spec (s : State) (o : OutRead) : (∀ g, (countFailed s o).crew g = s.crew g) ∧ (countFailed s o).free = s.free := by
  simp only [countFailed]
  split
  · exact ⟨fun _ => rfl, rfl⟩
  · split <;> simp [sramFail, nvmFail]

theorem returnGood_clean (s : State) (h : HalfId) (o : OutRead) : returnGood s h o .clean =
    (fillPlace s h o.place o.data.val).onEx h fun e => { e with reads := e.reads.erase o } := by
  unfold returnGood
  cases regionOf o.addr <;> rfl

/-- READ_DATA_RETURN of a read that did not fail (R191). -/
theorem readDataReturn_good {s : State} {h : HalfId} {k : BitVec 5} {o : OutRead} {l : List OutRead} (hk : (s.ex h).running = some k)
    (hl : (s.ex h).reads = o :: l) (hg : o.granted = true) (hv : o.void = false)
    (hr : ∀ r ∈ l, r.granted = true ∨ regionOf r.addr ≠ .retained) (hf : o.failed = false) :
    ∃ t, exec (.readDataReturn h ⟨.same, .clean⟩) s = .next t ∧ (t.ex h).reads = l ∧ Returned s t h k o.place o.data.val := by
  have hs : readReturn s h .same .clean = (fillPlace s h o.place o.data.val).onEx h fun e => { e with reads := e.reads.erase o } := by
    rw [readReturn_head hl hg hv hr, requestsSplit_same, if_neg (by simp), if_neg (by simp [hf]), returnGood_clean]
  refine ⟨_, congrArg Host.Outcome.next hs, ?_, returned_of hk (fun _ => rfl) rfl ?_ ?_ ?_ ?_⟩
  · have hreads := (fillPlace_spec hk o.place o.data.val).2.1
    have : ∀ u : State, (u.ex h).reads = o :: l → ((u.onEx h fun e => { e with reads := e.reads.erase o }).ex h).reads = l := fun u hu => by
      simp [hu]
    exact this _ (hreads.trans hl)
  · simp
  · simp
  · simp
  · exact core_onEx _ _ (by intro e; rfl) (by intro e; rfl)

/-- READ_DATA_RETURN of a read that failed, at its grant or now (R225). -/
theorem readDataReturn_bad {s : State} {h : HalfId} {k : BitVec 5} {o : OutRead} {l : List OutRead} (hk : (s.ex h).running = some k)
    (hl : (s.ex h).reads = o :: l) (hg : o.granted = true) (hv : o.void = false)
    (hr : ∀ r ∈ l, r.granted = true ∨ regionOf r.addr ≠ .retained) {r : ReadOutcome} (hf : o.failed = true ∨ r = .failed) :
    ∃ t, exec (.readDataReturn h ⟨.same, r⟩) s = .next t ∧ (t.ex h).reads.head? = some { o with void := true } ∧
      Returned s t h k o.place (Config.freeCell s.free) := by
  obtain ⟨hc, hfree⟩ := countFailed_spec s o
  have hbad : (o.failed || r == .failed) = true := by simpa using hf
  have hs : readReturn s h .same r = (fillPlace (countFailed s o) h o.place (Config.freeCell s.free)).draw.onEx h fun e =>
      { e with reads := e.reads.map fun r => if r = o then { r with void := true } else r } := by
    rw [readReturn_head hl hg hv hr, requestsSplit_same, if_neg (by simp), if_pos hbad, returnBad, hfree]
  have hku : ((countFailed s o).ex h).running = some k := by rw [ex_of_crew (hc h), hk]
  obtain ⟨-, hreads, -⟩ := fillPlace_spec hku o.place (Config.freeCell s.free)
  rw [ex_of_crew (hc h), hl] at hreads
  refine ⟨_, congrArg Host.Outcome.next hs, ?_, returned_of hku hc (core_countFailed ..) ?_ ?_ ?_ ?_⟩
  · generalize fillPlace (countFailed s o) h o.place (Config.freeCell s.free) = u at hreads
    have hu : (u.half h).ex.reads = o :: l := hreads
    simp [State.ex, hu]
  · simp [State.ex]
  · simp [State.ex]
  · simp
  · exact (core_onEx _ _ (by intro e; rfl) (by intro e; rfl)).trans (core_draw ..)

/-- READ_DATA_RETURN of lanes that asked differently with no majority: the window closes at once (R28). -/
theorem readDataReturn_split {s : State} {h : HalfId} {o : OutRead} {l : List OutRead}
    (hl : (s.ex h).reads = o :: l) (hg : o.granted = true) (hv : o.void = false)
    (hr : ∀ r ∈ l, r.granted = true ∨ regionOf r.addr ≠ .retained) (h3 : (s.half h).tal.inService.length = 3)
    (hroom : closeRoom s h 1 = true) (hm : s.runMode h ≠ mReading) (r : ReadOutcome) :
    ∃ t c, exec (.readDataReturn h ⟨.split, r⟩) s = .next t ∧ (t.half h).win.closed = (s.half h).win.closed ++ [c] ∧
      c.forced = true ∧ (t.ex h).reads = (s.ex h).reads ∧ ∀ g j, t.bank g j = s.bank g j := by
  generalize hu : (s.onWin h fun w => { w with group := true }) = u
  have hs : readReturn s h .split r = closeRaw u h true := by
    have hsplit : requestsSplit s h .split = true := by simp [requestsSplit, h3]
    rw [readReturn_head hl hg hv hr, hsplit, if_pos rfl, clashClose, if_pos hroom, hu]
  have hclosed : (u.half h).win.closed = (s.half h).win.closed := by rw [← hu, half_onWin]
  have hblank : (u.half h).win.blank = false := by rw [← hu, half_onWin]; simp [Windows.blank]
  have hex : ∀ g, u.ex g = s.ex g := fun g => by rw [← hu]; cases h <;> cases g <;> rfl
  have hmode : u.runMode h = s.runMode h := by rw [← hu]; cases h <;> rfl
  obtain ⟨c, n, -, hcf, e⟩ := closeRaw_logged hblank (by rw [hmode]; exact hm) true
  have hc : ((closeRaw u h true).half h).win.closed = (u.half h).win.closed ++ [c] := congrArg (fun x : Still => x.win.closed) e
  have hreads : ((closeRaw u h true).ex h).reads = (u.ex h).reads := congrArg (fun x : Still => x.ex.reads) e
  have hbanks : ((closeRaw u h true).ex h).banks = (u.ex h).banks := congrArg (fun x : Still => x.ex.banks) e
  refine ⟨_, c, congrArg Host.Outcome.next hs, hc.trans (by rw [hclosed]), hcf, hreads.trans (by rw [hex]), fun g j => ?_⟩
  rcases (by cases g <;> cases h <;> simp [HalfId.other] : g = h ∨ g = h.other) with rfl | rfl
  · exact bank_of_banks (hbanks.trans (by rw [hex])) j
  · have ho : (closeRaw u h true).ex h.other = u.ex h.other := congrArg Own.ex (other_closeRaw u h true)
    exact bank_of_banks (congrArg Exec.banks (ho.trans (hex _))) j

/-! ## MEMORY_GRANT (R335, R336) -/

theorem placed_one (r : ArbReq) : placed [] [r] = [(r, true)] := by
  have hp : 0 < places r.source := by cases r.source <;> decide
  simp [placed, hp]

theorem portGrant_one (r : ArbReq) : portGrant [r] = [{ r with atBank := true }] := by
  simp only [portGrant, placed_one]
  cases hb : r.atBank
  · simp [hb, levelBest]
  · simp only [List.filter, hb, Bool.not_true, Bool.and_false, List.map, levelBest]
    rw [← hb]

theorem ageBy_one (n : Nat) (r : ArbReq) : ageBy n [r] = [{ r with age := r.age + n }] := by simp [ageBy, placed_one]

theorem portCycles_one (n : Nat) : ∀ r : ArbReq, ∃ a b, portCycles n [r] = [{ r with age := a, atBank := b }] := by
  induction n with
  | zero => exact fun r => ⟨r.age, r.atBank, rfl⟩
  | succ n ih =>
    intro r
    obtain ⟨a, b, h⟩ := ih { r with age := r.age + 1, atBank := true }
    exact ⟨a, b, by rw [portCycles, ageBy_one, portGrant_one, h]⟩

/-- A lone request has come to its bank after any number of cycles (R335, R336). -/
theorem afterCycles_one (n : Nat) (r : ArbReq) : ∃ a, afterCycles n [r] = [{ r with age := a, atBank := true }] := by
  obtain ⟨a, b, h⟩ := portCycles_one (min n 1) r
  exact ⟨a + (n - min n 1), by simp only [afterCycles, List.length_singleton, h, ageBy_one, portGrant_one]⟩

/-- A state in which a half's memory unit has served its lone request. -/
structure Served (s u : State) (h : HalfId) (ctx : BitVec 6) : Prop where
  port : u.port h = ⟨[], ctx, (s.half h).mem.bad⟩
  crew : ∀ g, u.crew g = s.crew g
  core : u.core = s.core

/-- A lone request at an SRAM bank is granted. -/
theorem memoryGrant_one {s : State} {h : HalfId} {bank : BitVec 4} (x : GrantInput) {r : ArbReq} (harb : (s.half h).mem.arb = [r])
    (hb : r.bank = bank) (hlow : bank.toNat < 4) :
    ∃ u, Served s u h r.ctx ∧ memoryGrant s h bank x = nvmPump (grantWork u h bank x r.work) h := by
  obtain ⟨a, ha⟩ := afterCycles_one x.cycles r
  generalize hr : { r with age := a, atBank := true } = q at ha
  generalize hv : (s.onMem h fun m => { m with arb := afterCycles x.cycles m.arb }) = v
  have hvm : (v.half h).mem = { (s.half h).mem with arb := [q] } := by rw [← hv, half_onMem]; simp [harb, ha]
  have hq : (v.half h).mem.arb.filter (fun r => r.atBank && r.bank == bank && grantable v h r) = [q] := by
    have hg : grantable v h q = true := by
      simp [grantable, ArbReq.programs, ← hr, hb, Nat.not_le.2 hlow]
    simp [hvm, ← hr, hb] at hg ⊢
    exact hg
  refine ⟨grantPerf (v.onMem h fun m => { m with arb := m.arb.erase q, lastServed := q.ctx }) h q, ⟨?_, fun g => ?_, ?_⟩, ?_⟩
  · rw [port_grantPerf]
    simp [State.port, hvm, ← hr]
  · rw [crew_grantPerf, crew_onMem, ← hv, crew_onMem]
  · rw [core_grantPerf, core_onMem, ← hv, core_onMem]
  · simp only [memoryGrant, hv, hq, levelBest]
    rw [← hr, hb]

theorem fencesOn_not {s : State} (hf : ∀ h, (s.ex h).fencing = false) : fencesOn s = s := by
  have h1 : ∀ h, fenceOn s h = s := fun h => by simp [fenceOn, hf h]
  rw [fencesOn, h1, h1]

/-- The read that the bank's grant captures. -/
theorem captureRead_head {s : State} {h : HalfId} {bank : BitVec 4} {o : OutRead} {l : List OutRead} (hl : (s.ex h).reads = o :: l)
    (hg : o.granted = false) (hrem : o.remote = none) (ha : regionOf o.addr = .sram h) (hb : bankOf o.addr = bank)
    (hbad : (s.half h).mem.bad.contains (o.addr.toNat / 2) = false) :
    captureRead s h bank = (perfAccess s o.addr true).onEx h fun e => { e with reads := e.reads.map fun q =>
      if q = o then { o with granted := true, data := sget TCell.zero s.ram o.addr.toNat } else q } := by
  have hn : nextRead (s.ex h) bank = some o := by simp [nextRead, hl, hg, hrem, hb]
  have hp : ((perfAccess s o.addr true).half h).mem.bad = (s.half h).mem.bad := congrArg Port.bad (port_perfAccess s h o.addr true)
  have hr : (perfAccess s o.addr true).ram = s.ram := congrArg Core.ram (core_perfAccess ..)
  have hread : homeRead (perfAccess s o.addr true) o.addr o.tenant .clean =
      (perfAccess s o.addr true, .ok (sget TCell.zero s.ram o.addr.toNat)) := by
    simp only [homeRead, ha, sramRead, hp, hbad, hr]
    rfl
  simp only [captureRead, hn, hread]

/-- A write to a cell of SRAM leaves the requests of the memory units. -/
theorem arb_homeWritesMeet {s : State} {h : HalfId} {a : Addr} (ha : regionOf a = .sram h) (k : BitVec 10) (c : TCell)
    (r : ReadOutcome) : ((homeWritesMeet s [(a, k, c)] r).half h).mem.arb = (s.half h).mem.arb := by
  have hp : ∀ u : State, ((perfAccess u a false).half h).mem.arb = (u.half h).mem.arb := fun u =>
    congrArg Port.arb (port_perfAccess u h a false)
  have hrep : ∀ (u : State) (cls : BitVec 5) (x y : Cell), ((reportHalf u h .mem cls none none x y).half h).mem.arb =
      (u.half h).mem.arb := fun u cls x y => congrArg Port.arb (port_reportHalf ..)
  have hw : ∀ (u : State) (b : Addr) (d : TCell), (ramWrite u b d).half h = u.half h := fun u b d => by cases h <;> rfl
  have hm : ((meetLine s a r).half h).mem.arb = (s.half h).mem.arb := by cases r <;> simp [meetLine, ha]
  rw [homeWritesMeet_one]
  simp only [homeWrite, ha, sramWrite]
  split <;> simp [hrep, hw, hp, hm]

theorem memoryGrant_laneRead {s : State} {h : HalfId} {bank : BitVec 4} {age : Nat} {ctx : BitVec 6} {p : Bool} (x : GrantInput)
    {o : OutRead} {l : List OutRead} (hf : ∀ g, (s.ex g).fencing = false) (hlow : bank.toNat < 4)
    (harb : (s.half h).mem.arb = [⟨.laneRead, bank, ctx, age, .laneRead, p⟩]) (hl : (s.ex h).reads = o :: l)
    (hg : o.granted = false) (hrem : o.remote = none) (ha : regionOf o.addr = .sram h) (hb : bankOf o.addr = bank)
    (hbad : (s.half h).mem.bad.contains (o.addr.toNat / 2) = false) :
    ∃ t, exec (.memoryGrant h bank x) s = .next t ∧ (t.half h).mem.arb = [] ∧ (t.half h).mem.lastServed = ctx ∧
      (t.ex h).reads.head? = some { o with granted := true, data := sget TCell.zero s.ram o.addr.toNat } ∧ t.ram = s.ram ∧
      t.nvm = s.nvm ∧ ∀ g j, t.bank g j = s.bank g j := by
  obtain ⟨u, ⟨hport, hcrew, hcore⟩, hgrant⟩ := memoryGrant_one x harb rfl hlow
  have hub : (u.half h).mem.bad = (s.half h).mem.bad := congrArg Port.bad hport
  have hul : (u.ex h).reads = o :: l := by rw [ex_of_crew (hcrew h), hl]
  have hcap := captureRead_head hul hg hrem ha hb (by rw [hub, hbad])
  generalize hv : captureRead u h bank = v at hcap
  have ht : memoryGrant s h bank x = nvmPump v h := hgrant.trans (by rw [← hv]; rfl)
  have hpex : ∀ g, (perfAccess u o.addr true).ex g = s.ex g := fun g => ex_of_crew ((crew_perfAccess ..).trans (hcrew g))
  have hvex : v.ex h = (fun e : Exec => { e with reads := e.reads.map fun q =>
      if q = o then { o with granted := true, data := sget TCell.zero u.ram o.addr.toNat } else q }) (s.ex h) := by
    rw [hcap, ← hpex h]
    cases h <;> rfl
  have hvo : v.ex h.other = s.ex h.other := by rw [hcap, ← hpex]; cases h <;> rfl
  have hvc : v.core = s.core := by
    rw [hcap]
    exact (core_onEx _ _ (by intro e; rfl) (by intro e; rfl)).trans ((core_perfAccess ..).trans hcore)
  have hvp : v.port h = u.port h := by
    rw [hcap, ← port_perfAccess u h o.addr true]
    cases h <;> rfl
  have htx : ∀ g, (nvmPump v h).ex g = v.ex g := fun g => ex_of_crew (crew_nvmPump ..)
  have htp : (nvmPump v h).port h = ⟨[], ctx, (s.half h).mem.bad⟩ := (port_nvmPump ..).trans (hvp.trans hport)
  have htc : (nvmPump v h).core = s.core := (core_nvmPump ..).trans hvc
  have hside : ∀ g, ((nvmPump v h).ex g).banks = (s.ex g).banks ∧ ((nvmPump v h).ex g).fencing = (s.ex g).fencing := fun g => by
    rw [htx]
    rcases (by cases g <;> cases h <;> simp [HalfId.other] : g = h ∨ g = h.other) with rfl | rfl
    · rw [hvex]; exact ⟨rfl, rfl⟩
    · rw [hvo]; exact ⟨rfl, rfl⟩
  refine ⟨nvmPump v h, ?_, congrArg Port.arb htp, congrArg Port.lastServed htp, ?_, congrArg Core.ram htc, congrArg Core.nvm htc,
    fun g j => bank_of_banks (hside g).1 j⟩
  · show Host.Outcome.next (fencesOn (memoryGrant s h bank x)) = _
    rw [ht, fencesOn_not fun g => (hside g).2.trans (hf g)]
  · rw [htx, hvex, show u.ram = s.ram from congrArg Core.ram hcore]
    simp [hl]

theorem memoryGrant_write {s : State} {h : HalfId} {bank : BitVec 4} {src : ArbSource} {age : Nat} {ctx : BitVec 6} {p : Bool}
    (x : GrantInput) {a : Addr} {k : BitVec 10} {c : TCell} (hf : ∀ g, (s.ex g).fencing = false) (hb : bankOf a = bank)
    (ha : regionOf a = .sram h) (harb : (s.half h).mem.arb = [⟨src, bank, ctx, age, .writes [(a, k, c)], p⟩]) :
    ∃ t, exec (.memoryGrant h bank x) s = .next t ∧ (t.half h).mem.arb = [] ∧ t.nvm = s.nvm ∧
      Wrote s.ram t.ram a c ((s.half h).mem.bad.contains (a.toNat / 2) = true ∨ x.outcome = .failed) := by
  have hlow : bank.toNat < 4 := by
    rw [← hb, bankOf, ha]
    simp only [BitVec.toNat_ofNat]
    omega
  obtain ⟨u, ⟨hport, hcrew, hcore⟩, hgrant⟩ := memoryGrant_one x harb rfl hlow
  have hub : (u.half h).mem.bad = (s.half h).mem.bad := congrArg Port.bad hport
  have hua : (u.half h).mem.arb = [] := congrArg Port.arb hport
  have hur : u.ram = s.ram := congrArg Core.ram hcore
  generalize hv : homeWritesMeet u [(a, k, c)] x.outcome = v
  have ht : memoryGrant s h bank x = nvmPump v h := hgrant.trans (by rw [← hv]; rfl)
  have hcv : ∀ g, (nvmPump v h).crew g = s.crew g := fun g => by rw [crew_nvmPump, ← hv, crew_homeWritesMeet, hcrew]
  refine ⟨nvmPump v h, ?_, ?_, congrArg Crew.nvm (hcv h), ?_⟩
  · show Host.Outcome.next (fencesOn (memoryGrant s h bank x)) = _
    rw [ht, fencesOn_not fun g => by rw [ex_of_crew (hcv g), hf]]
  · rw [show ((nvmPump v h).half h).mem.arb = (v.half h).mem.arb from congrArg Port.arb (port_nvmPump ..), ← hv,
      arb_homeWritesMeet ha, hua]
  · rw [show (nvmPump v h).ram = v.ram from congrArg Core.ram (core_nvmPump ..), ← hv, ← hur, ← hub]
    exact homeWritesMeet_sram ha ..

/-! ## The obligation -/

/-- Settles O36, command by command: each is carried to the access it makes, and what counts, reports and pumps leaves the rest. -/
theorem readsReturnAndWritesDrain : Obligations.ReadsReturnAndWritesDrain := by
  unfold Obligations.ReadsReturnAndWritesDrain
  intro s h hfed
  refine ⟨fun hf0 hf1 => ?_, fun k o l hk hl hg hv hr => ?_, fun e l a k r hi hsb hag ht hf => ?_, fun k a x0 x1 hk hw =>
    registerWrite_taken hk hw x1⟩
  · have hf : ∀ g, (s.ex g).fencing = false := by rintro (_ | _) <;> assumption
    refine ⟨fun bank age ctx p x o l hlow harb hl hg hrem ha hb hbad _ =>
      memoryGrant_laneRead x hf hlow harb hl hg hrem ha hb hbad, fun bank src age ctx p x a k c hb ha harb => ?_⟩
    obtain ⟨t, he, hq, hn, hcell, hkept, hzero⟩ := memoryGrant_write x hf hb ha harb
    refine ⟨t, he, hq, hcell, hn, fun hbad hx => hkept ?_, hzero⟩
    rintro (hc | hc)
    · exact absurd hc (by rw [hbad]; decide)
    · exact hx hc
  · refine ⟨fun hf => ?_, fun r hf => ?_, fun r h3 hroom hm => readDataReturn_split hl hg hv hr h3 hroom hm r⟩
    · obtain ⟨t, he, hreads, hback⟩ := readDataReturn_good hk hl hg hv hr hf
      exact ⟨t, he, hreads, hback.bank, hback.win, hback.ram, hback.nvm⟩
    · obtain ⟨t, he, hreads, hback⟩ := readDataReturn_bad hk hl hg hv hr hf
      exact ⟨t, he, hreads, hback.bank, hback.win, hback.ram, hback.nvm⟩
  · refine ⟨fun hlink hl hr => ?_, fun f q hlink hq htf hl ha hm => ?_, fun ha hp => storeDrain_blocked r hfed hi hsb hag ht hf ha hp,
      fun hlink hfar => storeDrain_far r hfed hi hsb hag ht hf hlink hfar⟩
    · obtain ⟨t, he, hcrew, hcell, hkept, hzero⟩ := storeDrain_single r hfed hi hsb hag ht hf hlink hl hr
      refine ⟨t, he, (win_of_crew (hcrew h)).trans (by rw [half_onWin]), hcell, ?_, fun g j => ?_, fun hk => hkept ?_,
        fun hs hc => hzero ⟨hs, hc⟩⟩
      · exact (congrArg Crew.nvm (hcrew h)).trans (by cases h <;> rfl)
      · exact (bank_of_crew (hcrew g) j).trans (bank_onWin ..)
      · rintro ⟨hs, hc⟩
        obtain hret | ⟨hb, hx⟩ := hk
        · exact absurd (hret.symm.trans hs) (by simp)
        · obtain hc | hc := hc
          · exact absurd hc (by rw [hb]; decide)
          · exact hx hc
    · subst hq
      obtain ⟨t, he, hcrew, hram⟩ := storeDrain_pair r hfed hi hsb hag ht hf hlink htf hl ha hm
      refine ⟨t, he, (win_of_crew (hcrew h)).trans (by rw [half_onWin]), ?_, ?_, fun i hi hj => ?_⟩ <;> rw [hram]
      · exact (ramWrite_keeps _ _ (mate_toNat a).2.symm).trans (ramWrite_read ..)
      · exact ramWrite_read ..
      · exact (ramWrite_keeps _ _ hj).trans (ramWrite_keeps _ _ hi)

end Sys2Proof.Machine

/-! # Verdicts (R33, R200, R250-R258, R272, R273; O35) -/

namespace Sys2Proof.Machine

/-! ## A tick whose close has agreed (R33, R373) -/

/-- Where nothing waits for an agreement, none takes effect. -/
theorem settleAgreed_nothing {s : State} {h : HalfId} (ha : (s.half h).win.acts = []) (hr : (s.ex h).rstPend = []) :
    settleAgreed s h = s := by
  have hacts : actsSettle s h = s := by
    simp only [actsSettle, ha]
    refine onWin_self ?_
    rw [show List.filter _ (s.half h).win.acts = (s.half h).win.acts by rw [ha]; rfl]
  rw [settleAgreed, hacts]
  simp only [resetsSettle, hr]
  refine onEx_self ?_
  rw [show List.filter _ (s.ex h).rstPend = (s.ex h).rstPend by rw [hr]; rfl]

/-- What a tick that acts leaves of the half's frame, and of its governor. -/
structure Acted (p q : Pace) : Prop where
  frame : q.frame = p.frame + 1
  ticked : q.ticked = true

theorem pace_frameCount (s : State) (h : HalfId) : ((s.onSch h fun c => { c with frame := c.frame + 1 }).crew h).pace =
    { (s.crew h).pace with frame := (s.crew h).pace.frame + 1 } := by
  cases h <;> rfl

theorem reload_acts (s : State) (h : HalfId) (temp : Int) :
    ((reload s h temp).crew h).pace.frame = (s.crew h).pace.frame ∧ ((reload s h temp).crew h).pace.ticked = true := by
  cases h <;> exact ⟨rfl, rfl⟩

theorem installAccepted_frame (s : State) (h : HalfId) : ((installAccepted s h).crew h).pace.frame = (s.crew h).pace.frame := by
  simp only [installAccepted]
  split
  · rfl
  · cases h <;> rfl
  · cases h <;> rfl

theorem tickWork_acted (s : State) (h : HalfId) (x : TickInput) : Acted (s.crew h).pace ((tickWork h s x).crew h).pace := by
  simp only [tickWork]
  have hp : ((revokeHeadLease (cutEntry (countSkips (useCycles s h (tickOf x h).1) h) h) h).crew h).pace = (s.crew h).pace := by simp
  generalize revokeHeadLease (cutEntry (countSkips (useCycles s h (tickOf x h).1) h) h) h = u at hp
  have hf := installAccepted_frame u h
  generalize installAccepted u h = v at hf
  obtain ⟨hrf, hrt⟩ := reload_acts v h (tickOf x h).2
  generalize reload v h (tickOf x h).2 = w at hrf hrt
  have hpick : ((tickPick s ((exchangeImages (grantAll h (16 + v.store.length) w) h).onDbk h fun q => { q with commits := 0 }) h).crew
      h).pace = (w.crew h).pace := by simp
  generalize tickPick s _ h = a at hpick
  have hend : ((dbkKick (tallyTick (a.onSch h fun c => { c with frame := c.frame + 1 }) h) h).crew h).pace =
      { (w.crew h).pace with frame := (w.crew h).pace.frame + 1 } := by
    simp only [crew_dbkKick, pace_tallyTick, pace_frameCount, hpick]
  rw [hend]
  exact ⟨congrArg (· + 1) (hrf.trans (hf.trans (by rw [hp]))), hrt⟩

theorem ticksSettle_one {s : State} {h : HalfId} {a : Option Cell × TickInput} (ht : (s.half h).win.ticks = [a])
    (hd : tickDue (s.half h).win a = true) : ticksSettle s h = tickWork h (s.onWin h fun w => { w with ticks := [] }) a.2 := by
  have hw : s.onWin h (fun w => { w with ticks := w.ticks.filter fun t => !tickDue w t }) =
      s.onWin h fun w => { w with ticks := [] } := by
    cases h <;> simp only [State.onWin, State.onHalf, State.setHalf, State.half] at ht hd ⊢ <;> simp [ht, hd]
  simp only [ticksSettle, hw]
  simp [ht, hd]

/-- A tick whose close has agreed, with nothing else waiting, acts. -/
theorem settled_tick {s : State} {h : HalfId} {a : Option Cell × TickInput} (ha : (s.half h).win.acts = [])
    (hr : (s.ex h).rstPend = []) (ht : (s.half h).win.ticks = [a]) (hd : tickDue (s.half h).win a = true) :
    settled s h = tickWork h (s.onWin h fun w => { w with ticks := [] }) a.2 := by
  have hw : settleWaits s h = true := by simp [settleWaits, ht, hd]
  rw [settled, if_pos hw, settleAll, settleAgreed_nothing ha hr, ticksSettle_one ht hd]

theorem settled_nothing {s : State} {h : HalfId} (ha : (s.half h).win.acts = []) (hr : (s.ex h).rstPend = [])
    (ht : ∀ a ∈ (s.half h).win.ticks, tickDue (s.half h).win a = false) : settled s h = s := by
  have hw : settleWaits s h = false := by simpa [settleWaits, ha, hr] using ht
  rw [settled, hw]
  rfl

/-- The ticks that await a verdict, and the fed word of a half. -/
def State.await (s : State) (h : HalfId) : List (Option Cell × TickInput) × Option Fed := ((s.half h).win.ticks, (s.ex h).fed)

theorem await_of_crew {s t : State} {h : HalfId} (e : t.crew h = s.crew h) : t.await h = s.await h := by
  simp only [State.await, win_of_crew e, ex_of_crew e]

theorem await_eq (s : State) (h : HalfId) : s.await h = ((s.still h).win.ticks, (s.still h).ex.fed) := rfl

theorem await_of_still {s t : State} {h : HalfId} (e : t.still h = s.still h) : t.await h = s.await h := by
  rw [await_eq, e, await_eq]

section
variable (s : State) (h : HalfId)

theorem await_onEx {f : Exec → Exec} (hf : ∀ e, (f e).fed = e.fed) : (s.onEx h f).await h = s.await h := by
  simp [State.await, State.ex, hf]

theorem await_onWin {f : Windows → Windows} (hf : ∀ w, (f w).ticks = w.ticks) : (s.onWin h f).await h = s.await h := by
  simp [State.await, State.ex, hf]

theorem await_onSch (f : Sched → Sched) : (s.onSch h f).await h = s.await h := by cases h <;> rfl
theorem await_onGov (f : Gov → Gov) : (s.onGov h f).await h = s.await h := by cases h <;> rfl
theorem await_onTal (f : Tally → Tally) : (s.onTal h f).await h = s.await h := by cases h <;> rfl
theorem await_onBank (k : BitVec 5) (f : Bank → Bank) : (s.onBank h k f).await h = s.await h := by cases h <;> rfl

theorem await_closeRaw (forced : Bool) : (closeRaw s h forced).await h = s.await h := by
  cases hb : (s.half h).win.blank
  · by_cases hm : s.runMode h = mReading
    · obtain ⟨m, r, e⟩ := closeRaw_reading hb hm forced
      rw [await_eq, e]
      rfl
    · obtain ⟨c, n, -, -, e⟩ := closeRaw_logged hb hm forced
      rw [await_eq, e]
      rfl
  · rw [closeRaw_blank hb]

theorem await_parkArith (k : BitVec 5) : (parkArith s h k).await h = s.await h := by
  simp only [parkArith]
  split
  · rfl
  · exact (await_onEx _ _ (by intro e; rfl)).trans (await_onBank ..)

theorem await_leaveRunning : (leaveRunning s h).await h = s.await h := by
  simp only [leaveRunning]
  split
  · exact (await_onEx _ _ (by intro e; rfl)).trans (await_closeRaw ..)
  · exact (await_onEx _ _ (by intro e; rfl)).trans ((await_parkArith ..).trans (await_closeRaw ..))

theorem await_endEntry : (endEntry s h).await h = s.await h := by
  simp only [endEntry]
  split
  · rfl
  · next i hi =>
    have hl : ∀ k n, (leaseRelease (spend s h n) h k).await h = s.await h := fun k n =>
      await_of_crew ((crew_leaseRelease ..).trans (crew_spend ..))
    split
    · simp only [await_onSch, hl]
    · split
      · split
        · exact (await_onEx _ _ (by intro e; rfl)).trans ((await_leaveRunning ..).trans ((await_onSch ..).trans (hl ..)))
        · simp only [await_onSch, hl]
      · exact (await_onEx _ _ (by intro e; rfl)).trans ((await_onSch ..).trans (hl ..))

theorem await_lineResume : (lineResume s h).await h = s.await h := by
  simp only [lineResume]
  split
  · rfl
  · cases h <;> rfl

theorem await_switchTo (r : Option (BitVec 5)) (cut : Bool) : (switchTo s h r cut).await h = s.await h := by
  have hl : ∀ u : State, (logInput u h .switch 0 0 false (runCode r) (if cut then 1 else 0)).await h = u.await h := fun u =>
    await_onWin _ _ (by intro w; rfl)
  simp only [switchTo]
  rw [hl, await_lineResume]
  refine (await_onEx _ _ (by intro e; rfl)).trans ?_
  split
  · rfl
  · exact await_leaveRunning ..

theorem await_startEntry (i : BitVec 7) (e : SchEntry) : (startEntry s h i e).await h = s.await h := by
  have hl : ∀ n, (startLease (spend s h n) h i e).await h = s.await h := fun n =>
    await_of_crew ((crew_startLease ..).trans (crew_spend ..))
  simp only [startEntry]
  split
  · rw [await_switchTo, await_onSch, hl]
  · exact (await_of_crew (crew_raiseHalf ..)).trans ((await_onSch ..).trans (hl ..))

theorem await_schedPick : (schedPick s h).await h = s.await h := by
  simp only [schedPick]
  split
  · rfl
  · split
    · exact await_startEntry ..
    · split
      · exact (await_of_crew (crew_completeIdle ..)).trans ((await_onEx _ _ (by intro e; rfl)).trans (await_onSch ..))
      · exact await_onSch ..

theorem await_tickPick (s0 : State) : (tickPick s0 s h).await h = s.await h := by
  simp only [tickPick]
  split
  · exact await_schedPick ..
  · split
    · exact (await_switchTo ..).trans (await_schedPick ..)
    · exact await_schedPick ..

theorem await_cutEntry : (cutEntry s h).await h = s.await h := by
  simp only [cutEntry]
  split
  · exact (await_onSch ..).trans (await_endEntry ..)
  · rfl

theorem await_installAccepted : (installAccepted s h).await h = s.await h := by
  simp only [installAccepted]
  split
  · rfl
  · exact await_onSch ..
  · exact (await_onGov ..).trans (await_onSch ..)

theorem await_tallyTick : (tallyTick s h).await h = s.await h := by
  simp only [tallyTick]
  split
  · rfl
  · exact await_onTal ..

/-- The work on a tick leaves the ticks that await a verdict, and the fed word. -/
theorem await_tickWork (x : TickInput) : (tickWork h s x).await h = s.await h := by
  simp only [tickWork]
  refine (await_of_crew (crew_dbkKick ..)).trans ((await_tallyTick ..).trans ((await_onSch ..).trans ((await_tickPick ..).trans ?_)))
  refine (await_of_crew ((crew_onDbk ..).trans ((crew_exchangeImages ..).trans (crew_grantAll ..)))).trans ?_
  refine ((await_onSch ..).trans (await_onGov ..)).trans ((await_installAccepted ..).trans ?_)
  refine (await_of_crew (crew_revokeHeadLease ..)).trans ((await_cutEntry ..).trans ?_)
  exact await_of_crew ((crew_countSkips ..).trans (crew_useCycles ..))

end

/-! ## What the lanes' accounts come to (R251, R252) -/

theorem laneView_plain {c : ClosedWin} (hp : c.prtLanes = 0) (v : VerdictInput) (l : Lane) : laneView c v l = reportOf v l := by
  have hf : prtFlip c.prtLanes l = 0 := by rw [hp]; cases l <;> rfl
  simp only [laneView, hf]
  cases reportOf v l with
  | none => rfl
  | some r => simp

theorem voted_sound {c : ClosedWin} {v : VerdictInput} (ha : v.tellerA = none) (hb : v.tellerB = none) (hc : v.tellerC = none) :
    voted c v = (soundVerdict c v, 0) := by
  simp [voted, tellerVerdict, ha, hb, hc, majority]

theorem soundVerdict_many {c : ClosedWin} {v : VerdictInput} (hf : c.forced = false) (hs : 2 ≤ (signed c v).length) :
    (odd c v = [] → soundVerdict c v = .unanimous) ∧ (∀ l, odd c v = [l] → soundVerdict c v = .dissent l) ∧
    (2 ≤ (odd c v).length → soundVerdict c v = .noMajority) := by
  match hsig : signed c v, hs with
  | _ :: _ :: _, _ =>
    refine ⟨fun h => by simp [soundVerdict, hsig, hf, h], fun l h => by simp [soundVerdict, hsig, hf, h], fun h => ?_⟩
    match hodd : odd c v, h with
    | _ :: _ :: _, _ => simp [soundVerdict, hsig, hf, hodd]

/-- Equal accounts of all lanes of the window are unanimous. -/
theorem soundVerdict_equal {c : ClosedWin} {v : VerdictInput} {x : LaneReport} (hf : c.forced = false) (hp : c.prtLanes = 0)
    (hn : c.lanes.Nodup) (hne : c.lanes ≠ []) (hx : ∀ l ∈ c.lanes, reportOf v l = some x) : soundVerdict c v = .unanimous := by
  have hsig : signed c v = c.lanes := List.filter_eq_self.2 fun l hl => by rw [laneView_plain hp, hx l hl]; rfl
  match hcl : c.lanes, hne with
  | [l], _ => simp [soundVerdict, hsig, hcl]
  | l :: m :: q, _ =>
    refine (soundVerdict_many hf (by simp [hsig, hcl])).1 (List.filter_eq_nil_iff.2 fun k hk hall => ?_)
    obtain ⟨j, hj, hjk⟩ : ∃ j ∈ c.lanes, j ≠ k := by
      rw [hcl] at hn ⊢
      by_cases hlk : l = k
      · exact ⟨m, by simp, fun hmk => by simp [hlk, hmk] at hn⟩
      · exact ⟨l, by simp, hlk⟩
    have hjk' := List.all_eq_true.1 hall j hj
    simp [hjk, agree, laneView_plain hp, hx k hk, hx j hj] at hjk'

/-- Two lanes of three that agree outvote the third. -/
theorem soundVerdict_dissent {c : ClosedWin} {v : VerdictInput} {x : LaneReport} {l : Lane} (hf : c.forced = false)
    (hp : c.prtLanes = 0) (hl : c.lanes = lanes) (hx : ∀ m, m ≠ l → reportOf v m = some x) (hd : reportOf v l ≠ some x) :
    soundVerdict c v = .dissent l := by
  have hv := laneView_plain hp v
  have hsig : (lanes.filter fun m => m != l) ⊆ signed c v := by
    intro m hm
    have hml : m ≠ l := by simpa using (List.mem_filter.1 hm).2
    refine List.mem_filter.2 ⟨by rw [hl]; cases m <;> decide, ?_⟩
    rw [hv, hx m hml]
    rfl
  have hlen : 2 ≤ (signed c v).length := by
    have h2 : (lanes.filter fun m => m != l).length = 2 := by cases l <;> rfl
    have hnd : (lanes.filter fun m => m != l).Nodup := List.Nodup.filter _ (by decide)
    rw [← h2]
    exact (List.subperm_of_subset hnd hsig).length_le
  refine (soundVerdict_many hf hlen).2.1 l ?_
  cases l <;> simp [odd, hl, lanes, agree, hv, hx, hd, Ne.symm hd]

/-- Three accounts that all differ have no majority. -/
theorem soundVerdict_split {c : ClosedWin} {v : VerdictInput} (hf : c.forced = false) (hp : c.prtLanes = 0) (hl : c.lanes = lanes)
    (hs : ∀ l, (reportOf v l).isSome = true) (hd : ∀ l m, l ≠ m → reportOf v l ≠ reportOf v m) :
    soundVerdict c v = .noMajority := by
  have hsig : signed c v = lanes := by
    rw [signed, hl]
    exact List.filter_eq_self.2 fun l _ => by rw [laneView_plain hp, hs l]
  have hodd : odd c v = lanes := by
    rw [odd, hl]
    refine List.filter_eq_self.2 fun l _ => List.all_eq_true.2 fun m _ => ?_
    by_cases hml : m = l
    · simp [hml]
    · simp [agree, laneView_plain hp, hd l m (Ne.symm hml)]
  exact (soundVerdict_many hf (by rw [hsig]; decide)).2.2 (by rw [hodd]; decide)

/-! ## What a mismatch charges (R272, R273) -/

/-- `t` is `s` but for what an event of mismatch changes: the reports, the sources and the counts; the lanes in `l` are charged
(R272, R273). -/
structure Charged (s t : State) (h : HalfId) (l : List Lane) : Prop where
  win : (t.half h).win = (s.half h).win
  ex : ∀ g, t.ex g = s.ex g
  halt : (t.dbgHalf h).halt = (s.dbgHalf h).halt
  lane : (t.half h).tal.lane = (s.half h).tal.lane
  fenceReq : (t.half h).tal.fenceReq = (s.half h).tal.fenceReq
  core : t.core = s.core
  charged : ∀ m ∈ l, ((t.trec h).lane m).life = satInc ((s.trec h).lane m).life ∧
    ((t.trec h).lane m).bucket = min 4 (((s.trec h).lane m).bucket + 1)
  others : ∀ m, m ∉ l → (t.trec h).lane m = (s.trec h).lane m

theorem Charged.refl (s : State) (h : HalfId) : Charged s s h [] :=
  ⟨rfl, fun _ => rfl, rfl, rfl, rfl, rfl, fun _ hm => absurd hm (by simp), fun _ _ => rfl⟩

theorem Charged.trans {s t u : State} {h : HalfId} {l m : List Lane} (a : Charged s t h l) (b : Charged t u h m)
    (hd : ∀ x ∈ l, x ∉ m) : Charged s u h (l ++ m) := by
  refine ⟨b.win.trans a.win, fun g => (b.ex g).trans (a.ex g), b.halt.trans a.halt, b.lane.trans a.lane, b.fenceReq.trans a.fenceReq,
    b.core.trans a.core, fun x hx => ?_, fun x hx => ?_⟩
  · by_cases hl : x ∈ l
    · rw [b.others x (hd x hl)]
      exact a.charged x hl
    · rw [← a.others x hl]
      exact b.charged x ((List.mem_append.1 hx).resolve_left hl)
  · have hx' := fun y => hx (List.mem_append.2 y)
    rw [b.others x fun y => hx' (.inr y), a.others x fun y => hx' (.inl y)]

theorem Charged.after {s t u : State} {h : HalfId} {l : List Lane} (b : Charged t u h []) (a : Charged s t h l) : Charged s u h l := by
  simpa using a.trans b (by simp)

theorem charged_of_crew {s t : State} {h : HalfId} (e : ∀ g, t.crew g = s.crew g) (hc : t.core = s.core) : Charged s t h [] :=
  ⟨win_of_crew (e h), fun g => ex_of_crew (e g), halt_of_crew (e h), by rw [tal_of_crew (e h)], by rw [tal_of_crew (e h)], hc,
    fun _ hm => absurd hm (by simp), fun m _ => by rw [trec_of_crew (e h)]⟩

theorem charged_onTal (s : State) (h : HalfId) {f : Tally → Tally} (hl : ∀ t, (f t).lane = t.lane)
    (hr : ∀ t, (f t).fenceReq = t.fenceReq) : Charged s (s.onTal h f) h [] := by
  refine ⟨?_, fun g => ?_, ?_, ?_, ?_, core_onTal .., fun _ hm => absurd hm (by simp), fun m _ => by rw [trec_onTal]⟩
  · rw [half_onTal]
  · cases h <;> cases g <;> rfl
  · cases h <;> rfl
  · rw [half_onTal, hl]
  · rw [half_onTal, hr]

theorem charged_onTrec (s : State) (h : HalfId) {f : TallyRec → TallyRec} (hf : ∀ r, (f r).lane = r.lane) :
    Charged s (s.onTrec h f) h [] := by
  refine ⟨?_, fun g => ?_, ?_, ?_, ?_, core_onTrec .., fun _ hm => absurd hm (by simp), fun m _ => by rw [trec_onTrec, hf]⟩
  · cases h <;> rfl
  · cases h <;> cases g <;> rfl
  · cases h <;> rfl
  · cases h <;> rfl
  · cases h <;> rfl

theorem charged_bucket (s : State) (h : HalfId) (l : Lane) : Charged s
    (s.onTrec h fun r => r.onLane l fun x => { x with bucket := min 4 (((s.trec h).lane l).bucket + 1), life := satInc x.life }) h [l] := by
  refine ⟨?_, fun g => ?_, ?_, ?_, ?_, core_onTrec .., fun m hm => ?_, fun m hm => ?_⟩
  · cases h <;> rfl
  · cases h <;> cases g <;> rfl
  · cases h <;> rfl
  · cases h <;> rfl
  · cases h <;> rfl
  · obtain rfl := List.mem_singleton.1 hm
    rw [trec_onTrec, recLane_onLane_same]
    exact ⟨rfl, rfl⟩
  · rw [trec_onTrec, recLane_onLane_ne _ _ fun e => hm (by simp [e])]

theorem chargeLane_charged (s : State) (h : HalfId) (l : Lane) : Charged s (chargeLane h s l) h [l] := by
  simp only [chargeLane]
  split
  · refine (charged_bucket s h l).trans (charged_onTal _ h (fun t => ?_) (fun t => ?_)) (by simp) <;> split <;> rfl
  · exact charged_bucket s h l

theorem chargeLanes_charged (h : HalfId) (l : List Lane) : ∀ s, l.Nodup → Charged s (l.foldl (chargeLane h) s) h l := by
  induction l with
  | nil => exact fun s _ => .refl s h
  | cons m l ih =>
    intro s hn
    obtain ⟨hm, hl⟩ := List.nodup_cons.1 hn
    exact (chargeLane_charged s h m).trans (ih _ hl) (by simpa using hm)

theorem attackDetected_charged (s : State) (h : HalfId) (burst : Bool) : Charged s (attackDetected s h burst) h [] := by
  simp only [attackDetected]
  refine (charged_of_crew (fun g => (crew_raiseHalf ..).trans (crew_reportHalf ..))
    ((core_raiseHalf ..).trans (core_reportHalf ..))).after ((charged_onTrec _ h ?_).after (charged_onTal _ h ?_ ?_)) <;> intro x <;> rfl

theorem countEvent_charged (s : State) (h : HalfId) : Charged s (countEvent s h).1 h [] := by
  have hif : ∀ (u : State) (b d : Bool), Charged u (if b then attackDetected u h d else u) h [] := fun u b d => by
    split
    · exact attackDetected_charged ..
    · exact .refl u h
  simp only [countEvent]
  refine (hif _ _ _).after ((hif _ _ _).after ((charged_onTrec _ h ?_).after (charged_onTal _ h ?_ ?_))) <;> intro x <;> rfl

/-- A mismatch of a window into which PRT_SIG has put nothing charges the lanes it names (R272, R273). -/
theorem mismatch_charged {s : State} {h : HalfId} {c : ClosedWin} (hp : c.prtLanes = 0) (m : BitVec 3) (chk noMaj : Bool) :
    Charged s (mismatch s h c m 0 chk noMaj).1 h (maskLanes m) := by
  have hi : c.inserted = false := by simp [ClosedWin.inserted, hp]
  have hm : m ||| (0 : BitVec 3) = m := BitVec.or_zero
  simp only [mismatch, hi, Bool.and_false, Bool.false_eq_true, if_false, hm]
  generalize hu : raiseHalf (reportHalf s h .tly 4 none _ c.num _) h 224 = u
  have hsu : Charged s u h [] := by
    rw [← hu]
    exact charged_of_crew (fun g => (crew_raiseHalf ..).trans (crew_reportHalf ..)) ((core_raiseHalf ..).trans (core_reportHalf ..))
  have hl : Charged s ((maskLanes m).foldl (chargeLane h) u) h (maskLanes m) :=
    hsu.trans (chargeLanes_charged h _ u (List.Nodup.filter _ (by decide))) (by simp)
  split
  · exact hl
  · exact (countEvent_charged _ h).after hl

/-! ## What the end of a FENCE leaves (R142) -/

/-- The end of a FENCE leaves what is the half's own, but for the rest of its execution state and its log, and the block. -/
def Ended (s t : State) (h : HalfId) : Prop :=
  ∃ e log n, t.crew h = { s.crew h with own := { (s.crew h).own with ex := e, win := { (s.half h).win with log := log, logged := n } } } ∧
    e.fed = (s.ex h).fed ∧ e.mode = (s.ex h).mode

theorem Ended.of_crew {s t : State} {h : HalfId} (e : t.crew h = s.crew h) : Ended s t h :=
  ⟨s.ex h, (s.half h).win.log, (s.half h).win.logged, e, rfl, rfl⟩

theorem Ended.after {s t u : State} {h : HalfId} (b : Ended t u h) (a : Ended s t h) : Ended s u h := by
  obtain ⟨e, log, n, hc, hf, hm⟩ := a
  obtain ⟨e', log', n', hc', hf', hm'⟩ := b
  have hw : (t.half h).win = { (s.half h).win with log := log, logged := n } := congrArg (fun c : Crew => c.own.win) hc
  have hx : t.ex h = e := congrArg (fun c : Crew => c.own.ex) hc
  exact ⟨e', log', n', by rw [hc', hc, hw], by rw [hf', hx, hf], by rw [hm', hx, hm]⟩

theorem ended_onEx (s : State) (h : HalfId) {f : Exec → Exec} (hf : ∀ e, (f e).fed = e.fed) (hm : ∀ e, (f e).mode = e.mode) :
    Ended s (s.onEx h f) h :=
  ⟨f (s.ex h), (s.half h).win.log, (s.half h).win.logged, by cases h <;> rfl, hf _, hm _⟩

theorem ended_onBank (s : State) (h : HalfId) (k : BitVec 5) (f : Bank → Bank) : Ended s (s.onBank h k f) h :=
  ⟨(s.onBank h k f).ex h, (s.half h).win.log, (s.half h).win.logged, by cases h <;> rfl, by cases h <;> rfl, by cases h <;> rfl⟩

theorem ended_logInput (s : State) (h : HalfId) (kind : LogKind) (req v0 v1 : Cell) (k : BitVec 5) (i : Bool) :
    Ended s (logInput s h kind req k i v0 v1) h :=
  ⟨s.ex h, ((logInput s h kind req k i v0 v1).half h).win.log, (s.half h).win.logged + 1, by cases h <;> rfl, rfl, rfl⟩

theorem ended_mintDeliver (s : State) (h : HalfId) (k : BitVec 5) : Ended s (mintDeliver s h k) h := by
  simp only [mintDeliver]
  split
  · exact .of_crew rfl
  · split
    · exact .of_crew rfl
    · exact (ended_logInput ..).after ((ended_onEx _ h (by intro e; rfl) (by intro e; rfl)).after (ended_onBank ..))

theorem ended_readHeads (s : State) (h : HalfId) (k : BitVec 5) : Ended s (readHeads s h k) h := by
  have hh := crew_headTargets h (s.bank h k) 16 h s
  simp only [readHeads]
  refine (ended_onEx _ h (by intro e; rfl) (by intro e; rfl)).after (.of_crew ?_)
  split
  · exact hh
  · split
    · exact (crew_codeRead ..).trans hh
    · exact hh

theorem ended_fenceDone (s : State) (h : HalfId) : Ended s (fenceDone s h) h := by
  have hoff : Ended s (s.onEx h fun e => { e with fencing := false }) h := ended_onEx s h (fun _ => rfl) (fun _ => rfl)
  simp only [fenceDone]
  split
  · split
    · exact hoff
    · exact (ended_readHeads ..).after ((ended_mintDeliver ..).after hoff)
  · exact .of_crew rfl

/-! ## What waits for an agreed window (R33, R255, R284) -/

theorem onTal_self {s : State} {h : HalfId} {f : Tally → Tally} (hf : f (s.half h).tal = (s.half h).tal) : s.onTal h f = s := by
  cases h <;> simp only [State.onTal, State.onHalf, State.setHalf, State.half] at hf ⊢ <;> rw [hf]

theorem fenceWork_none {s : State} {h : HalfId} (hr : (s.half h).tal.fenceReq = 0) : fenceWork s h = s := by
  have hl : fenceList s h = [] := by simp [fenceList, hr, bit]
  have hf : fenceAct s h = s := by
    have hz := congrArg (fun r => { (s.half h).tal with fenceReq := r }) hr.symm
    simp only [fenceAct, hl, List.isEmpty_nil, if_true]
    exact onTal_self hz
  have hw : (if (s.half h).win.blank then fenceAct s h else s) = s := by rw [hf, ite_self]
  simp [fenceWork, hw]

/-- Where no fence and no halt is asked for, only a FENCE can end after an agreed window. -/
theorem afterAgreed_calm {s : State} {h : HalfId} (hr : (s.half h).tal.fenceReq = 0) (hd : (s.dbgHalf h).halt = false) :
    afterAgreed s h = fenceDone s h := by
  rw [afterAgreed, fenceWork_none hr, tryHalt_not hd]

/-- The state in which a window has agreed, before what waits for it takes effect. -/
def agreedState (s : State) (h : HalfId) (c : ClosedWin) : State :=
  completeFinished ((gensApply s h fun e => e.win == c.num && !e.agreed).onWin h fun w => w.agreed c) h c.num

theorem windowAgrees_eq (s : State) (h : HalfId) (c : ClosedWin) :
    windowAgrees s h c = stepSpend (settled (agreedState s h c) h) h c.slots := rfl

theorem crew_onWin (s : State) (h : HalfId) (f : Windows → Windows) :
    (s.onWin h f).crew h = { s.crew h with own := { (s.crew h).own with win := f (s.half h).win } } := by cases h <;> rfl

theorem crew_agreedState (s : State) (h : HalfId) (c : ClosedWin) : (agreedState s h c).crew h =
    { s.crew h with own := { (s.crew h).own with win := (s.half h).win.agreed c } } := by
  have hg := crew_gensApply s h (fun e => e.win == c.num && !e.agreed) h
  rw [agreedState, crew_completeFinished, crew_onWin, hg, win_of_crew hg]

/-- Where nothing waits for it, a window's agreement is no more. -/
theorem crew_windowAgrees {s : State} {h : HalfId} {c : ClosedWin} (ha : (s.half h).win.acts = []) (ht : (s.half h).win.ticks = [])
    (hr : (s.ex h).rstPend = []) : (windowAgrees s h c).crew h =
      { s.crew h with own := { (s.crew h).own with win := (s.half h).win.agreed c } } := by
  have hc := crew_agreedState s h c
  have hw : ((agreedState s h c).half h).win = (s.half h).win.agreed c := congrArg (fun c : Crew => c.own.win) hc
  have hx : (agreedState s h c).ex h = s.ex h := congrArg (fun c : Crew => c.own.ex) hc
  rw [windowAgrees_eq, crew_stepSpend, settled_nothing (by rw [hw]; exact ha) (by rw [hx, hr]) ?_, hc]
  rw [show ((agreedState s h c).half h).win.ticks = [] by rw [hw]; exact ht]
  simp

/-! ## Equal accounts (R200, R255) -/

theorem verdict_unanimous {s : State} {h : HalfId} {v : VerdictInput} {c : ClosedWin} {r : List ClosedWin}
    (hcl : (s.half h).win.closed = c :: r) (hv : voted c v = (.unanimous, 0)) :
    verdict s h v = afterAgreed (windowAgrees s h c) h := by
  simp [verdict, hcl, hv, outcomeOf, chargedLanes, settleVerdict]

/-- What the verdict on a window that agrees leaves of the windows. -/
structure Agreed (s t : State) (h : HalfId) (c : ClosedWin) (q : List ClosedWin) : Prop where
  closed : (t.half h).win.closed = q
  mark : (t.half h).win.mark = some c.mark
  num : (t.half h).win.num = (s.half h).win.num
  sb : (t.half h).win.sb = (s.half h).win.sb.map fun e => if e.win = c.num then { e with agreed := true } else e

theorem Agreed.ended {s t u : State} {h : HalfId} {c : ClosedWin} {q : List ClosedWin} (a : Agreed s t h c q) (b : Ended t u h) :
    Agreed s u h c q := by
  obtain ⟨e, log, n, hc, -, -⟩ := b
  have hw : (u.half h).win = { (t.half h).win with log := log, logged := n } := congrArg (fun c : Crew => c.own.win) hc
  exact ⟨by rw [hw]; exact a.closed, by rw [hw]; exact a.mark, by rw [hw]; exact a.num, by rw [hw]; exact a.sb⟩

theorem tellerVerdict_equal {s : State} {h : HalfId} {v : VerdictInput} {c : ClosedWin} {r : List ClosedWin}
    (hfed : (s.ex h).fed = none) (hcl : (s.half h).win.closed = c :: r) (hv : voted c v = (.unanimous, 0))
    (hr : (s.half h).tal.fenceReq = 0) (hd : (s.dbgHalf h).halt = false) (ha : (s.half h).win.acts = [])
    (ht : (s.half h).win.ticks = []) (hp : (s.ex h).rstPend = []) :
    ∃ t, exec (.tellerVerdict h v) s = .next t ∧ Agreed s t h c r ∧ t.keep = s.keep := by
  have hc := crew_windowAgrees (c := c) ha ht hp
  have hwin : ((windowAgrees s h c).half h).win = (s.half h).win.agreed c := congrArg (fun c : Crew => c.own.win) hc
  have htal : ((windowAgrees s h c).half h).tal = (s.half h).tal := congrArg (fun c : Crew => c.own.tal) hc
  have hhalt : ((windowAgrees s h c).dbgHalf h).halt = (s.dbgHalf h).halt := congrArg (fun c : Crew => c.own.halt) hc
  have hex : (windowAgrees s h c).ex h = s.ex h := congrArg (fun c : Crew => c.own.ex) hc
  have hkeep : (windowAgrees s h c).keep = s.keep := congrArg Crew.keep hc
  have hverdict := (verdict_unanimous hcl hv).trans (afterAgreed_calm (by rw [htal, hr]) (by rw [hhalt, hd]))
  have hend := ended_fenceDone (windowAgrees s h c) h
  obtain ⟨e, log, n, hec, hef, -⟩ := hend
  have hfed' : ((fenceDone (windowAgrees s h c) h).ex h).fed = none := by
    rw [show (fenceDone (windowAgrees s h c) h).ex h = e from congrArg (fun c : Crew => c.own.ex) hec, hef, hex, hfed]
  refine ⟨fenceDone (windowAgrees s h c) h, ?_, ?_, ?_⟩
  · show Host.Outcome.next (fedGo (verdict s h v) h) = _
    rw [hverdict, fedGo_none hfed']
  · refine Agreed.ended ⟨?_, ?_, ?_, ?_⟩ (ended_fenceDone ..) <;> rw [hwin]
    · simp [Windows.agreed, hcl]
    · rfl
    · rfl
    · rfl
  · exact (congrArg Crew.keep hec).trans hkeep

/-! ## A bank loaded in a window that agrees (R258) -/

theorem actsSettle_one {s : State} {h : HalfId} {a : Cell × WinAct} (ha : (s.half h).win.acts = [a])
    (hd : a.1.toNat ≤ (s.half h).win.oldest.toNat) :
    actsSettle s h = actNow h (s.onWin h fun w => { w with acts := [] }) a := by
  have hw : s.onWin h (fun w => { w with acts := w.acts.filter fun a => !decide (a.1.toNat ≤ (s.half h).win.oldest.toNat) }) =
      s.onWin h fun w => { w with acts := [] } := by
    cases h <;> simp only [State.onWin, State.onHalf, State.setHalf, State.half] at ha hd ⊢ <;> simp [ha, hd]
  simp only [actsSettle, hw]
  simp [ha, hd]

theorem resetsSettle_nothing {s : State} {h : HalfId} (hr : (s.ex h).rstPend = []) : resetsSettle s h = s := by
  simp only [resetsSettle, hr]
  refine onEx_self ?_
  rw [show List.filter _ (s.ex h).rstPend = (s.ex h).rstPend by rw [hr]; rfl]

theorem ticksSettle_nothing {s : State} {h : HalfId} (ht : (s.half h).win.ticks = []) : ticksSettle s h = s := by
  simp only [ticksSettle, ht]
  refine onWin_self ?_
  rw [show List.filter _ (s.half h).win.ticks = (s.half h).win.ticks by rw [ht]; rfl]

/-- What the load of a bank leaves of its half (R258). -/
structure Loaded (s t : State) (h : HalfId) (j : BitVec 5) (b : Bank) : Prop where
  bank : t.bank h j = b
  record : recOf (t.ex h) j = Pair.zero
  acts : (t.half h).win.acts = (s.half h).win.acts
  ticks : (t.half h).win.ticks = (s.half h).win.ticks
  rstPend : (t.ex h).rstPend = (s.ex h).rstPend
  fencing : (t.ex h).fencing = (s.ex h).fencing
  fed : (t.ex h).fed = (s.ex h).fed
  fenceReq : (t.half h).tal.fenceReq = (s.half h).tal.fenceReq
  halt : (t.dbgHalf h).halt = (s.dbgHalf h).halt

theorem Loaded.of_crew {s t u : State} {h : HalfId} {j : BitVec 5} {b : Bank} (l : Loaded s t h j b) (e : u.crew h = t.crew h) :
    Loaded s u h j b := by
  have hx := ex_of_crew e
  have hw := win_of_crew e
  exact ⟨(bank_of_crew e j).trans l.bank, by rw [hx]; exact l.record, by rw [hw]; exact l.acts, by rw [hw]; exact l.ticks,
    by rw [hx]; exact l.rstPend, by rw [hx]; exact l.fencing, by rw [hx]; exact l.fed, by rw [tal_of_crew e]; exact l.fenceReq,
    (halt_of_crew e).trans l.halt⟩

theorem ex_mintDiscard (s : State) (h : HalfId) (k : BitVec 5) :
    ∃ x y, (mintDiscard s h k).ex h = { s.ex h with mintPend := x, mintSt := y } := by
  simp only [mintDiscard, ex_onEx]
  split
  · exact ⟨_, _, rfl⟩
  · split <;> exact ⟨_, _, rfl⟩

theorem loaded_bank (s : State) (h : HalfId) (j : BitVec 5) (b : Bank) :
    Loaded s (mintDiscard (setRec (onBankAgreed s h j fun _ => b) h j Pair.zero) h j) h j b := by
  generalize hu : setRec (onBankAgreed s h j fun _ => b) h j Pair.zero = u
  obtain ⟨x, y, hm⟩ := ex_mintDiscard u h j
  have hux : u.ex h = { s.ex h with banks := sput Bank.reset (s.ex h).banks j.toNat b
                                    frec := sput Pair.zero (s.ex h).frec j.toNat Pair.zero } := by
    rw [← hu]; cases h <;> rfl
  rw [hux] at hm
  refine ⟨?_, by rw [hm, recOf, sget_sput_same], ?_, ?_, by rw [hm], by rw [hm], by rw [hm], ?_, ?_⟩
  · have hb := congrArg (fun e : Exec => sget Bank.reset e.banks j.toNat) hm
    exact hb.trans (sget_sput_same ..)
  · rw [← hu]; cases h <;> rfl
  · rw [← hu]; cases h <;> rfl
  · rw [← hu]; cases h <;> rfl
  · rw [← hu]; cases h <;> rfl

theorem readHeads_heads (s : State) (h : HalfId) (k : BitVec 5) : ∃ hd, (readHeads s h k).crew h =
    { s.crew h with own := { (s.crew h).own with ex := { s.ex h with heads := hd } } } := by
  have hx : ∀ (u : State) (f : Exec → Exec), (u.onEx h f).crew h = { u.crew h with own := { (u.crew h).own with ex := f (u.ex h) } } :=
    fun u f => by cases h <;> rfl
  have hh := crew_headTargets h (s.bank h k) 16 h s
  simp only [readHeads, hx]
  split
  · rw [hh, ex_of_crew hh]
    exact ⟨_, rfl⟩
  · split
    · rw [(crew_codeRead ..).trans hh, ex_of_crew ((crew_codeRead ..).trans hh)]
      exact ⟨_, rfl⟩
    · rw [hh, ex_of_crew hh]
      exact ⟨_, rfl⟩

theorem Loaded.after_readHeads {s t : State} {h : HalfId} {j : BitVec 5} {b : Bank} (l : Loaded s t h j b) (k : BitVec 5) :
    Loaded s (readHeads t h k) h j b := by
  obtain ⟨hd, e⟩ := readHeads_heads t h k
  have hx : (readHeads t h k).ex h = { t.ex h with heads := hd } := congrArg (fun c : Crew => c.own.ex) e
  have hw : ((readHeads t h k).half h).win = (t.half h).win := congrArg (fun c : Crew => c.own.win) e
  have ht : ((readHeads t h k).half h).tal = (t.half h).tal := congrArg (fun c : Crew => c.own.tal) e
  have hd : ((readHeads t h k).dbgHalf h).halt = (t.dbgHalf h).halt := congrArg (fun c : Crew => c.own.halt) e
  refine ⟨?_, by rw [hx]; exact l.record, by rw [hw, l.acts], by rw [hw, l.ticks], by rw [hx]; exact l.rstPend,
    by rw [hx]; exact l.fencing, by rw [hx]; exact l.fed, by rw [ht, l.fenceReq], hd.trans l.halt⟩
  exact (bank_of_banks (by rw [hx]) j).trans l.bank

theorem loadNow_loaded {s : State} {h : HalfId} (j : BitVec 5) (b : Bank) (hk : (s.ex h).running ≠ none) :
    Loaded s (loadNow s h j b) h j b := by
  generalize hu : mintDiscard (setRec (onBankAgreed s h j fun _ => b) h j Pair.zero) h j = u
  have hl : Loaded s (readHeads ((clearResults u (gctx h j).toNat).onRkn h fun r => r.disown j) h j) h j b := by
    refine Loaded.after_readHeads (Loaded.of_crew (hu ▸ loaded_bank s h j b) ?_) j
    exact (crew_onRkn ..).trans (crew_clearResults ..)
  have hrun : (u.ex h).running = (s.ex h).running := by
    obtain ⟨x, y, hm⟩ := ex_mintDiscard (setRec (onBankAgreed s h j fun _ => b) h j Pair.zero) h j
    rw [← hu, hm]
    cases h <;> rfl
  have hs : schedReturn (readHeads ((clearResults u (gctx h j).toNat).onRkn h fun r => r.disown j) h j) h =
      readHeads ((clearResults u (gctx h j).toNat).onRkn h fun r => r.disown j) h j := by
    generalize hv : (clearResults u (gctx h j).toNat).onRkn h (fun r => r.disown j) = v
    have hvx : v.ex h = u.ex h := by
      rw [← hv]
      exact ex_of_crew ((crew_onRkn ..).trans (crew_clearResults ..))
    obtain ⟨hd, e⟩ := readHeads_heads v h j
    have hx : (readHeads v h j).ex h = { v.ex h with heads := hd } := congrArg (fun c : Crew => c.own.ex) e
    have hsome : ((readHeads v h j).ex h).running.isSome = true := by
      rw [hx, hvx]
      exact Option.isSome_iff_ne_none.2 (by rw [hrun]; exact hk)
    simp [schedReturn, hsome]
  rw [loadNow, hu, hs]
  exact hl

theorem tellerVerdict_loads {s : State} {h : HalfId} {v : VerdictInput} {c : ClosedWin} {n : Cell} {j : BitVec 5} {b : Bank}
    (hfed : (s.ex h).fed = none) (hcl : (s.half h).win.closed = [c]) (hv : voted c v = (.unanimous, 0))
    (hr : (s.half h).tal.fenceReq = 0) (hd : (s.dbgHalf h).halt = false) (ha : (s.half h).win.acts = [(n, .load j b)])
    (hn : n.toNat ≤ (s.half h).win.num.toNat) (ht : (s.half h).win.ticks = []) (hp : (s.ex h).rstPend = [])
    (hf : (s.ex h).fencing = false) (hk : (s.ex h).running ≠ none) :
    ∃ t, exec (.tellerVerdict h v) s = .next t ∧ t.bank h j = b ∧ recOf (t.ex h) j = Pair.zero ∧ (t.half h).win.acts = [] := by
  have hc := crew_agreedState s h c
  generalize hu : agreedState s h c = u at hc
  have hwin : (u.half h).win = (s.half h).win.agreed c := congrArg (fun c : Crew => c.own.win) hc
  have hex : u.ex h = s.ex h := congrArg (fun c : Crew => c.own.ex) hc
  have htal : (u.half h).tal = (s.half h).tal := congrArg (fun c : Crew => c.own.tal) hc
  have hhalt : (u.dbgHalf h).halt = (s.dbgHalf h).halt := congrArg (fun c : Crew => c.own.halt) hc
  have hacts : (u.half h).win.acts = [(n, .load j b)] := by rw [hwin]; exact ha
  have hold : n.toNat ≤ (u.half h).win.oldest.toNat := by
    rw [hwin]
    simpa [Windows.oldest, Windows.agreed, hcl] using hn
  generalize hx : (u.onWin h fun w => { w with acts := [] }) = x
  have hxx : x.ex h = s.ex h := by rw [← hx, ← hex]; cases h <;> rfl
  have l := loadNow_loaded (s := x) (h := h) j b (by rw [hxx]; exact hk)
  have hset : settled u h = loadNow x h j b := by
    have hact : actsSettle u h = loadNow x h j b := by rw [actsSettle_one hacts hold, hx]; rfl
    rw [settled, if_pos (by simp [settleWaits, hacts, hold]), settleAll, settleAgreed, hact,
      resetsSettle_nothing (by rw [l.rstPend, hxx, hp]), ticksSettle_nothing]
    rw [l.ticks, ← hx, half_onWin]
    show (u.half h).win.ticks = []
    rw [hwin]
    exact ht
  have l' : Loaded x (windowAgrees s h c) h j b := by
    rw [windowAgrees_eq, hu, hset]
    exact l.of_crew (crew_stepSpend ..)
  have hverdict : verdict s h v = windowAgrees s h c := by
    rw [verdict_unanimous hcl hv, afterAgreed_calm, fenceDone_not (by rw [l'.fencing, hxx, hf])]
    · rw [l'.fenceReq, ← hx, half_onWin, htal, hr]
    · refine l'.halt.trans (Eq.trans ?_ (hhalt.trans hd))
      rw [← hx]; cases h <;> rfl
  refine ⟨windowAgrees s h c, ?_, l'.bank, l'.record, ?_⟩
  · show Host.Outcome.next (fedGo (verdict s h v) h) = _
    rw [hverdict, fedGo_none (by rw [l'.fed, hxx, hfed])]
  · rw [l'.acts, ← hx, half_onWin]

/-! ## A tick that closed the window (R33) -/

theorem pace_fenceWork (s : State) (h g : HalfId) : ((fenceWork s h).crew g).pace = (s.crew g).pace := by
  simp only [fenceWork]
  have hw : ((if (s.half h).win.blank then fenceAct s h else s).crew g).pace = (s.crew g).pace := by
    split
    · exact pace_fenceAct ..
    · rfl
  generalize (if (s.half h).win.blank then fenceAct s h else s) = t at hw ⊢
  split
  · rw [crew_rkReading, hw]
  · exact hw

theorem await_fenceWork (s : State) (h : HalfId) : (fenceWork s h).await h = s.await h := by
  simp only [fenceWork]
  have hw : (if (s.half h).win.blank then fenceAct s h else s).await h = s.await h := by
    split
    · exact await_of_still (still_fenceAct ..)
    · rfl
  generalize (if (s.half h).win.blank then fenceAct s h else s) = t at hw ⊢
  split
  · exact (await_of_crew (crew_rkReading ..)).trans hw
  · exact hw

/-- What stands in wait at an agreed close leaves the pace of the half, the ticks that await a verdict and the fed word. -/
theorem afterAgreed_keeps (s : State) (h : HalfId) : ((afterAgreed s h).crew h).pace = (s.crew h).pace ∧
    (afterAgreed s h).await h = s.await h := by
  rw [afterAgreed]
  generalize hu : tryHalt (fenceWork s h) h = u
  have hp : (u.crew h).pace = (s.crew h).pace := by rw [← hu, pace_tryHalt, pace_fenceWork]
  have hw : u.await h = s.await h := by rw [← hu]; exact (await_of_still (still_tryHalt ..)).trans (await_fenceWork ..)
  obtain ⟨e, log, n, hc, hf, -⟩ := ended_fenceDone u h
  refine ⟨Eq.trans ?_ hp, Eq.trans ?_ hw⟩
  · rw [hc]; rfl
  · have hx : (fenceDone u h).ex h = e := congrArg (fun c : Crew => c.own.ex) hc
    have ht : ((fenceDone u h).half h).win.ticks = (u.half h).win.ticks := congrArg (fun c : Crew => c.own.win.ticks) hc
    rw [State.await, State.await, hx, hf, ht]

theorem tellerVerdict_ticks {s : State} {h : HalfId} {v : VerdictInput} {c : ClosedWin} {n : Cell} {y : TickInput}
    (hfed : (s.ex h).fed = none) (hcl : (s.half h).win.closed = [c]) (hv : voted c v = (.unanimous, 0))
    (ha : (s.half h).win.acts = []) (hn : n.toNat ≤ (s.half h).win.num.toNat) (ht : (s.half h).win.ticks = [(some n, y)])
    (hp : (s.ex h).rstPend = []) :
    ∃ t, exec (.tellerVerdict h v) s = .next t ∧ (t.half h).sch.frame = (s.half h).sch.frame + 1 ∧ (t.half h).gov.ticked = true ∧
      (t.half h).win.ticks = [] := by
  have hc := crew_agreedState s h c
  generalize hu : agreedState s h c = u at hc
  have hwin : (u.half h).win = (s.half h).win.agreed c := congrArg (fun c : Crew => c.own.win) hc
  have hex : u.ex h = s.ex h := congrArg (fun c : Crew => c.own.ex) hc
  have hpace : (u.crew h).pace = (s.crew h).pace := by rw [hc]; rfl
  have hticks : (u.half h).win.ticks = [(some n, y)] := by rw [hwin]; exact ht
  have hdue : tickDue (u.half h).win (some n, y) = true := by
    rw [hwin]
    simpa [tickDue, Windows.oldest, Windows.agreed, hcl] using hn
  generalize hx : (u.onWin h fun w => { w with ticks := [] }) = x
  have hset : settled u h = tickWork h x y := by
    rw [settled_tick (by rw [hwin]; exact ha) (by rw [hex, hp]) hticks hdue, hx]
  have hxp : (x.crew h).pace = (s.crew h).pace := by rw [← hx, pace_onWin, hpace]
  have hxa : x.await h = ([], none) := by
    have hxx : x.ex h = s.ex h := by rw [← hx, ← hex]; cases h <;> rfl
    rw [State.await, hxx, hfed, ← hx, half_onWin]
  obtain ⟨hkp, hka⟩ := afterAgreed_keeps (windowAgrees s h c) h
  have hwp : ((windowAgrees s h c).crew h).pace = ((tickWork h x y).crew h).pace := by
    rw [windowAgrees_eq, hu, hset, crew_stepSpend]
  have hwa : (windowAgrees s h c).await h = ([], none) := by
    rw [windowAgrees_eq, hu, hset, await_of_crew (crew_stepSpend ..), await_tickWork, hxa]
  obtain ⟨hframe, hticked⟩ := tickWork_acted x h y
  rw [← hwp, ← hkp] at hframe hticked
  rw [hxp] at hframe
  have haw := hka.trans hwa
  refine ⟨afterAgreed (windowAgrees s h c) h, ?_, hframe, hticked, congrArg Prod.fst haw⟩
  show Host.Outcome.next (fedGo (verdict s h v) h) = _
  rw [verdict_unanimous hcl hv, fedGo_none (congrArg Prod.snd haw)]

/-! ## A lane that dissents, and one that is silent (R251, R255, R272) -/

/-- What a dissent leaves: the lane is copied to and is out of the closed windows, and the half is PAIRED. -/
structure Dissented (s t : State) (h : HalfId) (l : Lane) : Prop where
  win : (t.half h).win = { (s.half h).win with
    closed := (s.half h).win.closed.map fun c => { c with lanes := c.lanes.filter fun m => m != l }, taken := true }
  work : ((t.half h).tal.lane l).work = .copying
  fenceReq : (t.half h).tal.fenceReq = (s.half h).tal.fenceReq
  halt : (t.dbgHalf h).halt = (s.dbgHalf h).halt
  mode : t.mode h = mPaired
  fed : (t.ex h).fed = (s.ex h).fed
  keep : t.keep = s.keep

theorem fenceReq_onLane (t : Tally) (l : Lane) (f : LaneState → LaneState) : (t.onLane l f).fenceReq = t.fenceReq := by
  cases l <;> rfl

theorem dissents_spec {s : State} {h : HalfId} (l : Lane) (hm : s.mode h = mTallied) (hl : (s.half h).tal.inService = lanes) :
    Dissented s (dissents s h l) h l := by
  have hrun : s.running h = true := by rw [State.running, hm]; rfl
  have hwork : ((s.half h).tal.lane l).work = .inService := by
    have hin : l ∈ (s.half h).tal.inService := by rw [hl]; cases l <;> decide
    simpa [Tally.inService] using (List.mem_filter.1 hin).2
  have hdis : dissents s h l = setMode (takesClose ((s.onWin h fun w => { w with
      closed := w.closed.map fun c => { c with lanes := c.lanes.filter fun m => m != l } }).onTal h
        fun t => t.onLane l fun x => { x with work := .copying }) h) h mPaired := by
    generalize hu : s.onWin h (fun w => { w with
      closed := w.closed.map fun c => { c with lanes := c.lanes.filter fun m => m != l } }) = u
    have hut : (u.half h).tal = (s.half h).tal := by rw [← hu]; cases h <;> rfl
    generalize hv : takesClose (u.onTal h fun t => t.onLane l fun x => { x with work := .copying }) h = v
    have hvt : (v.half h).tal = (s.half h).tal.onLane l fun x => { x with work := .copying } := by
      rw [← hv, ← hut]; cases h <;> rfl
    have hvm : v.mode h = mTallied := by rw [← hv, ← hu, ← hm]; cases h <;> rfl
    have htwo : (v.half h).tal.inService.length = 2 := by rw [hvt]; exact inService_left_length hl l (by decide)
    simp only [dissents, hu, hv, hut, hwork, bne_self_eq_false, Bool.false_eq_true, if_false]
    split
    · next hone => simp [hone] at htwo
    · rw [if_pos (runMode_tallied hvm), setRunMode_running (by rw [State.running, hvm]; rfl)]
  rw [hdis]
  generalize hv : takesClose _ h = v
  have hc := crew_setMode v h mPaired h
  refine ⟨(win_of_crew hc).trans ?_, ?_, ?_, (halt_of_crew hc).trans ?_, mode_setMode .., ?_, (keep_of_crew hc).trans ?_⟩
  · rw [← hv]; cases h <;> rfl
  · rw [tal_setMode, ← hv]
    cases h <;> exact congrArg LaneState.work (lane_onLane_same ..)
  · rw [tal_setMode, ← hv]; cases h <;> exact fenceReq_onLane ..
  · rw [← hv]; cases h <;> rfl
  · rw [ex_of_crew hc, ← hv]; cases h <;> rfl
  · rw [← hv]; cases h <;> rfl

theorem maskLanes_one (l : Lane) : laneBits (fun m => m == l) ≠ 0 ∧ maskLanes (laneBits fun m => m == l) = [l] := by
  cases l <;> decide

theorem verdict_dissent {s : State} {h : HalfId} {v : VerdictInput} {c : ClosedWin} {r : List ClosedWin} {l : Lane}
    (hcl : (s.half h).win.closed = c :: r) (hv : voted c v = (.dissent l, 0)) (h3 : c.lanes = lanes) (hatt : (s.half h).tal.attResp = 0) :
    verdict s h v = afterAgreed (dissents (windowAgrees
      (mismatch s h c (laneBits fun m => m == l) 0 (checkOnly c v) (Outcome.drains (some l) == .rollback)).1 h c) h l) h := by
  have hout : outcomeOf c (.dissent l) = .drains (some l) := by rw [outcomeOf, h3]; rfl
  simp only [verdict, hcl, hv, hout, chargedLanes, (maskLanes_one l).1, false_and, if_false, settleVerdict, hatt, attackResponse,
    if_true, ite_self]

theorem tellerVerdict_dissent {s : State} {h : HalfId} {v : VerdictInput} {c : ClosedWin} {r : List ClosedWin} {l : Lane}
    (hfed : (s.ex h).fed = none) (hcl : (s.half h).win.closed = c :: r) (hv : voted c v = (.dissent l, 0)) (hprt : c.prtLanes = 0)
    (h3 : c.lanes = lanes) (hmode : s.mode h = mTallied) (hin : (s.half h).tal.inService = lanes)
    (hatt : (s.half h).tal.attResp = 0) (hr : (s.half h).tal.fenceReq = 0) (hd : (s.dbgHalf h).halt = false)
    (ha : (s.half h).win.acts = []) (ht : (s.half h).win.ticks = []) (hp : (s.ex h).rstPend = []) :
    ∃ t, exec (.tellerVerdict h v) s = .next t ∧
      Agreed s t h c (r.map fun d => { d with lanes := d.lanes.filter fun m => m != l }) ∧
      ((t.half h).tal.lane l).work = .copying ∧ t.mode h = mPaired ∧
      (((t.trec h).lane l).life = satInc ((s.trec h).lane l).life ∧
        ((t.trec h).lane l).bucket = min 4 (((s.trec h).lane l).bucket + 1)) ∧
      ∀ m, m ≠ l → (t.trec h).lane m = (s.trec h).lane m := by
  have hverdict := verdict_dissent hcl hv h3 hatt
  generalize (Outcome.drains (some l) == .rollback) = noMaj at hverdict
  have hch := mismatch_charged (s := s) (h := h) hprt (laneBits fun m => m == l) (checkOnly c v) noMaj
  rw [(maskLanes_one l).2] at hch
  generalize (mismatch s h c (laneBits fun m => m == l) 0 (checkOnly c v) noMaj).1 = u at hverdict hch
  have hagr := crew_windowAgrees (s := u) (h := h) (c := c) (by rw [hch.win, ha]) (by rw [hch.win, ht]) (by rw [hch.ex, hp])
  generalize windowAgrees u h c = w at hverdict hagr
  have hwin : (w.half h).win = (s.half h).win.agreed c := (congrArg (fun c : Crew => c.own.win) hagr).trans (by rw [hch.win])
  have hex : w.ex h = s.ex h := (congrArg (fun c : Crew => c.own.ex) hagr).trans (hch.ex h)
  have htal : (w.half h).tal = (u.half h).tal := congrArg (fun c : Crew => c.own.tal) hagr
  have hhalt : (w.dbgHalf h).halt = (s.dbgHalf h).halt := (congrArg (fun c : Crew => c.own.halt) hagr).trans hch.halt
  have hwkeep : w.keep = u.keep := congrArg Crew.keep hagr
  have hdis := dissents_spec (s := w) (h := h) l ((congrArg Exec.mode hex).trans hmode)
    (by rw [htal, inService_congr hch.lane, hin])
  generalize dissents w h l = x at hverdict hdis
  rw [afterAgreed_calm (by rw [hdis.fenceReq, htal, hch.fenceReq, hr]) (by rw [hdis.halt, hhalt, hd])] at hverdict
  have hend := ended_fenceDone x h
  have hagreed : Agreed s (fenceDone x h) h c (r.map fun d => { d with lanes := d.lanes.filter fun m => m != l }) := by
    refine Agreed.ended ⟨?_, ?_, ?_, ?_⟩ hend <;> rw [hdis.win, hwin]
    · simp [Windows.agreed, hcl]
    · rfl
    · rfl
    · rfl
  obtain ⟨e, log, n, hec, hef, hem⟩ := hend
  have hye : (fenceDone x h).ex h = e := congrArg (fun c : Crew => c.own.ex) hec
  have hytal : ((fenceDone x h).half h).tal = (x.half h).tal := congrArg (fun c : Crew => c.own.tal) hec
  have hkeep : (fenceDone x h).keep = u.keep := (congrArg Crew.keep hec).trans (hdis.keep.trans hwkeep)
  have hrec : (fenceDone x h).trec h = u.trec h := by
    cases h
    · exact congrArg Keep.rec0 hkeep
    · exact congrArg Keep.rec1 hkeep
  refine ⟨fenceDone x h, ?_, hagreed, by rw [hytal]; exact hdis.work, (congrArg Exec.mode hye).trans (hem.trans hdis.mode), ?_, fun m hm => ?_⟩
  · show Host.Outcome.next (fedGo (verdict s h v) h) = _
    rw [hverdict, fedGo_none (by rw [hye, hef, hdis.fed, hex, hfed])]
  · rw [hrec]
    exact hch.charged l (by simp)
  · rw [hrec]
    exact hch.others m (by simpa using hm)

/-! ## No majority, and the restart (R253, R256, R273) -/

/-- What a rollback leaves: the windows without a verdict and their stores are discarded, and the oldest is to be executed again. -/
structure RolledBack (s t : State) (h : HalfId) (c : ClosedWin) : Prop where
  closed : (t.half h).win.closed = []
  rolling : (t.half h).win.rolling = true
  redo : (t.half h).win.redo = some c.slots
  num : (t.half h).win.num = c.num
  sb : (t.half h).win.sb = (s.half h).win.sb.filter fun e => e.agreed
  rollbacks : (t.half h).win.rollbacks = satInc (s.half h).win.rollbacks

theorem rollbackStart_spec {s : State} {h : HalfId} {c : ClosedWin} {r : List ClosedWin} (hcl : (s.half h).win.closed = c :: r) :
    RolledBack s (rollbackStart s h) h c := by
  simp only [rollbackStart]
  generalize hu : s.onRkn h _ = u
  have hw : (u.half h).win = (s.half h).win := by rw [← hu]; exact win_of_crew (crew_onRkn ..)
  constructor <;> simp only [half_onWin, hw, hcl]

theorem rollbackStart_leaves (s : State) (h : HalfId) : (∀ g, (rollbackStart s h).ex g = s.ex g) ∧
    (rollbackStart s h).core = s.core ∧ (rollbackStart s h).keep = s.keep := by
  refine ⟨fun g => ?_, ?_, ?_⟩
  · cases h <;> cases g <;> rfl
  · cases h <;> rfl
  · cases h <;> rfl

theorem verdict_split {s : State} {h : HalfId} {v : VerdictInput} {c : ClosedWin} {r : List ClosedWin}
    (hcl : (s.half h).win.closed = c :: r) (hv : voted c v = (.noMajority, 0)) (h3 : c.lanes = lanes) (hatt : (s.half h).tal.attResp = 0) :
    verdict s h v = rollbackStart (mismatch s h c 7 0 (checkOnly c v) true).1 h := by
  have hbits : laneBits c.lanes.contains = 7 := by rw [h3]; rfl
  simp only [verdict, hcl, hv, outcomeOf, chargedLanes, hbits, settleVerdict, hatt, attackResponse, if_true, ite_self]
  rfl

theorem tellerVerdict_split {s : State} {h : HalfId} {v : VerdictInput} {c : ClosedWin} {r : List ClosedWin}
    (hfed : (s.ex h).fed = none) (hcl : (s.half h).win.closed = c :: r) (hv : voted c v = (.noMajority, 0)) (hprt : c.prtLanes = 0)
    (h3 : c.lanes = lanes) (hatt : (s.half h).tal.attResp = 0) :
    ∃ t, exec (.tellerVerdict h v) s = .next t ∧ RolledBack s t h c ∧
      ((∀ g j, t.bank g j = s.bank g j) ∧ t.ram = s.ram ∧ t.nvm = s.nvm) ∧
      ∀ l, ((t.trec h).lane l).life = satInc ((s.trec h).lane l).life ∧
        ((t.trec h).lane l).bucket = min 4 (((s.trec h).lane l).bucket + 1) := by
  have hverdict := verdict_split hcl hv h3 hatt
  have hch := mismatch_charged (s := s) (h := h) hprt 7 (checkOnly c v) true
  generalize (mismatch s h c 7 0 (checkOnly c v) true).1 = u at hverdict hch
  have hroll := rollbackStart_spec (s := u) (h := h) (by rw [hch.win, hcl])
  obtain ⟨hex, hcore, hkeep⟩ := rollbackStart_leaves u h
  have hrec : (rollbackStart u h).trec h = u.trec h := by
    cases h
    · exact congrArg Keep.rec0 hkeep
    · exact congrArg Keep.rec1 hkeep
  have hcs := hcore.trans hch.core
  have hfed' : ((rollbackStart u h).ex h).fed = none := by rw [hex, hch.ex, hfed]
  refine ⟨rollbackStart u h, ?_, ?_, ⟨fun g j => bank_of_banks (by rw [hex, hch.ex]) j, congrArg Core.ram hcs, congrArg Core.nvm hcs⟩,
    fun l => ?_⟩
  · show Host.Outcome.next (fedGo (verdict s h v) h) = _
    rw [hverdict, fedGo_none hfed']
  · exact ⟨hroll.closed, hroll.rolling, hroll.redo, hroll.num, by rw [← hch.win]; exact hroll.sb, by rw [← hch.win]; exact hroll.rollbacks⟩
  · rw [hrec]
    exact hch.charged l (by cases l <;> decide)

theorem rollbackRestart_restores {s : State} {h : HalfId} {n : Nat} {m : Snapshot} (hn : (s.half h).win.redo = some n)
    (hm : (s.half h).win.mark = some m) (hf : m.fed = none) :
    exec (.rollbackRestart h) s = .next (s.onHalf h fun x => { x with
      ex := (s.ex h).restore m, line := ⟨none, false, none, false⟩, win := { (s.half h).win with redo := none, replay := some n } }) := by
  have hw : restartWindow s h = s.onHalf h fun x => { x with
      ex := (s.ex h).restore m, line := ⟨none, false, none, false⟩, win := { (s.half h).win with redo := none, replay := some n } } := by
    simp only [restartWindow, hn, restoreMark, hm]
    rw [← hm]
    cases h <;> rfl
  show Host.Outcome.next (fedGo (restartWindow s h) h) = _
  rw [hw, fedGo_none]
  cases h <;> exact hf

/-- Settles O35: the vote of three sound tellers is settled first, and each verdict then by what it charges and what it lets go. -/
theorem verdictsSettleTheOldestWindow : Obligations.VerdictsSettleTheOldestWindow := by
  intro s h hfed
  refine ⟨fun v c r hcl hforced hprt hnodup hA hB hC hmode hatt hreq hhalt => ⟨fun x hne hx => ?_, fun l x ha ht hp h3 hin hx hd => ?_,
    fun h3 hs hd => ?_⟩, fun n m hn hm hf => rollbackRestart_restores hn hm hf⟩
  · have hv : voted c v = (.unanimous, 0) := by rw [voted_sound hA hB hC, soundVerdict_equal hforced hprt hnodup hne hx]
    refine ⟨fun ha ht hp => ?_, fun n j b hr ha hn ht hp hf hk => ?_, fun n y hr ht hn ha hp => ?_⟩
    · obtain ⟨t, he, ⟨hc, hm, hn, hsb⟩, hk⟩ := tellerVerdict_equal hfed hcl hv hreq hhalt ha ht hp
      exact ⟨t, he, ⟨hc, hm, hn, hsb⟩, hk⟩
    · obtain ⟨k, hk, -⟩ := hk
      subst hr
      exact tellerVerdict_loads hfed hcl hv hreq hhalt ha hn ht hp hf (by rw [hk]; simp)
    · subst hr
      exact tellerVerdict_ticks hfed hcl hv ha hn ht hp
  · have hv : voted c v = (.dissent l, 0) := by rw [voted_sound hA hB hC, soundVerdict_dissent hforced hprt h3 hx hd]
    obtain ⟨t, he, ⟨hc, hm, hn, hsb⟩, hrest⟩ := tellerVerdict_dissent hfed hcl hv hprt h3 hmode hin hatt hreq hhalt ha ht hp
    exact ⟨t, he, ⟨hc, hm, hn, hsb⟩, hrest⟩
  · have hv : voted c v = (.noMajority, 0) := by rw [voted_sound hA hB hC, soundVerdict_split hforced hprt h3 hs hd]
    obtain ⟨t, he, ⟨hc, hr, hre, hn, hsb, hb⟩, hheld, hch⟩ := tellerVerdict_split hfed hcl hv hprt h3 hatt
    exact ⟨t, he, hc, hr, hre, hn, hsb, hb, hheld, hch⟩

end Sys2Proof.Machine

/-! # Cells, carries, packings and capability registers (R42-R45, R57, R60, R104-R107, R135; O3, O6, O8) -/

namespace Sys2Proof.Machine

/-! ## Carry and overflow (R104-R107) -/

theorem not_fitsSigned (i : Int) : (!fitsSigned i) = decide (tooLarge i) := by
  rw [Bool.eq_iff_iff]
  simp only [fitsSigned, Bool.not_eq_true', Bool.and_eq_false_iff, decide_eq_false_iff_not, decide_eq_true_eq]
  omega

/-- Only the least cell has no negative (R105). -/
theorem neg_tooLarge_iff (x : Cell) : tooLarge (-x.toInt) ↔ x = minCell := by
  have hlo : -2 ^ 35 ≤ x.toInt := BitVec.le_toInt x
  have hhi : x.toInt < 2 ^ 35 := BitVec.toInt_lt
  have hmin : minCell.toInt = -2 ^ 35 := rfl
  rw [← BitVec.toInt_inj, hmin]
  omega

section
variable {s : State} {h : HalfId} {k : BitVec 5}

/-- An arithmetic instruction of a ready half retires with the result, the status and the pending ARITH that `f` gives. -/
theorem attempt_alu (r : Ready s h k) {c : Instr} {code : BitVec 6} {pops : Nat} {touch : List Nat} {f : Bank → AluRes}
    (hc : exec c s = .next (runSlot s h (aluOp code pops touch f))) {l : List Cell} {v : Cell} {cy ovf : Prop}
    [Decidable cy] [Decidable ovf] (h1 : pops ≤ (s.bank h k).ds.length) (h2 : l.length < 16)
    (hl : (s.bank h k).ds.drop pops = l) (hf : f (s.bank h k) = ⟨v, decide cy, decide ovf⟩) :
    Retires c s h k { s.bank h k with ds := v :: l, status := carryStatus (s.bank h k) cy ovf }
      (slotsOn (s.bank h k).resume 1) (overflowTrap (s.bank h k) ovf) := by
  have harith : overflowTrap (s.bank h k) ovf =
      (overArith (s.bank h k) (decide ovf)).map fun z => ⟨(s.bank h k).resume, z, 0, 0⟩ := by
    simp only [overflowTrap, overArith, Bool.and_eq_true, decide_eq_true_eq]
    split <;> rfl
  have hlen : (s.bank h k).ds.length - pops = l.length := by rw [← hl, List.length_drop]
  rw [harith]
  refine attempt_plain r c simpleForm false noEnc _ _ _ _ hc rfl rfl rfl (stackFault_none _ _ _ h1 ?_) ?_
  · show (s.bank h k).ds.length - pops + 1 ≤ 16
    omega
  · show runAlu pops f s h k (s.bank h k) (slotsOn (s.bank h k).resume 1) = _
    simp only [runAlu, hf, hl]
    rfl

end

theorem addCells_false (x y : Cell) : addCells x y false = x + y := by simp [addCells, carryCell]

theorem addCells_carry (x y : Cell) (c : Bool) : addCells x y c = x + y + BitVec.ofNat 36 c.toNat := by cases c <;> rfl

/-- Settles O3: each instruction is an `attempt_alu` whose carry and overflow are those of R104 and R105. -/
theorem carryArithmetic : Obligations.CarryArithmetic := by
  intro s h k x y l hs hl
  have r := steady_ready hs
  refine ⟨fun hds => ?_, fun hds => ?_, fun hds => ?_, fun hds => ?_⟩
  · refine attempt_alu r (code := 0o10) (pops := 2) (touch := [0, 1]) rfl (by simp [hds]) hl (by simp [hds]) ?_
    simp [Bank.at, hds, addCells_false, addCarry, addOverflow, not_fitsSigned]
  · refine attempt_alu r (code := 0o11) (pops := 2) (touch := [0, 1]) rfl (by simp [hds]) hl (by simp [hds]) ?_
    simp [Bank.at, hds, subBorrow, subOverflow, not_fitsSigned]
  · refine attempt_alu r (code := 0o17) (pops := 2) (touch := [0, 1]) rfl (by simp [hds]) hl (by simp [hds]) ?_
    simp [Bank.at, hds, addCells_carry, addCarry, addOverflow, not_fitsSigned]
  · refine attempt_alu r (code := 0o16) (pops := 1) (touch := [0]) rfl (by simp [hds]) hl (by simp [hds]) ?_
    simp [Bank.at, hds, neg_tooLarge_iff, bne, beq_eq_decide]

/-! ## Packings and counts (R43-R45, R135) -/

theorem atBits_zero {w : Nat} (x : BitVec w) : atBits x 0 = BitVec.ofNat 36 x.toNat := by
  simp [atBits, BitVec.ofNat_toNat]

/-- A field brought to the bottom of a cell (R12). -/
theorem atBits_fld_zero {w : Nat} (c : BitVec w) (lo len : Nat) :
    atBits (fld c lo len) 0 = BitVec.ofNat 36 (c.toNat / 2 ^ lo % 2 ^ len) := by
  rw [atBits_zero, fld, BitVec.extractLsb'_toNat, Nat.shiftRight_eq_div_pow]

theorem field12_eq (c : Cell) (i : Nat) : field12 c i = field12Of c i := atBits_fld_zero c (12 * i) 12

theorem atBits_octetOf (x : Cell) (n : Nat) : atBits (octetOf x n) 0 = BitVec.ofNat 36 (x.toNat / 2 ^ (8 * n) % 256) :=
  atBits_fld_zero x (8 * n) 8

theorem octetNo_eq (n : Cell) : octetNo n = n.toNat % 4 := by
  simp [octetNo, fld]

theorem toNat_atBits_fld (c : Cell) (lo len up : Nat) (hup : len + up ≤ 36) :
    (atBits (fld c lo len) up).toNat = c.toNat / 2 ^ lo % 2 ^ len * 2 ^ up := by
  have hc : c.toNat / 2 ^ lo % 2 ^ len < 2 ^ len := Nat.mod_lt _ (Nat.two_pow_pos len)
  have hp : c.toNat / 2 ^ lo % 2 ^ len * 2 ^ up < 2 ^ 36 :=
    calc c.toNat / 2 ^ lo % 2 ^ len * 2 ^ up < 2 ^ len * 2 ^ up := Nat.mul_lt_mul_of_pos_right hc (Nat.two_pow_pos up)
      _ = 2 ^ (len + up) := (Nat.pow_add ..).symm
      _ ≤ 2 ^ 36 := Nat.pow_le_pow_right (by decide) hup
  have hw : c.toNat / 2 ^ lo % 2 ^ len < 2 ^ 36 := hc.trans_le (Nat.pow_le_pow_right (by decide) (by omega))
  rw [atBits, fld, BitVec.toNat_shiftLeft, BitVec.toNat_setWidth, BitVec.extractLsb'_toNat, Nat.shiftRight_eq_div_pow,
    Nat.mod_eq_of_lt hw, Nat.shiftLeft_eq, Nat.mod_eq_of_lt hp]

/-- The three fields overlap nowhere, so they add up (R43). -/
theorem pack12_eq (x y z : Cell) :
    pack12 x y z = BitVec.ofNat 36 (x.toNat % 4096 * 2 ^ 24 + y.toNat % 4096 * 2 ^ 12 + z.toNat % 4096) := by
  have hz : z.toNat % 4096 < 2 ^ 12 := Nat.mod_lt _ (by decide)
  have hlow : y.toNat % 4096 * 2 ^ 12 + z.toNat % 4096 < 2 ^ 24 := by omega
  have hfld (c : Cell) (up : Nat) (hup : 12 + up ≤ 36) : (atBits (fld c 0 12) up).toNat = c.toNat % 4096 * 2 ^ up := by
    simpa using toNat_atBits_fld c 0 12 up hup
  apply BitVec.eq_of_toNat_eq
  calc (pack12 x y z).toNat
      = x.toNat % 4096 * 2 ^ 24 ||| (y.toNat % 4096 * 2 ^ 12 ||| z.toNat % 4096) := by
        rw [pack12, BitVec.toNat_or, BitVec.toNat_or, hfld x 24 (by decide), hfld y 12 (by decide), hfld z 0 (by decide),
          Nat.pow_zero, Nat.mul_one, Nat.or_assoc]
    _ = x.toNat % 4096 * 2 ^ 24 + (y.toNat % 4096 * 2 ^ 12 + z.toNat % 4096) := by
        rw [← Nat.shiftLeft_eq _ 12, ← Nat.shiftLeft_add_eq_or_of_lt hz, Nat.shiftLeft_eq, ← Nat.shiftLeft_eq _ 24,
          ← Nat.shiftLeft_add_eq_or_of_lt hlow]
    _ = _ := by
        rw [BitVec.toNat_ofNat]
        omega

/-- OPUT's cell bit by bit: the octet's bits in its place, the cell's own elsewhere (R44). -/
theorem getLsbD_putOctet (c x : Cell) (n i : Nat) (hi : i < 36) :
    (putOctet c x n).getLsbD i = if 8 * n ≤ i ∧ i < 8 * n + 8 then x.getLsbD (i - 8 * n) else c.getLsbD i := by
  have hlt : i - 8 * n < 36 := by omega
  simp only [putOctet, atBits, fld, BitVec.getLsbD_or, BitVec.getLsbD_and, BitVec.getLsbD_not, BitVec.getLsbD_shiftLeft,
    BitVec.getLsbD_setWidth, BitVec.getLsbD_allOnes, BitVec.getLsbD_extractLsb', hi, hlt, decide_true, Bool.true_and, Nat.zero_add]
  by_cases h1 : i < 8 * n
  · simp [h1, Nat.not_le.2 h1]
  · by_cases h2 : i - 8 * n < 8
    · simp [h1, h2, Nat.not_lt.1 h1, show i < 8 * n + 8 by omega]
    · simp [h1, h2, show ¬i < 8 * n + 8 by omega]

/-- The first set bit from the top stands at the number of leading zeros (R135). -/
theorem clzCell_eq {x : Cell} {n : Nat} (hn : n ≤ 36) (hlt : x.toNat < 2 ^ (36 - n)) (hle : n < 36 → 2 ^ (35 - n) ≤ x.toNat) :
    clzCell x = n := by
  have hzero (j : Nat) (hj : j < n) : x.getLsbD (35 - j) = false :=
    Nat.testBit_lt_two_pow (hlt.trans_le (Nat.pow_le_pow_right (by decide) (by omega)))
  unfold clzCell
  by_cases h36 : n = 36
  · subst h36
    rw [List.find?_eq_none.2 fun j hj => by simp [hzero j (List.mem_range.1 hj)]]
    rfl
  · have hone : x.getLsbD (35 - n) = true := by
      refine Nat.testBit_of_two_pow_le_and_two_pow_add_one_gt (hle (by omega)) ?_
      rwa [show 35 - n + 1 = 36 - n by omega]
    rw [List.find?_range_eq_some (p := fun j => x.getLsbD (35 - j)) |>.2
      ⟨hone, List.mem_range.2 (by omega), fun j hj => by simp [hzero j hj]⟩]
    rfl

theorem popCell_eq (x : Cell) : popCell x = ((List.range 36).filter fun i => x.getLsbD i).length := by
  rw [popCell, countTrue, List.filter_map, List.length_map]
  rfl

/-! ## Packings, counts and X (R43-R45, R135; O6) -/

section
variable {s : State} {h : HalfId} {k : BitVec 5}

/-- A simple instruction of a ready half that replaces the top cells retires with those that it gives. -/
theorem attempt_simple (r : Ready s h k) {c : Instr} {code : BitVec 6} {cls : PairClass} {pops pushes : Nat} {touch : List Nat}
    {g : Bank → List Cell} (hc : exec c s = .next (runSlot s h (pureOp code cls pops pushes touch g))) {l : List Cell}
    (h1 : pops ≤ (s.bank h k).ds.length) (h2 : (s.bank h k).ds.length - pops + pushes ≤ 16)
    (hl : (g (s.bank h k)).reverse ++ (s.bank h k).ds.drop pops = l) :
    Retires c s h k { s.bank h k with ds := l } (slotsOn (s.bank h k).resume 1) :=
  attempt_pure r c simpleForm code cls pops pushes touch g hc rfl h1 h2 l hl

/-- The same for an EXT operation, in a slot with room for its selector (R74). -/
theorem attempt_ext (r : Ready s h k) {c : Instr} {code : BitVec 6} {pops pushes : Nat} {touch : List Nat}
    {g : Bank → List Cell} (hc : exec c s = .next (runExt s h (extOp code pops pushes touch g)))
    (hslot : (s.bank h k).resume.slot.toNat < 5) {l : List Cell}
    (h1 : pops ≤ (s.bank h k).ds.length) (h2 : (s.bank h k).ds.length - pops + pushes ≤ 16)
    (hl : (g (s.bank h k)).reverse ++ (s.bank h k).ds.drop pops = l) :
    Retires c s h k { s.bank h k with ds := l } (nextWord (s.bank h k).resume) :=
  attempt_pure r c (selectorForm 0o75) code .s pops pushes touch g hc (decide_eq_true hslot) h1 h2 l hl

/-- XCH exchanges X with the top cell (R135). -/
theorem xch_retires (r : Ready s h k) (hslot : (s.bank h k).resume.slot.toNat < 5) {x : Cell} {l : List Cell}
    (hds : (s.bank h k).ds = x :: l) (hl : l.length < 16) :
    Retires (.xch h) s h k { s.bank h k with ds := (s.bank h k).x :: l, x := x } (nextWord (s.bank h k).resume) := by
  refine attempt_plain r _ (selectorForm 0o75) false noEnc opXch _ _ none rfl (decide_eq_true hslot) rfl rfl
    (stackFault_none _ 1 1 (by simp [hds]) (by simp [hds]; omega)) ?_
  simp [opXch, doneStack, doneBank, Bank.at, hds, doneOf, selectorForm]

/-- XPUT moves the top cell to X (R135). -/
theorem xput_retires (r : Ready s h k) (hslot : (s.bank h k).resume.slot.toNat < 5) {x : Cell} {l : List Cell}
    (hds : (s.bank h k).ds = x :: l) (hl : l.length < 16) :
    Retires (.xput h) s h k { s.bank h k with ds := l, x := x } (nextWord (s.bank h k).resume) := by
  refine attempt_plain r _ (selectorForm 0o75) false noEnc opXput _ _ none rfl (decide_eq_true hslot) rfl rfl
    (stackFault_none _ 1 0 (by simp [hds]) (by simp [hds]; omega)) ?_
  simp [opXput, doneStack, doneBank, Bank.at, hds, doneOf, selectorForm]

end

/-- Settles O6: every form replaces the top cells by what the packing, the count or X gives. -/
theorem packingsCountsAndX : Obligations.PackingsCountsAndX := by
  intro s h k x y z l hs hl
  have r := steady_ready hs
  refine ⟨fun hds => ?_, fun hds => ?_, fun hds => ?_, fun hds v hv => ?_, fun hslot hds => ⟨fun n hn hlt hle => ?_, ?_, ?_, ?_⟩,
    fun hslot hds => ?_⟩
  · refine attempt_simple r (code := 0o33) (pops := 3) rfl (by simp [hds]) (by simp [hds]; omega) ?_
    simp [Bank.at, hds, pack12_eq]
  · refine attempt_simple r (code := 0o34) (pops := 1) rfl (by simp [hds]) (by simp [hds]; omega) ?_
    simp [Bank.at, hds, field12_eq]
  · refine attempt_simple r (code := 0o35) (pops := 2) rfl (by simp [hds]) (by simp [hds]; omega) ?_
    simp [Bank.at, hds, atBits_octetOf, octetNo_eq]
  · have hput : putOctet x y (octetNo z) = v := BitVec.eq_of_getLsbD_eq fun i hi => by
      rw [hv i hi, getLsbD_putOctet x y _ i hi, octetNo_eq]
    refine attempt_simple r (code := 0o36) (pops := 3) rfl (by simp [hds]) (by simp [hds]; omega) ?_
    simp [Bank.at, hds, hput]
  · refine attempt_ext r (code := 0o00) (pops := 1) rfl hslot (by simp [hds]) (by simp [hds]; omega) ?_
    simp [Bank.at, hds, clzCell_eq hn hlt hle, cellOf]
  · refine attempt_ext r (code := 0o01) (pops := 1) rfl hslot (by simp [hds]) (by simp [hds]; omega) ?_
    simp [Bank.at, hds, popCell_eq, cellOf]
  · exact xch_retires r hslot hds (by omega)
  · exact xput_retires r hslot hds (by omega)
  · refine attempt_ext r (code := 0o03) (pops := 0) rfl hslot (by simp) (by simp [hds]; omega) ?_
    simp [hds]

/-! ## Capability registers (R57, R60, R116, R119; O8) -/

theorem anyCap_ofNat (b : Bank) {n : Nat} (hn : n ≤ 6) :
    b.anyCap (BitVec.ofNat 36 n) = some ([b.c0, b.c1, b.c2, b.c3, b.pcc, b.spd, b.spt].getD n Cap.zero) := by
  interval_cases n <;> rfl

theorem capField_ofNat (s : State) (h : HalfId) (c : Cap) {f : Nat} (hf : f ≤ 6) :
    capField s h c (BitVec.ofNat 36 f) = some (capFieldOf s h c f) := by
  have htag : atBit (c.tag && s.genOk h c) 0 = capFieldOf s h c 6 := by
    simp only [atBit, State.genOk, capFieldOf, Bool.and_eq_true, beq_iff_eq]
    rfl
  interval_cases f
  · exact congrArg some (atBits_zero c.base)
  · exact congrArg some (atBits_zero c.len)
  · exact congrArg some (atBits_zero c.perm)
  · exact congrArg some (atBits_zero c.tenant)
  · exact congrArg some (atBits_zero c.space)
  · exact congrArg some (atBits_zero c.gen)
  · exact congrArg some htag

theorem capNo_setWidth (n : BitVec 2) : capNo (n.setWidth 36) = some n := by
  revert n; decide

/-- CNAR inside the bounds of an unsealed capability (R57, R119). -/
theorem narrow_inside (n : BitVec 2) {c : Cap} {off len : Cell} (mask : Cell) (ht : c.tag = true) (hs : c.space ≠ spSealed)
    (hb : off.toNat + len.toNat ≤ c.len.toNat) :
    narrow n c off len mask = .ok { c with base := BitVec.ofNat 24 (c.base.toNat + off.toNat), len := BitVec.ofNat 24 len.toNat,
                                           perm := c.perm &&& mask.extractLsb' 24 8 } := by
  have hlow (x : Cell) : fld x 0 24 = BitVec.ofNat 24 x.toNat := by
    apply BitVec.eq_of_toNat_eq
    simp [fld]
  have hbase : c.base + fld off 0 24 = BitVec.ofNat 24 (c.base.toNat + off.toNat) := by
    rw [hlow, BitVec.ofNat_add, BitVec.ofNat_toNat 24 c.base, BitVec.setWidth_eq]
  simp only [narrow, ht, hs, Nat.not_lt.2 hb, hbase, hlow len, Bool.not_true, Bool.false_eq_true, if_false]
  rfl

/-- Settles O8: CGET's operands name a register and a field of the bank, and CNAR's capability is `narrow_inside`. -/
theorem capabilityReadsAndNarrowing : Obligations.CapabilityReadsAndNarrowing := by
  intro s h k l hs hl
  have r := steady_ready hs
  refine ⟨fun n f hn hf hds => ?_, fun n off len mask hds ht hsp hb => ?_⟩
  · refine attempt_plain r _ simpleForm false noEnc opCget _ _ none rfl rfl rfl rfl
      (stackFault_none _ 2 1 (by simp [hds]) (by simp [hds]; omega)) ?_
    simp only [opCget, runCget, Bank.at, hds, List.getD_cons_succ, List.getD_cons_zero, anyCap_ofNat _ hn, capField_ofNat _ _ _ hf,
      doneStack, List.drop_succ_cons, List.drop_zero]
    rfl
  · refine attempt_plain r _ simpleForm false noEnc opCnar _ _ none rfl rfl rfl rfl
      (stackFault_none _ 4 0 (by simp [hds]) (by simp [hds]; omega)) ?_
    simp only [opCnar, runCnar, Bank.at, hds, List.getD_cons_succ, List.getD_cons_zero, capNo_setWidth,
      narrow_inside n mask ht hsp hb]
    rfl

end Sys2Proof.Machine

/-! # Stores enter the buffer (R49, R56, R114, R115, R118, R194-R198; O16) -/

namespace Sys2Proof.Machine

/-! ## Counts and windows -/

theorem onWin_ite (c : Prop) [Decidable c] (s t : State) (h : HalfId) (f : Windows → Windows) :
    (if c then s else t).onWin h f = if c then s.onWin h f else t.onWin h f := apply_ite (fun u : State => u.onWin h f) c s t

theorem onWin_setEvc (s : State) (h : HalfId) (f : Windows → Windows) (e : Evc) :
    ({ s.onWin h f with evc := e } : State) = ({ s with evc := e } : State).onWin h f := by cases h <;> rfl

theorem onMem_onWin (s : State) (h : HalfId) (f : Windows → Windows) (g : MemUnit → MemUnit) :
    (s.onWin h f).onMem h g = (s.onMem h g).onWin h f := by cases h <;> rfl

theorem onWin_onWin (s : State) (h : HalfId) (f g : Windows → Windows) : (s.onWin h f).onWin h g = s.onWin h fun w => g (f w) := by
  cases h <;> rfl

theorem setPending_onWin (s : State) (h : HalfId) (f : Windows → Windows) (n : Nat) :
    setPending (s.onWin h f) n = (setPending s n).onWin h f := by
  simp only [setPending, onWin_setEvc, onWin_ite]
  simp only [onWin_bnd, onWin_evc]

theorem raiseSource_onWin (s : State) (h : HalfId) (f : Windows → Windows) (n : Nat) :
    raiseSource (s.onWin h f) n = (raiseSource s n).onWin h f := by
  simp only [raiseSource, coalFire, onWin_setEvc, setPending_onWin, onWin_ite]
  simp only [onWin_bnd, onWin_evc]

theorem perfOne_onWin (code : BitVec 6) (h : HalfId) (s : State) (f : Windows → Windows) (n : Nat) :
    perfOne code h (s.onWin h f) n = (perfOne code h s n).onWin h f := by
  simp only [perfOne, half_onWin, raiseHalf, onMem_onWin, raiseSource_onWin, onWin_ite]

/-- An event counts the same whatever the windows hold (R342). -/
theorem perfCount_onWin (s : State) (h : HalfId) (f : Windows → Windows) (code : BitVec 6) :
    perfCount (s.onWin h f) h code = (perfCount s h code).onWin h f := by
  simp only [perfCount, List.foldl, perfOne_onWin]

/-! ## What a store makes of the buffer (R194, R198) -/

/-- The entry that a store makes of its cell (R194). -/
def StoreCell.entry (c : StoreCell) (num : Cell) (wr : Writer) (snap : Option CapSnap) : SbEntry :=
  ⟨c.target, c.data, c.tag, num, false, c.link, false, wr, snap, entryCheck c.target c.data c.tag c.link⟩

/-- The entry of the buffer that a store merges into, with the cell in its place (R198). -/
def StoreCell.mergedInto (c : StoreCell) (wr : Writer) (e : SbEntry) : SbEntry :=
  { e with target := c.target, data := c.data, tag := c.tag, writer := wr, chk := entryCheck c.target c.data c.tag c.link }

/-- The store merges into this entry of window `num` (R198). -/
def StoreCell.hits (c : StoreCell) (num : Cell) (e : SbEntry) : Bool :=
  match c.target with
  | .data a _ => c.link == .single && e.mergeable num a
  | _ => false

/-- The window and its buffer after a store, its signature apart: merged, or with a new entry (R194, R198). -/
def Windows.take (wr : Writer) (snap : Option CapSnap) (w : Windows) (c : StoreCell) : Windows :=
  { w with
    sb := if w.sb.any (c.hits w.num) then w.sb.map fun e => if c.hits w.num e then c.mergedInto wr e else e
          else w.sb ++ [c.entry w.num wr snap]
    stores := if w.sb.any (c.hits w.num) then w.stores else w.stores + 1 }

theorem take_fresh {wr : Writer} {snap : Option CapSnap} {w : Windows} {c : StoreCell} (hc : w.sb.any (c.hits w.num) = false) :
    w.take wr snap c = { w with sb := w.sb ++ [c.entry w.num wr snap], stores := w.stores + 1 } := by
  simp only [Windows.take, hc, Bool.false_eq_true, if_false]

theorem take_merged {wr : Writer} {snap : Option CapSnap} {w : Windows} {c : StoreCell} (hc : w.sb.any (c.hits w.num) = true) :
    w.take wr snap c = { w with sb := w.sb.map fun e => if c.hits w.num e then c.mergedInto wr e else e } := by
  simp only [Windows.take, hc, if_true]

/-- Only a single store of a data cell merges (R198). -/
theorem any_hits_data (l : List SbEntry) (num : Cell) (a : Addr) (t : BitVec 10) (d : Cell) (g : Bool) (k : LinkKind) :
    l.any (StoreCell.hits ⟨.data a t, d, g, k⟩ num) = (k == .single && l.any fun e => e.mergeable num a) := by
  show (l.any fun e => k == .single && e.mergeable num a) = _
  cases k == .single <;> simp

theorem onWin_congr {s : State} {h : HalfId} {f g : Windows → Windows} (e : f (s.half h).win = g (s.half h).win) :
    s.onWin h f = s.onWin h g :=
  congrArg (fun w => s.onHalf h fun x => { x with win := w }) e

/-- A store signs its item and enters the buffer (R194, R198, R247). -/
theorem bufferStore_eq (s : State) (h : HalfId) (c : StoreCell) (wr : Writer) (snap : Option CapSnap) :
    bufferStore s h c.target c.data c.tag c.link wr snap =
      s.onWin h fun w => (w.sign ⟨storeItem c.target c.data c.tag c.link, none⟩).take wr snap c := by
  obtain ⟨t, d, g, k⟩ := c
  cases t with
  | data a u =>
    simp only [bufferStore, signItem, onWin_onWin, half_onWin]
    by_cases hm : (k == .single && wouldMerge ((s.half h).win.sign ⟨storeItem (.data a u) d g k, none⟩) a) = true
    · rw [if_pos hm]
      refine onWin_congr ?_
      rw [take_merged ((any_hits_data ..).trans hm)]
      obtain ⟨hk, -⟩ := Bool.and_eq_true_iff.1 hm
      simp only [StoreCell.hits, hk, Bool.true_and]
      rfl
    · rw [if_neg hm]
      refine onWin_congr ?_
      rw [take_fresh ((any_hits_data ..).trans (Bool.eq_false_iff.2 hm))]
      rfl
  | _ =>
    simp only [bufferStore, signItem, onWin_onWin]
    refine onWin_congr ?_
    refine Eq.trans ?_ (take_fresh ?_).symm
    · rfl
    · simp [StoreCell.hits]

/-- The window and its buffer after the stores of an instruction, its signature apart (R194). -/
def Windows.takeAll (wr : Writer) (snap : Option CapSnap) (l : List StoreCell) (w : Windows) : Windows :=
  l.foldl (Windows.take wr snap) w

/-- Stores reach only the buffer and the window's count of its entries. -/
theorem takeAll_keeps (wr : Writer) (snap : Option CapSnap) (l : List StoreCell) (w : Windows) :
    w.takeAll wr snap l = { w with sb := (w.takeAll wr snap l).sb, stores := (w.takeAll wr snap l).stores } := by
  induction l generalizing w with
  | nil => rfl
  | cons c l ih => exact ih (w.take wr snap c)

/-- The fields of a window that the signature and the count of a slot set. -/
def Windows.retag (w : Windows) (sig : BitVec 64) (items : List SigItem) (slots pos : Nat) : Windows :=
  { w with sig := sig, items := items, slots := slots, replayPos := pos }

theorem takeAll_retag (wr : Writer) (snap : Option CapSnap) (l : List StoreCell) (w : Windows) (sig : BitVec 64)
    (items : List SigItem) (n p : Nat) : (w.retag sig items n p).takeAll wr snap l = (w.takeAll wr snap l).retag sig items n p := by
  induction l generalizing w with
  | nil => rfl
  | cons c l ih => exact ih (w.take wr snap c)

/-- A store signs its item and enters the buffer. -/
def Windows.signTake (wr : Writer) (snap : Option CapSnap) (w : Windows) (c : StoreCell) : Windows :=
  (w.sign ⟨storeItem c.target c.data c.tag c.link, none⟩).take wr snap c

/-- What stores make of the buffer does not turn on the signature or the slots. -/
theorem foldl_signTake_retag (wr : Writer) (snap : Option CapSnap) (l : List StoreCell) (w : Windows) (sig : BitVec 64)
    (items : List SigItem) (n p : Nat) :
    ∃ sig' items', l.foldl (Windows.signTake wr snap) (w.retag sig items n p) = (w.takeAll wr snap l).retag sig' items' n p := by
  induction l generalizing w sig items with
  | nil => exact ⟨sig, items, rfl⟩
  | cons c l ih => exact ih (w.take wr snap c) _ _

theorem putStores_eq (s : State) (h : HalfId) (wr : Writer) (snap : Option CapSnap) (l : List StoreCell) :
    putStores s h wr snap l = s.onWin h fun w => l.foldl (Windows.signTake wr snap) w := by
  induction l generalizing s with
  | nil => cases h <;> rfl
  | cons c l ih =>
    refine (ih (bufferStore s h c.target c.data c.tag c.link wr snap)).trans ?_
    rw [bufferStore_eq, onWin_onWin]
    rfl

/-- The stores of an instruction enter the buffer and the signature, and reach nothing else (R194, R247). -/
theorem putStores_retag (s : State) (h : HalfId) (wr : Writer) (snap : Option CapSnap) (l : List StoreCell) :
    ∃ sig items, putStores s h wr snap l =
      s.onWin h fun w => (w.takeAll wr snap l).retag sig items w.slots w.replayPos := by
  obtain ⟨sig, items, e⟩ := foldl_signTake_retag wr snap l (s.half h).win (s.half h).win.sig (s.half h).win.items
    (s.half h).win.slots (s.half h).win.replayPos
  exact ⟨sig, items, (putStores_eq ..).trans (onWin_congr e)⟩

/-- Stores of which none merges, neither into the buffer nor into one another, each have an entry of their own, in order (R194). -/
theorem takeAll_fresh (wr : Writer) (snap : Option CapSnap) (l : List StoreCell) (w : Windows)
    (hw : ∀ c ∈ l, ∀ e ∈ w.sb, c.hits w.num e = false)
    (hl : l.Pairwise fun c c' => c'.hits w.num (c.entry w.num wr snap) = false) :
    w.takeAll wr snap l = { w with sb := w.sb ++ l.map fun c => c.entry w.num wr snap, stores := w.stores + l.length } := by
  induction l generalizing w with
  | nil => simp [Windows.takeAll]
  | cons c l ih =>
    obtain ⟨hc, hl⟩ := List.pairwise_cons.1 hl
    have htake : w.take wr snap c = { w with sb := w.sb ++ [c.entry w.num wr snap], stores := w.stores + 1 } :=
      take_fresh (List.any_eq_false.2 fun e he => Bool.eq_false_iff.1 (hw c List.mem_cons_self e he))
    show (w.take wr snap c).takeAll wr snap l = _
    rw [htake, ih]
    · simp [Nat.add_assoc, Nat.add_comm 1]
    · intro c' hc' e he
      rcases List.mem_append.1 he with he | he
      · exact hw c' (List.mem_cons_of_mem _ hc') e he
      · rw [List.mem_singleton.1 he]
        exact hc c' hc'
    · exact hl

/-! ## Retirement with stores -/

section
variable {s t : State} {h : HalfId} {k : BitVec 5}

/-- A change of the window on both sides, which agrees but for what a slot sets, leaves a retirement's frame. -/
theorem Unmoved.onWin (m : Unmoved s t h k) {f g : Windows → Windows} {sig : BitVec 64} {items : List SigItem}
    (hw : f (t.half h).win = (g (s.half h).win).retag sig items ((g (s.half h).win).slots + 1) ((g (s.half h).win).replayPos + 1)) :
    Unmoved (s.onWin h g) (t.onWin h f) h k where
  banks j hj := by simpa using m.banks j hj
  otherHalf := by simpa using m.otherHalf
  block := by
    have hb := congrArg (fun u : State => ({ u with h0 := (s.onWin h g).h0, h1 := (s.onWin h g).h1 } : State)) m.block
    cases h <;> exact hb
  evc hv := by simpa using m.evc (by simpa using hv)
  ex := by simpa using m.ex
  win := by
    simp only [half_onWin, hw]
    rfl
  mem := by simpa using m.mem
  rest := by
    have hr := m.rest
    simp only [half_onWin, ex_onWin]
    rw [hr]

theorem noClose_of_unmoved (hc : noClose s h) (m : Unmoved s t h k) : noClose t h := by
  obtain ⟨hreplay, hlogged, honce, hprt, hstep, hdue⟩ := hc
  refine ⟨?_, ?_, ?_, ?_, ?_, ?_⟩
  · rw [m.win]; exact hreplay
  · rw [m.win]; exact hlogged
  · rw [m.win]; exact honce
  · rw [(congrArg (fun x : State => x.prt) m.block :)]; exact hprt
  · rw [dbgHalf_of_block m.block]; exact hstep
  · rw [m.win]; exact hdue

theorem noClose_takeAll (hc : noClose s h) (wr : Writer) (snap : Option CapSnap) (l : List StoreCell) :
    noClose (s.onWin h (Windows.takeAll wr snap l)) h := by
  unfold noClose
  rw [half_onWin, takeAll_keeps, onWin_prt]
  cases h <;> exact hc

/-- What a retirement with stores does before it looks at the boundary: its slot, with the stores in the buffer (R194, R247). -/
theorem retire_unclosed (s : State) (h : HalfId) (k : BitVec 5) (wr : Writer) (p : Pos) (d : Done) (hn : (s.ex h).arith = none)
    (hdt : noData s h) (hd : ({ d with stores := [] } : Done).Plain h) (joined : Bool) (g : Group) :
    ∃ g' l sig items, retire s h k wr p d joined g =
      retireClose ((slotDone s h k (d.lands p) p joined (d.arith.map fun z => ⟨p, z, 0, 0⟩) g' l).onWin h fun w =>
        (w.takeAll wr d.snap d.stores).retag sig items w.slots w.replayPos) h false := by
  have hiter : d.iter = none := hd.iter
  have hgroup : d.group = false := hd.group
  have hafter : d.after = .nothing := hd.after
  have hclose : d.close = false := hd.close
  have hleads : d.leads = false := by simp [Done.leads, hiter]
  obtain ⟨q, hq⟩ : ∃ q : Bank × Pos, q = (if d.taken then (d.b, d.dst) else sequential d.b p d.dst) := ⟨_, rfl⟩
  have hlands : ({ q.1 with resume := q.2 } : Bank) = d.lands p := by
    subst hq
    unfold Done.lands landed
    cases d.taken <;> rfl
  have hsign : signSlots (s.setBank h k { q.1 with resume := q.2 }) h p { d with b := q.1 } =
      retireSlot (s.setBank h k (d.lands p)) h p (d.lands p) := by
    rw [← hlands]
    simp only [signSlots, hgroup, hiter, Bool.false_eq_true, if_false]
    rfl
  obtain ⟨sig, items, hput⟩ := putStores_retag (retireSlot (s.setBank h k (d.lands p)) h p (d.lands p)) h wr d.snap d.stores
  obtain ⟨u, hu, -, hslot⟩ := slotDone_perf s h k (d.lands p) p joined hdt
  have harith : arithRetire (u.ex h).arith joined p d = d.arith.map fun z => ⟨p, z, 0, 0⟩ := by
    have hnone : (u.ex h).arith = none := by
      rw [ex_eq, hu.half]
      simpa [slotSigned, ex_eq] using hn
    simp only [arithRetire, hnone, hleads, hgroup, hiter, Bool.false_eq_true, if_false]
    cases d.arith <;> rfl
  have hperf (v : State) (f : Windows → Windows) :
      (if joined then perfCount (v.onWin h f) h 0o03 else v.onWin h f) =
        (if joined then perfCount v h 0o03 else v).onWin h f := by
    rw [perfCount_onWin, onWin_ite]
  refine ⟨if joined || d.taken || !(q.2.addr == p.addr || (s.half h).line.holds q.2.addr) then none else some g,
    if d.taken then (u.half h).line.transfer q.2.addr else (u.half h).line.step q.2.addr, sig, items, ?_⟩
  unfold retire
  rw [← hq]
  simp only at hslot ⊢
  rw [hsign, hput]
  simp only [hleads, Bool.or_false, hperf, afterRetire, hafter, hclose, slotDone, hslot]
  rw [← harith]
  refine congrArg (retireClose · h false) ?_
  cases h <;> rfl

/-- A retirement that is plain but for its stores leaves its bank, and the stores in the buffer (R194). -/
theorem retire_stores (s : State) (h : HalfId) (k : BitVec 5) (wr : Writer) (p : Pos) (d : Done) (hn : (s.ex h).arith = none)
    (hc : noClose s h) (hdt : noData s h) (hd : ({ d with stores := [] } : Done).Plain h) (joined : Bool) (g : Group) :
    (retire s h k wr p d joined g).bank h k = d.lands p ∧
      ((retire s h k wr p d joined g).ex h).arith = (d.arith.map fun z => ⟨p, z, 0, 0⟩) ∧
      Unmoved (s.onWin h (Windows.takeAll wr d.snap d.stores)) (retire s h k wr p d joined g) h k := by
  obtain ⟨g', l, sig, items, e⟩ := retire_unclosed s h k wr p d hn hdt hd joined g
  obtain ⟨hbank, harith, m⟩ := slotDone_unmoved s h k (d.lands p) p joined (d.arith.map fun z => ⟨p, z, 0, 0⟩) g' l hdt
  have hm : Unmoved (s.onWin h (Windows.takeAll wr d.snap d.stores)) ((slotDone s h k (d.lands p) p joined
      (d.arith.map fun z => ⟨p, z, 0, 0⟩) g' l).onWin h fun w => (w.takeAll wr d.snap d.stores).retag sig items w.slots w.replayPos)
      h k := by
    refine m.onWin (sig := sig) (items := items) ?_
    have hwin := m.win
    generalize (slotDone s h k (d.lands p) p joined (d.arith.map fun z => ⟨p, z, 0, 0⟩) g' l).half h = x at hwin
    have hw : x.win = (s.half h).win.retag x.win.sig x.win.items ((s.half h).win.slots + 1) ((s.half h).win.replayPos + 1) := hwin
    rw [hw, takeAll_retag, takeAll_keeps wr d.snap d.stores (s.half h).win]
    rfl
  rw [e, retireClose_none _ h (noClose_of_unmoved (noClose_takeAll hc wr d.snap d.stores) hm)]
  exact ⟨by simpa using hbank, by simpa using harith, hm⟩

/-! ## Room for the stores (R195, R196, R290) -/

theorem newEntries_le (w : Windows) (l : List StoreCell) : newEntries w l ≤ l.length := List.length_filter_le ..

theorem farStores_le (h : HalfId) (l : List StoreCell) : farStores h l ≤ l.length := List.length_filter_le ..

theorem roomFor8_iff (s : State) (h : HalfId) (n : Nat) : roomFor8 s h n = true ↔
    (s.half h).win.stores + n ≤ 8 ∧ (s.half h).win.sb.length + n ≤ 8 ∧ outboundUsed s h + n ≤ 64 := by
  simp [roomFor8, and_assoc]

theorem storesOverflow_of_room {n : Nat} (hr : roomFor8 s h n = true) {l : List StoreCell} (hl : l.length ≤ n) :
    storesOverflow (s.half h).win l = false := by
  obtain ⟨hs, -, -⟩ := (roomFor8_iff s h n).1 hr
  have hnew := newEntries_le (s.half h).win l
  simp only [storesOverflow, Bool.and_eq_false_iff, decide_eq_false_iff_not]
  omega

theorem storesFit_of_room {n : Nat} (hr : roomFor8 s h n = true) {l : List StoreCell} (hl : l.length ≤ n) :
    storesFit s h l = true := by
  obtain ⟨-, hsb, hout⟩ := (roomFor8_iff s h n).1 hr
  have hnew := newEntries_le (s.half h).win l
  have hfar := farStores_le h l
  simp only [storesFit, storeRoom, Bool.or_eq_true, Bool.and_eq_true, decide_eq_true_eq]
  omega

/-! ## Issue with stores -/

/-- A retirement that changes its bank and stores cells, with the copy of a capability that they carry. -/
def doneStores (s : State) (b : Bank) (dst : Pos) (snap : Option CapSnap) (l : List StoreCell) : Done :=
  { doneOf s b dst with stores := l, snap := snap }

/-- An instruction of a ready half that is plain but for its stores retires, and they stand in the buffer (R101, R194). -/
theorem attempt_stores (r : Ready s h k) (c : Instr) (f : Form) (rep : Bool) (enc : BitVec 5 → Bank → Option FaultInfo) (o : Op)
    (b : Bank) (dst : Pos) (snap : Option CapSnap) (l : List StoreCell)
    (hc : exec c s = .next (attempt s h f rep enc o)) (hf : f.fits (s.bank h k).resume = true)
    (he : enc k (s.bank h k) = none) (hi : o.isolated = false) (hst : stackFault (s.bank h k) o.pops o.pushes = none)
    (hrun : o.run s h k (s.bank h k) (f.next (s.bank h k).resume) = .done (doneStores s b dst snap l))
    {n : Nat} (hroom : roomFor8 s h n = true) (hl : l.length ≤ n) :
    RetiresFrom c s (s.onWin h (Windows.takeAll (writerOf s h k) snap l)) h k b dst := by
  have hd : ({ doneOf s b dst with snap := snap } : Done).Plain h := r.plain _ rfl rfl rfl rfl rfl rfl
  have hchecked : runChecked o s h k (s.bank h k) (f.next (s.bank h k).resume) = .done (doneStores s b dst snap l) := by
    simp [runChecked, hst, consumedRead, r.reads, hrun]
  have hissue : attempt s h f rep enc o = retire s h k (writerOf s h k) (s.bank h k).resume
      (doneStores s b dst snap l) (joins (s.ex h) (s.bank h k) o) (o.groupOf (s.bank h k)) := by
    rw [attempt_ready r, he, hf]
    show issue s h k (writerOf s h k) (s.bank h k) o (f.next (s.bank h k).resume) (s.bank h k).resume = _
    simp [issue, r.arith, hi, hchecked, settle, storesOverflow_of_room hroom hl, retireOrWait, doneStores, doneOf,
      After.faults, storesFit_of_room hroom hl, keepLoads]
  obtain ⟨hbank, harith, hm⟩ := retire_stores s h k (writerOf s h k) (s.bank h k).resume
    (doneStores s b dst snap l) r.arith r.noClose r.noData hd (joins (s.ex h) (s.bank h k) o) (o.groupOf (s.bank h k))
  exact ⟨_, by rw [hc, hissue], hbank, harith, hm⟩

/-- All steps of R55 pass for an access that the capability grants. -/
theorem checkData_ok {c : Cap} {reg : BitVec 3} {space : BitVec 2} {perm off w : Nat} {code : Bool} {a : Addr}
    (hg : grants s h c space perm off w = true) (ha : a.toNat = c.base.toNat + off) (h1 : dataMapped s h a.toNat = 0)
    (h2 : w ≠ 1 → dataMapped s h (a.toNat + w - 1) = 0) : checkData s h c ⟨reg, space, perm, code, w⟩ off false = .ok a := by
  simp only [grants, Bool.and_eq_true, beq_iff_eq, decide_eq_true_eq] at hg
  obtain ⟨⟨⟨⟨htag, hspace⟩, hgen⟩, hperm⟩, hlen⟩ := hg
  have hst : capStatus c (s.genOk h c) ⟨reg, space, perm, code, w⟩ off false = 0 := by
    simp [capStatus, htag, hspace, hgen, hperm, Nat.not_lt.2 hlen]
  have haddr : BitVec.ofNat 24 a.toNat = a := by simp
  rw [ha] at h1 h2 haddr
  by_cases hw : w = 1
  · subst hw
    simp [checkData, hst, effAddr, h1, haddr]
  · simp [checkData, hst, effAddr, h1, hw, h2 hw, haddr]

/-- The stores of an instruction that all have entries of their own are those of `buffered`. -/
theorem buffered_eq (s : State) (h : HalfId) (k : BitVec 5) (snap : Option CapSnap) (l : List StoreCell)
    (hw : ∀ c ∈ l, ∀ e ∈ (s.half h).win.sb, c.hits (s.half h).win.num e = false)
    (hl : l.Pairwise fun c c' => c'.hits (s.half h).win.num (c.entry (s.half h).win.num (writerOf s h k) snap) = false) :
    s.onWin h (Windows.takeAll (writerOf s h k) snap l) =
      buffered s h k snap (l.map fun c => (c.target, c.data, c.tag, c.link)) := by
  refine onWin_congr ?_
  rw [takeAll_fresh _ _ _ _ hw hl, List.map_map, List.length_map]
  rfl

@[simp] theorem hits_single (a : Addr) (t : BitVec 10) (d : Cell) (g : Bool) (num : Cell) (e : SbEntry) :
    StoreCell.hits ⟨.data a t, d, g, .single⟩ num e = e.mergeable num a := rfl

/-- A linked cell merges into no entry (R198). -/
theorem hits_linked {c : StoreCell} (hc : c.link ≠ .single) (num : Cell) (e : SbEntry) : c.hits num e = false := by
  unfold StoreCell.hits
  split <;> simp [hc]

/-- Where one entry takes the store, the others stay (R198). -/
theorem merged_eq {wr : Writer} {snap : Option CapSnap} {c : StoreCell} {e : SbEntry} {pre post : List SbEntry}
    (hsb : (s.half h).win.sb = pre ++ e :: post) (he : c.hits (s.half h).win.num e = true)
    (hrest : ∀ x ∈ pre ++ post, c.hits (s.half h).win.num x = false) :
    s.onWin h (Windows.takeAll wr snap [c]) = s.onWin h fun w => { w with sb := pre ++ c.mergedInto wr e :: post } := by
  have hkeep (l : List SbEntry) (hl : ∀ x ∈ l, c.hits (s.half h).win.num x = false) :
      (l.map fun x => if c.hits (s.half h).win.num x then c.mergedInto wr x else x) = l :=
    (List.map_congr_left fun x hx => by simp [hl x hx]).trans (List.map_id l)
  have hany : (s.half h).win.sb.any (c.hits (s.half h).win.num) = true := List.any_eq_true.2 ⟨e, by simp [hsb], he⟩
  refine onWin_congr ((take_merged hany).trans ?_)
  rw [hsb, List.map_append, List.map_cons, hkeep pre fun x hx => hrest x (by simp [hx]),
    hkeep post fun x hx => hrest x (by simp [hx]), if_pos he]

/-! ## STn and CST (R114-R118; O16) -/

/-- STn through a capability that grants it retires with its one store (R114, R115). -/
theorem stn_retires (r : Ready s h k) {n : BitVec 2} {off v : Cell} {l : List Cell} {a : Addr} (hlen : l.length ≤ 14)
    (hroom : roomFor8 s h 2 = true) (hds : (s.bank h k).ds = off :: v :: l)
    (ha : a.toNat = ((s.bank h k).cap n).base.toNat + off.toNat)
    (hg : grants s h ((s.bank h k).cap n) spData pST off.toNat 1 = true) (hm : dataMapped s h a.toNat = 0)
    (hlock : ((regionOf a).isNvm && s.lockedMode h) = false) :
    RetiresFrom (.stn h n) s
      (s.onWin h (Windows.takeAll (writerOf s h k) none [⟨.data a ((s.bank h k).cap n).tenant, v, false, .single⟩])) h k
      { s.bank h k with ds := l } (slotsOn (s.bank h k).resume 1) := by
  refine attempt_stores r _ simpleForm false noEnc (opStn n) _ _ _ _ rfl rfl rfl rfl
    (stackFault_none _ 2 0 (by simp [hds]) (by simp [hds]; omega)) ?_ hroom (by simp)
  have hcheck := checkData_ok (reg := n.setWidth 3) (code := false) hg ha hm (fun h => absurd rfl h)
  simp only [opStn, runStn, Bank.at, hds, List.getD_cons_zero, List.getD_cons_succ, hcheck, storeLocked, hlock, Bool.false_eq_true,
    if_false, List.drop_succ_cons, List.drop_zero]
  rfl

/-- CST through C0 retires with the two linked cells of a tagged capability (R56, R115, R118). -/
theorem cst_retires (r : Ready s h k) {n : BitVec 2} {off : Cell} {l : List Cell} {a : Addr} (hlen : l.length ≤ 14)
    (hroom : roomFor8 s h 2 = true) (hds : (s.bank h k).ds = n.setWidth 36 :: off :: l)
    (ha : a.toNat = (s.bank h k).c0.base.toNat + off.toNat) (heven : off.getLsbD 0 = false)
    (hg : grants s h (s.bank h k).c0 spData pCS off.toNat 2 = true) (hm : dataMapped s h a.toNat = 0)
    (hm' : dataMapped s h (a.toNat + 1) = 0) (htag : ((s.bank h k).cap n).tag = true)
    (hgl : ((s.bank h k).cap n).has pGL = true ∨ ((s.bank h k).cap n).tenant = (s.bank h k).c0.tenant)
    (hlock : ((regionOf a).isNvm && s.lockedMode h) = false) :
    RetiresFrom (.cst h) s
      (s.onWin h (Windows.takeAll (writerOf s h k) none (pairStores a (s.bank h k).c0.tenant ((s.bank h k).cap n)))) h k
      { s.bank h k with ds := l } (slotsOn (s.bank h k).resume 1) := by
  refine attempt_stores r _ simpleForm false noEnc opCst _ _ _ _ rfl rfl rfl rfl
    (stackFault_none _ 2 0 (by simp [hds]) (by simp [hds]; omega)) ?_ hroom (by simp [pairStores])
  have hcheck := checkData_ok (reg := 0) (code := false) hg ha hm (fun _ => hm')
  have hglobal : globalOk ((s.bank h k).cap n) (s.bank h k).c0.tenant = true := by
    simpa [globalOk] using hgl
  simp only [opCst, runCst, cstTo, Bank.at, hds, List.getD_cons_zero, List.getD_cons_succ, capNo_setWidth, bit, heven, hcheck, htag,
    hglobal, storeLocked, hlock, Bool.not_true, Bool.false_eq_true, if_false, List.drop_succ_cons, List.drop_zero]
  rfl

end

/-- Settles O16: STn retires with one store and CST with two (`stn_retires`, `cst_retires`); a store that merges nowhere has an
entry of its own (`buffered_eq`), and one that merges takes the place of its entry (`merged_eq`). -/
theorem storesEnterTheBuffer : Obligations.StoresEnterTheBuffer := by
  intro s h k n off v l a hs hlen hroom
  have r := steady_ready hs
  refine ⟨fun hds ha hg hm hlock => ⟨fun hfresh => ?_, fun e pre post hsb he hrest => ?_⟩,
    fun hds ha heven hg hm hm' htag hgl hlock => ?_⟩
  · have hret := stn_retires r hlen hroom hds ha hg hm hlock
    rw [buffered_eq] at hret
    · exact hret
    · simpa [wouldMerge] using hfresh
    · exact List.pairwise_singleton ..
  · have hret := stn_retires r hlen hroom hds ha hg hm hlock
    rw [merged_eq (c := ⟨.data a ((s.bank h k).cap n).tenant, v, false, .single⟩) hsb he hrest] at hret
    exact hret
  · have hret := cst_retires r hlen hroom hds ha heven hg hm hm' htag hgl hlock
    rw [buffered_eq] at hret
    · exact hret
    · simp [pairStores, hits_linked]
    · simp [pairStores, hits_linked]

end Sys2Proof.Machine

/-! # Literals, transfers, calls and loops (R74, R80-R84, R91, R124, R125, R163-R172; O10, O11, O12, O14) -/

namespace Sys2Proof.Machine

/-! ## The fields of long forms (R82, R83) -/

theorem shl_sshiftRight_eq_signExtend (f : BitVec 30) {w : Nat} (h0 : 0 < w) (h : w ≤ 30) :
    ((f.setWidth 36) <<< (36 - w)).sshiftRight (36 - w) = (f.extractLsb' 0 w).signExtend 36 := by
  have hlast : 36 - 1 - (36 - w) = w - 1 := by omega
  have hmsb : ((f.setWidth 36) <<< (36 - w)).msb = f.getLsbD (w - 1) := by
    have hlt : ¬36 - 1 < 36 - w := by omega
    have hin : w - 1 < 36 := by omega
    simp only [BitVec.msb_eq_getLsbD_last, BitVec.getLsbD_shiftLeft, BitVec.getLsbD_setWidth, hlast, hlt, hin, decide_true,
      decide_false, Bool.not_false, Bool.true_and]
    simp
  have hmsb' : (f.extractLsb' 0 w).msb = f.getLsbD (w - 1) := by
    simp [BitVec.msb_eq_getLsbD_last, h0]
  refine BitVec.eq_of_getLsbD_eq fun i hi => ?_
  rw [BitVec.getLsbD_sshiftRight, BitVec.getLsbD_signExtend, hmsb, hmsb']
  by_cases hw : i < w
  · have hin : 36 - w + i < 36 := by omega
    simp [hw, hi, hin]
  · have hout : ¬36 - w + i < 36 := by omega
    simp [hw, hi, hout]

theorem signedField_eq {p : Pos} (hp : p.slot.toNat < 5) (f : BitVec 30) :
    signedField p f = (f.extractLsb' 0 (6 * (5 - p.slot.toNat))).signExtend 36 :=
  shl_sshiftRight_eq_signExtend f (show 0 < 6 * (5 - p.slot.toNat) by omega) (show 6 * (5 - p.slot.toNat) ≤ 30 by omega)

/-- The field of LIT out of slot 5 lies in the 30 bits of a long form (R83). -/
theorem litField_eq {p : Pos} (hp : p.slot.toNat < 5) (f : Cell) :
    litField p f = (f.extractLsb' 0 (6 * (5 - p.slot.toNat))).signExtend 36 := by
  have h5 : p.slot ≠ 5 := fun e => by rw [e] at hp; exact absurd hp (by decide)
  have hf : (f.setWidth 30).extractLsb' 0 (6 * (5 - p.slot.toNat)) = f.extractLsb' 0 (6 * (5 - p.slot.toNat)) := by
    refine BitVec.eq_of_getLsbD_eq fun i hi => ?_
    have h30 : i < 30 := by omega
    simp [hi, h30]
  rw [litField, if_neg h5, signedField_eq hp, hf]

theorem unsignedField_eq (p : Pos) (f : BitVec 30) :
    unsignedField p f = (f.extractLsb' 0 (6 * (5 - p.slot.toNat))).setWidth 36 := by
  have hpow : 2 ^ fieldWidth p ≤ 2 ^ 30 := Nat.pow_le_pow_right (by decide) (by simp only [fieldWidth]; omega)
  have hpos : 0 < 2 ^ fieldWidth p := Nat.two_pow_pos _
  have hone : ((1 : Cell) <<< fieldWidth p).toNat = 2 ^ fieldWidth p := by
    simp [Nat.shiftLeft_eq]
    omega
  have hmask : (((1 : Cell) <<< fieldWidth p) - 1).toNat = 2 ^ fieldWidth p - 1 := by
    rw [BitVec.toNat_sub_of_le (by rw [BitVec.le_def, hone]; exact hpos), hone]
    rfl
  have hlt : f.toNat < 2 ^ 36 := f.isLt.trans (by decide)
  have hlt' : f.toNat % 2 ^ (6 * (5 - p.slot.toNat)) < 2 ^ 36 := (Nat.mod_le ..).trans_lt hlt
  apply BitVec.eq_of_toNat_eq
  rw [unsignedField, BitVec.toNat_and, hmask, Nat.and_two_pow_sub_one_eq_mod, BitVec.toNat_setWidth, BitVec.toNat_setWidth,
    BitVec.extractLsb'_toNat, Nat.shiftRight_zero, Nat.mod_eq_of_lt hlt, Nat.mod_eq_of_lt hlt']
  rfl

theorem branchTarget_eq {p : Pos} (hp : p.slot.toNat < 5) (f : BitVec 30) :
    branchTarget p f = p.addr.toNat + (f.extractLsb' 0 (6 * (5 - p.slot.toNat))).toInt := by
  rw [branchTarget, signedField_eq hp, BitVec.toInt_signExtend_of_le (by omega)]

/-! ## LIT and LITH (R74, R83; O10) -/

section
variable {s : State} {h : HalfId} {k : BitVec 5}

theorem litAtLoopEnd_none {b : Bank} (hb : b.levels = 0) : litAtLoopEnd b = false := by
  simp [litAtLoopEnd, hb]

/-- LIT in slots 0 to 4 (R83). -/
theorem lit_retires (r : Ready s h k) (f : Cell) (hslot : (s.bank h k).resume.slot.toNat < 5)
    (hlen : (s.bank h k).ds.length < 16) :
    Retires (.lit h f) s h k { s.bank h k with
      ds := (f.extractLsb' 0 (6 * (5 - (s.bank h k).resume.slot.toNat))).signExtend 36 :: (s.bank h k).ds }
      (nextWord (s.bank h k).resume) := by
  have h5 : (s.bank h k).resume.slot ≠ 5 := fun e => by rw [e] at hslot; exact absurd hslot (by decide)
  refine attempt_plain r _ litForm false noEnc (opLit f) _ _ none rfl rfl rfl rfl (stackFault_none _ 0 1 (by simp) ?_) ?_
  · show (s.bank h k).ds.length - 0 + 1 ≤ 16
    omega
  · simp only [opLit, runLit, litForm, if_pos h5, if_neg h5, litField_eq hslot]
    rfl

/-- LIT in slot 5: the literal is the next code word (R74, R83). -/
theorem lit36_retires (r : Ready s h k) (f : Cell) (hslot : (s.bank h k).resume.slot = 5)
    (hlen : (s.bank h k).ds.length < 16) (hlev : (s.bank h k).levels = 0)
    (hex : executable s h (s.bank h k).pcc ((s.bank h k).resume.addr.toNat + 1) = true) :
    Retires (.lit h f) s h k { s.bank h k with ds := f :: (s.bank h k).ds } ⟨(s.bank h k).resume.addr + 2, 0⟩ := by
  refine attempt_plain r _ litForm false noEnc (opLit f) _ _ none rfl rfl rfl rfl (stackFault_none _ 0 1 (by simp) ?_) ?_
  · show (s.bank h k).ds.length - 0 + 1 ≤ 16
    omega
  · simp only [opLit, runLit, litForm, litField, hslot, ne_eq, not_true, if_false, if_true, litAtLoopEnd_none hlev,
      Bool.false_eq_true, (executable_iff ..).1 hex]
    rfl

end

/-- Settles O10: LIT's field is `litField_eq`, and LITH replaces the top cell by itself with `unsignedField_eq` appended. -/
theorem literalsPushTheirFields : Obligations.LiteralsPushTheirFields := by
  intro s h k f g x l hs hl
  have r := steady_ready hs
  refine ⟨fun hslot hds => ?_, fun hslot hds hlev hex => ?_, fun hslot hds => ?_⟩
  · subst hds
    exact lit_retires r f hslot hl
  · subst hds
    exact lit36_retires r f hslot hl hlev hex
  · refine attempt_pure r _ longForm 0o67 .l 1 1 [0] (fun b => [(b.at 0 <<< fieldWidth b.resume) ||| unsignedField b.resume g])
      rfl (decide_eq_true hslot) (by simp [hds]) (by simp [hds]; omega) _ ?_
    simp [Bank.at, hds, unsignedField_eq, fieldWidth]

/-! ## Jumps and branches (R83, R124, R172; O11) -/

/-- A taken jump changes only the count of levels (R172). -/
theorem afterJump_eq (b : Bank) (t : Addr) : afterJump b t = { b with levels := levelsAfterJump b t } := by
  have hleft (l : LoopReg) : outerLeft b t l =
      (l.ldp.toNat == b.depthD && (decide (t.toNat < l.ls.toNat) || decide (l.le.toNat < t.toNat))) := by
    rw [Bool.eq_iff_iff]
    simp only [outerLeft, decide_eq_true_eq, Bool.and_eq_true, beq_iff_eq, Bool.or_eq_true]
    omega
  simp only [afterJump, levelsAfterJump, hleft]
  (repeat' split) <;> rfl

section
variable {s : State} {h : HalfId} {k : BitVec 5}

theorem checkBranch_none {pcc : Cap} {t : Int} (h0 : 0 ≤ t) (hex : executable s h pcc t.toNat = true) :
    checkBranch s h pcc t = none := by
  rw [checkBranch, if_neg (not_lt.2 h0), (executable_iff ..).1 hex]

/-- JMP where slot 1 is its own or reads zero (R83, R124). -/
theorem jmp_jumps (r : Ready s h k) {z : BitVec 6} {a : Addr} (hslot : (s.bank h k).resume.slot.toNat ≤ 1)
    (hz : (s.bank h k).resume.slot = 0 → z = 0) (hlen : (s.bank h k).ds.length ≤ 16)
    (hex : executable s h (s.bank h k).pcc a.toNat = true) :
    Jumps (.jmp h z a) s h k { s.bank h k with levels := levelsAfterJump (s.bank h k) a } ⟨a, 0⟩ := by
  refine attempt_taken r _ jmpForm false (jmpEnc z) (opJmp a) _ _ rfl (decide_eq_true hslot) ?_ rfl
    (stackFault_none _ 0 0 (by simp) hlen) ?_
  · simp only [jmpEnc, ite_eq_right_iff, and_imp]
    exact fun h0 hne => absurd (hz h0) hne
  · simp only [opJmp, runJmp, (executable_iff ..).1 hex, transfer, afterJump_eq]

/-- A branch whose condition fails pops it and goes on (R83, R124). -/
theorem branch_falls (r : Ready s h k) {c : Instr} {code : BitVec 6} {zero : Bool} {d : BitVec 30} {x : Cell} {l : List Cell}
    (hc : exec c s = .next (attempt s h longForm false noEnc (opBranch code zero d)))
    (hslot : (s.bank h k).resume.slot.toNat < 5) (hds : (s.bank h k).ds = x :: l) (hlen : l.length ≤ 16)
    (hx : (x == 0) = !zero) : Retires c s h k { s.bank h k with ds := l } (nextWord (s.bank h k).resume) := by
  refine attempt_plain r c longForm false noEnc _ _ _ none hc (decide_eq_true hslot) rfl rfl
    (stackFault_none _ 1 0 (by simp [hds]) (by simp [hds]; omega)) ?_
  have hne : ((x == 0) != zero) = true := by rw [hx]; cases zero <;> rfl
  simp only [opBranch, runBranch, Bank.at, hds, List.getD_cons_zero, hne, if_true, List.drop_succ_cons, List.drop_zero]
  rfl

/-- A branch whose condition holds pops it and jumps (R83, R124, R172). -/
theorem branch_jumps (r : Ready s h k) {c : Instr} {code : BitVec 6} {zero : Bool} {d : BitVec 30} {x : Cell} {l : List Cell}
    (hc : exec c s = .next (attempt s h longForm false noEnc (opBranch code zero d)))
    (hslot : (s.bank h k).resume.slot.toNat < 5) (hds : (s.bank h k).ds = x :: l) (hlen : l.length ≤ 16)
    (hx : (x == 0) = zero) {t : Int}
    (ht : t = (s.bank h k).resume.addr.toNat + (d.extractLsb' 0 (6 * (5 - (s.bank h k).resume.slot.toNat))).toInt)
    (h0 : 0 ≤ t) (hex : executable s h (s.bank h k).pcc t.toNat = true) :
    Jumps c s h k { s.bank h k with ds := l, levels := levelsAfterJump (s.bank h k) (BitVec.ofInt 24 t) }
      ⟨BitVec.ofInt 24 t, 0⟩ := by
  refine attempt_taken r c longForm false noEnc _ _ _ hc (decide_eq_true hslot) rfl rfl
    (stackFault_none _ 1 0 (by simp [hds]) (by simp [hds]; omega)) ?_
  have hne : ((x == 0) != zero) = false := by rw [hx]; cases zero <;> rfl
  simp only [opBranch, runBranch, Bank.at, hds, List.getD_cons_zero, hne, Bool.false_eq_true, if_false, branchTarget_eq hslot, ← ht,
    checkBranch_none h0 hex, transfer, afterJump_eq, List.drop_succ_cons, List.drop_zero]
  rfl

end

/-- Settles O11: JMP by `jmp_jumps`; BZ and BNZ by `branch_falls` and `branch_jumps`. -/
theorem jumpsAndBranches : Obligations.JumpsAndBranches := by
  intro s h k a d x l hs hl
  have r := steady_ready hs
  refine ⟨fun hslot hds hex => ⟨?_, fun h1 z => ?_⟩, fun hslot hds => ⟨fun hx => ?_, fun hx => ?_,
    fun h0 hex => ⟨fun hx => ?_, fun hx => ?_⟩⟩⟩
  · exact jmp_jumps r hslot (fun _ => rfl) (by rw [hds]; exact hl) hex
  · exact jmp_jumps r hslot (fun e => absurd (h1.symm.trans e) (by decide)) (by rw [hds]; exact hl) hex
  · exact branch_falls r (zero := true) rfl hslot hds hl (by simpa using hx)
  · exact branch_falls r (zero := false) rfl hslot hds hl (by simpa using hx)
  · exact branch_jumps r (zero := true) rfl hslot hds hl (by simpa using hx) rfl h0 hex
  · exact branch_jumps r (zero := false) rfl hslot hds hl (by simpa using hx) rfl h0 hex

/-! ## Calls (R80, R81, R125, R163-R165; O12) -/

theorem toNat_atBits {w : Nat} (x : BitVec w) (up : Nat) (hup : w + up ≤ 36) : (atBits x up).toNat = x.toNat * 2 ^ up := by
  have hx : x.toNat * 2 ^ up < 2 ^ 36 :=
    calc x.toNat * 2 ^ up < 2 ^ w * 2 ^ up := Nat.mul_lt_mul_of_pos_right x.isLt (Nat.two_pow_pos up)
      _ = 2 ^ (w + up) := (Nat.pow_add ..).symm
      _ ≤ 2 ^ 36 := Nat.pow_le_pow_right (by decide) hup
  have hw : x.toNat < 2 ^ 36 := x.isLt.trans_le (Nat.pow_le_pow_right (by decide) (by omega))
  rw [atBits, BitVec.toNat_shiftLeft, BitVec.toNat_setWidth, Nat.mod_eq_of_lt hw, Nat.shiftLeft_eq, Nat.mod_eq_of_lt hx]

/-- The three fields of a return entry overlap nowhere, so they add up (R163). -/
theorem returnEntry_eq (m : BitVec 5) (p : Pos) : TCell.plain (returnEntry m p) = returnCell m p := by
  have hslot : p.slot.toNat < 2 ^ 3 := p.slot.isLt
  have haddr : p.addr.toNat < 2 ^ 24 := p.addr.isLt
  have hlow : p.slot.toNat * 2 ^ 24 + p.addr.toNat < 2 ^ 27 := by omega
  have hm : m.toNat < 2 ^ 5 := m.isLt
  refine congrArg (TCell.mk · false) (BitVec.eq_of_toNat_eq ?_)
  calc (returnEntry m p).toNat
      = m.toNat * 2 ^ 27 ||| (p.slot.toNat * 2 ^ 24 ||| p.addr.toNat) := by
        rw [returnEntry, BitVec.toNat_or, BitVec.toNat_or, toNat_atBits m 27 (by decide), toNat_atBits p.slot 24 (by decide),
          toNat_atBits p.addr 0 (by decide), Nat.pow_zero, Nat.mul_one, Nat.or_assoc]
    _ = m.toNat * 2 ^ 27 + (p.slot.toNat * 2 ^ 24 + p.addr.toNat) := by
        rw [← Nat.shiftLeft_eq _ 24, ← Nat.shiftLeft_add_eq_or_of_lt haddr, Nat.shiftLeft_eq, ← Nat.shiftLeft_eq _ 27,
          ← Nat.shiftLeft_add_eq_or_of_lt hlow]
    _ = _ := by
        rw [BitVec.toNat_ofNat]
        omega

theorem savedEntries_eq (b : Bank) (m : BitVec 5) : savedEntries b m = savedCells b m := rfl

theorem maskEntries_eq (b : Bank) (m : BitVec 5) : maskEntries m = (savedCells b m).length := by
  have hcount (t : Bool) (l : List Bool) : countTrue (t :: l) = (if t then 1 else 0) + countTrue l := by
    cases t <;> simp [countTrue, Nat.add_comm]
  have hnil : countTrue [] = 0 := rfl
  have hpair (t : Bool) : (if t then 2 else 0) = 2 * (if t then 1 else 0) := by cases t <;> rfl
  simp only [← savedEntries_eq, maskEntries, savedEntries, hcount, hnil, List.length_append, apply_ite List.length, List.length_cons,
    List.length_nil, Nat.reduceAdd, hpair]
  omega

/-- A mask below 2 selects no capability register (R164, R165). -/
theorem maskCaps_low {m : BitVec 5} (hm : m.toNat < 2) : maskCaps m = false := by
  revert m; decide

theorem maskEnc_low (code : BitVec 6) (m : BitVec 5) (k : BitVec 5) (b : Bank) : maskEnc code (m.setWidth 6) k b = none := by
  have hbit : bit (m.setWidth 6) 5 = false := by revert m; decide
  simp [maskEnc, hbit]

theorem mask_low (m : BitVec 5) : fld (m.setWidth 6) 0 5 = m := by
  revert m; decide

section
variable {s : State} {h : HalfId} {k : BitVec 5}

/-- A call that fits on the return stack, to a target inside PCC, at a depth that its mask allows (R125, R164, R165). -/
theorem enterCall_done {b : Bank} {m : BitVec 5} {a : Addr} {ret : Pos} (hroom : b.rs.length + (savedCells b m).length + 1 ≤ 16)
    (hex : executable s h b.pcc a.toNat = true) (hdepth : m.toNat < 2 ∨ b.depthD % 2 = 0) :
    enterCall s h b m a.toNat ret =
      .done { doneOf s { b with rs := returnCell m ret :: ((savedCells b m).reverse ++ b.rs) } ⟨a, 0⟩ with taken := true } := by
  have hret : returnFault b 0 (maskEntries m + 1) = none := by
    have hover : ¬16 < b.rs.length - 0 + ((savedCells b m).length + 1) := by omega
    simp [returnFault, maskEntries_eq b m, -Nat.not_lt]
    omega
  have hcaps : (maskCaps m && decide (b.depthD % 2 = 1)) = false := by
    obtain hm | hd := hdepth
    · rw [maskCaps_low hm]; rfl
    · simp [hd]
  have haddr : BitVec.ofNat 24 a.toNat = a := by simp
  simp only [enterCall, hret, (executable_iff ..).1 hex, hcaps, Bool.false_eq_true, if_false, returnEntry_eq, savedEntries_eq,
    transfer, haddr]

end

/-- Settles O12: both forms are `enterCall_done`, CALLI's in the bank whose target it has popped. -/
theorem callsSaveAndEnter : Obligations.CallsSaveAndEnter := by
  intro s h k m a l hs hl b called hroom hex hdepth
  have r := steady_ready hs
  refine ⟨fun hslot hds => ?_, fun hslot hds => ?_⟩
  · refine attempt_taken r _ callForm false (maskEnc 0o63 (m.setWidth 6)) (opCall (m.setWidth 6) a) _ _ rfl (decide_eq_true hslot)
      (maskEnc_low ..) rfl (stackFault_none _ 0 0 (by simp) (by rw [show (s.bank h k).ds = l from hds]; exact hl)) ?_
    subst hds
    simp only [opCall, mask_low]
    exact enterCall_done hroom hex hdepth
  · have hds' : (s.bank h k).ds = a.setWidth 36 :: l := hds
    refine attempt_taken r _ calliForm false (maskEnc 0o64 (m.setWidth 6)) (opCalli (m.setWidth 6)) _ _ rfl (decide_eq_true hslot)
      (maskEnc_low ..) rfl (stackFault_none _ 1 0 (by simp [hds']) (by simp [hds']; omega)) ?_
    have ha : (a.setWidth 36).toNat = a.toNat := by simp; omega
    simp only [opCalli, mask_low, Bank.at, hds', List.getD_cons_zero, ha, List.drop_succ_cons, List.drop_zero]
    exact enterCall_done (b := { s.bank h k with ds := l }) hroom hex hdepth

/-! ## Hardware loops (R84, R170, R171; O14) -/

/-- In slot 5 a slot ends its code word, and the loop levels are looked at (R171). -/
theorem landed_lastSlot (b : Bank) {p : Pos} (hp : p.slot = 5) :
    landed b p (slotsOn p 1) = { (loopEnds 3 b p.addr).1 with resume := (loopEnds 3 b p.addr).2 } := by
  have hdst : slotsOn p 1 = ⟨p.addr + 1, 0⟩ := by simp [slotsOn, hp, nextWord]
  have hne : p.addr + 1 ≠ p.addr := by simp
  have hback : p.addr + 1 - 1 = p.addr := by simp
  simp only [landed, sequential, hdst, if_neg hne, hback]

section
variable {s : State} {h : HalfId} {k : BitVec 5}

theorem loopEnc_none {n : BitVec 6} (hn : n ≠ 0) (hk : k.toNat < 8) (b : Bank) : loopEnc n k b = none := by
  rw [loopEnc, if_neg (not_or.2 ⟨hn, Nat.not_le.2 hk⟩)]

/-- LOOP in a privileged context where no level is active (R84, R170). -/
theorem loop_opens (r : Ready s h k) {n : BitVec 6} {x : Cell} {l : List Cell} (hslot : (s.bank h k).resume.slot.toNat < 5)
    (hk : k.toNat < 8) (hn : n ≠ 0) (hds : (s.bank h k).ds = x :: l) (hlen : l.length ≤ 16) (hlev : (s.bank h k).levels = 0)
    (hx : x ≠ 0) (hlt : x.toNat < 2 ^ 24) :
    Retires (.loop h n) s h k { s.bank h k with
      ds := l, levels := 1
      loop0 := ⟨BitVec.ofNat 36 ((s.bank h k).resume.addr.toNat + 1), BitVec.ofNat 36 ((s.bank h k).resume.addr.toNat + n.toNat), x,
                BitVec.ofNat 36 (s.bank h k).depthD⟩ } (nextWord (s.bank h k).resume) := by
  refine attempt_plain r _ longForm false (loopEnc n) (opLoop n) _ _ none rfl (decide_eq_true hslot) ?_ rfl
    (stackFault_none _ 1 0 (by simp [hds]) (by simp [hds]; omega)) ?_
  · exact loopEnc_none hn hk _
  · have hout : loopOutside (s.bank h k) ((s.bank h k).resume.addr.toNat + n.toNat) = false := by simp [loopOutside, hlev]
    simp only [opLoop, runLoop, Bank.at, hds, List.getD_cons_zero, hout, hlev, Nat.not_le.2 hlt, hx, Bool.false_eq_true, false_or,
      show ¬(0 = 3) by decide, if_false, List.drop_succ_cons, List.drop_zero]
    simp only [Bank.pushLevel, Bank.setLevel, Nat.zero_add, if_true]
    rfl

/-- LOOP at count 0 skips its body (R170). -/
theorem loop_skips (r : Ready s h k) {n : BitVec 6} {l : List Cell} (hslot : (s.bank h k).resume.slot.toNat < 5)
    (hk : k.toNat < 8) (hn : n ≠ 0) (hds : (s.bank h k).ds = 0 :: l) (hlen : l.length ≤ 16) (hlev : (s.bank h k).levels = 0)
    (hex : executable s h (s.bank h k).pcc ((s.bank h k).resume.addr.toNat + n.toNat + 1) = true) :
    Jumps (.loop h n) s h k { s.bank h k with ds := l }
      ⟨BitVec.ofNat 24 ((s.bank h k).resume.addr.toNat + n.toNat + 1), 0⟩ := by
  refine attempt_taken r _ longForm false (loopEnc n) (opLoop n) _ _ rfl (decide_eq_true hslot) ?_ rfl
    (stackFault_none _ 1 0 (by simp [hds]) (by simp [hds]; omega)) ?_
  · exact loopEnc_none hn hk _
  · have hout : loopOutside (s.bank h k) ((s.bank h k).resume.addr.toNat + n.toNat) = false := by simp [loopOutside, hlev]
    have hzero : ¬2 ^ 24 ≤ (0 : Cell).toNat := by decide
    simp only [opLoop, runLoop, Bank.at, hds, List.getD_cons_zero, hout, hlev, hzero, Bool.false_eq_true, false_or,
      show ¬(0 = 3) by decide, if_false, if_true, List.drop_succ_cons, List.drop_zero, (executable_iff ..).1 hex, transfer]

/-- The end check of a lone level at its depth and last code word (R171). -/
theorem loopEnds_one {b : Bank} {a : Addr} (n : Nat) (hlev : b.levels = 1) (hldp : b.loop0.ldp.toNat = b.depthD)
    (hle : fld b.loop0.le 0 24 = a) :
    loopEnds (n + 2) b a =
      if b.loop0.lc = 1 then ({ b with levels := 0, loop0 := { b.loop0 with lc := 0 } }, ⟨a + 1, 0⟩)
      else ({ b with loop0 := { b.loop0 with lc := b.loop0.lc - 1 } }, ⟨fld b.loop0.ls 0 24, 0⟩) := by
  have hlevel : b.level = b.loop0 := by simp [Bank.level, hlev]
  simp only [loopEnds, hlev, hlevel, hldp, hle, Bank.setLevel, and_self, if_true, show ¬(1 = 0) by decide, if_false, Nat.sub_self]

end

/-- Settles O14: LOOP by `loop_opens` and `loop_skips`; the end of a body is a NOP in slot 5 (`landed_lastSlot`) whose end check
is `loopEnds_one`. -/
theorem hardwareLoops : Obligations.HardwareLoops := by
  intro s h k n x l hs hl
  have r := steady_ready hs
  refine ⟨fun hslot hk hn hds hlev => ⟨fun hx hlt => ?_, fun hx hex => ?_⟩, fun hslot hds hlev hldp hdepth hle => ?_⟩
  · exact loop_opens r hslot hk hn hds hl hlev hx hlt
  · subst hx
    exact loop_skips r hslot hk hn hds hl hlev hex
  · have hldp' : (s.bank h k).loop0.ldp.toNat = (s.bank h k).depthD := by
      rw [hldp, BitVec.toNat_ofNat, Nat.mod_eq_of_lt hdepth]
    have hle' : fld (s.bank h k).loop0.le 0 24 = (s.bank h k).resume.addr := by
      apply BitVec.eq_of_toNat_eq
      rw [fld, BitVec.extractLsb'_toNat, hle, Nat.shiftRight_zero, Nat.mod_eq_of_lt (BitVec.isLt _)]
    obtain ⟨t, he, hbank, harith, hm⟩ := attempt_simple r (c := .nop h) (code := 0o00) (pops := 0) (l := l) rfl (by simp)
      (by simp [hds]; omega) (by simp [hds])
    have hself : { s.bank h k with ds := l } = s.bank h k := by rw [← hds]
    rw [hself, landed_lastSlot _ hslot, loopEnds_one 1 hlev hldp' hle'] at hbank
    refine ⟨fun hlc => ⟨t, he, ?_, harith, hm⟩, fun hlc => ⟨t, he, ?_, harith, hm⟩⟩
    · rw [hbank, if_neg hlc]
      rfl
    · rw [hbank, if_pos hlc]

end Sys2Proof.Machine

/-! # Closes and handler entries (R159, R166, R221-R232, R243-R249, R360; O25, O31) -/

namespace Sys2Proof.Machine

/-! ## What a close leaves of the units of a half (R40, R243, R250) -/

/-- The units of a half that a close out of READING-ROOM leaves alone: its reckoner, span end, governor and schedule. -/
structure Units where
  rkn : Reckoner
  spn : SpanEnd
  gov : Gov
  sch : Sched

def State.units (s : State) (g : HalfId) : Units := ⟨(s.half g).rkn, (s.half g).spn, (s.half g).gov, (s.half g).sch⟩

section
variable (s : State) (h g : HalfId)

theorem units_of_half {s t : State} {g : HalfId} (e : t.half g = s.half g) : t.units g = s.units g := by
  simp only [State.units, e]

@[simp] theorem units_onEx (f : Exec → Exec) : (s.onEx h f).units g = s.units g := by cases h <;> cases g <;> rfl
@[simp] theorem units_onWin (f : Windows → Windows) : (s.onWin h f).units g = s.units g := by cases h <;> cases g <;> rfl
@[simp] theorem units_onTal (f : Tally → Tally) : (s.onTal h f).units g = s.units g := by cases h <;> cases g <;> rfl
@[simp] theorem units_onUp (f : BringUp → BringUp) : (s.onUp h f).units g = s.units g := by cases h <;> cases g <;> rfl
@[simp] theorem units_onDbk (f : DbkQueue → DbkQueue) : (s.onDbk h f).units g = s.units g := by cases h <;> cases g <;> rfl
@[simp] theorem units_onMem (f : MemUnit → MemUnit) : (s.onMem h f).units g = s.units g := by cases h <;> cases g <;> rfl
@[simp] theorem units_onTrec (f : TallyRec → TallyRec) : (s.onTrec h f).units g = s.units g :=
  units_of_half (half_onTrec ..)
@[simp] theorem units_onDbgHalf (f : DbgHalf → DbgHalf) : (s.onDbgHalf h f).units g = s.units g :=
  units_of_half (half_onDbgHalf ..)
@[simp] theorem units_block (evc mbx host crd cht rollback store mct flt vlt rng dbk prt dbg keep tick bnd ram nvm free messages
    pending) : State.units ⟨s.h0, s.h1, evc, mbx, host, crd, cht, rollback, store, mct, flt, vlt, rng, dbk, prt, dbg, keep, tick, bnd,
      ram, nvm, free, messages, pending⟩ g = s.units g := by
  cases g <;> rfl

@[simp] theorem units_raiseHalf (n : Nat) : (raiseHalf s h n).units g = s.units g := units_of_half (raiseSource_half ..)

@[simp] theorem units_storeAdd (p : StoreProg) : (storeAdd s p).units g = s.units g := by
  simp only [storeAdd, storePump]
  split <;> simp only [units_block]

@[simp] theorem units_reportHalf (u : DbkUnit) (cls : BitVec 5) (ctx : Option (BitVec 5)) (l : Option Lane) (c2 c3 : Cell) :
    (reportHalf s h u cls ctx l c2 c3).units g = s.units g := by
  have hkick (t : State) : (dbkKick t h).units g = t.units g := by
    simp only [dbkKick]
    (repeat' split) <;> simp
  simp only [reportHalf, dbkTake, hkick, dbkLose, commonsOverflow]
  (repeat' split) <;> simp [units_of_half (raiseSource_half ..)]

@[simp] theorem units_perfCount (c : BitVec 6) : (perfCount s h c).units g = s.units g := by
  obtain ⟨hh, ho, -⟩ := perfCount_only s h c
  obtain rfl | rfl : g = h ∨ g = h.other := by cases g <;> cases h <;> simp [HalfId.other]
  · rw [State.units, hh]; rfl
  · exact units_of_half ho

@[simp] theorem units_setMode (m : BitVec 3) : (setMode s h m).units g = s.units g := by
  simp only [setMode, rollbackCount]
  (repeat' split) <;> simp

@[simp] theorem units_setRunMode (m : BitVec 3) : (setRunMode s h m).units g = s.units g := by
  simp only [setRunMode]
  split <;> simp

@[simp] theorem units_fenceLane (l : Lane) : (fenceLane h s l).units g = s.units g := by
  simp only [fenceLane]
  split <;> simp

@[simp] theorem units_fenceAct : (fenceAct s h).units g = s.units g := by
  have hlanes (l : List Lane) (t : State) : (l.foldl (fenceLane h) t).units g = t.units g :=
    foldl_keeps (fun t => t.units g) (fun _ _ => units_fenceLane ..) l t
  have hafter (t : State) : (afterFence t h).units g = t.units g := by
    simp only [afterFence]
    (repeat' split) <;> simp
  simp only [fenceAct]
  (repeat' split) <;> simp [hlanes, hafter]

@[simp] theorem units_tryHalt : (tryHalt s h).units g = s.units g := by
  simp only [tryHalt]
  split <;> simp

@[simp] theorem units_pllClose : (pllClose s h).units g = s.units g := by
  simp only [pllClose]
  (repeat' split) <;> simp

@[simp] theorem units_stepClose : (stepClose s h).units g = s.units g := by
  simp only [stepClose]
  split <;> simp

@[simp] theorem units_prtAfterClose : (prtAfterClose s h).units g = s.units g := by
  simp only [prtAfterClose]
  (repeat' split) <;> simp

/-- The work at a close leaves the units alone where the reckoner keeps its owner (R40, R344). -/
theorem units_atClose (ho : (s.half h).rkn.ownNext = none) : (atClose s h).units g = s.units g := by
  simp only [atClose, injectStart, units_tryHalt, units_fenceAct, units_onTal, units_pllClose, ownApply, ho]

/-- A close out of READING-ROOM leaves the units alone where the reckoner keeps its owner (R243, R344). -/
theorem units_closeRaw (forced : Bool) (hm : s.runMode h ≠ mReading) (ho : (s.half h).rkn.ownNext = none) :
    (closeRaw s h forced).units g = s.units g := by
  obtain ⟨-, hr⟩ := still_close s h
  simp only [closeRaw, hr, if_neg hm]
  split
  · rfl
  · rw [units_atClose]
    · simp
    · refine Eq.trans (congrArg (fun x : Units => x.rkn.ownNext) (?_ : State.units _ h = s.units h)) ho
      simp

end

/-! ## What a close leaves of the banks and the memories (R243, R255, R281) -/

/-- What a close leaves of half h: every bank of the block, the fault records, the lines of NVM and, out of READING-ROOM, the cells. -/
structure ClosedOver (s t : State) (h : HalfId) : Prop where
  banks : (t.ex h).banks = (s.ex h).banks
  frec : (t.ex h).frec = (s.ex h).frec
  other : t.ex h.other = s.ex h.other
  nvm : t.nvm = s.nvm
  ram : s.runMode h ≠ mReading → t.ram = s.ram

section
variable {s t u : State} {h : HalfId}

theorem ClosedOver.bank (a : ClosedOver s t h) (j : BitVec 5) : t.bank h j = s.bank h j := bank_of_banks a.banks j

theorem ClosedOver.bank_other (a : ClosedOver s t h) (j : BitVec 5) : t.bank h.other j = s.bank h.other j :=
  bank_of_banks (congrArg Exec.banks a.other) j

/-- A close, in whatever mode (R243, R281). -/
theorem closeRaw_closedOver (s : State) (h : HalfId) (forced : Bool) : ClosedOver s (closeRaw s h forced) h := by
  have hother : (closeRaw s h forced).ex h.other = s.ex h.other := congrArg Own.ex (other_closeRaw s h forced)
  cases hb : (s.half h).win.blank
  · by_cases hm : s.runMode h = mReading
    · obtain ⟨m, r, e⟩ := closeRaw_reading hb hm forced
      exact ⟨congrArg (fun x : Still => x.ex.banks) e, congrArg (fun x : Still => x.ex.frec) e, hother, congrArg Still.nvm e,
        fun hne => absurd hm hne⟩
    · obtain ⟨c, n, -, -, e⟩ := closeRaw_logged hb hm forced
      exact ⟨congrArg (fun x : Still => x.ex.banks) e, congrArg (fun x : Still => x.ex.frec) e, hother, congrArg Still.nvm e,
        fun _ => congrArg Still.ram e⟩
  · rw [closeRaw_blank hb]
    exact ⟨rfl, rfl, rfl, rfl, fun _ => rfl⟩

/-- A halt that a close lets in changes only the mode of its half, and its debug state (R40, R563). -/
theorem tryHalt_closedOver (s : State) (h : HalfId) : ClosedOver s (tryHalt s h) h where
  banks := congrArg (fun x : Still => x.ex.banks) (still_tryHalt s h h)
  frec := congrArg (fun x : Still => x.ex.frec) (still_tryHalt s h h)
  other := congrArg Own.ex (other_tryHalt s h)
  nvm := congrArg Still.nvm (still_tryHalt s h h)
  ram _ := congrArg Still.ram (still_tryHalt s h h)

/-- The entry of a handler, which closes the window, moves no bank (R243, R247). -/
theorem entryClose_closedOver (s : State) (h : HalfId) (target : Addr) (cause : BitVec 4) (p : Pos) :
    ClosedOver s (entryClose s h target cause p) h := by
  obtain ⟨x, hx⟩ : ∃ x, x = signItem (stepEnds (s.onEx h fun e => { e with arith := none, groupOpen := none, repu := false }) h) h
    (entryItem target cause (frameEntry p)) := ⟨_, rfl⟩
  have hsx : ClosedOver s x h ∧ x.runMode h = s.runMode h := by
    subst hx
    cases h <;> exact ⟨⟨rfl, rfl, rfl, rfl, fun _ => rfl⟩, rfl⟩
  obtain ⟨a, hm⟩ := hsx
  have b := closeRaw_closedOver x h false
  have c := tryHalt_closedOver (closeRaw x h false) h
  have hram : (tryHalt (closeRaw x h false) h).ram = (closeRaw x h false).ram := ram_tryHalt ..
  have he : entryClose s h target cause p =
      (tryHalt (closeRaw x h false) h).onHalf h fun y => { y with line := y.line.transfer target } := by
    subst hx
    rfl
  generalize tryHalt (closeRaw x h false) h = z at c hram he
  rw [he]
  have hz : (z.onHalf h fun y => { y with line := y.line.transfer target }).ex h = z.ex h ∧
      (z.onHalf h fun y => { y with line := y.line.transfer target }).ex h.other = z.ex h.other := by
    cases h <;> exact ⟨rfl, rfl⟩
  refine ⟨?_, ?_, ?_, ?_, fun hr => ?_⟩
  · rw [hz.1, c.banks, b.banks, a.banks]
  · rw [hz.1, c.frec, b.frec, a.frec]
  · rw [hz.2, c.other, b.other, a.other]
  · rw [onHalf_nvm, c.nvm, b.nvm, a.nvm]
  · rw [onHalf_ram, hram, b.ram (by rw [hm]; exact hr), a.ram hr]

end

/-! ## The entry of a fault (R159, R166, R223, R224, R226-R230) -/

section
variable {s : State} {h : HalfId} {k : BitVec 5}

/-- The place, the level and the handler of a fault that can be entered (R159, R223, R232). -/
theorem enterFault_placed {f : FaultInfo} {target : Addr} (hen : enterable s h k f.cause target) (hc : stackCause f.cause = false)
    (imprecise : Bool) (p at_ : Pos) :
    enterFault s h k f imprecise p at_ = enterPlaced s h k f imprecise p at_ .cache target := by
  obtain ⟨hhead, hlevel, hrv, hrs⟩ := hen
  have hplace : placeFor (s.bank h k) f.cause = .cache := by
    simp [placeFor, hc, hrv]
    omega
  have hesc : ¬faultLevel (s.ex h) f.cause ≤ stMask (s.bank h k).status := by
    rw [BitVec.le_def]
    omega
  simp only [enterFault, hplace, hhead, hesc]
  simp

/-- The frame of a fault lies on the cached return stack, its record is written, and the context is at its handler (R166, R224,
R230). -/
theorem enterPlaced_spec (s : State) (h : HalfId) (k : BitVec 5) (f : FaultInfo) (imprecise : Bool) (p at_ : Pos) (target : Addr) :
    let t := enterPlaced s h k f imprecise p at_ .cache target
    let b := s.bank h k
    t.bank h k = { b with rs := TCell.plain (frameEntry p) ::
                            TCell.plain (statusEntry (statusOf (s.half h) k) b.repActive b.repLeft) :: b.rs
                          status := setBit b.status 32 false, resume := ⟨target, 0⟩, repActive := false, repLeft := 0 } ∧
    (∀ j, j ≠ k → t.bank h j = s.bank h j) ∧ (∀ j, t.bank h.other j = s.bank h.other j) ∧
    (s.runMode h ≠ mReading → t.ram = s.ram ∧ t.nvm = s.nvm) ∧ recOf (t.ex h) k = recordOf f imprecise at_ := by
  intro t b
  obtain ⟨x, hx⟩ : ∃ x, x = pushFrame (setRec s h k (recordOf f imprecise at_)) h k .cache p target faultStatus := ⟨_, rfl⟩
  have c : ClosedOver x t h := by
    subst hx
    exact entryClose_closedOver ..
  have hrec (j : BitVec 5) : (setRec s h k (recordOf f imprecise at_)).bank h j = s.bank h j := by
    cases h <;> rfl
  refine ⟨?_, fun j hj => ?_, fun j => ?_, fun hm => ?_, ?_⟩
  · rw [c.bank, hx, pushFrame, State.onBank, bank_setBank, hrec]
    have hstatus : statusOf ((setRec s h k (recordOf f imprecise at_)).half h) k = statusOf (s.half h) k := by
      cases h <;> rfl
    rw [hstatus]
    rfl
  · rw [c.bank, hx, pushFrame, State.onBank, bank_setBank_ne _ _ _ _ _ hj, hrec]
  · rw [c.bank_other, hx, pushFrame, State.onBank, bank_setBank_other]
    cases h <;> rfl
  · have hmode : x.runMode h = s.runMode h := by
      subst hx
      cases h <;> rfl
    have hram : x.ram = s.ram := by rw [hx, pushFrame, State.onBank, setBank_ram, setRec, onEx_ram]
    have hnvm : x.nvm = s.nvm := by rw [hx, pushFrame, State.onBank, setBank_nvm, setRec, onEx_nvm]
    exact ⟨(c.ram (by rwa [hmode])).trans hram, c.nvm.trans hnvm⟩
  · have hfrec : (x.ex h).frec = sput Pair.zero (s.ex h).frec k.toNat (recordOf f imprecise at_) := by
      subst hx
      cases h <;> rfl
    rw [recOf, c.frec, hfrec, sget_sput_same]

/-- A command that comes to the entry of a fault in a state whose banks and memories are those before it (R224). -/
theorem entersHandler_of_enterFault {c : Instr} {u : State} {f : FaultInfo} {imprecise : Bool} {p at_ : Pos} {target : Addr}
    (hc : exec c s = .next (enterFault u h k f imprecise p at_)) (hen : enterable u h k f.cause target)
    (hf : stackCause f.cause = false) (hbanks : ∀ j, j ≠ k → u.bank h j = s.bank h j)
    (hother : ∀ j, u.bank h.other j = s.bank h.other j) (hram : u.ram = s.ram) (hnvm : u.nvm = s.nvm)
    (hmode : s.mode h ≠ mReading → u.runMode h ≠ mReading) :
    EntersHandler c s h k (u.bank h k) p (statusOf (u.half h) k) target (setBit (u.bank h k).status 32 false) fun t =>
      recOf (t.ex h) k = recordOf f imprecise at_ := by
  obtain ⟨hbank, hne, ho, hmem, hrec⟩ := enterPlaced_spec u h k f imprecise p at_ target
  rw [← enterFault_placed hen hf] at hbank hne ho hmem hrec
  refine ⟨_, hc, hbank, fun j hj => (hne j hj).trans (hbanks j hj), fun j => (ho j).trans (hother j), fun hm => ?_, hrec⟩
  obtain ⟨hr, hn⟩ := hmem (hmode hm)
  exact ⟨hr.trans hram, hn.trans hnvm⟩

theorem Ready.runMode (r : Ready s h k) : s.runMode h = s.mode h := by
  have hrun : runningMode (s.mode h) = true := r.mode
  have hne : ¬(s.mode h = mHalt ∨ s.mode h = mKeep) := by
    rintro (e | e) <;> rw [e] at hrun <;> exact absurd hrun (by decide)
  rw [State.runMode, if_neg hne]

theorem beforeClose_none (ha : (s.ex h).arith = none) (hr : (s.ex h).reads = []) : beforeClose s h = none := by
  simp [beforeClose, ha, voidRead, hr]

/-- In a ready half nothing comes before the entry of a fault (R107, R225). -/
theorem raise_ready (r : Ready s h k) (f : FaultInfo) (p : Pos) : raise s h k f p = enterFault s h k f false p p := by
  simp [raise, raiseAt, r.open_, beforeClose_none r.arith r.reads]

/-- A fault that an instruction of a ready half raises (R101, R224). -/
theorem raise_enters (r : Ready s h k) {c : Instr} {f : FaultInfo} {target : Addr}
    (hc : exec c s = .next (raise s h k f (s.bank h k).resume)) (hen : enterable s h k f.cause target)
    (hf : stackCause f.cause = false) :
    EntersHandler c s h k (s.bank h k) (s.bank h k).resume (statusOf (s.half h) k) target (setBit (s.bank h k).status 32 false)
      fun t => recOf (t.ex h) k = recordOf f false (s.bank h k).resume := by
  rw [raise_ready r] at hc
  exact entersHandler_of_enterFault hc hen hf (fun _ _ => rfl) (fun _ => rfl) rfl rfl fun hm => by rwa [r.runMode]

/-! ## Retirement, whatever follows it (R182, R243, R264) -/

/-- What a retirement of one slot does before what follows it. -/
theorem retire_slot (wr : Writer) (p : Pos) (d : Done) (hn : (s.ex h).arith = none) (hdt : noData s h) (hiter : d.iter = none)
    (hgroup : d.group = false) (hstores : d.stores = []) (joined : Bool) (g : Group) :
    ∃ g' l, retire s h k wr p d joined g =
      afterRetire (slotDone s h k (d.lands p) p joined (d.arith.map fun z => ⟨p, z, 0, 0⟩) g' l) h k p d := by
  have hleads : d.leads = false := by simp [Done.leads, hiter]
  obtain ⟨q, hq⟩ : ∃ q : Bank × Pos, q = (if d.taken then (d.b, d.dst) else sequential d.b p d.dst) := ⟨_, rfl⟩
  have hlands : ({ q.1 with resume := q.2 } : Bank) = d.lands p := by
    subst hq
    unfold Done.lands landed
    cases d.taken <;> rfl
  have hsign : signSlots (s.setBank h k { q.1 with resume := q.2 }) h p { d with b := q.1 } =
      retireSlot (s.setBank h k (d.lands p)) h p (d.lands p) := by
    rw [← hlands]
    simp only [signSlots, hgroup, hiter, Bool.false_eq_true, if_false]
    rfl
  obtain ⟨u, hu, -, hslot⟩ := slotDone_perf s h k (d.lands p) p joined hdt
  have harith : arithRetire (u.ex h).arith joined p d = d.arith.map fun z => ⟨p, z, 0, 0⟩ := by
    have hnone : (u.ex h).arith = none := by
      rw [ex_eq, hu.half]
      simpa [slotSigned, ex_eq] using hn
    simp only [arithRetire, hnone, hleads, hgroup, hiter, Bool.false_eq_true, if_false]
    cases d.arith <;> rfl
  refine ⟨if joined || d.taken || !(q.2.addr == p.addr || (s.half h).line.holds q.2.addr) then none else some g,
    if d.taken then (u.half h).line.transfer q.2.addr else (u.half h).line.step q.2.addr, ?_⟩
  unfold retire
  rw [← hq]
  simp only at hslot ⊢
  rw [hsign]
  simp only [hstores, putStores, List.foldl, hleads, Bool.or_false, slotDone, hslot]
  rw [← harith]
  refine congrArg (afterRetire · h k p d) ?_
  cases h <;> rfl

/-- An instruction of a ready half is settled at once, an isolated one where its window is fresh (R264). -/
theorem issue_settles (r : Ready s h k) (wr : Writer) {o : Op} (hi : o.isolated = true → freshWindow s h) (dst p : Pos) :
    issue s h k wr (s.bank h k) o dst p = settle s h k wr p o (joins (s.ex h) (s.bank h k) o)
      (fun s => runChecked o s h k (s.bank h k) dst) (runChecked o s h k (s.bank h k) dst) := by
  have hroom : closeRoom s h 1 = true := by
    have := r.closed
    simp only [closeRoom, decide_eq_true_eq]
    omega
  cases hiso : o.isolated
  · simp [issue, r.arith, hiso]
  · obtain ⟨hslots, hgroup⟩ := hi hiso
    simp [issue, r.arith, hiso, preClose, Windows.blank, hslots, hgroup, hroom]

/-- Its checks pass where its stack check does (R101). -/
theorem runChecked_ready (r : Ready s h k) {o : Op} (hst : stackFault (s.bank h k) o.pops o.pushes = none) (dst : Pos) :
    runChecked o s h k (s.bank h k) dst = o.run s h k (s.bank h k) dst := by
  simp [runChecked, hst, consumedRead, r.reads]

/-- An instruction of a ready half without stores retires one slot, and what follows it comes (R101, R182). -/
theorem attempt_retires (r : Ready s h k) {f : Form} {rep : Bool} {enc : BitVec 5 → Bank → Option FaultInfo} {o : Op} {d : Done}
    (hf : f.fits (s.bank h k).resume = true) (he : enc k (s.bank h k) = none) (hi : o.isolated = true → freshWindow s h)
    (hst : stackFault (s.bank h k) o.pops o.pushes = none)
    (hrun : o.run s h k (s.bank h k) (f.next (s.bank h k).resume) = .done d)
    (hex : d.s.ex h = s.ex h) (hitems : (d.s.half h).win.items = []) (hclosed : (d.s.half h).win.closed = (s.half h).win.closed)
    (hiter : d.iter = none) (hgroup : d.group = false) (hstores : d.stores = []) :
    ∃ two g l, attempt s h f rep enc o = afterRetire (slotDone d.s h k (d.lands (s.bank h k).resume) (s.bank h k).resume two
      (d.arith.map fun z => ⟨(s.bank h k).resume, z, 0, 0⟩) g l) h k (s.bank h k).resume d := by
  have hreads : (d.s.ex h).reads = [] := by rw [hex]; exact r.reads
  have hopen : closeBlocked d.s h = false := by
    have hroom : (s.half h).win.closed.length + 1 ≤ 4 := r.closed
    simp [closeBlocked, closeRoom, hclosed, hroom, hreads]
  obtain ⟨g, l, hg⟩ := retire_slot (s := d.s) (k := k) (readyWriter s h k) (s.bank h k).resume d (by rw [hex]; exact r.arith) ⟨hreads, hitems⟩
    hiter hgroup hstores (joins (s.ex h) (s.bank h k) o) (o.groupOf (s.bank h k))
  refine ⟨_, g, l, Eq.trans ?_ hg⟩
  rw [attempt_ready r, hf, he]
  show issue s h k (readyWriter s h k) (s.bank h k) o (f.next (s.bank h k).resume) (s.bank h k).resume = _
  rw [issue_settles r _ hi, runChecked_ready r hst, hrun]
  simp [settle, storesOverflow, hstores, retireOrWait, hopen, r.arith, storesFit, keepLoads, hreads]

/-- An instruction of a ready half that faults once its form fits (R101). -/
theorem attempt_faults (r : Ready s h k) {f : Form} {rep : Bool} {enc : BitVec 5 → Bank → Option FaultInfo} {o : Op} {g : FaultInfo}
    (hf : f.fits (s.bank h k).resume = true) (he : enc k (s.bank h k) = none) (hi : o.isolated = true → freshWindow s h)
    (hst : stackFault (s.bank h k) o.pops o.pushes = none)
    (hrun : o.run s h k (s.bank h k) (f.next (s.bank h k).resume) = .fault g) :
    attempt s h f rep enc o = raise s h k g (s.bank h k).resume := by
  rw [attempt_ready r, hf, he]
  show issue s h k (readyWriter s h k) (s.bank h k) o (f.next (s.bank h k).resume) (s.bank h k).resume = _
  rw [issue_settles r _ hi, runChecked_ready r hst, hrun]
  rfl

end

end Sys2Proof.Machine

/-! # Faults enter their handlers (R72, R86, R89, R107, R157-R166, R203, R223-R230; O25) -/

namespace Sys2Proof.Machine

/-! ## What a target's check and a handler turn on (R91, R223) -/

/-- The end checks of the loops change the loop registers only (R171). -/
theorem loopEnds_keeps (n : Nat) (b : Bank) (a : Addr) : ∃ l0 l1 l2 m,
    (loopEnds n b a).1 = { b with loop0 := l0, loop1 := l1, loop2 := l2, levels := m } := by
  induction n generalizing b with
  | zero => exact ⟨_, _, _, _, rfl⟩
  | succ n ih =>
    have hset (x : Bank) (l : LoopReg) : ∃ l0 l1 l2, x.setLevel l = { x with loop0 := l0, loop1 := l1, loop2 := l2 } := by
      simp only [Bank.setLevel]
      (repeat' split) <;> exact ⟨_, _, _, rfl⟩
    simp only [loopEnds]
    split
    · exact ⟨_, _, _, _, rfl⟩
    · split
      · split
        · obtain ⟨l0, l1, l2, e⟩ := hset b { b.level with lc := 0 }
          obtain ⟨m0, m1, m2, m, e'⟩ := ih { b.setLevel { b.level with lc := 0 } with levels := b.levels - 1 }
          exact ⟨m0, m1, m2, m, e'.trans (by rw [e])⟩
        · obtain ⟨l0, l1, l2, e⟩ := hset b { b.level with lc := b.level.lc - 1 }
          exact ⟨l0, l1, l2, b.levels, by rw [e]⟩
      · exact ⟨_, _, _, _, rfl⟩

/-- A slot without a transfer moves the position and the loop registers only (R171). -/
theorem landed_keeps (b : Bank) (p dst : Pos) : ∃ l0 l1 l2 m q,
    landed b p dst = { b with loop0 := l0, loop1 := l1, loop2 := l2, levels := m, resume := q } := by
  simp only [landed, sequential]
  split
  · exact ⟨_, _, _, _, _, rfl⟩
  · obtain ⟨l0, l1, l2, m, e⟩ := loopEnds_keeps 3 b (dst.addr - 1)
    exact ⟨l0, l1, l2, m, _, by rw [e]⟩

theorem checkTarget_congr {s t : State} {h : HalfId} (hw : (t.half h).win.sb = (s.half h).win.sb)
    (hp : (t.half h).spn = (s.half h).spn) (c : Cap) (a : Nat) : checkTarget t h c a = checkTarget s h c a := by
  have hgen : t.genOk h c = s.genOk h c := by simp only [State.genOk, State.genOf, pendingGens, hw, hp]
  have hopen : spanOpen t h = spanOpen s h := by rw [spanOpen, spanOpen, hp]
  have hmap (n : Nat) : codeMapped t h n = codeMapped s h n := by simp only [codeMapped, hopen]
  have hcode (n : Nat) : checkCode t h c fetchAccess n = checkCode s h c fetchAccess n := by simp only [checkCode, hgen, hmap]
  unfold checkTarget
  rw [hgen, hcode]

section
variable {s t : State} {h : HalfId} {k : BitVec 5}

/-- A retirement leaves a handler as enterable as it was (R159, R221, R223, R232). -/
theorem enterable_of_unmoved (m : Unmoved s t h k) {c : BitVec 4} {target : Addr} (hen : enterable s h k c target)
    (hpcc : (t.bank h k).pcc = (s.bank h k).pcc) (hst : (t.bank h k).status = (s.bank h k).status)
    (hrv : (t.bank h k).rv = (s.bank h k).rv) (hrs : (t.bank h k).rs = (s.bank h k).rs) : enterable t h k c target := by
  have hsb : (t.half h).win.sb = (s.half h).win.sb := by rw [m.win]
  have hspn : (t.half h).spn = (s.half h).spn := by rw [m.rest]
  have hheads : (t.ex h).heads = (s.ex h).heads := by rw [m.ex]
  have hlevel : (t.ex h).flevelEff = (s.ex h).flevelEff := by rw [m.ex]
  have hhandler : handlerAt t h k c = handlerAt s h k c := by
    simp only [handlerAt, hheads, hpcc, checkTarget_congr hsb hspn]
  have hfault : faultLevel (t.ex h) c = faultLevel (s.ex h) c := by simp only [faultLevel, hlevel]
  unfold enterable at hen ⊢
  simpa only [hhandler, hfault, hst, hrv, hrs] using hen

theorem Unmoved.runMode (m : Unmoved s t h k) : t.runMode h = s.runMode h := by
  unfold State.runMode State.mode
  rw [m.ex]

theorem Unmoved.bank_other (m : Unmoved s t h k) (j : BitVec 5) : t.bank h.other j = s.bank h.other j :=
  congrArg (Half.bank · j) m.otherHalf

/-- The status reads the same where the bank has the same status (R151, R343). -/
theorem Unmoved.statusOf (m : Unmoved s t h k) (hst : (t.bank h k).status = (s.bank h k).status) :
    statusOf (t.half h) k = statusOf (s.half h) k := by
  have hrkn : (t.half h).rkn = (s.half h).rkn := by rw [m.rest]
  have hst' : ((t.half h).bank k).status = ((s.half h).bank k).status := hst
  simp only [Machine.statusOf, rkoBit, hrkn, hst']

/-! ## ILL (R72, R86) -/

theorem extReserved_of_illNamed {x : BitVec 6} (hx : illNamed (some (false, x)) = true) : extReserved x = true := by
  rw [extReserved, Bool.or_comm]
  exact hx

theorem rkReserved_of_illNamed {x : BitVec 6} (hx : illNamed (some (true, x)) = true) : rkReserved x = true := by
  simp only [illNamed, Bool.or_eq_true, decide_eq_true_eq] at hx
  simp only [rkReserved, Bool.or_eq_true, decide_eq_true_eq]
  tauto

/-- ILL raises ILLEGAL at its own position (R72). -/
theorem ill_raises (r : Ready s h k) : illSlot s h none = raise s h k (illegal eEncoding 0o77) (s.bank h k).resume :=
  attempt_ready r simpleForm false (illEnc 0o77) (opIll 0o77)

/-- So does a reserved selector (R86). -/
theorem illSelector_raises (r : Ready s h k) {rk : Bool} {x : BitVec 6} (hx : illNamed (some (rk, x)) = true)
    (hslot : (s.bank h k).resume.slot.toNat < 5) :
    illSlot s h (some (rk, x)) = raise s h k (illegal eEncoding x) (s.bank h k).resume := by
  have hfits (op : BitVec 6) : (selectorForm op).fits (s.bank h k).resume = true := decide_eq_true hslot
  have hres : (if rk then rkReserved x else extReserved x) = true := by
    cases rk
    · exact extReserved_of_illNamed hx
    · exact rkReserved_of_illNamed hx
  rw [illSlot, illSelector, if_pos hres, attempt_ready r, hfits]
  rfl

/-! ## TRAP (R89) -/

/-- TRAP retires with its number pushed, and its fault is entered after it (R89). -/
theorem trap_retires (r : Ready s h k) (n : BitVec 6) (hslot : (s.bank h k).resume.slot.toNat < 5)
    (hlen : (s.bank h k).ds.length < 16) (hrs : (s.bank h k).rs.length ≤ 14) :
    ∃ t, exec (.trap h n) s = .next (enterFault t h k (trapFault n) false (t.bank h k).resume (s.bank h k).resume) ∧
      t.bank h k = landed { s.bank h k with ds := n.setWidth 36 :: (s.bank h k).ds } (s.bank h k).resume
        (nextWord (s.bank h k).resume) ∧ Unmoved s t h k := by
  have hret : (if (s.bank h k).rv.isEmpty then returnFault (s.bank h k) 0 2 else none) = none := by
    have hover : ¬16 < (s.bank h k).rs.length - 0 + 2 := by omega
    simp [returnFault, -Nat.not_lt]
    omega
  obtain ⟨two, g, l, e⟩ := attempt_retires r (f := selectorForm 0o76) (rep := false) (enc := noEnc) (o := opTrap n)
    (d := { doneOf s { s.bank h k with ds := n.setWidth 36 :: (s.bank h k).ds } (nextWord (s.bank h k).resume) with
      after := .fault (trapFault n) false })
    (decide_eq_true hslot) rfl (by simp [opTrap]) (stackFault_none _ 0 1 (by simp) (by omega))
    (by simp only [opTrap, runTrap, hret]; rfl) rfl r.items rfl rfl rfl rfl
  obtain ⟨hbank, -, m⟩ := slotDone_unmoved s h k (landed { s.bank h k with ds := n.setWidth 36 :: (s.bank h k).ds }
    (s.bank h k).resume (nextWord (s.bank h k).resume)) (s.bank h k).resume two none g l r.noData
  exact ⟨_, congrArg Host.Outcome.next e, hbank, m⟩

/-- TRAP's handler is entered from the bank that its retirement leaves (R89). -/
theorem trap_enters (r : Ready s h k) (n : BitVec 6) {target : Addr} (hslot : (s.bank h k).resume.slot.toNat < 5)
    (hlen : (s.bank h k).ds.length < 16) (hen : enterable s h k cTrap target) :
    let b := landed { s.bank h k with ds := n.setWidth 36 :: (s.bank h k).ds } (s.bank h k).resume (nextWord (s.bank h k).resume)
    EntersHandler (.trap h n) s h k b b.resume (statusOf (s.half h) k) target (setBit (s.bank h k).status 32 false) fun t =>
      recOf (t.ex h) k = recordOf (trapFault n) false (s.bank h k).resume := by
  intro b
  obtain ⟨-, -, -, hrs⟩ := id hen
  obtain ⟨t, he, hbank, m⟩ := trap_retires r n hslot hlen hrs
  obtain ⟨l0, l1, l2, lv, q, hland⟩ := landed_keeps { s.bank h k with ds := n.setWidth 36 :: (s.bank h k).ds } (s.bank h k).resume
    (nextWord (s.bank h k).resume)
  have hkeep := hbank.trans hland
  have hst : (t.bank h k).status = (s.bank h k).status := by rw [hkeep]
  have hen' : enterable t h k (trapFault n).cause target :=
    enterable_of_unmoved m hen (by rw [hkeep]) hst (by rw [hkeep]) (by rw [hkeep])
  have hin := entersHandler_of_enterFault he hen' rfl m.banks m.bank_other (congrArg State.ram m.block :)
    (congrArg State.nvm m.block :) fun hm => by rwa [m.runMode, r.runMode]
  rw [m.statusOf hst, hst, hbank] at hin
  exact hin

/-! ## ARITH_ENTRY (R107, R203) -/

/-- The block with an ARITH that waits in half h. -/
def withArith (s : State) (h : HalfId) (a : PendArith) : State := s.onEx h fun e => { e with arith := some a }

theorem ex_withArith (s : State) (h : HalfId) (a : PendArith) : (withArith s h a).ex h = { s.ex h with arith := some a } := by
  cases h <;> rfl

theorem bank_withArith (s : State) (h g : HalfId) (a : PendArith) (j : BitVec 5) : (withArith s h a).bank g j = s.bank g j := by
  cases h <;> cases g <;> rfl

theorem runBank_withArith (r : Ready s h k) (a : PendArith) : (withArith s h a).runBank h = some (k, s.bank h k) := by
  simp only [State.runBank, ex_withArith, r.run, bank_withArith]

/-- A half that was ready takes arrivals, and a close may fall (R248, R259). -/
theorem takesArrival_withArith (r : Ready s h k) (a : PendArith) :
    takesArrival (withArith s h a) h = true ∧ closeBlocked (withArith s h a) h = false := by
  have hwin : ((withArith s h a).half h).win = (s.half h).win := by
    cases h <;> rfl
  have hlanes : lanesRun (withArith s h a) h = lanesRun s h := by
    cases h <;> rfl
  have hruns : lanesRun s h = true := by
    simp [lanesRun, holdsClose, r.mode, r.redo, r.lanes, r.halt, r.keep, r.reset, r.strands]
  have hroom : (s.half h).win.closed.length + 1 ≤ 4 := r.closed
  constructor
  · simp [takesArrival, hlanes, hruns, ex_withArith, r.fencing, r.revoking, hwin, r.rolling, closeRoom, hroom]
  · simp [closeBlocked, closeRoom, hwin, hroom, ex_withArith, r.reads]

/-- The boundary of R107 and R203 has come. -/
theorem arithDue_withArith (r : Ready s h k) (a : PendArith) (prec : Bool) :
    arithDue ((withArith s h a).ex h) prec = true ↔ prec = true ∨ 6 ≤ a.slots ∨ 3 < a.groups := by
  simp [arithDue, ex_withArith, r.repu, or_assoc]

/-- The ARITH that waits is entered (R107). -/
theorem enterArith_withArith (r : Ready s h k) (a : PendArith) : enterArith (withArith s h a) h =
    enterFault s h k (faultOf cArith (if a.divZero then eDivideZero else eOverflow) 0)
      (!stPrec (s.bank h k).status || a.slots != 0) (s.bank h k).resume a.at_ := by
  have harith : ((withArith s h a).ex h).arith = some a := by rw [ex_withArith]
  have hback : (withArith s h a).onEx h (fun e => { e with arith := none }) = s := by
    have hself : s.onEx h (fun e => { e with arith := none }) = s := onEx_self (by rw [← r.arith])
    refine Eq.trans ?_ hself
    cases h <;> rfl
  simp only [enterArith, harith, runBank_withArith r, hback]

/-- In a half that was ready, ARITH_ENTRY looks at the boundary only (R107, R203). -/
theorem arithEntry_withArith (r : Ready s h k) (a : PendArith) : arithEntry (withArith s h a) h =
    if stPrec (s.bank h k).status = true ∨ 6 ≤ a.slots ∨ 3 < a.groups then enterArith (withArith s h a) h else withArith s h a := by
  obtain ⟨htakes, hopen⟩ := takesArrival_withArith r a
  have hwait : ((withArith s h a).ex h).waiting = none := by rw [ex_withArith]; exact r.waiting
  have hcur : (withArith s h a).curBank h = s.bank h k := by simp only [State.curBank, runBank_withArith r]
  simp only [arithEntry, htakes, hopen, hwait, hcur, ← arithDue_withArith r a]
  cases arithDue ((withArith s h a).ex h) (stPrec (s.bank h k).status) <;> rfl

end

/-- Settles O25: ILL is `ill_raises` and `illSelector_raises`, TRAP is `trap_enters`, and ARITH_ENTRY is
`arithEntry_withArith`. -/
theorem faultsEnterTheirHandlers : Obligations.FaultsEnterTheirHandlers := by
  intro s h k target hs b st after recorded
  have r := steady_ready hs
  refine ⟨fun sel op hsel hop hslot hen => ?_, fun n hslot hlen hen => ?_, fun a hdue hen => ?_, fun a hprec hslots hgroups => ?_⟩
  · subst hop
    rcases sel with - | ⟨rk, x⟩
    · exact raise_enters r (congrArg Host.Outcome.next (ill_raises r)) hen rfl
    · exact raise_enters r (congrArg Host.Outcome.next (illSelector_raises r hsel (hslot (by simp)))) hen rfl
  · exact trap_enters r n hslot hlen hen
  · have he := arithEntry_withArith r a
    rw [if_pos hdue, enterArith_withArith r] at he
    exact entersHandler_of_enterFault (s := withArith s h a) (congrArg Host.Outcome.next he) hen rfl
      (fun j _ => (bank_withArith ..).symm) (fun j => (bank_withArith ..).symm) (onEx_ram ..).symm (onEx_nvm ..).symm fun hm => by
        rw [r.runMode]
        cases h <;> exact hm
  · have he := arithEntry_withArith r a
    have hnot : ¬(stPrec (s.bank h k).status = true ∨ 6 ≤ a.slots ∨ 3 < a.groups) := by
      rw [show stPrec (s.bank h k).status = false from hprec]
      simp
      omega
    rw [if_neg hnot] at he
    exact congrArg Host.Outcome.next he

end Sys2Proof.Machine

/-! # Reckoner commands queue (R88, R128, R347-R352; O31) -/

namespace Sys2Proof.Machine

/-! ## A retirement that closes its window out of READING-ROOM (R243, R264) -/

/-- What a close out of READING-ROOM leaves of the block, the window that follows in half h. -/
structure Closed (s t : State) (h : HalfId) : Prop where
  banks : (t.ex h).banks = (s.ex h).banks
  other : t.ex h.other = s.ex h.other
  num : (t.half h).win.num = (s.half h).win.num + 1
  slots : (t.half h).win.slots = 0
  sb : (t.half h).win.sb = (s.half h).win.sb
  ram : t.ram = s.ram
  nvm : t.nvm = s.nvm
  units : t.units h = s.units h

section
variable {s t : State} {h : HalfId} {k : BitVec 5}

/-- A retirement that closes a window in which nothing waits (R243). -/
theorem retireClose_closed (hb : (s.half h).win.blank = false) (hopen : closeBlocked s h = false) (harith : (s.ex h).arith = none)
    (hreads : (s.ex h).reads = []) (hm : s.runMode h ≠ mReading) (hacts : (s.half h).win.acts = []) (hticks : (s.half h).win.ticks = [])
    (hrst : (s.ex h).rstPend = []) (hown : (s.half h).rkn.ownNext = none) : Closed s (retireClose s h true) h := by
  obtain ⟨c, n, -, -, e⟩ := closeRaw_logged hb hm false
  have hwin : ((closeRaw s h false).half h).win =
      { (s.half h).win.opened with closed := (s.half h).win.closed ++ [c], prtCloses := n } := congrArg Still.win e
  have hrst' : ((closeRaw s h false).ex h).rstPend = (s.ex h).rstPend := congrArg (fun x : Still => x.ex.rstPend) e
  have hclose : retireClose s h true = closeRaw s h false := by
    have hsettled : settled (closeRaw s h false) h = closeRaw s h false := by
      refine settled_nothing ?_ (hrst'.trans hrst) ?_
      · rw [hwin]
        exact hacts
      · have hnone : ((closeRaw s h false).half h).win.ticks = [] := by
          rw [hwin]
          exact hticks
        simp [hnone]
    simp only [retireClose, Bool.true_or, if_true, hopen, Bool.false_eq_true, if_false, closeNow, beforeClose_none harith hreads,
      Option.getD_none, hsettled]
  have a := closeRaw_closedOver s h false
  rw [hclose]
  exact ⟨a.banks, a.other, by rw [hwin]; rfl, by rw [hwin]; rfl, by rw [hwin]; rfl, a.ram hm, a.nvm,
    units_closeRaw s h h false hm hown⟩

/-- What an isolated request may have changed before its instruction retires: units of half h, and the log of its window. -/
structure Requested (s t : State) (h : HalfId) : Prop where
  ex : t.ex h = s.ex h
  win : ∃ log n, (t.half h).win = { (s.half h).win with log := log, logged := n }
  other : t.half h.other = s.half h.other
  ram : t.ram = s.ram
  nvm : t.nvm = s.nvm

theorem Requested.bank (q : Requested s t h) (j : BitVec 5) : t.bank h j = s.bank h j :=
  bank_of_banks (congrArg Exec.banks q.ex) j

theorem RetiresClosing.mono {c : Instr} {u : State} {b : Bank} {dst : Pos} {P Q : State → Prop} (hp : RetiresClosing c s u h k b dst P)
    (hpq : ∀ t, P t → Q t) : RetiresClosing c s u h k b dst Q := by
  obtain ⟨t, he, hb, hbanks, ho, hn, hs, hm, hP⟩ := hp
  exact ⟨t, he, hb, hbanks, ho, hn, hs, hm, hpq t hP⟩

/-- An isolated instruction of a ready half retires one slot and closes its window, the units as its request left them (R243,
R264). -/
theorem attempt_closes (r : Ready s h k) {c : Instr} {f : Form} {rep : Bool} {enc : BitVec 5 → Bank → Option FaultInfo} {o : Op}
    {u : State} {b : Bank} {dst : Pos} (hc : exec c s = .next (attempt s h f rep enc o)) (hf : f.fits (s.bank h k).resume = true)
    (he : enc k (s.bank h k) = none) (hi : freshWindow s h) (hst : stackFault (s.bank h k) o.pops o.pushes = none)
    (hrun : o.run s h k (s.bank h k) (f.next (s.bank h k).resume) = .done { doneOf u b dst with close := true })
    (q : Requested s u h) (hm : s.mode h ≠ mReading) (hown : (u.half h).rkn.ownNext = none) :
    RetiresClosing c s s h k b dst fun t => t.units h = u.units h := by
  obtain ⟨log, n, hwin⟩ := q.win
  obtain ⟨two, g, l, e⟩ := attempt_retires r (rep := rep) hf he (fun _ => hi) hst hrun q.ex (by rw [doneOf, hwin]; exact r.items)
    (by rw [doneOf, hwin]) rfl rfl rfl
  have hdata : noData u h := ⟨by rw [q.ex]; exact r.reads, by rw [hwin]; exact r.items⟩
  obtain ⟨hbank, harith, m⟩ := slotDone_unmoved u h k (landed b (s.bank h k).resume dst) (s.bank h k).resume two none g l hdata
  have he' : attempt s h f rep enc o =
      retireClose (slotDone u h k (landed b (s.bank h k).resume dst) (s.bank h k).resume two none g l) h true := e
  generalize slotDone u h k (landed b (s.bank h k).resume dst) (s.bank h k).resume two none g l = v at hbank harith m he'
  have hroom : (s.half h).win.closed.length + 1 ≤ 4 := r.closed
  have hreads : (v.ex h).reads = [] := by rw [m.ex]; exact hdata.1
  have a : Closed v (retireClose v h true) h := by
    refine retireClose_closed ?_ ?_ harith hreads ?_ ?_ ?_ ?_ ?_
    · rw [m.win]
      simp [Windows.blank]
    · have hclosed : (v.half h).win.closed = (s.half h).win.closed := by rw [m.win, hwin]
      simp [closeBlocked, closeRoom, hclosed, hroom, hreads]
    · have hmode : u.runMode h = s.runMode h := by
        unfold State.runMode State.mode
        rw [q.ex]
      rwa [m.runMode, hmode, r.runMode]
    · rw [m.win, hwin]; exact r.acts
    · rw [m.win, hwin]; exact r.ticks
    · rw [m.ex, q.ex]; exact r.resets
    · rw [m.rest]; exact hown
  refine ⟨_, hc.trans (congrArg Host.Outcome.next he'), (bank_of_banks a.banks k).trans hbank, fun j hj => ?_, fun j => ?_, ?_, a.slots,
    fun _ => ⟨?_, ?_, ?_⟩, a.units.trans ?_⟩
  · rw [bank_of_banks a.banks j, m.banks j hj, q.bank]
  · rw [bank_of_banks (congrArg Exec.banks a.other) j, m.bank_other]
    exact congrArg (Half.bank · j) q.other
  · rw [a.num, m.win, hwin]
  · rw [a.sb, m.win, hwin]
  · rw [a.ram]
    exact (congrArg State.ram m.block :).trans q.ram
  · rw [a.nvm]
    exact (congrArg State.nvm m.block :).trans q.nvm
  · rw [State.units, m.rest]
    rfl

/-! ## The request and what it queues (R128, R347-R352) -/

theorem logInput_win (s : State) (h : HalfId) (kind : LogKind) (req : Cell) (ctx : BitVec 5) (isolated : Bool) (v0 v1 : Cell) :
    ∃ log n, ((logInput s h kind req ctx isolated v0 v1).half h).win = { (s.half h).win with log := log, logged := n } :=
  ⟨((logInput s h kind req ctx isolated v0 v1).half h).win.log, ((logInput s h kind req ctx isolated v0 v1).half h).win.logged, by
    rw [logInput, half_onWin]⟩

/-- In a ready half a request is made and logged (R263). -/
theorem request_ready (r : Ready s h k) (kind : LogKind) (req : Cell) (isolated : Bool) (live : State → State × Cell × Cell)
    (hwin : ((live s).1.half h).win = (s.half h).win) :
    request s h k kind req isolated live =
      some (logInput (live s).1 h kind req k isolated (live s).2.1 (live s).2.2, (live s).2.1, (live s).2.2) := by
  have hask : replayAsk (s.half h).win kind req k isolated = .issue := by simp [replayAsk, r.replayLog, r.replay]
  have hpass : (live s).1.onWin h (fun w => replayPass w kind req k) = (live s).1 := by
    refine onWin_self ?_
    have hlog : ((live s).1.half h).win.replayLog = [] := by rw [hwin]; exact r.replayLog
    simp only [replayPass, hlog, List.findIdx?_nil, List.filter_nil]
    rw [← hlog]
  simp only [request, hask, keptAnswer, r.kept, List.find?_nil, hpass]

/-- A lease that passes changes the governor, and in the command its lease only (R360, R391). -/
theorem passLease_spec (s : State) (h : HalfId) (k : BitVec 5) (c : RkCmd) :
    ∃ f l w, passLease s h k c = (s.onGov h f, { c with lease := l, leaseWanted := w }) := by
  have hself : s.onGov h id = s := by cases h <;> rfl
  simp only [passLease]
  (repeat' split)
  · exact ⟨id, _, _, by rw [hself]⟩
  · exact ⟨id, _, _, by rw [hself]⟩
  · exact ⟨_, _, _, rfl⟩
  · exact ⟨id, _, _, by rw [hself]⟩

/-- An accepted RK queues its command under a ticket, beside what the passing of a lease does to the governor (R347-R350, R360). -/
theorem rkAccept_accepted {b : Bank} {sel : BitVec 6} {o : List Cell} (hok : rkRefusal s h sel o = 0) :
    ∃ f l w, rkAccept s h k b sel o =
      ((s.onGov h f).onRkn h fun r => r.enqueue { newCmd s h k b sel o with lease := l, leaseWanted := w },
       ticketOf sel (gctx h k) (s.half h).rkn.seq) := by
  obtain ⟨f, l, w, e⟩ := passLease_spec s h k (newCmd s h k b sel o)
  refine ⟨f, l, w, ?_⟩
  simp only [rkAccept, hok, ne_eq, not_true, if_false, e]
  rfl

theorem rkAccept_refused {b : Bank} {sel : BitVec 6} {o : List Cell} (hno : rkRefusal s h sel o ≠ 0) :
    rkAccept s h k b sel o = (s.onRkn h fun r => { r with refused := satInc r.refused }, refusedTicket sel k (rkRefusal s h sel o)) := by
  simp only [rkAccept, if_pos hno]

/-- Whatever becomes of it, an RK reaches the governor and the reckoner of its half only (R347, R348). -/
theorem rkAccept_reach (s : State) (h : HalfId) (k : BitVec 5) (b : Bank) (sel : BitVec 6) (o : List Cell) :
    ∃ f g, (rkAccept s h k b sel o).1 = (s.onGov h f).onRkn h g := by
  have hself : s.onGov h id = s := by cases h <;> rfl
  by_cases hok : rkRefusal s h sel o = 0
  · obtain ⟨f, l, w, e⟩ := rkAccept_accepted (k := k) (b := b) hok
    exact ⟨f, _, by rw [e]⟩
  · exact ⟨id, _, by rw [rkAccept_refused hok, hself]⟩

/-- The ready owner's RK retires with its ticket pushed, what it queues queued, and the window closed (R128, R264, R347). -/
theorem rk_retires (r : Ready s h k) {c : Instr} {sel : BitVec 6} {n : Nat} {enc : BitVec 5 → Bank → Option FaultInfo}
    (hc : exec c s = .next (attempt s h (selectorForm 0o73) false enc (opRk sel n))) (he : enc k (s.bank h k) = none)
    (hi : freshWindow s h) (hslot : (s.bank h k).resume.slot.toNat < 5) {o l : List Cell}
    (hds : (s.bank h k).ds = o.reverse ++ l) (hn : o.length = n) (hlen : (s.bank h k).ds.length < 16)
    (hown : rkoBit (s.half h) k = true) (hm : s.mode h ≠ mReading) :
    let a := rkAccept s h k (s.bank h k) sel o
    (a.1.half h).rkn.ownNext = none →
    RetiresClosing c s s h k { s.bank h k with ds := a.2 :: l } (nextWord (s.bank h k).resume) fun t =>
      (t.half h).rkn = (a.1.half h).rkn := by
  intro a hnext
  obtain ⟨f, g, hreach⟩ := rkAccept_reach s h k (s.bank h k) sel o
  have hwin : (a.1.half h).win = (s.half h).win := by
    show ((rkAccept s h k (s.bank h k) sel o).1.half h).win = _
    rw [hreach, half_onRkn, half_onGov]
  have htake : ((s.bank h k).ds.take n).reverse = o := by
    rw [hds, List.take_left' (by simp [hn]), List.reverse_reverse]
  have hdrop : (s.bank h k).ds.drop n = l := by
    rw [hds, List.drop_left' (by simp [hn])]
  have hlen' : (s.bank h k).ds.length = n + l.length := by simp [hds, hn]
  have hrun : (opRk sel n).run s h k (s.bank h k) (nextWord (s.bank h k).resume) =
      .done { doneOf (logInput a.1 h .rk (atBits sel 0) k true a.2 0) { s.bank h k with ds := a.2 :: l }
        (nextWord (s.bank h k).resume) with close := true } := by
    simp only [opRk, runRk, hown, htake, request_ready r _ _ _ (fun s' => ((rkAccept s' h k (s.bank h k) sel o).1,
      (rkAccept s' h k (s.bank h k) sel o).2, 0)) hwin, pushRequest, hdrop]
    rfl
  have q : Requested s (logInput a.1 h .rk (atBits sel 0) k true a.2 0) h := by
    obtain ⟨log, m, hlog⟩ := logInput_win a.1 h .rk (atBits sel 0) k true a.2 0
    refine ⟨?_, ⟨log, m, by rw [hlog, hwin]⟩, ?_, ?_, ?_⟩ <;> rw [show a.1 = (s.onGov h f).onRkn h g from hreach] <;>
      cases h <;> rfl
  have hlog : (logInput a.1 h .rk (atBits sel 0) k true a.2 0).units h = a.1.units h := units_onWin ..
  refine (attempt_closes r hc (decide_eq_true hslot) he hi (stackFault_none _ n 1 (by omega) (by omega)) hrun q hm
    ((congrArg (fun x : Units => x.rkn.ownNext) hlog).trans hnext)).mono fun t ht => ?_
  exact congrArg Units.rkn (ht.trans hlog)

/-- Each of the rows is an RK command, warden-only where its row says so (R88). -/
theorem rkRows_exec {c : Instr} {sel : BitVec 6} {n : Nat} {w : Bool} (hmem : (c, sel, n, w) ∈ rkRows h) :
    exec c s = .next (attempt s h (selectorForm 0o73) false (if w then wardenEnc sel else noEnc) (opRk sel n)) := by
  have hall : ∀ x ∈ rkRows h, exec x.1 s =
      .next (attempt s h (selectorForm 0o73) false (if x.2.2.2 then wardenEnc x.2.1 else noEnc) (opRk x.2.1 x.2.2.1)) := by
    simp only [rkRows, List.forall_mem_cons, List.not_mem_nil, IsEmpty.forall_iff, implies_true, and_true]
    and_intros <;> rfl
  exact hall _ hmem

end

/-- Settles O31: the rows are RK commands (`rkRows_exec`), each `rk_retires` with what `rkAccept` makes of the reckoner, or the
fault of a context that does not own it. -/
theorem reckonerCommandsQueue : Obligations.ReckonerCommandsQueue := by
  intro s h k c sel n w o l hs hi hmem b rk hslot hw hds hn hlen hnext
  have r := steady_ready hs
  have hc := rkRows_exec (s := s) hmem
  have he : (if w then wardenEnc sel else noEnc) k (s.bank h k) = none := by
    cases w
    · rfl
    · simp [wardenEnc, show stW (s.bank h k).status = true from hw rfl]
  refine ⟨fun hown hok hm => ?_, fun hown hno hm => ?_, fun target hno hen => ?_⟩
  · have hbit : rkoBit (s.half h) k = true := by simpa [rkoBit] using hown
    obtain ⟨f, ls, lw, e⟩ := rkAccept_accepted (k := k) (b := s.bank h k) hok
    have hret := rk_retires r hc he hi hslot hds hn hlen hbit hm
    rw [e] at hret
    simp only [half_onRkn, half_onGov] at hret
    refine (hret hnext).mono fun t ht => ?_
    rw [ht]
    refine ⟨rfl, rfl, ⟨_, rfl, rfl, rfl, rfl, rfl, rfl, rfl, rfl, rfl⟩, rfl⟩
  · have hbit : rkoBit (s.half h) k = true := by simpa [rkoBit] using hown
    have hret := rk_retires r hc he hi hslot hds hn hlen hbit hm
    rw [rkAccept_refused hno] at hret
    simp only [half_onRkn] at hret
    exact hret hnext
  · have hbit : rkoBit (s.half h) k = false := by
      rw [rkoBit, Bool.and_eq_false_iff, beq_eq_false_iff_ne]
      exact hno
    have hlen' : (s.bank h k).ds.length = n + l.length := by simp [show (s.bank h k).ds = o.reverse ++ l from hds, hn]
    refine raise_enters r (hc.trans (congrArg Host.Outcome.next (attempt_faults r (decide_eq_true hslot) he (fun _ => hi)
      (stackFault_none _ n 1 (by omega) ?_) ?_))) hen rfl
    · have : (s.bank h k).ds.length < 16 := hlen
      omega
    · simp only [opRk, runRk, hbit]
      rfl

end Sys2Proof.Machine

/-! # Prefixes repeat their target (R77-R79, R167-R169; O19) -/

namespace Sys2Proof.Machine

/-! ## Slots of a retirement (R247, R342) -/

/-- `n` slots have been signed and counted in the window of half h; beside that only its performance counters and the event
controller may differ. -/
structure Slotted (s t : State) (h : HalfId) (n : Nat) : Prop where
  half : ∃ sig pos mem, t.half h =
    { s.half h with win := { (s.half h).win with sig := sig, slots := (s.half h).win.slots + n, replayPos := pos }, mem := mem }
  other : t.half h.other = s.half h.other
  block : ({ t with h0 := s.h0, h1 := s.h1, evc := s.evc } : State) = s

section
variable {s t u : State} {h : HalfId} {k : BitVec 5}

theorem Slotted.trans {m n : Nat} (a : Slotted s t h m) (b : Slotted t u h n) : Slotted s u h (m + n) := by
  obtain ⟨sig, pos, mem, ha⟩ := a.half
  obtain ⟨sig', pos', mem', hb⟩ := b.half
  refine ⟨⟨sig', pos', mem', ?_⟩, b.other.trans a.other, ?_⟩
  · rw [hb, ha]
    simp only [Nat.add_assoc]
  · have hs := a.block
    have ht := b.block
    rw [← hs, ← ht]

theorem noClose_congr (hw : (t.half h).win = (s.half h).win) (hp : t.prt = s.prt) (hd : t.dbgHalf h = s.dbgHalf h)
    (hc : noClose s h) : noClose t h := by
  simpa only [noClose, hw, hp, hd] using hc

theorem perfCount_slotted (s : State) (h : HalfId) (c : BitVec 6) : Slotted s (perfCount s h c) h 0 := by
  obtain ⟨hh, ho, hb⟩ := perfCount_only s h c
  exact ⟨⟨(s.half h).win.sig, (s.half h).win.replayPos, _, hh⟩, ho, hb⟩

theorem retireSlot_slotted (hd : noData s h) (p : Pos) (b : Bank) : Slotted s (retireSlot s h p b) h 1 := by
  rw [retireSlot_ready s h p b hd]
  refine Slotted.trans (m := 1) (n := 0) ⟨⟨misrStep (s.half h).win.sig (slotItem p b.ds.head?), (s.half h).win.replayPos + 1,
    (s.half h).mem, half_onWin ..⟩, half_onWin_other .., ?_⟩ (perfCount_slotted ..)
  cases h <;> rfl

theorem Slotted.noData {n : Nat} (a : Slotted s t h n) (hd : noData s h) : noData t h := by
  obtain ⟨sig, pos, mem, ha⟩ := a.half
  obtain ⟨hr, hi⟩ := hd
  constructor
  · rw [ex_eq, ha]
    rwa [ex_eq] at hr
  · rw [ha]
    exact hi

theorem Slotted.noClose {n : Nat} (a : Slotted s t h n) (hc : noClose s h) : noClose t h := by
  obtain ⟨sig, pos, mem, ha⟩ := a.half
  obtain ⟨hreplay, hlogged, honce, hprt, hstep, hdue⟩ := hc
  have hp : t.prt = s.prt := (congrArg State.prt a.block :)
  unfold Machine.noClose
  rw [ha, hp, dbgHalf_of_block a.block]
  exact ⟨hreplay, hlogged, honce, hprt, hstep, hdue⟩

theorem Slotted.arith {n : Nat} (a : Slotted s t h n) : (t.ex h).arith = (s.ex h).arith := by
  obtain ⟨sig, pos, mem, ha⟩ := a.half
  rw [ex_eq, ha, ← ex_eq]

theorem signSlots_slotted (hd : noData s h) (p : Pos) {d : Done} {i : Iteration} (hi : d.iter = some i) (hg : d.group = false) :
    Slotted s (signSlots s h p d) h (if i.first.isSome then 2 else 1) := by
  simp only [signSlots, hg, hi, Bool.false_eq_true, if_false]
  cases i.first with
  | none => exact retireSlot_slotted hd i.at_ d.b
  | some b =>
    have first := retireSlot_slotted hd p b
    exact first.trans (retireSlot_slotted (first.noData hd) i.at_ d.b)

/-! ## The retirement of an iteration (R167, R182, R203) -/

/-- An iteration that only changes its bank retires its slots, and no boundary comes with it; an ARITH waits at its target. -/
theorem retire_iteration (wr : Writer) (p : Pos) {d : Done} {i : Iteration} (hi : d.iter = some i) (hn : (s.ex h).arith = none)
    (hdt : noData s h) (hc : noClose s h) (hg : d.group = false) (hstores : d.stores = []) (htaken : d.taken = false)
    (hclose : d.close = false) (hafter : d.after = .nothing) (joined : Bool) (g : Group) :
    ∃ v l g', Slotted (s.setBank h k (landed d.b p d.dst)) v h (if i.first.isSome then 2 else 1) ∧
      retire s h k wr p d joined g = (v.onHalf h fun x => { x with line := l }).onEx h fun e =>
        { e with arith := d.arith.map fun z => ⟨i.at_, z, 0, 0⟩, groupOpen := g', dbgSkip := false } := by
  obtain ⟨q, hq⟩ : ∃ q : Bank × Pos, q = sequential d.b p d.dst := ⟨_, rfl⟩
  have hlands : ({ q.1 with resume := q.2 } : Bank) = landed d.b p d.dst := by rw [hq]; rfl
  obtain ⟨v, hv⟩ : ∃ v, v = (let t := signSlots (s.setBank h k (landed d.b p d.dst)) h p { d with b := q.1 }
                             if joined || d.leads then perfCount t h 0o03 else t) := ⟨_, rfl⟩
  have hslots : Slotted (s.setBank h k (landed d.b p d.dst)) v h (if i.first.isSome then 2 else 1) := by
    have signed := signSlots_slotted (noData_setBank k (landed d.b p d.dst) hdt) p (d := { d with b := q.1 }) hi hg
    rw [hv]
    cases joined || d.leads
    · exact signed
    · exact signed.trans (perfCount_slotted ..)
  have hset (b : Bank) : noClose (s.setBank h k b) h :=
    noClose_congr (by cases h <;> rfl) (by cases h <;> rfl) (by cases h <;> rfl) hc
  have hno : (v.ex h).arith = none := by
    rw [hslots.arith, ← hn]
    cases h <;> rfl
  have harith : arithRetire (v.ex h).arith joined p d = d.arith.map fun z => ⟨i.at_, z, 0, 0⟩ := by
    simp only [arithRetire, hno, hg, hi, Bool.false_eq_true, if_false]
    cases d.leads <;> cases d.arith <;> rfl
  refine ⟨v, (v.half h).line.step q.2.addr,
    if joined || d.leads || d.taken || !(q.2.addr == p.addr || (s.half h).line.holds q.2.addr) then none else some g, hslots, ?_⟩
  unfold retire
  simp only [htaken, Bool.false_eq_true, if_false, ← hq, hlands, hstores, putStores, List.foldl, afterRetire, hafter, hclose]
  simp only [htaken, hstores, hafter, hclose] at hv
  rw [← hv]
  have hend : noClose v h := hslots.noClose (hset _)
  rw [retireClose_none]
  · rw [← harith]
    cases h <;> rfl
  · exact noClose_congr (by simp) (by cases h <;> rfl) (by cases h <;> rfl) hend

/-! ## A half at the start of an iteration (R169) -/

/-- The half takes the running context's next instruction at its position, nothing due before it, and no ARITH, data or close
waits: a ready half, be its context in a repeat or not. -/
structure Iterating (s : State) (h : HalfId) (k : BitVec 5) : Prop where
  takes : takesInstr s h = true
  boundary : boundary s h = none
  noPre : (windowFull (s.half h).win || prtForces s h || stepDue s h) = false
  run : (s.ex h).running = some k
  fetch : checkTarget s h (s.bank h k).pcc (s.bank h k).resume.addr.toNat = none
  arith : (s.ex h).arith = none
  noData : noData s h
  noClose : noClose s h

theorem Ready.iterating (r : Ready s h k) : Iterating s h k :=
  ⟨r.takes, r.boundary, r.noPre, r.run, r.fetch, r.arith, r.noData, r.noClose⟩

/-- A repeat that stands in the bank changes nothing before the instruction. -/
theorem Ready.iterating_repeat (r : Ready s h k) {b : Bank} (hb : ∃ a n, b = { s.bank h k with repActive := a, repLeft := n }) :
    Iterating (s.setBank h k b) h k := by
  obtain ⟨active, left, rfl⟩ := hb
  obtain ⟨u, hu⟩ : ∃ u, u = s.setBank h k { s.bank h k with repActive := active, repLeft := left } := ⟨_, rfl⟩
  have hbank : u.bank h k = { s.bank h k with repActive := active, repLeft := left } := by rw [hu, bank_setBank]
  have hwin : (u.half h).win = (s.half h).win := by rw [hu]; cases h <;> rfl
  have hsch : (u.half h).sch = (s.half h).sch := by rw [hu]; cases h <;> rfl
  have hspn : (u.half h).spn = (s.half h).spn := by rw [hu]; cases h <;> rfl
  have hdbg : u.dbgHalf h = s.dbgHalf h := by rw [hu]; cases h <;> rfl
  have hprt : u.prt = s.prt := by rw [hu]; cases h <;> rfl
  have hex : u.ex h = { s.ex h with banks := (u.ex h).banks } := by rw [hu]; cases h <;> rfl
  have htakes : takesInstr u h = takesInstr s h := by rw [hu]; cases h <;> rfl
  have hrun : (u.ex h).running = some k := by rw [hex]; exact r.run
  have harith : (u.ex h).arith = none := by rw [hex]; exact r.arith
  have hreads : (u.ex h).reads = [] := by rw [hex]; exact r.reads
  have hrepu : (u.ex h).repu = false := by rw [hex]; exact r.repu
  have hesc : (u.ex h).escSrc = (s.ex h).escSrc := by rw [hex]
  have hopen : closeBlocked u h = false := by
    have hroom : (s.half h).win.closed.length + 1 ≤ 4 := r.closed
    simp [closeBlocked, closeRoom, hwin, hroom, hreads]
  have hbound : Machine.boundary u h = none := by
    simp [Machine.boundary, deliverHeld, hwin, hsch, r.held, hopen, nextLogged, r.replayLog, sagCut, r.cut, enterDue,
      State.runBank, hrun, hbank, hrepu, hesc, r.esc, r.heldArith, r.heldBudget, arithDue, harith, r.expired]
  have hpre : (windowFull (u.half h).win || prtForces u h || stepDue u h) = false := by
    have := r.noPre
    simpa only [prtForces, stepDue, hwin, hprt, hdbg] using this
  have hfetch : checkTarget u h (u.bank h k).pcc (u.bank h k).resume.addr.toNat = none := by
    rw [hbank, checkTarget_congr (congrArg Windows.sb hwin) hspn]
    exact r.fetch
  have hclose : Machine.noClose u h := noClose_congr hwin hprt hdbg r.noClose
  rw [← hu]
  exact ⟨htakes.trans r.takes, hbound, hpre, hrun, hfetch, harith, ⟨hreads, by rw [hwin]; exact r.items⟩, hclose⟩

/-- A prefix issues in such a half. -/
theorem Iterating.attempt (a : Iterating s h k) {f : Form} {enc : BitVec 5 → Bank → Option FaultInfo} (o : Op)
    (hf : f.fits (s.bank h k).resume = true) (he : enc k (s.bank h k) = none) :
    ∃ wr, attempt s h f true enc o =
      issue s h k wr (s.bank h k) o (f.next (s.bank h k).resume) (s.bank h k).resume := by
  obtain ⟨wr, hwr⟩ : ∃ wr, s.writer h = some wr := by simp [State.writer, State.runBank, a.run]
  refine ⟨wr, ?_⟩
  unfold Machine.attempt
  rw [a.takes, a.boundary, a.noPre]
  simp [a.run, hwr, dropRepeat, decodeIssue, fetchFault, a.fetch, hf, he]

/-- An instruction that is not isolated and runs to its end without a store or a close retires at once (R101). -/
theorem Iterating.issue (a : Iterating s h k) (wr : Writer) {o : Op} {d : Done} (hi : o.isolated = false)
    (hst : stackFault (s.bank h k) o.pops o.pushes = none) (dst p : Pos) (hrun : o.run s h k (s.bank h k) dst = .done d)
    (hreads : (d.s.ex h).reads = []) (hstores : d.stores = []) (htaken : d.taken = false) (hclose : d.close = false)
    (hafter : d.after = .nothing) :
    issue s h k wr (s.bank h k) o dst p =
      retire d.s h k wr p d (joins (s.ex h) (s.bank h k) o) (o.groupOf (s.bank h k)) := by
  have hchecked : runChecked o s h k (s.bank h k) dst = .done d := by
    simp [runChecked, hst, consumedRead, a.noData.1, hrun]
  simp [Machine.issue, a.arith, hi, hchecked, settle, storesOverflow, hstores, retireOrWait, htaken, hclose, hafter,
    After.faults, storesFit, keepLoads, hreads]

/-! ## One iteration (R167, R169) -/

section
variable {c : Instr} {v : State} {b : Bank} {p : Pos} {rep : Bool} {l : LineBuf} {arith : Option PendArith} {g : Option Group}
  {n : Nat}

/-- Slots signed in the half with its repeat flag and bank set, then the pipeline fields: all a repeat may leave. -/
theorem Slotted.repeats
    (a : Slotted ((s.onEx h fun e => { e with repu := rep }).setBank h k (landed b (s.bank h k).resume p)) v h n)
    (hexec : exec c s = .next ((v.onHalf h fun x => { x with line := l }).onEx h fun e =>
      { e with arith := arith, groupOpen := g, dbgSkip := false })) :
    Repeats c s h k b p arith n := by
  obtain ⟨sig, pos, mem, hhalf⟩ := a.half
  refine ⟨_, hexec, ?_, by simp, ?_, by simpa using a.other, ?_, ?_, ?_⟩
  · simp only [State.bank, Half.bank, half_onEx, half_onHalf]
    rw [hhalf]
    exact bank_setBank _ h k _
  · intro j hj
    have hne : j.toNat ≠ k.toNat := fun e => hj (BitVec.eq_of_toNat_eq e)
    simp only [State.bank, Half.bank, half_onEx, half_onHalf]
    rw [hhalf]
    simp [sget_sput_ne _ _ _ _ _ hne]
  · have hblock := congrArg (fun x : State => ({ x with h0 := s.h0, h1 := s.h1, evc := s.evc } : State)) a.block
    cases h <;> exact hblock
  · simp only [half_onEx, half_onHalf]
    rw [hhalf]
    simp
  · simp only [half_onEx, half_onHalf]
    rw [hhalf]
    simp

theorem Slotted.repu (a : Slotted ((s.onEx h fun e => { e with repu := rep }).setBank h k b) v h n) :
    (((v.onHalf h fun x => { x with line := l }).onEx h fun e =>
      { e with arith := arith, groupOpen := g, dbgSkip := false }).ex h).repu = rep := by
  obtain ⟨sig, pos, mem, hhalf⟩ := a.half
  simp only [ex_eq, half_onEx, half_onHalf]
  rw [hhalf]
  simp

end

/-- A prefix whose effect is an iteration with `m` left: with one left the position stays, and a REPU keeps holding the boundary
(R168, R169). -/
theorem prefix_repeats (a : Iterating s h k) {c : Instr} {f : Form} {enc : BitVec 5 → Bank → Option FaultInfo} {o : Op}
    {b' : Bank} {after : Pos} {z : Option Bool} {pl : RepPlace} {first : Option Bank} {m : Nat} {holds : Bool}
    (hc : exec c s = .next (Machine.attempt s h f true enc o)) (hf : f.fits (s.bank h k).resume = true)
    (he : enc k (s.bank h k) = none) (hi : o.isolated = false) (hst : stackFault (s.bank h k) o.pops o.pushes = none)
    (hrun : o.run s h k (s.bank h k) (f.next (s.bank h k).resume) =
      .done (repRetire { doneOf s b' after with arith := z } pl first m h holds)) :
    Repeats c s h k (b'.repeats m) (if m = 0 then pl.after else pl.prefixAt) (z.map fun y => ⟨pl.target, y, 0, 0⟩)
      (if first.isSome then 2 else 1) ∧
    (holds = true → ∃ t, exec c s = .next t ∧ (t.ex h).repu = decide (m ≠ 0)) := by
  obtain ⟨wr, hatt⟩ := a.attempt o hf he
  obtain ⟨rep, hs, hrep⟩ : ∃ rep, (repRetire { doneOf s b' after with arith := z } pl first m h holds).s =
      s.onEx h (fun e => { e with repu := rep }) ∧ (holds = true → rep = decide (m ≠ 0)) := by
    cases holds
    · exact ⟨(s.ex h).repu, (onEx_self rfl).symm, by simp⟩
    · exact ⟨decide (m ≠ 0), rfl, fun _ => rfl⟩
  obtain ⟨hreads, hitems⟩ := a.noData
  have hissue := a.issue wr hi hst _ (s.bank h k).resume hrun (by rw [hs]; simpa using hreads) rfl rfl rfl rfl
  rw [hs] at hissue
  have hdata : Machine.noData (s.onEx h fun e => { e with repu := rep }) h := ⟨by simpa using hreads, by simpa using hitems⟩
  have hclose : Machine.noClose (s.onEx h fun e => { e with repu := rep }) h :=
    noClose_congr (by simp) (by cases h <;> rfl) (by cases h <;> rfl) a.noClose
  obtain ⟨v, l, g, hslots, hret⟩ := retire_iteration (k := k) wr (s.bank h k).resume
    (d := repRetire { doneOf s b' after with arith := z } pl first m h holds) rfl (by simpa using a.arith) hdata hclose
    rfl rfl rfl rfl rfl (joins (s.ex h) (s.bank h k) o) (o.groupOf (s.bank h k))
  have hexec := hc.trans (congrArg Host.Outcome.next (hatt.trans (hissue.trans hret)))
  exact ⟨hslots.repeats hexec, fun hholds => ⟨_, hexec, by rw [hslots.repu, hrep hholds]⟩⟩

/-! ## The counts of a prefix (R77, R169) -/

theorem curBank_eq (hr : (s.ex h).running = some k) : s.curBank h = s.bank h k := by simp [State.curBank, State.runBank, hr]

theorem targetEnc_none {target : BitVec 6} {b : Bank} {o : Op} (h : simpleOp target b = some o) : targetEnc target k b = none := by
  simp [targetEnc, h]

theorem targetIsolated_false {target : BitVec 6} {b : Bank} {o : Op} (h : simpleOp target b = some o) (hi : o.isolated = false) :
    targetIsolated target b = false := by
  simp [targetIsolated, h, hi]

/-- A prefix with a count runs its target once. -/
theorem repRun_done {target : BitVec 6} {b : Bank} {o : Op} {pl : RepPlace} {d : Done} {n : Nat} (ho : simpleOp target b = some o)
    (hn : 0 < n) (hrun : runChecked o s h k { b with repActive := false, repLeft := 0 } pl.after = .done d) (first u : Bool) :
    repRun target s h k b pl first n u = .done (repRetire d pl (if first then some b else none) (n - 1) h u) := by
  simp only [repRun, ho, Nat.ne_of_gt hn, if_false, repIterate, hrun]

/-- A prefix with count 0 runs nothing. -/
theorem repRun_zero {target : BitVec 6} {b : Bank} {o : Op} (ho : simpleOp target b = some o) (pl : RepPlace) (first u : Bool) :
    repRun target s h k b pl first 0 u = .done (doneOf s { b with repActive := false, repLeft := 0 } pl.after) := by
  simp [repRun, ho, Bank.repeats]

/-- A plain instruction repeats nothing: one slot. -/
theorem Retires.repeats {c : Instr} {b : Bank} {dst : Pos} {a : Option PendArith} (r : Retires c s h k b dst a) :
    Repeats c s h k b dst a 1 := by
  obtain ⟨t, hexec, hbank, harith, m⟩ := r
  exact ⟨t, hexec, hbank, harith, m.banks, m.otherHalf, m.block, by rw [m.win], by rw [m.win]⟩

/-- The last iteration passes the target. -/
theorem repeats_last {c : Instr} {b : Bank} {after at_ : Pos} {a : Option PendArith} {n slots : Nat} (hn : n = 1)
    (r : Repeats c s h k (b.repeats (n - 1)) (if n - 1 = 0 then after else at_) a slots) :
    Repeats c s h k { b with repActive := false, repLeft := 0 } after a slots := by
  subst hn
  exact r

/-- Any iteration before it stays at the prefix. -/
theorem repeats_more {c : Instr} {b : Bank} {after at_ : Pos} {a : Option PendArith} {n slots : Nat} (hn : 2 ≤ n)
    (r : Repeats c s h k (b.repeats (n - 1)) (if n - 1 = 0 then after else at_) a slots) :
    Repeats c s h k { b with repActive := true, repLeft := BitVec.ofNat 24 (n - 1) } at_ a slots := by
  have hleft : n - 1 ≠ 0 := by omega
  simpa only [Bank.repeats, hleft, if_false] using r

/-! ## REP and REPU -/

theorem roomFor_of_lt {p : Pos} {n : Nat} (hp : p.slot.toNat + n ≤ 5) : roomFor p n = true := by simpa [roomFor] using hp

/-- The first step of a REP: it takes its count from the top of the stack (R77, R167). -/
theorem rep_first (r : Ready s h k) {target : BitVec 6} {o : Op} {b' : Bank} {z : Option Bool} {n : Nat} {l : List Cell}
    (hslot : (s.bank h k).resume.slot.toNat < 5) (hds : (s.bank h k).ds = BitVec.ofNat 36 n :: l)
    (hlen : (s.bank h k).ds.length ≤ 16) (hn : n < 2 ^ 24) (ho : simpleOp target { s.bank h k with ds := l } = some o)
    (hsome : (simpleOp target (s.bank h k)).isSome = true) (hi : o.isolated = false)
    (hrun : runChecked o s h k { s.bank h k with ds := l, repActive := false, repLeft := 0 } (slotsOn (s.bank h k).resume 2) =
      .done { doneOf s b' (slotsOn (s.bank h k).resume 2) with arith := z }) :
    (n = 0 → Repeats (.rep h target) s h k { s.bank h k with ds := l, repActive := false, repLeft := 0 }
      (slotsOn (s.bank h k).resume 2) none 1) ∧
    (0 < n → Repeats (.rep h target) s h k (b'.repeats (n - 1))
      (if n - 1 = 0 then slotsOn (s.bank h k).resume 2 else (s.bank h k).resume)
      (z.map fun y => ⟨slotsOn (s.bank h k).resume 1, y, 0, 0⟩) 2) := by
  have hfits : repForm.fits (s.bank h k).resume = true := roomFor_of_lt (by omega)
  have hcount : ((s.bank h k).at 0).toNat = n := by
    simp only [Bank.at, hds, List.getD_cons_zero, BitVec.toNat_ofNat]
    omega
  have hrest : (s.bank h k).ds.drop 1 = l := by rw [hds]; rfl
  have henc : targetEnc target k (s.bank h k) = none := by simp [targetEnc, hsome]
  have hiso : (opRep target (s.bank h k)).isolated = false := by
    simp only [opRep, r.rep, Bool.false_eq_true, if_false, hrest]
    exact targetIsolated_false ho hi
  have hst : stackFault (s.bank h k) (opRep target (s.bank h k)).pops (opRep target (s.bank h k)).pushes = none := by
    simp only [opRep, r.rep, Bool.false_eq_true, if_false]
    exact stackFault_none _ 1 0 (by simp [hds]) (by omega)
  have hexec : exec (.rep h target) s = .next (attempt s h repForm true (targetEnc target) (opRep target (s.bank h k))) := by
    rw [← curBank_eq r.run]
    rfl
  have hop (dst : Pos) : (opRep target (s.bank h k)).run s h k (s.bank h k) dst =
      repRun target s h k { s.bank h k with ds := l } ⟨(s.bank h k).resume, slotsOn (s.bank h k).resume 1, dst⟩ true n
        false := by
    have hsmall : ¬2 ^ 24 ≤ n := by omega
    simp only [opRep, runRep, r.rep, Bool.false_eq_true, if_false, hcount, hsmall, hrest]
  constructor
  · rintro rfl
    exact (attempt_plain r _ _ _ _ _ _ _ none hexec hfits henc hiso hst ((hop _).trans (repRun_zero ho ..))).repeats
  · intro hpos
    exact (prefix_repeats r.iterating hexec hfits henc hiso hst ((hop _).trans (repRun_done ho hpos hrun true false))).1

/-- A further step of a REP: its count stands in the repeat register (R169). -/
theorem rep_further (a : Iterating s h k) {target : BitVec 6} {o : Op} {b' : Bank} {z : Option Bool} {n : Nat}
    (hactive : (s.bank h k).repActive = true) (hleft : (s.bank h k).repLeft.toNat = n) (hpos : 0 < n)
    (hslot : (s.bank h k).resume.slot.toNat < 5) (hlen : (s.bank h k).ds.length ≤ 16)
    (ho : simpleOp target (s.bank h k) = some o) (hi : o.isolated = false)
    (hrun : runChecked o s h k { s.bank h k with repActive := false, repLeft := 0 } (slotsOn (s.bank h k).resume 2) =
      .done { doneOf s b' (slotsOn (s.bank h k).resume 2) with arith := z }) :
    Repeats (.rep h target) s h k (b'.repeats (n - 1))
      (if n - 1 = 0 then slotsOn (s.bank h k).resume 2 else (s.bank h k).resume)
      (z.map fun y => ⟨slotsOn (s.bank h k).resume 1, y, 0, 0⟩) 1 := by
  have hexec : exec (.rep h target) s = .next (attempt s h repForm true (targetEnc target) (opRep target (s.bank h k))) := by
    rw [← curBank_eq a.run]
    rfl
  have hiso : (opRep target (s.bank h k)).isolated = false := by
    simp only [opRep, hactive, if_true]
    exact targetIsolated_false ho hi
  have hst : stackFault (s.bank h k) (opRep target (s.bank h k)).pops (opRep target (s.bank h k)).pushes = none := by
    simp only [opRep, hactive, if_true]
    exact stackFault_none _ 0 0 (by omega) (by omega)
  have hop : (opRep target (s.bank h k)).run s h k (s.bank h k) (slotsOn (s.bank h k).resume 2) =
      repRun target s h k (s.bank h k) ⟨(s.bank h k).resume, slotsOn (s.bank h k).resume 1, slotsOn (s.bank h k).resume 2⟩ false n
        false := by
    simp only [opRep, runRep, hactive, if_true, hleft]
  exact (prefix_repeats a hexec (roomFor_of_lt (by omega)) (targetEnc_none ho) hiso hst
    (hop.trans (repRun_done ho hpos hrun false false))).1

/-- The first step of a REPU, whose count stands in its code word; with iterations left it holds the boundary (R77, R168). -/
theorem repu_first (r : Ready s h k) {count target : BitVec 6} {o : Op} {b' : Bank} {z : Option Bool}
    (hslot : (s.bank h k).resume.slot.toNat < 4) (hlen : (s.bank h k).ds.length ≤ 16)
    (ho : simpleOp target (s.bank h k) = some o) (hi : o.isolated = false)
    (hrun : runChecked o s h k { s.bank h k with repActive := false, repLeft := 0 } (slotsOn (s.bank h k).resume 3) =
      .done { doneOf s b' (slotsOn (s.bank h k).resume 3) with arith := z }) :
    (count.toNat = 0 → Repeats (.repu h count target) s h k { s.bank h k with repActive := false, repLeft := 0 }
      (slotsOn (s.bank h k).resume 3) none 1) ∧
    (0 < count.toNat → Repeats (.repu h count target) s h k (b'.repeats (count.toNat - 1))
        (if count.toNat - 1 = 0 then slotsOn (s.bank h k).resume 3 else (s.bank h k).resume)
        (z.map fun y => ⟨slotsOn (s.bank h k).resume 2, y, 0, 0⟩) 2 ∧
      ∃ t, exec (.repu h count target) s = .next t ∧ (t.ex h).repu = decide (count.toNat - 1 ≠ 0)) := by
  have hexec : exec (.repu h count target) s =
      .next (attempt s h repuForm true (targetEnc target) (opRepu count target (s.bank h k))) := by
    rw [← curBank_eq r.run]
    rfl
  have hfits : repuForm.fits (s.bank h k).resume = true := roomFor_of_lt (by omega)
  have hiso : (opRepu count target (s.bank h k)).isolated = false := targetIsolated_false ho hi
  have hst : stackFault (s.bank h k) (opRepu count target (s.bank h k)).pops (opRepu count target (s.bank h k)).pushes = none :=
    stackFault_none _ 0 0 (by omega) (by omega)
  have hop (dst : Pos) : (opRepu count target (s.bank h k)).run s h k (s.bank h k) dst =
      repRun target s h k (s.bank h k) ⟨(s.bank h k).resume, slotsOn (s.bank h k).resume 2, dst⟩ true count.toNat true := by
    simp only [opRepu, runRepu, r.rep, Bool.false_eq_true, if_false]
  constructor
  · intro hzero
    rw [hzero] at hop
    exact (attempt_plain r _ _ _ _ _ _ _ none hexec hfits (targetEnc_none ho) hiso hst
      ((hop _).trans (repRun_zero ho ..))).repeats
  · intro hpos
    obtain ⟨hrep, hheld⟩ := prefix_repeats r.iterating hexec hfits (targetEnc_none ho) hiso hst
      ((hop _).trans (repRun_done ho hpos hrun true true))
    exact ⟨hrep, hheld rfl⟩

end

/-- Settles O19: one step of a prefix is one iteration of its target, retired at the target's position (`prefix_repeats`); what
differs is where the count stands, and a count of 0 retires the prefix alone. -/
theorem prefixesRepeatTheirTarget : Obligations.PrefixesRepeatTheirTarget := by
  unfold Obligations.PrefixesRepeatTheirTarget
  intro s h k target o b' z n hs
  have r := steady_ready hs
  refine ⟨?_, ?_, ?_⟩
  · rintro l hslot hds hlen hn hsome ⟨ho, hi, hrun⟩
    obtain ⟨hzero, hpos⟩ := rep_first r hslot hds hlen hn ho hsome hi hrun
    exact ⟨hzero, fun e => repeats_last e (hpos (by omega)), fun e => repeats_more e (hpos (by omega))⟩
  · intro u hu hslot hlen hpos hn ho hi hrun
    have hbank : u.bank h k = { s.bank h k with repActive := true, repLeft := BitVec.ofNat 24 n } := by rw [hu, bank_setBank]
    have a : Iterating u h k := by
      rw [hu]
      exact r.iterating_repeat ⟨_, _, rfl⟩
    have hleft : (BitVec.ofNat 24 n).toNat = n := by
      rw [BitVec.toNat_ofNat]
      exact Nat.mod_eq_of_lt hn
    have hrep := rep_further a (by rw [hbank]) (by rw [hbank]; exact hleft) hpos (by rw [hbank]; exact hslot)
      (by rw [hbank]; exact hlen) (by rw [hbank]; exact ho) hi (by rw [hbank]; exact hrun)
    simp only [hbank] at hrep
    exact ⟨fun e => repeats_last e hrep, fun e => repeats_more e hrep⟩
  · rintro count rfl hslot hlen ⟨ho, hi, hrun⟩
    obtain ⟨hzero, hpos⟩ := repu_first (count := count) r hslot hlen ho hi hrun
    refine ⟨hzero, fun e => repeats_last e (hpos (by omega)).1, fun e => ?_⟩
    obtain ⟨hrep, t, hexec, hrepu⟩ := hpos (by omega)
    refine ⟨t, repeats_more e hrep, hexec, ?_⟩
    rw [hrepu, decide_eq_true_eq]
    omega

end Sys2Proof.Machine

/-! # Stacks, logic, products, status and sealing (R42, R102, R103, R109-R112, R138, R139, R144, R146; O2, O4, O5, O7, O9) -/

namespace Sys2Proof.Machine

/-! ## Stack shuffles (R102; O2) -/

/-- Settles O2: each shuffle replaces the top cells by those of its stack effect (`attempt_simple`). -/
theorem stackShuffles : Obligations.StackShuffles := by
  intro s h k x y z l hs
  have r := steady_ready hs
  refine ⟨fun hlen => ?_, fun hds hl => ?_, fun hds hl => ?_, fun hds hl => ?_, fun hds hl => ?_, fun hds hl => ?_,
    fun hds hl => ?_, fun hds hl => ?_⟩
  · exact attempt_simple r (code := 0o00) (pops := 0) (pushes := 0) (g := fun _ => []) rfl (by simp) (by simpa using hlen) rfl
  · refine attempt_simple r (code := 0o01) (pops := 1) (pushes := 2) rfl (by simp [hds]) (by simp [hds]; omega) ?_
    simp [Bank.at, hds]
  · refine attempt_simple r (code := 0o02) (pops := 1) (pushes := 0) rfl (by simp [hds]) (by simp [hds]; omega) ?_
    simp [hds]
  · refine attempt_simple r (code := 0o03) (pops := 2) (pushes := 2) rfl (by simp [hds]) (by simp [hds]; omega) ?_
    simp [Bank.at, hds]
  · refine attempt_simple r (code := 0o04) (pops := 2) (pushes := 3) rfl (by simp [hds]) (by simp [hds]; omega) ?_
    simp [Bank.at, hds]
  · refine attempt_simple r (code := 0o05) (pops := 3) (pushes := 3) rfl (by simp [hds]) (by simp [hds]; omega) ?_
    simp [Bank.at, hds]
  · refine attempt_simple r (code := 0o06) (pops := 2) (pushes := 1) rfl (by simp [hds]) (by simp [hds]; omega) ?_
    simp [Bank.at, hds]
  · refine attempt_simple r (code := 0o07) (pops := 2) (pushes := 3) rfl (by simp [hds]) (by simp [hds]; omega) ?_
    simp [Bank.at, hds]

/-! ## Logic, shifts and comparisons (R102, R109, R110; O4) -/

/-- ROL by less than the width (R109). -/
theorem rolCell_eq (x n : Cell) : rolCell x n = x <<< (n.toNat % 36) ||| x >>> (36 - n.toNat % 36) := by
  have hlt : n.toNat % 36 < 36 := Nat.mod_lt _ (by decide)
  rw [rolCell, BitVec.rotateLeft_def, Nat.mod_eq_of_lt hlt]

section
variable {s : State} {h : HalfId} {k : BitVec 5}

/-- An instruction of two operands without status retires with its result in their place. -/
theorem attempt_binary (r : Ready s h k) {c : Instr} {code : BitVec 6} {cls : PairClass} {f : Cell → Cell → Cell} {x y v : Cell}
    {l : List Cell} (hds : (s.bank h k).ds = y :: x :: l) (hl : l.length < 16) (hv : f x y = v)
    (hc : exec c s = .next (runSlot s h (binOp code cls f))) :
    Retires c s h k { s.bank h k with ds := v :: l } (slotsOn (s.bank h k).resume 1) := by
  refine attempt_simple r hc (by simp [hds]) (by simp [hds]; omega) ?_
  simp [Bank.at, hds, hv]

/-- An instruction of one operand without status retires with its result in its place. -/
theorem attempt_unary (r : Ready s h k) {c : Instr} {code : BitVec 6} {cls : PairClass} {f : Cell → Cell} {x v : Cell}
    {l : List Cell} (hds : (s.bank h k).ds = x :: l) (hl : l.length < 16) (hv : f x = v)
    (hc : exec c s = .next (runSlot s h (unOp code cls f))) :
    Retires c s h k { s.bank h k with ds := v :: l } (slotsOn (s.bank h k).resume 1) := by
  refine attempt_simple r hc (by simp [hds]) (by simp [hds]; omega) ?_
  simp [Bank.at, hds, hv]

end

/-- Settles O4: the results are those of the model's two and one operand forms (`attempt_binary`, `attempt_unary`). -/
theorem logicShiftsAndComparisons : Obligations.LogicShiftsAndComparisons := by
  intro s h k x y l hs hl b dst n yields truth
  have r := steady_ready hs
  have hslt : x.slt y = decide (x.toInt < y.toInt) := BitVec.slt_eq_decide
  refine ⟨fun hds => ⟨?_, ?_, ?_⟩, fun hds => ⟨?_, ?_, ?_, ?_⟩, fun hds => ⟨?_, ?_, ?_⟩, fun hds => ⟨?_, ?_⟩⟩
  · exact attempt_binary r hds hl rfl (code := 0o12) rfl
  · exact attempt_binary r hds hl rfl (code := 0o13) rfl
  · exact attempt_binary r hds hl rfl (code := 0o14) rfl
  · exact attempt_binary r hds hl rfl (code := 0o20) (f := shlCell) rfl
  · exact attempt_binary r hds hl rfl (code := 0o21) (f := shrCell) rfl
  · exact attempt_binary r hds hl rfl (code := 0o22) (f := sarCell) rfl
  · exact attempt_binary r hds hl (rolCell_eq x y) (code := 0o23) rfl
  · exact attempt_binary r hds hl rfl (code := 0o24) (f := fun x y => flagCell (x == y)) rfl
  · exact attempt_binary r hds hl (congrArg flagCell hslt) (code := 0o25) (f := fun x y => flagCell (x.slt y)) rfl
  · exact attempt_binary r hds hl rfl (code := 0o26) (f := fun x y => flagCell (x.ult y)) rfl
  · exact attempt_unary r hds hl rfl (code := 0o15) rfl
  · exact attempt_unary r hds hl rfl (code := 0o27) (f := fun x => flagCell (x == 0)) rfl

/-! ## Multiply and divide (R105, R106, R111, R112; O5) -/

theorem mulWide_low (x y : Cell) : fld (mulWide x y) 0 36 = BitVec.ofNat 36 (x.toNat * y.toNat) := by
  have hx := x.isLt
  have hy := y.isLt
  have hlt : x.toNat * y.toNat < 2 ^ 72 := by nlinarith
  apply BitVec.eq_of_toNat_eq
  simp only [fld, mulWide, BitVec.extractLsb'_toNat, BitVec.toNat_mul, BitVec.toNat_setWidth, BitVec.toNat_ofNat]
  rw [Nat.mod_eq_of_lt (by omega : x.toNat < 2 ^ 72), Nat.mod_eq_of_lt (by omega : y.toNat < 2 ^ 72), Nat.mod_eq_of_lt hlt]
  simp

theorem mulWide_high (x y : Cell) : fld (mulWide x y) 36 36 = BitVec.ofNat 36 (x.toNat * y.toNat / 2 ^ 36) := by
  have hx := x.isLt
  have hy := y.isLt
  have hlt : x.toNat * y.toNat < 2 ^ 72 := by nlinarith
  apply BitVec.eq_of_toNat_eq
  simp only [fld, mulWide, BitVec.extractLsb'_toNat, BitVec.toNat_mul, BitVec.toNat_setWidth, BitVec.toNat_ofNat]
  rw [Nat.mod_eq_of_lt (by omega : x.toNat < 2 ^ 72), Nat.mod_eq_of_lt (by omega : y.toNat < 2 ^ 72), Nat.mod_eq_of_lt hlt,
    Nat.shiftRight_eq_div_pow]

theorem sdiv_eq_tdiv (x y : Cell) : x.sdiv y = BitVec.ofInt 36 (x.toInt.tdiv y.toInt) := by
  apply BitVec.eq_of_toInt_eq
  rw [BitVec.toInt_sdiv, BitVec.toInt_ofInt]

theorem srem_eq_tmod (x y : Cell) : x.srem y = BitVec.ofInt 36 (x.toInt.tmod y.toInt) := by
  rw [← BitVec.toInt_srem, BitVec.ofInt_toInt]

/-- Bit by bit, `setBit` replaces one bit. -/
theorem getLsbD_setBit {w : Nat} (c : BitVec w) (n : Nat) (v : Bool) {i : Nat} (hi : i < w) :
    (setBit c n v).getLsbD i = if i = n then v else c.getLsbD i := by
  rw [setBit, apply_ite (BitVec.getLsbD · i), BitVec.getLsbD_or, BitVec.getLsbD_and, BitVec.getLsbD_not, ← BitVec.twoPow_eq,
    BitVec.getLsbD_twoPow]
  by_cases hn : i = n
  · subst hn
    cases v <;> simp [hi]
  · have hn' : ¬n = i := fun e => hn e.symm
    cases v <;> simp [hi, hn, hn']

theorem setBit_self {w : Nat} (c : BitVec w) (n : Nat) : setBit c n (c.getLsbD n) = c := by
  refine BitVec.eq_of_getLsbD_eq fun i hi => ?_
  rw [getLsbD_setBit c n _ hi]
  split
  · next e => rw [e]
  · rfl

/-- DIVM keeps the carry, and sets V only where it overflows (R104, R105). -/
theorem withCV_keeps (c : Cell) (ovf : Bool) : withCV c (stC c) (stV c || ovf) = if ovf then setBit c 33 true else c := by
  have hc : setBit c 34 (stC c) = c := setBit_self c 34
  have hv : setBit c 33 (stV c) = c := setBit_self c 33
  cases ovf <;> simp [withCV, hc, hv]

theorem divOverflow_eq (x y : Cell) : divOverflow x y = decide (x = 0o400000000000 ∧ y = 0o777777777777) := by
  rw [Bool.decide_and]
  rfl

section
variable {s : State} {h : HalfId} {k : BitVec 5}

/-- A division of a ready half retires with the bank and the pending ARITH that its effect gives. -/
theorem attempt_div (r : Ready s h k) {c : Instr} {code : BitVec 6} {run : State → HalfId → BitVec 5 → Bank → Pos → Res} {b : Bank}
    {a : Option Bool} {x y : Cell} {l : List Cell} (hds : (s.bank h k).ds = y :: x :: l) (hl : l.length < 15)
    (hrun : run s h k (s.bank h k) (slotsOn (s.bank h k).resume 1) =
      .done { doneOf s b (slotsOn (s.bank h k).resume 1) with arith := a })
    (hc : exec c s = .next (runSlot s h ⟨code, .aLong, 2, 2, [0, 1], false, 1, run⟩)) :
    Retires c s h k b (slotsOn (s.bank h k).resume 1) (a.map fun z => ⟨(s.bank h k).resume, z, 0, 0⟩) :=
  attempt_plain r c simpleForm false noEnc _ _ _ _ hc rfl rfl rfl
    (stackFault_none _ 2 2 (by simp [hds]) (by simp [hds]; omega)) hrun

theorem udivm_retires (r : Ready s h k) {x y : Cell} {l : List Cell} (hds : (s.bank h k).ds = y :: x :: l) (hl : l.length < 15) :
    Retires (.udivm h) s h k { s.bank h k with ds := (divUnsigned x y).2 :: (divUnsigned x y).1 :: l } (slotsOn (s.bank h k).resume 1)
      (if y = 0 then some ⟨(s.bank h k).resume, true, 0, 0⟩ else none) := by
  have hret := attempt_div r (c := .udivm h) (code := 0o32) (run := runUdivm) (a := if y = 0 then some true else none)
    (b := { s.bank h k with ds := (divUnsigned x y).2 :: (divUnsigned x y).1 :: l }) hds hl (by simp [runUdivm, Bank.at, hds]) rfl
  rwa [apply_ite (Option.map _)] at hret

theorem divm_retires (r : Ready s h k) {x y : Cell} {l : List Cell} (hds : (s.bank h k).ds = y :: x :: l) (hl : l.length < 15) :
    Retires (.divm h) s h k
      { s.bank h k with ds := (divSigned x y).2 :: (divSigned x y).1 :: l,
                        status := if divOverflow x y then setBit (s.bank h k).status 33 true else (s.bank h k).status }
      (slotsOn (s.bank h k).resume 1)
      (if y = 0 then some ⟨(s.bank h k).resume, true, 0, 0⟩
       else if divOverflow x y && (s.bank h k).vtrap then some ⟨(s.bank h k).resume, false, 0, 0⟩ else none) := by
  have hret := attempt_div r (c := .divm h) (code := 0o31) (run := runDivm)
    (a := if y = 0 then some true else overArith (s.bank h k) (divOverflow x y))
    (b := { s.bank h k with ds := (divSigned x y).2 :: (divSigned x y).1 :: l,
                            status := if divOverflow x y then setBit (s.bank h k).status 33 true else (s.bank h k).status })
    hds hl (by simp [runDivm, Bank.at, hds, withCV_keeps]) rfl
  rw [overArith] at hret
  rwa [apply_ite (Option.map _), apply_ite (Option.map _)] at hret

end

/-- Settles O5: MUL pushes the halves of `mulWide`; the divisions are `udivm_retires` and `divm_retires`. -/
theorem multiplyAndDivide : Obligations.MultiplyAndDivide := by
  intro s h k x y l hs hl b dst hds
  have r := steady_ready hs
  have hds' : (s.bank h k).ds = y :: x :: l := hds
  refine ⟨?_, fun hy => ?_, fun hy => ?_⟩
  · refine attempt_simple r (code := 0o30) (pops := 2) rfl (by simp [hds']) (by simp [hds']; omega) ?_
    simp [Bank.at, hds', mulWide_low, mulWide_high]
  · have hu := udivm_retires r hds' hl
    have hd := divm_retires r hds' hl
    have hovf : divOverflow x y = false := by rw [hy, divOverflow_eq]; simp
    rw [if_pos hy] at hu hd
    rw [divUnsigned, if_pos hy] at hu
    rw [divSigned, if_pos hy, hovf] at hd
    exact ⟨hd, hu⟩
  · have hu := udivm_retires r hds' hl
    have hd := divm_retires r hds' hl
    rw [if_neg hy] at hu hd
    rw [divUnsigned, if_neg hy] at hu
    rw [divSigned, if_neg hy, sdiv_eq_tdiv, srem_eq_tmod, divOverflow_eq] at hd
    refine ⟨?_, ?_⟩
    · rwa [BitVec.udiv_def, BitVec.umod_def] at hu
    · simpa only [overflowTrap, decide_eq_true_eq, Bool.and_eq_true] using hd

/-! ## Return stack, depths, status, tenant and time latch (R103, R138, R139, R144; O7) -/

theorem returnFault_none (b : Bank) (pops pushes : Nat) (h1 : pops ≤ b.rs.length) (h2 : b.rs.length - pops + pushes ≤ 16) :
    returnFault b pops pushes = none := by
  simp [returnFault, Nat.not_lt.2 h1, Nat.not_lt.2 h2]

/-- The writable bits of a status cell are its bits from PREC up (R139). -/
theorem writableStatus_eq (c : Cell) : writableStatus c = c &&& 0o776000000000 := by
  refine BitVec.eq_of_getLsbD_eq fun i hi => ?_
  have hmask : (0o776000000000 : Cell).getLsbD i = decide (28 ≤ i) := by
    revert hi
    revert i
    decide
  rw [BitVec.getLsbD_and, hmask]
  by_cases h28 : 28 ≤ i
  · have hlt : ¬i < 28 := by omega
    have h8 : i - 28 < 8 := by omega
    simp [writableStatus, atBits, fld, hi, h28, hlt, h8]
  · have hlt : i < 28 := by omega
    simp [writableStatus, atBits, h28, hlt]

section
variable {s : State} {h : HalfId} {k : BitVec 5}

/-- TOR moves the top cell to the return stack (R103). -/
theorem tor_retires (r : Ready s h k) {x : Cell} {l : List Cell} (hds : (s.bank h k).ds = x :: l) (hl : l.length < 16)
    (hrs : (s.bank h k).rs.length < 16) :
    Retires (.tor h) s h k { s.bank h k with ds := l, rs := ⟨x, false⟩ :: (s.bank h k).rs } (slotsOn (s.bank h k).resume 1) := by
  refine attempt_plain r _ simpleForm false noEnc opTor _ _ none rfl rfl rfl rfl
    (stackFault_none _ 1 0 (by simp [hds]) (by simp [hds]; omega)) ?_
  simp only [opTor, runTor, returnFault_none (s.bank h k) 0 1 (Nat.zero_le _) hrs, Bank.at, hds]
  rfl

/-- FROMR moves an untagged entry of the return stack to the operand stack (R103). -/
theorem fromr_retires (r : Ready s h k) {x : Cell} {t : List TCell} (hrs : (s.bank h k).rs = ⟨x, false⟩ :: t) (ht : t.length < 16)
    (hl : (s.bank h k).ds.length < 16) :
    Retires (.fromr h) s h k { s.bank h k with ds := x :: (s.bank h k).ds, rs := t } (slotsOn (s.bank h k).resume 1) := by
  refine attempt_plain r _ simpleForm false noEnc opFromr _ _ none rfl rfl rfl rfl (stackFault_none _ 0 1 (Nat.zero_le _) hl) ?_
  simp only [opFromr, runFromr, returnFault_none (s.bank h k) 1 0 (by simp [hrs]) (by simp [hrs]; omega), hrs]
  rfl

/-- GETST pushes the status as it reads, and clears V (R139). -/
theorem getst_retires (r : Ready s h k) (hslot : (s.bank h k).resume.slot.toNat < 5) (hl : (s.bank h k).ds.length < 16) :
    Retires (.getst h) s h k
      { s.bank h k with ds := statusOf (s.half h) k :: (s.bank h k).ds, status := setBit (s.bank h k).status 33 false }
      (nextWord (s.bank h k).resume) :=
  attempt_plain r _ (selectorForm 0o75) false noEnc opGetst _ _ none rfl (decide_eq_true hslot) rfl rfl
    (stackFault_none _ 0 1 (Nat.zero_le _) hl) rfl

/-- SETST in warden mode writes the writable bits (R139). -/
theorem setst_retires (r : Ready s h k) (hslot : (s.bank h k).resume.slot.toNat < 5) {x : Cell} {l : List Cell}
    (hds : (s.bank h k).ds = x :: l) (hl : l.length < 16) (hw : stW (s.bank h k).status = true) :
    Retires (.setst h) s h k { s.bank h k with ds := l, status := x &&& 0o776000000000 } (nextWord (s.bank h k).resume) := by
  refine attempt_plain r _ (selectorForm 0o75) false (wardenEnc 0o21) opSetst _ _ none rfl (decide_eq_true hslot) (by simp [wardenEnc, hw])
    rfl (stackFault_none _ 1 0 (by simp [hds]) (by simp [hds]; omega)) ?_
  simp [opSetst, doneStack, doneBank, doneOf, Bank.at, hds, writableStatus_eq, selectorForm]

end

/-- Settles O7: the moves, GETST and SETST by their own lemmas; the other reads push a cell of the bank (`attempt_ext`). -/
theorem returnStackDepthsAndStatus : Obligations.ReturnStackDepthsAndStatus := by
  intro s h k x l hs hl
  have r := steady_ready hs
  refine ⟨fun hds hrs => tor_retires r hds hl hrs, fun t hds hrs ht => ?_,
    fun hslot hds => ⟨?_, ?_, ?_, ?_, ?_⟩, fun hslot hds hw => setst_retires r hslot hds hl hw⟩
  · subst hds
    exact fromr_retires r hrs ht hl
  all_goals subst hds
  · refine attempt_ext r (code := 0o14) (pops := 0) (pushes := 1) rfl hslot (Nat.zero_le _) hl ?_
    simp [cellOf]
  · refine attempt_ext r (code := 0o15) (pops := 0) (pushes := 1) rfl hslot (Nat.zero_le _) hl ?_
    simp [cellOf]
  · exact getst_retires r hslot hl
  · refine attempt_ext r (code := 0o32) (pops := 0) (pushes := 1) rfl hslot (Nat.zero_le _) hl ?_
    simp [atBits_zero]
  · exact attempt_ext r (code := 0o34) (pops := 0) (pushes := 1) (g := fun b => [b.latch]) rfl hslot (Nat.zero_le _) hl rfl

/-! ## Sealing (R146; O9) -/

@[simp] theorem setBit_same {w : Nat} (c : BitVec w) {n : Nat} (v : Bool) (hn : n < w) : (setBit c n v).getLsbD n = v := by
  rw [getLsbD_setBit c n v hn, if_pos rfl]

theorem setBit_ne {w : Nat} (c : BitVec w) {n i : Nat} (v : Bool) (hi : i ≠ n) : (setBit c n v).getLsbD i = c.getLsbD i := by
  by_cases hw : i < w
  · rw [getLsbD_setBit c n v hw, if_neg hi]
  · rw [BitVec.getLsbD_of_ge _ _ (Nat.le_of_not_lt hw), BitVec.getLsbD_of_ge _ _ (Nat.le_of_not_lt hw)]

/-- SEAL of a capability for instruction space makes an entry (R146). -/
theorem sealCap_entry (n : BitVec 2) {c : Cap} (wd : Bool) (ht : c.tag = true) (hs : c.space = spInstr) (hx : c.has pX = true) :
    sealCap n c wd = .ok { c with space := spSealed, perm := setBit (setBit c.perm pSE true) pWD wd } := by
  simp [sealCap, ht, hs, hx, spInstr, spSealed, spIo]

/-- SEAL of a capability for data space makes sealed data (R146). -/
theorem sealCap_data (n : BitVec 2) {c : Cap} (wd : Bool) (ht : c.tag = true) (hs : c.space = spData) :
    sealCap n c wd = .ok { c with space := spSealed, perm := setBit (setBit (setBit c.perm pX false) pSE false) pWD false } := by
  simp [sealCap, ht, hs, spData, spInstr, spSealed, spIo]

theorem unsealCap_sealed (n : BitVec 2) {c : Cap} (ht : c.tag = true) (hs : c.space = spSealed) :
    unsealCap n c = .ok { c with space := if c.has pX then spInstr else spData, perm := setBit (setBit c.perm pSE false) pWD false } := by
  simp [unsealCap, ht, hs]

section
variable {s : State} {h : HalfId} {k : BitVec 5}

/-- SEAL in warden mode puts the sealed capability in Cn (R146). -/
theorem seal_retires (r : Ready s h k) (hslot : (s.bank h k).resume.slot.toNat < 5) (hw : stW (s.bank h k).status = true)
    {n : BitVec 2} {wd : Cell} {l : List Cell} (hds : (s.bank h k).ds = n.setWidth 36 :: wd :: l) (hl : l.length ≤ 14) {c : Cap}
    (hc : sealCap n ((s.bank h k).cap n) (wd.getLsbD 0) = .ok c) :
    Retires (.seal h) s h k (({ s.bank h k with ds := l } : Bank).setCap n c) (nextWord (s.bank h k).resume) := by
  refine attempt_plain r _ (selectorForm 0o75) false (wardenEnc 0o40) opSeal _ _ none rfl (decide_eq_true hslot) (by simp [wardenEnc, hw])
    rfl (stackFault_none _ 2 0 (by simp [hds]) (by simp [hds]; omega)) ?_
  simp only [opSeal, runSeal, Bank.at, hds, List.getD_cons_zero, List.getD_cons_succ, capNo_setWidth, bit, hc]
  rfl

/-- UNSEAL in warden mode puts the unsealed capability in Cn (R146). -/
theorem unseal_retires (r : Ready s h k) (hslot : (s.bank h k).resume.slot.toNat < 5) (hw : stW (s.bank h k).status = true)
    {n : BitVec 2} {l : List Cell} (hds : (s.bank h k).ds = n.setWidth 36 :: l) (hl : l.length ≤ 14) {c : Cap}
    (hc : unsealCap n ((s.bank h k).cap n) = .ok c) :
    Retires (.unseal h) s h k (({ s.bank h k with ds := l } : Bank).setCap n c) (nextWord (s.bank h k).resume) := by
  refine attempt_plain r _ (selectorForm 0o75) false (wardenEnc 0o41) opUnseal _ _ none rfl (decide_eq_true hslot) (by simp [wardenEnc, hw])
    rfl (stackFault_none _ 1 0 (by simp [hds]) (by simp [hds]; omega)) ?_
  simp only [opUnseal, runUnseal, Bank.at, hds, List.getD_cons_zero, capNo_setWidth, hc]
  rfl

end

/-- Settles O9: the capability that SEAL or UNSEAL leaves is `sealCap` or `unsealCap` of Cn, read bit by bit. -/
theorem sealingAndUnsealing : Obligations.SealingAndUnsealing := by
  intro s h k n wd l hs hl b c hw hslot htag
  have r := steady_ready hs
  refine ⟨fun hds hspace hx => ⟨_, seal_retires r hslot hw hds hl (sealCap_entry n _ htag hspace hx), rfl, ?_, ?_, fun i hi => ?_, rfl⟩,
    fun hds hspace => ⟨_, seal_retires r hslot hw hds hl (sealCap_data n _ htag hspace), rfl, ?_, ?_, ?_, fun i hi h5 => ?_, rfl⟩,
    fun hds hspace => ⟨_, unseal_retires r hslot hw hds hl (unsealCap_sealed n htag hspace), rfl, ?_, ?_, fun i hi => ?_, rfl⟩⟩
  · exact (setBit_ne _ _ (by decide)).trans (setBit_same _ _ (by decide))
  · exact setBit_same _ _ (by decide)
  · simp only [pWD, pSE]
    rw [setBit_ne _ _ (by omega), setBit_ne _ _ (by omega)]
  · exact (setBit_ne _ _ (by decide)).trans ((setBit_ne _ _ (by decide)).trans (setBit_same _ _ (by decide)))
  · exact (setBit_ne _ _ (by decide)).trans (setBit_same _ _ (by decide))
  · exact setBit_same _ _ (by decide)
  · simp only [pWD, pSE, pX]
    rw [setBit_ne _ _ (by omega), setBit_ne _ _ (by omega), setBit_ne _ _ h5]
  · exact (setBit_ne _ _ (by decide)).trans (setBit_same _ _ (by decide))
  · exact setBit_same _ _ (by decide)
  · simp only [pWD, pSE]
    rw [setBit_ne _ _ (by omega), setBit_ne _ _ (by omega)]

end Sys2Proof.Machine

/-! # Returns, RETI and gates (R126, R140, R147, R161, R163-R166, R172, R215-R218; O13, O27, O28) -/

namespace Sys2Proof.Machine

/-! ## Fields of cells -/

theorem getLsbD_fld_atBits {w : Nat} (x : BitVec w) (up lo : Nat) {len i : Nat} (hi : i < len) (hl : lo + len ≤ 36) :
    (fld (atBits x up) lo len).getLsbD i = (decide (up ≤ lo + i) && x.getLsbD (lo + i - up)) := by
  have h36 : lo + i < 36 := by omega
  by_cases hu : lo + i < up
  · simp [fld, atBits, hi, hu, Nat.not_le.2 hu]
  · simp [fld, atBits, hi, h36, hu, Nat.not_lt.1 hu]

/-- A field reads what was put in its place (R12). -/
theorem fld_atBits {w : Nat} (x : BitVec w) (lo : Nat) (hl : lo + w ≤ 36) : fld (atBits x lo) lo w = x :=
  BitVec.eq_of_getLsbD_eq fun i hi => by
    rw [getLsbD_fld_atBits x lo lo hi hl, Nat.add_sub_cancel_left]
    simp

/-- A field reads nothing of what was put beside it (R12). -/
theorem fld_atBits_apart {w : Nat} (x : BitVec w) (up lo len : Nat) (hl : lo + len ≤ 36) (ha : up + w ≤ lo ∨ lo + len ≤ up) :
    fld (atBits x up) lo len = 0 :=
  BitVec.eq_of_getLsbD_eq fun i hi => by
    rw [getLsbD_fld_atBits x up lo hi hl]
    obtain h | h := ha
    · rw [BitVec.getLsbD_of_ge x _ (by omega)]
      simp
    · simp
      omega

theorem fld_or (x y : Cell) (lo len : Nat) : fld (x ||| y) lo len = fld x lo len ||| fld y lo len :=
  BitVec.eq_of_getLsbD_eq fun i hi => by simp [fld, hi]

/-- The two cells of a capability spell it (R51). -/
theorem capOf_cells (c : Cap) : capOf c.tag c.cell0 c.cell1 = c := by
  obtain ⟨t, sp, tn, base, gen, perm, len⟩ := c
  simp only [capOf, Cap.cell0, Cap.cell1, fld_or]
  simp [fld_atBits, fld_atBits_apart]

theorem entryMask_returnEntry (m : BitVec 5) (p : Pos) : entryMask (returnEntry m p) = m := by
  simp only [entryMask, returnEntry, fld_or]
  simp [fld_atBits, fld_atBits_apart]

theorem entryPos_returnEntry (m : BitVec 5) (p : Pos) : entryPos (returnEntry m p) = p := by
  simp only [entryPos, returnEntry, fld_or]
  simp [fld_atBits, fld_atBits_apart]

theorem bit_returnEntry (m : BitVec 5) (p : Pos) : bit (returnEntry m p) 32 = false := by
  simp [bit, returnEntry, atBits]

theorem badSlot_of_le {e : Cell} (he : (entryPos e).slot.toNat ≤ 5) : badSlot e = false := by
  have hlt : ¬6 ≤ (fld e 24 3).toNat := by
    have hle : (fld e 24 3).toNat ≤ 5 := he
    omega
  simp [badSlot, hlt]

/-! ## RET (R126, R163, R172; O13) -/

theorem afterReturn_none {b : Bank} (hb : b.levels = 0) : afterReturn b = b := by
  simp [afterReturn, hb]

/-- The cells that a mask bit saves of a capability, the last pushed first (R164). -/
def savedPair (m : BitVec 5) (n : Nat) (c : Cap) : List TCell := if bit m (n + 1) then [⟨c.cell1, c.tag⟩, ⟨c.cell0, c.tag⟩] else []

/-- The X that bit 0 of a mask saves (R164). -/
def savedX (m : BitVec 5) (x : Cell) : List TCell := if bit m 0 then [⟨x, false⟩] else []

theorem savedCells_reverse (b : Bank) (m : BitVec 5) : (savedCells b m).reverse =
    savedX m b.x ++ (savedPair m 3 b.c3 ++ (savedPair m 2 b.c2 ++ (savedPair m 1 b.c1 ++ savedPair m 0 b.c0))) := by
  simp only [savedCells, savedX, savedPair, bit, List.reverse_append, apply_ite List.reverse]
  rfl

theorem countTrue_cons (t : Bool) (l : List Bool) : countTrue (t :: l) = (if t then 1 else 0) + countTrue l := by
  cases t <;> simp [countTrue, Nat.add_comm]

theorem savedX_length (m : BitVec 5) (x : Cell) : (savedX m x).length = if bit m 0 then 1 else 0 := by
  unfold savedX; split <;> rfl

theorem savedPair_length (m : BitVec 5) (n : Nat) (c : Cap) : (savedPair m n c).length = 2 * if bit m (n + 1) then 1 else 0 := by
  unfold savedPair; split <;> rfl

theorem savedPair_set {m : BitVec 5} {n : Nat} (hm : bit m (n + 1) = true) (c : Cap) :
    savedPair m n c = [⟨c.cell1, c.tag⟩, ⟨c.cell0, c.tag⟩] := if_pos hm

/-- The depth of a saved pair counts what was pushed after it (R164). -/
theorem savedDepth_eq (m : BitVec 5) :
    savedDepth m 3 = (if bit m 0 then 1 else 0) + 1 ∧
    savedDepth m 2 = (if bit m 0 then 1 else 0) + (2 * if bit m (3 + 1) then 1 else 0) + 1 ∧
    savedDepth m 1 = (if bit m 0 then 1 else 0) + (2 * if bit m (3 + 1) then 1 else 0) + (2 * if bit m (2 + 1) then 1 else 0) + 1 ∧
    savedDepth m 0 = (if bit m 0 then 1 else 0) + (2 * if bit m (3 + 1) then 1 else 0) + (2 * if bit m (2 + 1) then 1 else 0) +
      (2 * if bit m (1 + 1) then 1 else 0) + 1 := by
  have hr : List.range 4 = [0, 1, 2, 3] := rfl
  have hnil : countTrue [] = 0 := rfl
  simp only [savedDepth, hr, List.map_cons, List.map_nil, countTrue_cons, hnil, Nat.reduceLT, decide_true, decide_false, Bool.true_and,
    Bool.false_and, Bool.false_eq_true, if_false]
  omega

section
variable {b saved : Bank} {m : BitVec 5} {e p q : TCell} {t l : List TCell}

theorem ret_beneath (hrs : b.rs = e :: (l ++ (p :: q :: t))) {i : Nat} (hi : i = l.length + 1) : b.ret i = p ∧ b.ret (i + 1) = q := by
  subst hi
  simp [Bank.ret, hrs]

/-- A saved register lies with its second cell at `savedDepth`, and is restored from there (R126, R164). -/
theorem restored_of_saved (hrs : b.rs = e :: ((savedCells saved m).reverse ++ t)) :
    (∀ c, restoredCap b m 0 c = if bit m 1 then saved.c0 else c) ∧ (∀ c, restoredCap b m 1 c = if bit m 2 then saved.c1 else c) ∧
    (∀ c, restoredCap b m 2 c = if bit m 3 then saved.c2 else c) ∧ (∀ c, restoredCap b m 3 c = if bit m 4 then saved.c3 else c) ∧
    ∀ n < 4, mixedPair b m n = false := by
  have at_ (n : Nat) (c : Cap) (above below : List TCell) (hd : savedDepth m n = above.length + 1)
      (hrs : b.rs = e :: (above ++ (savedPair m n c ++ below))) :
      (∀ c', restoredCap b m n c' = if bit m (n + 1) then c else c') ∧ mixedPair b m n = false := by
    by_cases hm : bit m (n + 1) = true
    · rw [savedPair_set hm] at hrs
      obtain ⟨h1, h0⟩ := ret_beneath hrs hd
      simp [restoredCap, mixedPair, hm, h1, h0, capOf_cells]
    · simp [restoredCap, mixedPair, hm]
  obtain ⟨d3, d2, d1, d0⟩ := savedDepth_eq m
  rw [savedCells_reverse] at hrs
  have r0 := at_ 0 saved.c0 (savedX m saved.x ++ (savedPair m 3 saved.c3 ++ (savedPair m 2 saved.c2 ++ savedPair m 1 saved.c1))) t
    (by simp only [d0, List.length_append, savedX_length, savedPair_length]; omega) (by simp [hrs])
  have r1 := at_ 1 saved.c1 (savedX m saved.x ++ (savedPair m 3 saved.c3 ++ savedPair m 2 saved.c2)) (savedPair m 0 saved.c0 ++ t)
    (by simp only [d1, List.length_append, savedX_length, savedPair_length]; omega) (by simp [hrs])
  have r2 := at_ 2 saved.c2 (savedX m saved.x ++ savedPair m 3 saved.c3) (savedPair m 1 saved.c1 ++ (savedPair m 0 saved.c0 ++ t))
    (by simp only [d2, List.length_append, savedX_length, savedPair_length]) (by simp [hrs])
  have r3 := at_ 3 saved.c3 (savedX m saved.x) (savedPair m 2 saved.c2 ++ (savedPair m 1 saved.c1 ++ (savedPair m 0 saved.c0 ++ t)))
    (by simp only [d3, savedX_length]) (by simp [hrs])
  refine ⟨r0.1, r1.1, r2.1, r3.1, fun n hn => ?_⟩
  obtain rfl | rfl | rfl | rfl : n = 0 ∨ n = 1 ∨ n = 2 ∨ n = 3 := by omega
  exacts [r0.2, r1.2, r2.2, r3.2]

/-- What RET pops and restores after a call that saved under its mask (R126). -/
theorem popSaved_saved (hrs : b.rs = e :: ((savedCells saved m).reverse ++ t)) :
    popSaved b m = { b with
      c0 := if m.getLsbD 1 then saved.c0 else b.c0, c1 := if m.getLsbD 2 then saved.c1 else b.c1,
      c2 := if m.getLsbD 3 then saved.c2 else b.c2, c3 := if m.getLsbD 4 then saved.c3 else b.c3,
      x := if m.getLsbD 0 then saved.x else b.x, rs := t } := by
  obtain ⟨h0, h1, h2, h3, -⟩ := restored_of_saved hrs
  have hx : (if bit m 0 then (b.ret 1).val else b.x) = if bit m 0 then saved.x else b.x := by
    split
    · next hm =>
      rw [savedCells_reverse, savedX, if_pos hm] at hrs
      simp [Bank.ret, hrs]
    · rfl
  have hdrop : b.rs.drop (maskEntries m + 1) = t := by
    rw [hrs, maskEntries_eq saved m, List.drop_succ_cons, List.drop_left' (by simp)]
  simp only [popSaved, h0, h1, h2, h3, hx, hdrop]
  rfl

end

section
variable {s : State} {h : HalfId} {k : BitVec 5}

/-- RET through an entry whose mask saved what lies beneath it (R126). -/
theorem runRet_done {b saved : Bank} {m : BitVec 5} {p dst : Pos} {t : List TCell}
    (hrs : b.rs = returnCell m p :: ((savedCells saved m).reverse ++ t)) (hlen : b.rs.length ≤ 16) (hp : p.slot.toNat ≤ 5)
    (hex : executable s h b.pcc p.addr.toNat = true) :
    runRet s h k b dst = .done { doneOf s (afterReturn (popSaved b m)) p with taken := true } := by
  have htop : b.ret 0 = TCell.plain (returnEntry m p) := by simp [Bank.ret, hrs, returnEntry_eq]
  have hpos := entryPos_returnEntry m p
  have hlen' : maskEntries m + 1 ≤ b.rs.length := by
    rw [hrs, maskEntries_eq saved m]
    simp
  obtain ⟨-, -, -, -, hmixed⟩ := restored_of_saved hrs
  have hfind : (List.range 4).find? (mixedPair b m) = none :=
    List.find?_eq_none.2 fun n hn => by simp [hmixed n (List.mem_range.1 hn)]
  have hslot : badSlot (returnEntry m p) = false := badSlot_of_le (by rw [hpos]; exact hp)
  simp only [runRet, returnFault_none b 1 0 (by omega) (by omega), htop, TCell.plain, entryMask_returnEntry, bit_returnEntry, hslot,
    Bool.or_self, Bool.false_eq_true, if_false, returnFault_none b (maskEntries m + 1) 0 hlen' (by omega), hpos,
    (executable_iff ..).1 hex, hfind]

end

/-- Settles O13: RET's effect is `runRet_done`, and what it pops is `popSaved_saved`. -/
theorem returnRestoresWhatWasSaved : Obligations.ReturnRestoresWhatWasSaved := by
  intro s h k m p saved t hs b back hrs hlen hds hp hex hlev
  have r := steady_ready hs
  refine attempt_taken r _ simpleForm false noEnc opRet _ _ rfl rfl rfl rfl (stackFault_none _ 0 0 (Nat.zero_le _) hds) ?_
  rw [show opRet.run = runRet from rfl, runRet_done hrs hlen hp hex, popSaved_saved hrs, afterReturn_none]
  exact hlev

/-! ## RETI (R140, R161, R166; O27) -/

theorem unwind_unchained {s : State} {h : HalfId} (hc : (s.ex h).chain = []) : unwind s h = s := by
  simp [unwind, hc]

theorem debugReturn_none {s : State} {h : HalfId} (k : BitVec 5) (hd : (s.ex h).dbgFrames = []) : debugReturn s h k = s := by
  unfold debugReturn
  refine onEx_self ?_
  rw [hd]

section
variable {s : State} {h : HalfId} {k : BitVec 5}

/-- RETI with no link of the chain and no DEBUG frame leaves the bank that it restores, and nothing else changed (R140, R416). -/
theorem attempt_reti (r : Ready s h k) {c : Instr} {f : Form} {rep : Bool} {enc : BitVec 5 → Bank → Option FaultInfo} {o : Op}
    {b : Bank} {p : Pos} (hc : exec c s = .next (attempt s h f rep enc o)) (hf : f.fits (s.bank h k).resume = true)
    (he : enc k (s.bank h k) = none) (hi : o.isolated = false) (hst : stackFault (s.bank h k) o.pops o.pushes = none)
    (hrun : o.run s h k (s.bank h k) (f.next (s.bank h k).resume) = .done { doneOf s b p with taken := true, after := .unwind })
    (hchain : (s.ex h).chain = []) (hdbg : (s.ex h).dbgFrames = []) : Jumps c s h k b p := by
  obtain ⟨two, g, l, e⟩ := attempt_retires r (rep := rep) hf he (fun hiso => absurd (hi.symm.trans hiso) (by decide)) hst hrun rfl
    r.items rfl rfl rfl rfl
  obtain ⟨hbank, harith, m⟩ := slotDone_unmoved s h k { b with resume := p } (s.bank h k).resume two none g l r.noData
  refine ⟨_, hc.trans (congrArg Host.Outcome.next (e.trans ?_)), hbank, harith, m⟩
  show unwind (retireClose (debugReturn (slotDone s h k { b with resume := p } (s.bank h k).resume two none g l) h k) h false) h = _
  rw [debugReturn_none k (by rw [m.ex]; exact hdbg), retireClose_none _ h (noClose_of_unmoved r.noClose m),
    unwind_unchained (by rw [m.ex]; exact hchain)]

/-- RETI's effect with the frame on top, of the reserve first (R140, R161). -/
theorem runReti_done {used : Nat} {b : Bank} {dst : Pos} {pe se : Cell} (htop : topFrame b = .ok (pe, se)) (hpe : bit pe 32 = true)
    (hp : (entryPos pe).slot.toNat ≤ 5) (hex : executable s h b.pcc (entryPos pe).addr.toNat = true) (hlev : b.levels = 0)
    (hchain : (s.ex h).chain = []) (hesc : bit (s.ex h).escSrc 34 = false) :
    runReti used s h k b dst = .done { doneOf s { popFrame b with
      status := restoredStatus b.status se, repActive := bit se 24, repLeft := if bit se 24 then fld se 0 24 else 0 } (entryPos pe) with
      taken := true, after := .unwind } := by
  have hlev' : (popFrame b).levels = 0 := by unfold popFrame; split <;> exact hlev
  simp only [runReti, htop, hpe, badSlot_of_le hp, Bool.not_true, Bool.or_self, Bool.false_eq_true, if_false,
    (executable_iff ..).1 hex, hchain, List.isEmpty_nil, if_true, popsEscalated, hesc, Bool.false_and]
  rw [afterReturn_none]
  exact hlev'

end

theorem writableStatus_shift (c : Cell) : writableStatus c = (c >>> 28) <<< 28 := by
  refine BitVec.eq_of_getLsbD_eq fun i hi => ?_
  by_cases h28 : i < 28
  · simp [writableStatus, atBits, h28]
  · have h8 : i - 28 < 8 := by omega
    simp [writableStatus, atBits, fld, hi, h28, h8]

/-- Settles O27: the frame on top is that of the reserve, or of the cache where the reserve is empty; the rest is `attempt_reti`. -/
theorem retiRestoresTheFrame : Obligations.RetiRestoresTheFrame := by
  intro s h k used pe se t hs b c back p hslot hds hlev hchain hdbg hesc hpe hp hex
  have r := steady_ready hs
  have hstack := stackFault_none (s.bank h k) 0 0 (Nat.zero_le _) hds
  have hstatus : restoredStatus (s.bank h k).status se = back.status := by
    simp only [restoredStatus, writableStatus_shift]
    rfl
  have jumps (b' : Bank) (htop : topFrame (s.bank h k) = .ok (pe, se)) (hb : { popFrame (s.bank h k) with
      status := restoredStatus (s.bank h k).status se, repActive := bit se 24, repLeft := if bit se 24 then fld se 0 24 else 0 } = b') :
      Jumps (.reti h used) s h k b' p := by
    refine attempt_reti r rfl (decide_eq_true hslot) rfl rfl hstack (f := selectorForm 0o75) (o := opReti used) ?_ hchain hdbg
    subst hb
    exact runReti_done (dst := nextWord (s.bank h k).resume) htop hpe hp hex hlev hchain hesc
  refine ⟨fun hrv hrs => jumps _ ?_ ?_, fun hrv => jumps _ ?_ ?_⟩
  · simp [topFrame, show (s.bank h k).rv = [] from hrv, show (s.bank h k).rs = _ from hrs, TCell.plain]
  · have hpop : popFrame (s.bank h k) = { s.bank h k with rs := t } := by
      simp [popFrame, show (s.bank h k).rv = [] from hrv, show (s.bank h k).rs = _ from hrs]
    rw [hpop, hstatus]
    rfl
  · simp [topFrame, show (s.bank h k).rv = _ from hrv, TCell.plain]
  · have hpop : popFrame (s.bank h k) = { s.bank h k with rv := t } := by
      simp [popFrame, show (s.bank h k).rv = _ from hrv]
    rw [hpop, hstatus]
    rfl

/-! ## Gates (R147, R215-R218; O28) -/

theorem capReg_cases (n : BitVec 2) : n = 0 ∨ n = 1 ∨ n = 2 ∨ n = 3 := by
  revert n; decide

theorem setCap_status (b : Bank) (n : BitVec 2) (c : Cap) : (b.setCap n c).status = b.status := by
  obtain rfl | rfl | rfl | rfl := capReg_cases n <;> rfl

section
variable {s : State} {h : HalfId} {k : BitVec 5}

/-- The sealed data of an entry's tenant beside Cn is unsealed, whatever a gate puts in Cn and on the stacks (R216). -/
theorem unsealBeside_setCap (b : Bank) (n : BitVec 2) (c : Cap) (t : BitVec 10) (ds : List Cell) (rs : List TCell) :
    let d := b.cap (n ^^^ 1)
    let opened : Bank := if d.tag = true ∧ d.space = spSealed ∧ d.has pX = false ∧ d.has pSE = false ∧ d.tenant = t
      then b.setCap (n ^^^ 1) { d with space := spData } else b
    unsealBeside (({ b with ds := ds, rs := rs } : Bank).setCap n c) n t = { opened.setCap n c with ds := ds, rs := rs } := by
  intro d opened
  have hbeside : (({ b with ds := ds, rs := rs } : Bank).setCap n c).cap (n ^^^ 1) = d := by
    obtain rfl | rfl | rfl | rfl := capReg_cases n <;> rfl
  have hcond : (d.isSealedData && d.tenant == t) = true ↔
      d.tag = true ∧ d.space = spSealed ∧ d.has pX = false ∧ d.has pSE = false ∧ d.tenant = t := by
    simp [Cap.isSealedData, and_assoc]
  simp only [unsealBeside, hbeside, opened, hcond]
  split <;>
  · obtain rfl | rfl | rfl | rfl := capReg_cases n <;> rfl

/-- A one-word fetch at offset 0 of a sealed entry that the capability grants (R54, R147). -/
theorem checkCinv_none {n : BitVec 2} {c : Cap} (hg : grants s h c spSealed pSE 0 1 = true) (hm : codeMapped s h c.base.toNat = 0) :
    checkCinv s h n c = none := by
  simp only [grants, Bool.and_eq_true, beq_iff_eq, decide_eq_true_eq] at hg
  obtain ⟨⟨⟨⟨htag, hspace⟩, hgen⟩, hperm⟩, hlen⟩ := hg
  have hst : capStatus c (s.genOk h c) ⟨n.setWidth 3, spSealed, pSE, false, 1⟩ 0 false = 0 := by
    simp [capStatus, htag, hspace, hgen, hperm, Nat.not_lt.2 hlen]
  simp [checkCinv, hst, hm]

/-- CINV through an entry (R216, R219). -/
theorem cinvEntry_done {b : Bank} {n : BitVec 2} {c : Cap} (hw : c.tenant ≠ 0 → c.has pWD = false ∧ stW b.status = false) :
    let d := b.cap (n ^^^ 1)
    let opened : Bank := if d.tag = true ∧ d.space = spSealed ∧ d.has pX = false ∧ d.has pSE = false ∧ d.tenant = c.tenant
      then b.setCap (n ^^^ 1) { d with space := spData } else b
    cinvEntry s h k b n c = .done { doneOf s { opened.setCap n (returnCap b.pcc (stW b.status)) with
      ds := b.ds.drop 1, pcc := entryPcc c
      rs := TCell.plain (returnEntry 0 (nextWord b.resume)) ::
        TCell.plain (statusEntry (b.status ||| atBit (rkoBit (s.half h) k) 27) false 0) :: b.rs
      status := setBit b.status 35 (c.has pWD) } ⟨c.base, 0⟩ with taken := true } := by
  intro d opened
  have hcross : ¬(c.tenant ≠ 0 ∧ (c.has pWD || stW b.status) = true) := fun ⟨hne, hor⟩ => by
    obtain ⟨h1, h2⟩ := hw hne
    simp [h1, h2] at hor
  simp only [cinvEntry, if_neg hcross, unsealBeside_setCap, transfer, setCap_status, apply_ite Bank.status, ite_self]
  rfl

/-- CINV through a return capability (R218). -/
theorem cinvReturn_done {b : Bank} {n : BitVec 2} {c : Cap} {e st : TCell} {t : List TCell} (hrs : b.rs = e :: st :: t)
    (hbit : bit e.val 32 = false) (hmask : entryMask e.val = 0) (hp : (entryPos e.val).slot.toNat ≤ 5)
    (hex : executable s h (returnPcc c) (entryPos e.val).addr.toNat = true) :
    cinvReturn s h b n c = .done { doneOf s (({ b with
      ds := b.ds.drop 1, rs := t, pcc := returnPcc c, status := cinvStatus b.status (c.has pWD) st.val } : Bank).setCap n Cap.zero)
      (entryPos e.val) with taken := true } := by
  have h0 : b.ret 0 = e := by simp [Bank.ret, hrs]
  have h1 : b.ret 1 = st := by simp [Bank.ret, hrs]
  have hdrop : b.rs.drop 2 = t := by simp [hrs]
  simp [cinvReturn, h0, h1, hdrop, hbit, hmask, badSlot_of_le hp, (executable_iff ..).1 hex]

/-- CINV of a register that grants its call retires as its gate says (R147). -/
theorem cinv_jumps (r : Ready s h k) (hslot : (s.bank h k).resume.slot.toNat < 5) {n : BitVec 2} {l : List Cell}
    (hds : (s.bank h k).ds = n.setWidth 36 :: l) (hl : l.length < 16) {c : Cap} (hcap : (s.bank h k).cap n = c)
    (hg : grants s h c spSealed pSE 0 1 = true) (hm : codeMapped s h c.base.toNat = 0)
    (hstack : cinvStack (s.bank h k) c.isReturn = none) {b : Bank} {p : Pos}
    (hrun : (if c.isReturn then cinvReturn s h (s.bank h k) n c else cinvEntry s h k (s.bank h k) n c) =
      .done { doneOf s b p with taken := true }) : Jumps (.cinv h) s h k b p := by
  refine attempt_taken r _ (selectorForm 0o75) false noEnc opCinv _ _ rfl (decide_eq_true hslot) rfl rfl
    (stackFault_none _ 1 0 (by simp [hds]) (by simp [hds]; omega)) ?_
  have hno : capNo ((s.bank h k).at 0) = some n := by simp [Bank.at, hds, capNo_setWidth]
  simp only [opCinv, runCinv, cinvReturns, hno, hcap, hstack, checkCinv_none hg hm, hrun]

end

/-- Replacing a capability register leaves the rest of a bank. -/
theorem setCap_with (b : Bank) (n : BitVec 2) (c : Cap) (ds : List Cell) (rs : List TCell) (pcc : Cap) (st : Cell) :
    ({ b with ds := ds, rs := rs, pcc := pcc, status := st } : Bank).setCap n c =
      { b.setCap n c with ds := ds, rs := rs, pcc := pcc, status := st } := by
  obtain rfl | rfl | rfl | rfl := capReg_cases n <;> rfl

/-- Settles O28: through an entry by `cinvEntry_done`, through a return capability by `cinvReturn_done`. -/
theorem gatesEnterAndReturn : Obligations.GatesEnterAndReturn := by
  intro s h k n l hs hl b c d hslot hds hg hm
  have r := steady_ready hs
  have hdrop : (s.bank h k).ds.drop 1 = l := by simp [show (s.bank h k).ds = _ from hds]
  have hgate : c.space = spSealed ∧ c.has pSE = true := by
    simp only [grants, Bool.and_eq_true, beq_iff_eq, decide_eq_true_eq] at hg
    exact ⟨hg.1.1.1.2, hg.1.2⟩
  obtain ⟨hspace, hse⟩ := hgate
  refine ⟨fun hx hrs hw => ?_, fun e st t hx hrs hlen hbit hmask => ?_⟩
  · have hret : c.isReturn = false := by simp [Cap.isReturn, hx]
    have hdone := cinvEntry_done (s := s) (h := h) (k := k) (n := n) hw
    rw [hdrop] at hdone
    refine cinv_jumps r hslot hds hl rfl hg hm ?_ ?_
    · rw [hret]
      exact returnFault_none b 0 2 (Nat.zero_le _) (by omega)
    · rw [hret]
      exact hdone
  · intro p pcc hp hex
    have hret : c.isReturn = true := by simp [Cap.isReturn, hx, hspace, hse]
    have hdone := cinvReturn_done (s := s) (h := h) (n := n) (c := c) hrs hbit hmask hp hex
    rw [hdrop, setCap_with] at hdone
    refine cinv_jumps r hslot hds hl rfl hg hm ?_ ?_
    · rw [hret]
      exact returnFault_none b 2 0 (by simp [hrs]) (by omega)
    · rw [hret]
      exact hdone

end Sys2Proof.Machine

/-! # Retirement in general, and the close that follows it (R182, R191, R194, R243-R249, R281) -/

namespace Sys2Proof.Machine

/-! ## The slot of a retirement, whatever waits and whatever it stores (R191, R194, R247) -/

section
variable {s t u v : State} {h : HalfId} {k : BitVec 5}

/-- A retired slot is signed, its data there or awaited, and counted (R247). -/
theorem retireSlot_retag (s : State) (h : HalfId) (p : Pos) (b : Bank) : ∃ sig items, retireSlot s h p b =
    (perfCount s h 0o02).onWin h fun w => w.retag sig items (w.slots + 1) (w.replayPos + 1) := by
  simp only [retireSlot, ← perfCount_onWin]
  exact ⟨_, _, congrArg (perfCount · h 0o02) (onWin_congr (by rfl))⟩

/-- The counts of a slot, and of a pair where it is the second, reach only performance counters (R342). -/
theorem perfCount_pair (s : State) (h : HalfId) (two : Bool) : ∃ u,
    u = (if two then perfCount (perfCount s h 0o02) h 0o03 else perfCount s h 0o02) ∧ PerfOnly s u h ∧
    ((∀ n < 4, (perfVal (s.half h).mem n).toNat + 2 < 2 ^ 36) → u.evc = s.evc) := by
  have one (hv : ∀ n < 4, (perfVal (s.half h).mem n).toNat + 2 < 2 ^ 36) : (perfCount s h 0o02).evc = s.evc :=
    perfCount_evc s h 0o02 fun n hn => by have := hv n hn; omega
  refine ⟨_, rfl, ?_, ?_⟩
  · cases two
    · exact perfCount_only s h 0o02
    · exact (perfCount_only s h 0o02).trans (perfCount_only _ h 0o03)
  · intro hv
    cases two
    · exact one hv
    · refine Eq.trans (perfCount_evc _ h 0o03 fun n hn => ?_) (one hv)
      have hlt := hv n hn
      obtain e | e := perfCount_val s h 0o02 n hn
      · rw [e]; omega
      · rw [e, BitVec.toNat_add, show (1 : Cell).toNat = 1 from rfl]; omega

/-- The state of a retirement at its boundary: its bank, a pending ARITH, its stores in the buffer, and nothing else. -/
structure AtBoundary (s v : State) (h : HalfId) (k : BitVec 5) (wr : Writer) (d : Done) (p : Pos) : Prop where
  bank : v.bank h k = d.lands p
  arith : (v.ex h).arith = d.arith.map fun z => ⟨p, z, 0, 0⟩
  unmoved : Unmoved (s.onWin h (Windows.takeAll wr d.snap d.stores)) v h k

/-- An instruction of one slot retires: what it leaves at its boundary, before what follows it (R182, R194, R247). -/
theorem retire_boundary (s : State) (h : HalfId) (k : BitVec 5) (wr : Writer) (p : Pos) (d : Done) (hn : (s.ex h).arith = none)
    (hiter : d.iter = none) (hgroup : d.group = false) (joined : Bool) (g : Group) :
    ∃ v, retire s h k wr p d joined g = afterRetire v h k p d ∧ AtBoundary s v h k wr d p := by
  have hleads : d.leads = false := by simp [Done.leads, hiter]
  obtain ⟨q, hq⟩ : ∃ q : Bank × Pos, q = (if d.taken then (d.b, d.dst) else sequential d.b p d.dst) := ⟨_, rfl⟩
  have hlands : ({ q.1 with resume := q.2 } : Bank) = d.lands p := by
    subst hq
    unfold Done.lands landed
    cases d.taken <;> rfl
  have hsign : signSlots (s.setBank h k { q.1 with resume := q.2 }) h p { d with b := q.1 } =
      retireSlot (s.setBank h k (d.lands p)) h p (d.lands p) := by
    rw [← hlands]
    simp only [signSlots, hgroup, hiter, Bool.false_eq_true, if_false]
    rfl
  obtain ⟨sig, items, hslot⟩ := retireSlot_retag (s.setBank h k (d.lands p)) h p (d.lands p)
  obtain ⟨sig', items', hput⟩ := putStores_retag (retireSlot (s.setBank h k (d.lands p)) h p (d.lands p)) h wr d.snap d.stores
  obtain ⟨u, hu, hperf, hevc⟩ := perfCount_pair (s.setBank h k (d.lands p)) h joined
  have hcounted : (if joined then perfCount (putStores (retireSlot (s.setBank h k (d.lands p)) h p (d.lands p)) h wr d.snap d.stores) h 0o03
      else putStores (retireSlot (s.setBank h k (d.lands p)) h p (d.lands p)) h wr d.snap d.stores) =
      u.onWin h fun w => (w.takeAll wr d.snap d.stores).retag sig' items' (w.slots + 1) (w.replayPos + 1) := by
    have hretag (w : Windows) : ((w.retag sig items (w.slots + 1) (w.replayPos + 1)).takeAll wr d.snap d.stores).retag sig' items'
        (w.slots + 1) (w.replayPos + 1) = (w.takeAll wr d.snap d.stores).retag sig' items' (w.slots + 1) (w.replayPos + 1) := by
      rw [takeAll_retag]
      rfl
    rw [hput, hslot, onWin_onWin, perfCount_onWin, ← onWin_ite, hu]
    simp only [← hretag]
    rfl
  have hh := hperf.half
  have ho := hperf.other
  have hb := hperf.block
  rw [half_setBank] at hh
  rw [half_setBank_other] at ho
  have hex : (u.ex h).arith = none := by
    rw [ex_eq, hh]
    simpa [ex_eq] using hn
  have harith (y : State) (hy : (y.ex h).arith = (u.ex h).arith) :
      arithRetire (y.ex h).arith joined p d = d.arith.map fun z => ⟨p, z, 0, 0⟩ := by
    simp only [arithRetire, hy, hex, hleads, hgroup, hiter, Bool.false_eq_true, if_false]
    cases d.arith <;> rfl
  obtain ⟨w, hw⟩ : ∃ w, w = u.onWin h fun w => (w.takeAll wr d.snap d.stores).retag sig' items' (w.slots + 1) (w.replayPos + 1) :=
    ⟨_, rfl⟩
  refine ⟨(w.onHalf h fun x => { x with line := if d.taken then x.line.transfer q.2.addr else x.line.step q.2.addr }).onEx h fun e =>
    { e with arith := d.arith.map fun z => ⟨p, z, 0, 0⟩
             groupOpen := if joined || d.leads || d.taken || !(q.2.addr == p.addr || (s.half h).line.holds q.2.addr) then none else some g
             dbgSkip := false }, ?_, ?_, ?_, ?_⟩
  · unfold retire
    rw [← hq]
    simp only [hleads, Bool.or_false] at hcounted ⊢
    rw [hsign, hcounted, ← hw]
    refine congrArg (afterRetire · h k p d) ?_
    rw [← harith w (by rw [hw]; simp)]
    cases h <;> rfl
  · simp only [hw, State.bank, Half.bank, half_onEx, half_onHalf, half_onWin]
    rw [hh]
    simp
  · simp
  · subst hw
    refine ⟨fun j hj => ?_, ?_, ?_, fun hv => ?_, ?_, ?_, ?_, ?_⟩
    · have hjk : j.toNat ≠ k.toNat := fun e => hj (BitVec.eq_of_toNat_eq e)
      simp only [State.bank, Half.bank, half_onEx, half_onHalf, half_onWin]
      rw [hh]
      simp [sget_sput_ne _ _ _ _ _ hjk]
    · simpa using ho
    · generalize hy : s.onWin h (Windows.takeAll wr d.snap d.stores) = y
      have hb' := congrArg (fun x : State => ({ x with h0 := y.h0, h1 := y.h1, evc := y.evc } : State)) hb
      refine Eq.trans ?_ (hb'.trans ?_)
      · cases h <;> rfl
      · subst hy
        cases h <;> rfl
    · have := hevc (by simpa using hv)
      simpa using this
    · simp only [ex_eq, half_onEx, half_onHalf, half_onWin]
      rw [hh]
    · simp only [half_onEx, half_onHalf, half_onWin]
      rw [hh]
      show ((s.half h).win.takeAll wr d.snap d.stores).retag sig' items' _ _ = _
      rw [takeAll_keeps]
      rfl
    · simp only [half_onEx, half_onHalf, half_onWin]
      rw [hh]
    · simp only [half_onEx, half_onHalf, half_onWin, ex_eq]
      rw [hh]

end

/-! ## The governor and the schedule of a half, which no close touches (R40, R243, R281, R362) -/

/-- The energy governor and the schedule of a half. -/
def State.course (s : State) (g : HalfId) : Gov × Sched := ((s.half g).gov, (s.half g).sch)

theorem course_of_units {s t : State} {g : HalfId} (e : t.units g = s.units g) : t.course g = s.course g :=
  congrArg (fun x : Units => (x.gov, x.sch)) e

theorem course_of_half {s t : State} {g : HalfId} (e : t.half g = s.half g) : t.course g = s.course g :=
  course_of_units (units_of_half e)

section
variable (s : State) (h g : HalfId)

@[simp] theorem course_onWin (f : Windows → Windows) : (s.onWin h f).course g = s.course g := course_of_units (units_onWin ..)
@[simp] theorem course_onEx (f : Exec → Exec) : (s.onEx h f).course g = s.course g := course_of_units (units_onEx ..)
@[simp] theorem course_onTal (f : Tally → Tally) : (s.onTal h f).course g = s.course g := course_of_units (units_onTal ..)
@[simp] theorem course_onMem (f : MemUnit → MemUnit) : (s.onMem h f).course g = s.course g := course_of_units (units_onMem ..)
@[simp] theorem course_onDbgHalf (f : DbgHalf → DbgHalf) : (s.onDbgHalf h f).course g = s.course g :=
  course_of_units (units_onDbgHalf ..)
@[simp] theorem course_onRkn (f : Reckoner → Reckoner) : (s.onRkn h f).course g = s.course g := by cases h <;> cases g <;> rfl
@[simp] theorem course_onSpn (f : SpanEnd → SpanEnd) : (s.onSpn h f).course g = s.course g := by cases h <;> cases g <;> rfl
@[simp] theorem course_block (evc mbx host crd cht rollback store mct flt vlt rng dbk prt dbg keep tick bnd ram nvm free messages
    pending) : State.course ⟨s.h0, s.h1, evc, mbx, host, crd, cht, rollback, store, mct, flt, vlt, rng, dbk, prt, dbg, keep, tick, bnd,
      ram, nvm, free, messages, pending⟩ g = s.course g := course_of_units (units_block ..)
@[simp] theorem course_raiseSource (n : Nat) : (raiseSource s n).course g = s.course g := course_of_half (raiseSource_half ..)
@[simp] theorem course_raiseHalf (n : Nat) : (raiseHalf s h n).course g = s.course g := course_raiseSource ..
@[simp] theorem course_storeAdd (p : StoreProg) : (storeAdd s p).course g = s.course g := course_of_units (units_storeAdd ..)
@[simp] theorem course_reportHalf (u : DbkUnit) (cls : BitVec 5) (ctx : Option (BitVec 5)) (l : Option Lane) (c2 c3 : Cell) :
    (reportHalf s h u cls ctx l c2 c3).course g = s.course g := course_of_units (units_reportHalf ..)
@[simp] theorem course_perfCount (c : BitVec 6) : (perfCount s h c).course g = s.course g := course_of_units (units_perfCount ..)
@[simp] theorem course_ite {c : Prop} [Decidable c] {a b : State} :
    (if c then a else b).course g = if c then a.course g else b.course g := apply_ite (State.course · g) ..

theorem course_foldl {β : Type} {f : State → β → State} {g : HalfId} (hf : ∀ t x, (f t x).course g = t.course g) (l : List β) (t : State) :
    (l.foldl f t).course g = t.course g := foldl_keeps (fun t => t.course g) hf l t

/-! ### Memory -/

@[simp] theorem course_perfAccess (a : Addr) (reads : Bool) : (perfAccess s a reads).course g = s.course g := by
  simp only [perfAccess]
  split <;> simp
@[simp] theorem course_keyUse (t : BitVec 10) : (keyUse s h t).course g = s.course g := by simp [keyUse]
@[simp] theorem course_nvmFail (a : Addr) : (nvmFail s h a).course g = s.course g := by simp [nvmFail]
@[simp] theorem course_sramRead (a : Addr) (r : ReadOutcome) : (sramRead s h a r).1.course g = s.course g := by
  simp only [sramRead, sramFail]
  split <;> simp
@[simp] theorem course_nvmRead (a : Addr) (t : BitVec 10) (r : ReadOutcome) : (nvmRead s h a t r).1.course g = s.course g := by
  simp only [nvmRead]
  (repeat' split) <;> simp [*]
@[simp] theorem course_homeRead (a : Addr) (t : BitVec 10) (r : ReadOutcome) : (homeRead s a t r).1.course g = s.course g := by
  simp only [homeRead]
  split <;> simp
@[simp] theorem course_lockedDiscard (line : Nat) (t : BitVec 10) : (lockedDiscard s h line t).course g = s.course g := by
  simp [lockedDiscard]
@[simp] theorem course_mergeWrite (a : Addr) (t : BitVec 10) (c : TCell) : (mergeWrite s h a t c).course g = s.course g := by
  simp only [mergeWrite, mergeAllocate, otherDue]
  (repeat' split) <;> simp [*]
@[simp] theorem course_homeWrite (a : Addr) (t : BitVec 10) (c : TCell) : (homeWrite s a t c).course g = s.course g := by
  simp only [homeWrite, sramWrite, ramWrite]
  split <;> simp
@[simp] theorem course_homeWrites (l : List (Addr × BitVec 10 × TCell)) : (homeWrites s l).course g = s.course g := by
  have hwrite (l : List (Addr × BitVec 10 × TCell)) (t : State) : (writeEach t l).course g = t.course g := by
    induction l generalizing t with
    | nil => rfl
    | cons e l ih => exact (ih _).trans (course_homeWrite ..)
  have haccess := course_foldl (f := fun s (x : Addr × BitVec 10 × TCell) => perfAccess s x.1 false) (g := g) (by simp)
  simp only [homeWrites, homeWritesMeet, hwrite, meetLine, mendLines]
  (repeat' split) <;> simp [haccess]
@[simp] theorem course_unitWrite (c : BitVec 6) (w : Addr × BitVec 10 × TCell) : (unitWrite h c s w).course g = s.course g := by
  simp only [unitWrite]
  split <;> simp

/-! ### Completions -/

@[simp] theorem course_ringRead (a : Nat) (t : BitVec 10) : (ringRead s h a t).1.course g = s.course g := by
  grind [ringRead, course_homeRead, course_perfAccess, course_block]
@[simp] theorem course_ringLose : (ringLose s h).course g = s.course g := by simp [ringLose]
@[simp] theorem course_ringPut (t : BitVec 10) (a : Nat) (l : List Cell) : (ringPut s t a l).course g = s.course g := by
  simp [ringPut]

/-- What a ring writer does with a cell that it has read, or without one. -/
theorem course_read {p : State × Option Cell} {f : State → Cell → State} {x : Gov × Sched} (hp : p.1.course g = x)
    (hf : ∀ t v, t.course g = x → (f t v).course g = x) :
    (match p with
     | (s, none) => ringLose s h
     | (s, some v) => f s v).course g = x := by
  obtain ⟨t, _ | v⟩ := p
  · exact (course_ringLose ..).trans hp
  · exact hf t v hp

@[simp] theorem course_completionRing (t : BitVec 10) (e : List Cell) : (completionRing s h t e).course g = s.course g := by
  refine course_read h g (course_ringRead ..) fun u d hu => ?_
  dsimp only
  split
  · exact (course_ringLose ..).trans hu
  refine course_read h g ((course_ringRead ..).trans hu) fun v wc hv => ?_
  refine course_read h g ((course_ringRead ..).trans hv) fun w rc hw => ?_
  split
  · exact course_read h g ((course_ringRead ..).trans hw) fun x drops hx => (course_ringPut ..).trans hx
  · simpa using hw
@[simp] theorem course_deliver (st : Stamp) (kind : BitVec 4) (id c2 c3 : Cell) (src : Nat) :
    (deliver s st kind id c2 c3 src).course g = s.course g := by simp [deliver]
@[simp] theorem course_completeCmd (c : RkCmd) : (completeCmd h s c).course g = s.course g := by
  have hwrites := course_foldl (f := unitWrite h c.stamp.ctx) (g := g) fun _ _ => course_unitWrite ..
  simp only [completeCmd, course_deliver, fillSlot]
  (repeat' split) <;> simp [hwrites]
@[simp] theorem course_completeFinished (num : Cell) : (completeFinished s h num).course g = s.course g :=
  course_foldl (fun _ _ => course_completeCmd ..) _ s
@[simp] theorem course_gensApply (p : SbEntry → Bool) : (gensApply s h p).course g = s.course g :=
  course_foldl (fun _ _ => by split <;> simp) _ s

/-! ### Closes -/

@[simp] theorem course_atClose : (atClose s h).course g = s.course g := by
  have hown : (ownApply s h).course g = s.course g := by
    simp only [ownApply]
    split <;> simp
  simp only [atClose, injectStart, course_of_units (units_tryHalt ..), course_of_units (units_fenceAct ..), course_onTal,
    course_of_units (units_pllClose ..), hown]

/-- No close touches the governor and the schedule. -/
@[simp] theorem course_closeRaw (forced : Bool) : (closeRaw s h forced).course g = s.course g := by
  have hstep (t : State) : (stepClose t h).course g = t.course g := course_of_units (units_stepClose ..)
  have hprt (t : State) : (prtAfterClose t h).course g = t.course g := course_of_units (units_prtAfterClose ..)
  simp only [closeRaw, stepSpend]
  (repeat' split) <;> simp [hstep, hprt]

end

end Sys2Proof.Machine

/-! # Instructions that close the window (R243, R244, R263, R264, R281) -/

namespace Sys2Proof.Machine

/-! ## A close in any mode -/

/-- What the close of a window that holds a slot leaves. -/
structure Follows (s t : State) (h : HalfId) : Prop where
  kept : ClosedOver s t h
  num : (t.half h).win.num = (s.half h).win.num + 1
  slots : (t.half h).win.slots = 0
  acts : (t.half h).win.acts = (s.half h).win.acts
  ticks : (t.half h).win.ticks = (s.half h).win.ticks
  agreed : s.runMode h = mReading → (t.half h).win.closed = (s.half h).win.closed
  sb : s.runMode h ≠ mReading → (t.half h).win.sb = (s.half h).win.sb
  ex : ∃ m b p, t.ex h = { s.ex h with mode := m, modeBefore := b, onPll := p, flevelEff := (s.ex h).flevel }
  gov : (t.half h).gov = (s.half h).gov
  sch : (t.half h).sch = (s.half h).sch
  spn : s.runMode h ≠ mReading → (t.half h).spn = (s.half h).spn

section
variable {s t u v : State} {h : HalfId} {k : BitVec 5}

/-- The close of a window out of READING-ROOM leaves the end of the span alone. -/
theorem spn_closeRaw (s : State) (h : HalfId) (forced : Bool) (hm : s.runMode h ≠ mReading) :
    ((closeRaw s h forced).half h).spn = (s.half h).spn := by
  have hown (x : State) : ((ownApply x h).half h).spn = (x.half h).spn := by
    simp only [ownApply]
    split <;> simp
  have hunits {x y : State} (e : x.units h = y.units h) : (x.half h).spn = (y.half h).spn := congrArg Units.spn e
  have hat (x : State) : ((atClose x h).half h).spn = (x.half h).spn := by
    simp only [atClose, injectStart]
    rw [hunits (units_tryHalt ..), hunits (units_fenceAct ..), hunits (units_onTal ..), hunits (units_pllClose ..), hown]
  obtain ⟨-, hr⟩ := still_close s h
  simp only [closeRaw, hr, if_neg hm]
  split
  · rfl
  · rw [hat]
    exact hunits (by simp)

theorem ex_of_still (e : (t.still h).ex = { (s.still h).ex with flevelEff := (s.ex h).flevel }) :
    ∃ m b p, t.ex h = { s.ex h with mode := m, modeBefore := b, onPll := p, flevelEff := (s.ex h).flevel } := by
  refine ⟨(t.ex h).mode, (t.ex h).modeBefore, (t.ex h).onPll, ?_⟩
  have := congrArg (fun x : Exec => { x with mode := (t.ex h).mode, modeBefore := (t.ex h).modeBefore, onPll := (t.ex h).onPll }) e
  exact this

theorem closeRaw_follows (hb : (s.half h).win.blank = false) : Follows s (closeRaw s h false) h := by
  have hcourse := course_closeRaw s h h false
  have hgov : ((closeRaw s h false).half h).gov = (s.half h).gov := congrArg Prod.fst hcourse
  have hsch : ((closeRaw s h false).half h).sch = (s.half h).sch := congrArg Prod.snd hcourse
  by_cases hm : s.runMode h = mReading
  · obtain ⟨m, r, e⟩ := closeRaw_reading hb hm false
    have hwin : ((closeRaw s h false).half h).win = { (agreeAll (s.half h).win).opened with mark := m, log := [] } :=
      congrArg Still.win e
    refine ⟨closeRaw_closedOver s h false, ?_, ?_, ?_, ?_, fun _ => ?_, absurd hm, ex_of_still (congrArg Still.ex e), hgov, hsch,
      absurd hm⟩ <;> rw [hwin] <;> rfl
  · obtain ⟨c, n, -, -, e⟩ := closeRaw_logged hb hm false
    have hwin : ((closeRaw s h false).half h).win =
      { (s.half h).win.opened with closed := (s.half h).win.closed ++ [c], prtCloses := n } := congrArg Still.win e
    refine ⟨closeRaw_closedOver s h false, ?_, ?_, ?_, ?_, (absurd · hm), fun _ => ?_, ex_of_still (congrArg Still.ex e), hgov, hsch,
      fun _ => spn_closeRaw s h false hm⟩ <;> rw [hwin] <;> rfl

/-- A close at the end of an instruction, with nothing to enter before it (R107, R225). -/
theorem retireClose_falls {close : Bool} (hc : close = true ∨ 64 ≤ (s.half h).win.logged) (hopen : closeBlocked s h = false)
    (ha : (s.ex h).arith = none) (hr : (s.ex h).reads = []) : retireClose s h close = settled (closeRaw s h false) h := by
  have hdue : (close || replayCloses (s.half h).win || (s.half h).win.closeDue || decide (64 ≤ (s.half h).win.logged) || prtForces s h ||
      stepDue s h) = true := by
    obtain rfl | hl := hc
    · simp
    · simp [hl]
  simp only [retireClose, hdue, if_true, hopen, Bool.false_eq_true, if_false, closeNow, beforeClose_none ha hr, Option.getD_none]

/-- A half at a boundary where its window may close, with nothing that waits for the close or comes before it. -/
structure Closable (s : State) (h : HalfId) : Prop where
  blank : (s.half h).win.blank = false
  open_ : closeBlocked s h = false
  arith : (s.ex h).arith = none
  reads : (s.ex h).reads = []
  acts : (s.half h).win.acts = []
  ticks : (s.half h).win.ticks = []
  resets : (s.ex h).rstPend = []

/-- A close after which nothing waits for the agreement of its window. -/
theorem Closable.falls (a : Closable s h) {close : Bool} (hc : close = true ∨ 64 ≤ (s.half h).win.logged) :
    retireClose s h close = closeRaw s h false := by
  have f := closeRaw_follows a.blank
  obtain ⟨m, b, p, hex⟩ := f.ex
  rw [retireClose_falls hc a.open_ a.arith a.reads, settled_nothing (f.acts.trans a.acts) (by rw [hex]; exact a.resets)
    (by simp [f.ticks, a.ticks])]

/-! ## Instructions of a ready half that retire in any way -/

/-- What an instruction of a ready half changes before it retires lets a close fall, and leaves nothing that waits for one. -/
structure Poised (s u : State) (h : HalfId) : Prop where
  num : (u.half h).win.num = (s.half h).win.num
  closed : (u.half h).win.closed = (s.half h).win.closed
  acts : (u.half h).win.acts = []
  ticks : (u.half h).win.ticks = []
  reads : (u.ex h).reads = []
  arith : (u.ex h).arith = none
  resets : (u.ex h).rstPend = []
  mode : u.runMode h = s.runMode h

theorem Ready.poised (r : Ready s h k) : Poised s s h := ⟨rfl, rfl, r.acts, r.ticks, r.reads, r.arith, r.resets, rfl⟩

/-- What changes no more than the log of the window lets a close fall. -/
theorem Ready.poised_of_log (r : Ready s h k) (hex : u.ex h = s.ex h)
    (hlog : ∃ log n, (u.half h).win = { (s.half h).win with log := log, logged := n }) : Poised s u h := by
  obtain ⟨log, n, hwin⟩ := hlog
  refine ⟨?_, ?_, ?_, ?_, ?_, ?_, ?_, ?_⟩
  · rw [hwin]
  · rw [hwin]
  · rw [hwin]; exact r.acts
  · rw [hwin]; exact r.ticks
  · rw [hex]; exact r.reads
  · rw [hex]; exact r.arith
  · rw [hex]; exact r.resets
  · unfold State.runMode State.mode
    rw [hex]

theorem Requested.poised (q : Requested s u h) (r : Ready s h k) : Poised s u h := r.poised_of_log q.ex q.win

theorem Poised.open_ (q : Poised s u h) (r : Ready s h k) : closeBlocked u h = false := by
  have hroom : (s.half h).win.closed.length + 1 ≤ 4 := r.closed
  simp [closeBlocked, closeRoom, q.closed, hroom, q.reads]

/-- An instruction of a ready half retires one slot, with what it stores, and what follows it comes (R101, R182). -/
theorem attempt_boundary (r : Ready s h k) {f : Form} {rep : Bool} {enc : BitVec 5 → Bank → Option FaultInfo} {o : Op} {d : Done}
    (hf : f.fits (s.bank h k).resume = true) (he : enc k (s.bank h k) = none) (hi : o.isolated = true → freshWindow s h)
    (hst : stackFault (s.bank h k) o.pops o.pushes = none)
    (hrun : o.run s h k (s.bank h k) (f.next (s.bank h k).resume) = .done d)
    (hopen : d.close = true → closeBlocked d.s h = false) (harith : (d.s.ex h).arith = none) (hfault : d.after.faults = false)
    (hover : storesOverflow (s.half h).win d.stores = false) (hfit : storesFit s h d.stores = true)
    (hiter : d.iter = none) (hgroup : d.group = false) :
    ∃ v, attempt s h f rep enc o = afterRetire v h k (s.bank h k).resume d ∧
      AtBoundary (keepLoads s d.s h k) v h k (writerOf s h k) d (s.bank h k).resume := by
  have hkeep : ((keepLoads s d.s h k).ex h).arith = none := by
    unfold keepLoads
    split <;> simpa using harith
  obtain ⟨v, hv, b⟩ := retire_boundary (keepLoads s d.s h k) h k (writerOf s h k) (s.bank h k).resume d hkeep hiter hgroup
    (joins (s.ex h) (s.bank h k) o) (o.groupOf (s.bank h k))
  refine ⟨v, Eq.trans ?_ hv, b⟩
  have hblocked : (d.close && closeBlocked d.s h) = false := by
    cases hc : d.close
    · rfl
    · exact hopen hc
  rw [attempt_ready r, hf, he]
  show issue s h k (writerOf s h k) (s.bank h k) o (f.next (s.bank h k).resume) (s.bank h k).resume = _
  rw [issue_settles r _ hi, runChecked_ready r hst, hrun]
  simp [settle, hover, retireOrWait, hfault, hblocked, r.arith, hfit]

/-- What an instruction that closes its window leaves beside its bank, its stores and the memories. -/
structure Leaves (u t : State) (h : HalfId) : Prop where
  ex : ∃ m b p f l a g, t.ex h = { u.ex h with
    mode := m, modeBefore := b, onPll := p, flevelEff := f, banks := l, arith := a, groupOpen := g, dbgSkip := false }
  gov : (t.half h).gov = (u.half h).gov
  sch : (t.half h).sch = (u.half h).sch
  spn : u.runMode h ≠ mReading → (t.half h).spn = (u.half h).spn

/-- The boundary of an instruction that has a slot and leaves no ARITH waiting. -/
theorem AtBoundary.closable {wr : Writer} {d : Done} {p : Pos} (b : AtBoundary u v h k wr d p) (q : Poised s u h) (r : Ready s h k)
    (harith : d.arith = none) : Closable v h := by
  have m := b.unmoved
  have hwin : ((u.onWin h (Windows.takeAll wr d.snap d.stores)).half h).win =
      { (u.half h).win with sb := ((u.half h).win.takeAll wr d.snap d.stores).sb,
                            stores := ((u.half h).win.takeAll wr d.snap d.stores).stores } := by
    rw [half_onWin]
    exact takeAll_keeps ..
  have hex : (v.ex h).reads = [] ∧ (v.ex h).rstPend = [] := by
    rw [m.ex]
    simpa using And.intro q.reads q.resets
  refine ⟨?_, ?_, b.arith.trans (by rw [harith]; rfl), hex.1, ?_, ?_, hex.2⟩
  · rw [m.win]
    simp [Windows.blank]
  · have hclosed : (v.half h).win.closed = (s.half h).win.closed := by rw [m.win, hwin]; exact q.closed
    have hroom : (s.half h).win.closed.length + 1 ≤ 4 := r.closed
    simp [closeBlocked, closeRoom, hclosed, hroom, hex.1]
  · rw [m.win, hwin]; exact q.acts
  · rw [m.win, hwin]; exact q.ticks

/-- A boundary at which a window closes. -/
theorem AtBoundary.closes {wr : Writer} {d : Done} {p : Pos} (b : AtBoundary u v h k wr d p) (q : Poised s u h) (r : Ready s h k)
    (harith : d.arith = none) {close : Bool} (hc : close = true ∨ 64 ≤ (v.half h).win.logged) : Follows v (retireClose v h close) h := by
  have c := b.closable q r harith
  rw [c.falls hc]
  exact closeRaw_follows c.blank

theorem takeAll_win (u : State) (h : HalfId) (wr : Writer) (snap : Option CapSnap) (l : List StoreCell) :
    ((u.onWin h (Windows.takeAll wr snap l)).half h).win = { (u.half h).win with
      sb := ((u.half h).win.takeAll wr snap l).sb, stores := ((u.half h).win.takeAll wr snap l).stores } := by
  rw [half_onWin]
  exact takeAll_keeps ..

/-- What the close of a boundary leaves of the block as the instruction has it. -/
theorem AtBoundary.leaves {wr : Writer} {d : Done} {p : Pos} (b : AtBoundary u v h k wr d p) (a : Follows v t h) : Leaves u t h := by
  have m := b.unmoved
  have hmode : v.runMode h = u.runMode h := by
    rw [m.runMode]
    cases h <;> rfl
  obtain ⟨x, y, z, hex⟩ := a.ex
  refine ⟨⟨x, y, z, (v.ex h).flevel, (v.ex h).banks, (v.ex h).arith, (v.ex h).groupOpen, ?_⟩, ?_, ?_, fun hm => ?_⟩
  · have hv := m.ex
    rw [ex_onWin] at hv
    rw [hex, hv]
  · rw [a.gov, m.rest]; simp
  · rw [a.sch, m.rest]; simp
  · rw [a.spn (by rwa [hmode]), m.rest]; simp

/-- What a retirement that closes its window leaves, as the claims have it: of `u`, the bank in place of context k's. -/
structure ClosesAs (s u t : State) (h : HalfId) (k : BitVec 5) (b : Bank) (dst : Pos) : Prop where
  bank : t.bank h k = landed b (s.bank h k).resume dst
  banks : ∀ j, j ≠ k → t.bank h j = u.bank h j
  far : ∀ j, t.bank h.other j = u.bank h.other j
  num : (t.half h).win.num = (s.half h).win.num + 1
  slots : (t.half h).win.slots = 0
  kept : s.mode h ≠ mReading → (t.half h).win.sb = (u.half h).win.sb ∧ t.ram = u.ram ∧ t.nvm = u.nvm

theorem ClosesAs.retires {c : Instr} {b : Bank} {dst : Pos} {P : State → Prop} (a : ClosesAs s u t h k b dst) (hc : exec c s = .next t)
    (hP : P t) : RetiresClosing c s u h k b dst P := ⟨t, hc, a.bank, a.banks, a.far, a.num, a.slots, a.kept, hP⟩

/-- A close at the boundary of an instruction. -/
theorem AtBoundary.closesAs {wr : Writer} {d : Done} (b : AtBoundary u v h k wr d (s.bank h k).resume)
    (a : Follows v t h) (r : Ready s h k) (q : Poised s u h) (ht : d.taken = false) :
    ClosesAs s (u.onWin h (Windows.takeAll wr d.snap d.stores)) t h k d.b d.dst := by
  have m := b.unmoved
  have hwin := takeAll_win u h wr d.snap d.stores
  have hmode : v.runMode h = s.mode h := by
    rw [m.runMode, ← r.runMode, ← q.mode]
    cases h <;> rfl
  refine ⟨?_, fun j hj => ?_, fun j => ?_, ?_, a.slots, fun hm => ⟨?_, ?_, ?_⟩⟩
  · rw [a.kept.bank, b.bank, Done.lands, ht]
    rfl
  · rw [a.kept.bank, m.banks j hj]
  · rw [a.kept.bank_other, m.bank_other]
  · rw [a.num, m.win, hwin]
    exact congrArg (· + 1) q.num
  · rw [a.sb (by rwa [hmode]), m.win]
  · rw [a.kept.ram (by rwa [hmode])]
    exact (congrArg State.ram m.block :)
  · rw [a.kept.nvm]
    exact (congrArg State.nvm m.block :)

/-- An instruction of a ready half that closes its window retires one slot, with what it stores (R194, R243). -/
theorem attempt_closing (r : Ready s h k) {c : Instr} {f : Form} {rep : Bool} {enc : BitVec 5 → Bank → Option FaultInfo} {o : Op}
    {b : Bank} {dst : Pos} {snap : Option CapSnap} {l : List StoreCell}
    (hc : exec c s = .next (attempt s h f rep enc o)) (hf : f.fits (s.bank h k).resume = true)
    (he : enc k (s.bank h k) = none) (hi : o.isolated = true → freshWindow s h) (hst : stackFault (s.bank h k) o.pops o.pushes = none)
    (hrun : o.run s h k (s.bank h k) (f.next (s.bank h k).resume) = .done { doneStores u b dst snap l with close := true })
    (q : Poised s u h) (hover : storesOverflow (s.half h).win l = false) (hfit : storesFit s h l = true) :
    RetiresClosing c s (u.onWin h (Windows.takeAll (writerOf s h k) snap l)) h k b dst (Leaves u · h) := by
  obtain ⟨v, hv, hb⟩ := attempt_boundary r (rep := rep) hf he hi hst hrun (fun _ => q.open_ r) q.arith rfl hover hfit rfl rfl
  have hkeep : keepLoads s u h k = u := by simp [keepLoads, q.reads]
  rw [show ({ doneStores u b dst snap l with close := true } : Done).s = u from rfl, hkeep] at hb
  have a := hb.closes q r rfl (.inl rfl)
  exact (hb.closesAs a r q rfl).retires (hc.trans (congrArg Host.Outcome.next hv)) (hb.leaves a)

/-- The state that the banks, the store buffer and the memories are compared with may be replaced by one that agrees in them. -/
theorem RetiresClosing.congr {c : Instr} {b : Bank} {dst : Pos} {P : State → Prop} (a : RetiresClosing c s u h k b dst P)
    (hb : ∀ g, (u.ex g).banks = (v.ex g).banks) (hsb : (u.half h).win.sb = (v.half h).win.sb) (hram : u.ram = v.ram)
    (hnvm : u.nvm = v.nvm) : RetiresClosing c s v h k b dst P := by
  obtain ⟨t, he, hbank, hbanks, ho, hn, hs, hm, hP⟩ := a
  refine ⟨t, he, hbank, fun j hj => ?_, fun j => ?_, hn, hs, fun hmode => ?_, hP⟩
  · rw [hbanks j hj, bank_of_banks (hb h)]
  · rw [ho j, bank_of_banks (hb _)]
  · rw [← hsb, ← hram, ← hnvm]
    exact hm hmode

/-- A change of the half's window that spares its store buffer is not seen in what the claims compare. -/
theorem RetiresClosing.of_onWin {c : Instr} {b : Bank} {dst : Pos} {P : State → Prop} {f : Windows → Windows}
    (a : RetiresClosing c s (u.onWin h f) h k b dst P) (hf : ∀ w, (f w).sb = w.sb) : RetiresClosing c s u h k b dst P := by
  refine a.congr (fun g => by rw [ex_onWin]) ?_ ?_ ?_
  · rw [half_onWin]
    exact hf _
  · cases h <;> rfl
  · cases h <;> rfl

end

end Sys2Proof.Machine

/-! # Revocation and leases (R143, R148, R264, R297, R373, R391; O21, O29) -/

namespace Sys2Proof.Machine

section
variable {s t u : State} {h : HalfId} {k : BitVec 5}

theorem selectorForm_fits {p : Pos} (hp : p.slot.toNat < 5) (opcode : BitVec 6) : (selectorForm opcode).fits p = true :=
  roomFor_of_lt (by omega)

/-! ## CREVOKE (R148, R297; O29) -/

/-- The youngest generation in the buffer is the tenant's (R148). -/
theorem genOf_buffered {e : SbEntry} {l : List SbEntry} {x : BitVec 10} {g : BitVec 4} (hsb : (t.half h).win.sb = l ++ [e])
    (ht : e.target = .gen x g) (ha : e.agreed = false) : t.genOf h x = g := by
  simp [State.genOf, pendingGens, hsb, ht, ha]

/-- An instruction may change the execution state beside what a close looks at. -/
theorem onEx_poised (r : Ready s h k) {f : Exec → Exec} (hf : ∀ e, (f e).reads = e.reads ∧ (f e).arith = e.arith ∧ (f e).rstPend = e.rstPend ∧
    (f e).mode = e.mode ∧ (f e).modeBefore = e.modeBefore) : Poised s (s.onEx h f) h := by
  obtain ⟨hreads, harith, hrst, hm, hb⟩ := hf (s.ex h)
  refine ⟨?_, ?_, ?_, ?_, ?_, ?_, ?_, ?_⟩
  · simp
  · simp
  · simpa using r.acts
  · simpa using r.ticks
  · simpa [hreads] using r.reads
  · simpa [harith] using r.arith
  · simpa [hrst] using r.resets
  · unfold State.runMode State.mode
    simp [hm, hb]

/-- A change of the execution state that moves no bank is not seen in what the claims compare. -/
theorem RetiresClosing.of_onEx {c : Instr} {b : Bank} {dst : Pos} {P : State → Prop} {f : Exec → Exec} {w : Windows → Windows}
    (hf : ∀ e, (f e).banks = e.banks) (a : RetiresClosing c s ((s.onEx h f).onWin h w) h k b dst P) :
    RetiresClosing c s (s.onWin h w) h k b dst P := by
  refine a.congr (fun g => ?_) ?_ ?_ ?_
  · cases h <;> cases g
    · exact hf _
    · rfl
    · rfl
    · exact hf _
  · simp
  · cases h <;> rfl
  · cases h <;> rfl

/-- Settles O29. -/
theorem revocationAdvancesTheGeneration : Obligations.RevocationAdvancesTheGeneration := by
  intro s h k x l hs hl b g hslot hw hds hroom
  have r := steady_ready hs
  have hfit := selectorForm_fits hslot 0o75
  have henc : wardenEnc 0o43 k b = none := by simp [wardenEnc, hw]
  have hst : stackFault b 1 0 = none := stackFault_none b 1 0 (by simp [hds]) (by simpa [hds] using hl)
  have hx : (x.setWidth 36 : Cell).toNat < 1024 := by
    have := x.isLt
    simp only [BitVec.toNat_setWidth]
    omega
  have hfld : (fld (x.setWidth 36 : Cell) 0 10 : BitVec 10) = x := by
    apply BitVec.eq_of_getLsbD_eq
    intro i hi
    simp [fld, hi, show i < 36 by omega]
  have hg : (atBits g 0 : Cell) = g.setWidth 36 := by simp [atBits]
  have hat : b.at 0 = x.setWidth 36 := by simp [Bank.at, hds]
  have hdrop : ({ b with ds := b.ds.drop 1 } : Bank) = { b with ds := l } := by simp [hds]
  refine ⟨fun hh => ?_, fun hh hspan => ?_⟩
  · have hrun : runCrevoke s h k b (nextWord b.resume) =
        .done { doneStores s { b with ds := l } (nextWord b.resume) none [⟨.gen x g, g.setWidth 36, false, .single⟩] with close := true } := by
      simp only [runCrevoke, hat, Nat.not_le.2 hx, if_false, hfld, hh, if_true, hdrop]
      rw [← hg]
      rfl
    have a := attempt_closing r (c := .crevoke h) (rep := false) rfl hfit henc (fun hi => absurd hi (by decide)) hst hrun r.poised
      (storesOverflow_of_room hroom (by simp)) (storesFit_of_room hroom (by simp))
    rw [buffered_eq s h k none _ (by simp [StoreCell.hits]) (by simp)] at a
    obtain ⟨t, he, hb, hbanks, ho, hn, hz, hm, -⟩ := a
    refine ⟨t, he, hb, hbanks, ho, hn, hz, hm, fun hmode => ?_⟩
    obtain ⟨hsb, -, -⟩ := hm hmode
    rw [buffered, half_onWin] at hsb
    exact genOf_buffered hsb rfl rfl
  · have hrun : runCrevoke s h k b (nextWord b.resume) =
        .done { doneStores (s.onEx h fun e => { e with revoking := some x }) { b with ds := l } (nextWord b.resume) none
          [⟨.genAsk x, 0, false, .single⟩] with close := true } := by
      simp only [runCrevoke, hat, Nat.not_le.2 hx, if_false, hfld, hh, hspan, Bool.not_true, Bool.false_eq_true, hdrop]
      rfl
    have a := attempt_closing r (c := .crevoke h) (rep := false) rfl hfit henc (fun hi => absurd hi (by decide)) hst hrun
      (onEx_poised r fun _ => ⟨rfl, rfl, rfl, rfl, rfl⟩) (storesOverflow_of_room hroom (by simp)) (storesFit_of_room hroom (by simp))
    rw [← show s.onWin h (Windows.takeAll (writerOf s h k) none [⟨.genAsk x, 0, false, .single⟩]) =
      buffered s h k none [(.genAsk x, 0, false, .single)] from buffered_eq s h k none _ (by simp [StoreCell.hits]) (by simp)]
    refine (RetiresClosing.of_onEx (by intro _; rfl) a).mono fun t ht => ?_
    obtain ⟨_, _, _, _, _, _, _, hex⟩ := ht.ex
    rw [hex]
    simp

/-! ## Isolated requests (R264) -/

theorem Requested.logInput (q : Requested s u h) (kind : LogKind) (req : Cell) (ctx : BitVec 5) (isolated : Bool) (v0 v1 : Cell) :
    Requested s (logInput u h kind req ctx isolated v0 v1) h := by
  obtain ⟨log, n, hwin⟩ := q.win
  obtain ⟨log', n', hlog⟩ := logInput_win u h kind req ctx isolated v0 v1
  refine ⟨?_, ⟨log', n', by rw [hlog, hwin]⟩, ?_, ?_, ?_⟩
  · simpa [Machine.logInput] using q.ex
  · simpa [Machine.logInput] using q.other
  · exact Eq.trans (by cases h <;> rfl) q.ram
  · exact Eq.trans (by cases h <;> rfl) q.nvm

/-- An isolated request is made, logged and its window closed (R263, R264). -/
theorem attempt_isolated (r : Ready s h k) {c : Instr} {f : Form} {rep : Bool} {enc : BitVec 5 → Bank → Option FaultInfo} {o : Op}
    {b : Bank} {dst : Pos} (hc : exec c s = .next (attempt s h f rep enc o)) (hf : f.fits (s.bank h k).resume = true)
    (he : enc k (s.bank h k) = none) (hi : freshWindow s h) (hst : stackFault (s.bank h k) o.pops o.pushes = none)
    (q : Requested s u h)
    (hrun : o.run s h k (s.bank h k) (f.next (s.bank h k).resume) = .done { doneOf u b dst with close := true }) :
    RetiresClosing c s s h k b dst fun t => (t.half h).gov = (u.half h).gov ∧ (t.half h).sch = (u.half h).sch := by
  have a := attempt_closing r (snap := none) (l := []) hc hf he (fun _ => hi) hst hrun (q.poised r) (by simp [storesOverflow])
    (by simp [storesFit])
  obtain ⟨log, n, hwin⟩ := q.win
  refine (a.congr (fun g => ?_) ?_ ?_ ?_).mono fun t ht => ⟨ht.gov, ht.sch⟩
  · obtain rfl | rfl : g = h ∨ g = h.other := by cases g <;> cases h <;> simp [HalfId.other]
    · simp [q.ex]
    · rw [ex_eq, half_onWin_other]
      exact congrArg (fun x : Half => x.ex.banks) q.other
  · rw [half_onWin]
    show (u.half h).win.sb = _
    rw [hwin]
  · exact Eq.trans (by cases h <;> rfl) q.ram
  · exact Eq.trans (by cases h <;> rfl) q.nvm

/-! ## LEASE and UNLEASE (R143, R264, R373, R391; O21) -/

/-- The block with the governor and the schedule of a half replaced. -/
def onCourse (s : State) (h : HalfId) (x : Gov × Sched) : State := s.onHalf h fun y => { y with gov := x.1, sch := x.2 }

theorem onCourse_self (s : State) (h : HalfId) : onCourse s h (s.course h) = s := by cases h <;> rfl
@[simp] theorem half_onCourse (s : State) (h : HalfId) (x : Gov × Sched) :
    (onCourse s h x).half h = { s.half h with gov := x.1, sch := x.2 } := by cases h <;> rfl
@[simp] theorem onGov_onCourse (s : State) (h : HalfId) (x : Gov × Sched) (f : Gov → Gov) :
    (onCourse s h x).onGov h f = onCourse s h (f x.1, x.2) := by cases h <;> rfl
@[simp] theorem onSch_onCourse (s : State) (h : HalfId) (x : Gov × Sched) (f : Sched → Sched) :
    (onCourse s h x).onSch h f = onCourse s h (x.1, f x.2) := by cases h <;> rfl

/-- A change of the governor and the schedule is no more than a request may bring. -/
theorem requested_onCourse (s : State) (h : HalfId) (x : Gov × Sched) : Requested s (onCourse s h x) h := by
  refine ⟨?_, ⟨(s.half h).win.log, (s.half h).win.logged, ?_⟩, ?_, ?_, ?_⟩ <;> cases h <;> rfl

/-- Energy is taken from what remains and from an entry's allowance (R391). -/
theorem spend_onCourse (s : State) (h : HalfId) (x : Gov × Sched) (e : Option (BitVec 7)) (n : Int) : ∃ c,
    spendAllow (spend (onCourse s h x) h n) h e n = onCourse s h ({ x.1 with remaining := x.1.remaining - n }, c) ∧
    ∀ i, e = some i → allowLeftOf c i = allowLeftOf x.2 i - n := by
  cases e with
  | none => exact ⟨x.2, by simp [spendAllow, spend], by simp⟩
  | some i =>
    refine ⟨{ x.2 with allowLeft := sput 0 x.2.allowLeft i.toNat (allowLeftOf x.2 i - n) }, by simp [spendAllow, spend], ?_⟩
    rintro j ⟨⟩
    exact sget_sput_same ..

/-- A release gives back what the lease has not used (R391). -/
theorem leaseRelease_onCourse (s : State) (h : HalfId) (k : BitVec 5) : ∃ x, leaseRelease s h k = onCourse s h x ∧ leaseOf x.1 k = none ∧
    ∀ l, leaseOf (s.half h).gov k = some l →
      x.1.remaining = (s.half h).gov.remaining + ((sget 0 (s.half h).gov.costs l.cls.toNat : Nat) : Int) - l.used := by
  cases hl : leaseOf (s.half h).gov k with
  | none => exact ⟨s.course h, by simp [leaseRelease, hl, onCourse_self], hl, by simp⟩
  | some l =>
    obtain ⟨c, hc, -⟩ := spend_onCourse s h (s.course h) (leaseEntryOf (s.half h).gov k) ((l.used : Int) - ceilingOf (s.half h).gov l.cls)
    rw [onCourse_self] at hc
    refine ⟨_, by simp only [leaseRelease, hl, leaseBack, hc, onGov_onCourse]; rfl, ?_, ?_⟩
    · simp [leaseOf]
    · rintro _ ⟨⟩
      simp only [State.course, ceilingOf]
      omega

/-- A lease that is granted is charged and held (R143, R391). -/
theorem leaseGranted_onCourse (s : State) (h : HalfId) (k : BitVec 5) (i : BitVec 7) (cls : BitVec 4) : ∃ x,
    leaseGive (leaseCharge s h i cls) h k i cls = onCourse s h x ∧ leaseOf x.1 k = some ⟨cls, 0⟩ ∧
    x.1.remaining = (s.half h).gov.remaining - ((sget 0 (s.half h).gov.costs cls.toNat : Nat) : Int) ∧
    allowLeftOf x.2 i = allowLeftOf (s.half h).sch i - ((sget 0 (s.half h).gov.costs cls.toNat : Nat) : Int) := by
  obtain ⟨c, hc, hallow⟩ := spend_onCourse s h (s.course h) (some i) (ceilingOf (s.half h).gov cls)
  rw [onCourse_self] at hc
  refine ⟨_, by simp only [leaseCharge, leaseGive, hc, onGov_onCourse]; rfl, ?_, rfl, hallow i rfl⟩
  simp [leaseOf]

theorem unlease_retires (r : Ready s h k) (hi : freshWindow s h) (hslot : (s.bank h k).resume.slot.toNat < 5)
    (hl : (s.bank h k).ds.length ≤ 16) :
    RetiresClosing (.unlease h) s s h k (s.bank h k) (nextWord (s.bank h k).resume) fun t => leaseOf (t.half h).gov k = none ∧
      ∀ x, leaseOf (s.half h).gov k = some x →
        (t.half h).gov.remaining = (s.half h).gov.remaining + ((sget 0 (s.half h).gov.costs x.cls.toNat : Nat) : Int) - x.used := by
  obtain ⟨x, hx, hnone, hsome⟩ := leaseRelease_onCourse s h k
  have hreq := request_ready r .unlease 0 true (fun s => (leaseRelease s h k, 0, 0)) (by simp [hx])
  have a := attempt_isolated r (c := .unlease h) (rep := false) (o := opUnlease) (enc := noEnc) rfl (selectorForm_fits hslot 0o75) rfl hi
    (stackFault_none _ 0 0 (by omega) (by simpa using hl)) ((requested_onCourse s h x).logInput .unlease 0 k true 0 0)
    (by simp only [opUnlease, runUnlease, hreq, hx]; rfl)
  refine a.mono fun t ⟨hgov, _⟩ => ?_
  have hgov' : (t.half h).gov = x.1 := by rw [hgov]; simp [logInput]
  rw [hgov']
  exact ⟨hnone, hsome⟩

/-- LEASE pushes its status, and on 0 the lease is charged and held (R143). -/
theorem lease_retires (r : Ready s h k) (hi : freshWindow s h) (hslot : (s.bank h k).resume.slot.toNat < 5) {cls : Cell} {l : List Cell}
    (hds : (s.bank h k).ds = cls :: l) (hl : l.length < 16) (hcls : cls.toNat < 16) {x : Gov × Sched} {n : Nat}
    (hx : leaseRequest s h k (fld cls 0 4) = (onCourse s h x, n)) :
    RetiresClosing (.lease h) s s h k { s.bank h k with ds := cellOf n :: l } (nextWord (s.bank h k).resume) fun t =>
      (t.half h).gov = x.1 ∧ (t.half h).sch = x.2 := by
  have hreq := request_ready r .lease cls true (fun s => ((leaseRequest s h k (fld cls 0 4)).1, cellOf (leaseRequest s h k (fld cls 0 4)).2, 0))
    (by simp [hx])
  have hat : (s.bank h k).at 0 = cls := by simp [Bank.at, hds]
  have a := attempt_isolated r (c := .lease h) (rep := false) (o := opLease) (enc := noEnc)
    (b := { s.bank h k with ds := cellOf n :: l }) rfl (selectorForm_fits hslot 0o75) rfl hi
    (stackFault_none _ 1 1 (by simp [hds]) (by simp [hds]; omega)) ((requested_onCourse s h x).logInput .lease cls k true (cellOf n) 0)
    (by simp only [opLease, runLease, hat, Nat.not_le.2 hcls, if_false, hreq, pushRequest, hx, hds]; rfl)
  refine a.mono fun t ⟨hgov, hsch⟩ => ⟨?_, ?_⟩
  · rw [hgov]; simp [logInput]
  · rw [hsch]; simp [logInput]

theorem leaseRequest_refused {cls : BitVec 4} {n : Nat} (hn : leaseStatus s h k cls = n) (h0 : n ≠ 0) : ∃ x,
    leaseRequest s h k cls = (onCourse s h x, n) := by
  refine ⟨({ (s.half h).gov with refused := satInc (s.half h).gov.refused }, (s.half h).sch), ?_⟩
  subst hn
  simp only [leaseRequest, h0, if_false]
  cases h <;> rfl

/-- Settles O21. -/
theorem leasesAreChargedAndReturned : Obligations.LeasesAreChargedAndReturned := by
  intro s h k cls l hs hi hl b g c n back dst hslot
  have r := steady_ready hs
  refine ⟨fun hds hcls => ?_, fun hds => unlease_retires r hi hslot (by rw [show (s.bank h k).ds = l from hds]; omega)⟩
  have refused (m : Nat) (h0 : m ≠ 0) (hst : leaseStatus s h k c = m) : RetiresClosing (.lease h) s s h k (back (cellOf m)) dst := by
    obtain ⟨x, hx⟩ := leaseRequest_refused hst h0
    exact (lease_retires r hi hslot hds hl hcls hx).mono fun _ _ => trivial
  have hfits (i : BitVec 7) : leaseFits (s.half h) i (ceilingOf (s.half h).gov c) =
      (decide (n ≤ g.remaining) && decide (n ≤ allowLeftOf (s.half h).sch i)) := rfl
  refine ⟨fun hheld => refused 2 (by decide) (by simp [leaseStatus, g, hheld]), fun hnone htick => ?_, fun hnone htick => ⟨fun hown => ?_,
    fun i hown => ⟨fun hdecl => ?_, fun hdecl => ⟨fun hshort => ?_, fun hrem hallow => ?_⟩⟩⟩⟩
  · exact refused 1 (by decide) (by simp [leaseStatus, g, hnone, htick])
  · exact refused 3 (by decide) (by simp [leaseStatus, g, hnone, htick, hown])
  · exact refused 3 (by decide) (by simp [leaseStatus, g, hnone, htick, hown, bit, hdecl])
  · refine refused 1 (by decide) ?_
    have hno : leaseFits (s.half h) i (ceilingOf (s.half h).gov c) = false := by
      rw [hfits]
      simp only [Bool.and_eq_false_iff, decide_eq_false_iff_not, not_le]
      exact hshort
    simp [leaseStatus, g, hnone, htick, hown, bit, hdecl, hno]
  · have hyes : leaseFits (s.half h) i (ceilingOf (s.half h).gov c) = true := by
      rw [hfits]
      simp only [Bool.and_eq_true, decide_eq_true_eq]
      exact ⟨hrem, hallow⟩
    have hst : leaseStatus s h k c = 0 := by simp [leaseStatus, g, hnone, htick, hown, bit, hdecl, hyes]
    obtain ⟨x, hx, hheld, hleft, hall⟩ := leaseGranted_onCourse s h k i c
    refine (lease_retires r hi hslot hds hl hcls (x := x) (n := 0) ?_).mono fun t ⟨hgov, hsch⟩ => ?_
    · show leaseRequest s h k c = _
      simp only [leaseRequest, hst, hown, hx, if_true]
    · rw [hgov, hsch]
      exact ⟨hheld, hleft, hall⟩

end

end Sys2Proof.Machine

/-! # Yields and fences (R141, R142, R204, R281; O24) -/

namespace Sys2Proof.Machine

section
variable {s t u v : State} {h : HalfId} {k : BitVec 5}

/-! ## What a close leaves of the window after it, and of the reckoner's queue -/

theorem closeRaw_opened (hb : (s.half h).win.blank = false) (hr : (s.half h).win.replay = none) :
    ((closeRaw s h false).half h).win.group = false ∧
    ((closeRaw s h false).half h).win.replayLog = (s.half h).win.replayLog ∧
    (s.runMode h ≠ mReading → ((closeRaw s h false).half h).win.closed ≠ []) := by
  by_cases hm : s.runMode h = mReading
  · obtain ⟨m, r, e⟩ := closeRaw_reading hb hm false
    have hwin : ((closeRaw s h false).half h).win = { (agreeAll (s.half h).win).opened with mark := m, log := [] } :=
      congrArg Still.win e
    rw [hwin]
    exact ⟨rfl, by simp [agreeAll, Windows.opened, Windows.unreached, hr], absurd hm⟩
  · obtain ⟨c, n, -, -, e⟩ := closeRaw_logged hb hm false
    have hwin : ((closeRaw s h false).half h).win =
      { (s.half h).win.opened with closed := (s.half h).win.closed ++ [c], prtCloses := n } := congrArg Still.win e
    rw [hwin]
    exact ⟨rfl, by simp [Windows.opened, Windows.unreached, hr], by simp⟩

/-- A close queues no command, and completes none where none is queued (R362). -/
theorem queue_closeRaw (s : State) (h : HalfId) (forced : Bool) (hq : (s.half h).rkn.queue = []) :
    ((closeRaw s h forced).half h).rkn.queue = [] := by
  have hunits {x y : State} (e : x.units h = y.units h) : (x.half h).rkn.queue = (y.half h).rkn.queue :=
    congrArg (fun u : Units => u.rkn.queue) e
  have hown (x : State) : ((ownApply x h).half h).rkn.queue = (x.half h).rkn.queue := by
    simp only [ownApply]
    split <;> simp
  have hat (x : State) : ((atClose x h).half h).rkn.queue = (x.half h).rkn.queue := by
    simp only [atClose, injectStart]
    rw [hunits (units_tryHalt ..), hunits (units_fenceAct ..), hunits (units_onTal ..), hunits (units_pllClose ..), hown]
  have hgens (x : State) (p : SbEntry → Bool) : ((gensApply x h p).half h).rkn = (x.half h).rkn :=
    foldl_keeps (fun t : State => (t.half h).rkn) (fun t e => by split <;> simp) _ x
  have hdone (x : State) (n : Cell) (hx : (x.half h).rkn.queue = []) : completeFinished x h n = x := by
    simp [completeFinished, hx]
  simp only [closeRaw]
  split
  · exact hq
  · have hstart : ((((stepClose (perfCount s h 0o07) h).onEx h fun e => { e with flevelEff := e.flevel }).half h).rkn.queue) = [] := by
      rw [hunits (units_onEx ..), hunits (units_stepClose ..), hunits (units_perfCount ..), hq]
    split
    · rw [hat, hdone _ _ (by rw [hunits (units_onWin ..), stepSpend, hunits (units_onDbgHalf ..), hgens, hstart]),
        hunits (units_onWin ..), stepSpend, hunits (units_onDbgHalf ..), hgens, hstart]
    · rw [hat, hunits (units_prtAfterClose ..), hunits (units_onWin ..), hstart]

/-! ## What the scheduler leaves at a close (R141, R383-R386) -/

/-- What the end of an entry and the start of another leave, once the window has closed. -/
structure Scene where
  banks : Sparse Bank
  far : Sparse Bank
  num : Cell
  slots : Nat
  group : Bool
  sb : List SbEntry
  mems : Sparse TCell × Sparse (Option NvmLine)
  arith : Option PendArith
  queue : List RkCmd

/-- The window that follows has nothing in it, and nothing waits. -/
def Scene.Idle (c : Scene) : Prop := c.slots = 0 ∧ c.group = false ∧ c.arith = none ∧ c.queue = []

def State.scene (s : State) (h : HalfId) : Scene :=
  let w := (s.half h).win
  ⟨(s.ex h).banks, (s.ex h.other).banks, w.num, w.slots, w.group, w.sb, s.mems, (s.ex h).arith, (s.half h).rkn.queue⟩

section
variable (s : State) (h : HalfId)

@[simp] theorem scene_onGov (f : Gov → Gov) : (s.onGov h f).scene h = s.scene h := by cases h <;> rfl
@[simp] theorem scene_onSch (f : Sched → Sched) : (s.onSch h f).scene h = s.scene h := by cases h <;> rfl
@[simp] theorem scene_onEx {f : Exec → Exec} (hf : ∀ e, (f e).banks = e.banks ∧ (f e).arith = e.arith) :
    (s.onEx h f).scene h = s.scene h := by
  obtain ⟨hb, ha⟩ := hf (s.ex h)
  cases h <;> simp_all [State.scene, State.mems, State.onEx, State.onHalf, State.setHalf, State.half, State.ex, HalfId.other]
@[simp] theorem scene_line (f : Half → LineBuf) : (s.onHalf h fun x => { x with line := f x }).scene h = s.scene h := by
  cases h <;> rfl
@[simp] theorem scene_logInput (kind : LogKind) (req : Cell) (ctx : BitVec 5) (isolated : Bool) (v0 v1 : Cell) :
    (logInput s h kind req ctx isolated v0 v1).scene h = s.scene h := by cases h <;> rfl
@[simp] theorem scene_raiseHalf (n : Nat) : (raiseHalf s h n).scene h = s.scene h := by
  simp only [State.scene, ex_eq, mems_raiseHalf]
  simp only [raiseHalf, raiseSource_half]
@[simp] theorem scene_lineResume : (lineResume s h).scene h = s.scene h := by
  simp only [lineResume]
  split
  · rfl
  · exact scene_line ..
@[simp] theorem scene_leaseRelease (k : BitVec 5) : (leaseRelease s h k).scene h = s.scene h := by
  obtain ⟨x, hx, -⟩ := leaseRelease_onCourse s h k
  rw [hx]
  cases h <;> rfl
@[simp] theorem scene_spend (n : Int) : (spend s h n).scene h = s.scene h := scene_onGov ..
@[simp] theorem scene_useCycles (n : Nat) : (useCycles s h n).scene h = s.scene h := scene_onSch ..
@[simp] theorem scene_startLease (i : BitVec 7) (e : SchEntry) : (startLease s h i e).scene h = s.scene h := by
  simp only [startLease, leaseGive, leaseCharge, spendAllow]
  split <;> simp

end

/-! ### Out of an idle scene -/

theorem leaveRunning_idle (hi : (s.scene h).Idle) : leaveRunning s h = s.onEx h fun e => { e with repu := false, groupOpen := none } := by
  obtain ⟨hslots, hgroup, harith, -⟩ := hi
  have hblank : (s.half h).win.blank = true := by
    have hs : (s.half h).win.slots = 0 := hslots
    have hg : (s.half h).win.group = false := hgroup
    simp [Windows.blank, hs, hg]
  have hnone : (s.ex h).arith = none := harith
  have hpark (k : BitVec 5) : parkArith s h k = s := by simp [parkArith, hnone]
  simp only [leaveRunning, closeRaw_blank hblank, hpark]
  split <;> rfl

theorem scene_leaveRunning (hi : (s.scene h).Idle) : (leaveRunning s h).scene h = s.scene h := by
  rw [leaveRunning_idle hi]
  simp

theorem scene_switchTo (hi : (s.scene h).Idle) (x : Option (BitVec 5)) (cut : Bool) : (switchTo s h x cut).scene h = s.scene h := by
  simp only [switchTo, scene_logInput, scene_lineResume]
  split
  · simp
  · simp [scene_leaveRunning hi]

theorem scene_startEntry (hi : (s.scene h).Idle) (i : BitVec 7) (e : SchEntry) : (startEntry s h i e).scene h = s.scene h := by
  simp only [startEntry]
  split
  · rw [scene_switchTo] <;> simp [hi]
  · simp

theorem scene_schedPick (hi : (s.scene h).Idle) : (schedPick s h).scene h = s.scene h := by
  have hidle (x : State) (hx : x.scene h = s.scene h) : (completeIdle x h).scene h = s.scene h := by
    have hq : (x.half h).rkn.queue = [] := (congrArg Scene.queue hx).trans hi.2.2.2
    simp only [completeIdle, hq]
    split
    · exact hx
    · exact hx
  simp only [schedPick]
  split
  · rfl
  · split
    · exact scene_startEntry hi ..
    · split
      · exact hidle _ (by simp)
      · simp

theorem scene_endEntry (hi : (s.scene h).Idle) : (endEntry s h).scene h = s.scene h := by
  simp only [endEntry]
  split
  · rfl
  · split
    · simp
    · split
      · split
        · simp [scene_leaveRunning, hi]
        · simp
      · simp

theorem scene_endAndPick (hi : (s.scene h).Idle) : (endAndPick s h).scene h = s.scene h := by
  have hend := scene_endEntry hi
  have hpick : (schedPick (endEntry s h) h).scene h = s.scene h := (scene_schedPick (by rwa [hend])).trans hend
  simp only [endAndPick]
  split
  · exact hpick
  · rw [scene_switchTo (by rwa [hpick]), hpick]

theorem scene_schedReturn (hi : (s.scene h).Idle) : (schedReturn s h).scene h = s.scene h := by
  simp only [schedReturn]
  split
  · rfl
  · split
    · exact scene_schedPick hi
    · split
      · rw [scene_switchTo] <;> simp [hi]
      · rfl

theorem scene_yieldEntry (hi : (s.scene h).Idle) (k : BitVec 5) (used : Nat) : (yieldEntry s h k used).scene h = s.scene h := by
  simp only [yieldEntry]
  split
  · rfl
  · split
    · rw [scene_endAndPick] <;> simp [hi]
    · split
      · have hs := scene_switchTo hi none false
        rw [scene_schedReturn (by rwa [hs]), hs]
      · rfl

/-! ### The current entry (R141, R383-R386) -/

theorem sch_switchTo (hi : (s.scene h).Idle) (x : Option (BitVec 5)) (cut : Bool) :
    ((switchTo s h x cut).half h).sch = (s.half h).sch := by
  have hline (y : State) : ((lineResume y h).half h).sch = (y.half h).sch := by
    simp only [lineResume]
    split <;> simp
  simp only [switchTo, logInput, half_onWin, hline, half_onEx]
  split
  · rfl
  · rw [leaveRunning_idle hi, half_onEx]

theorem cur_startEntry (hi : (s.scene h).Idle) (i : BitVec 7) (e : SchEntry) : ((startEntry s h i e).half h).sch.cur = some i := by
  simp only [startEntry]
  split
  · rw [sch_switchTo] <;> simp [hi]
  · simp [raiseHalf]

theorem bestEntry_mem {l : List (Nat × SchEntry)} {e : Nat × SchEntry} (he : bestEntry l = some e) : e ∈ l := by
  induction l generalizing e with
  | nil => simp [bestEntry] at he
  | cons a l ih =>
    simp only [bestEntry] at he
    split at he
    · cases he
      exact List.mem_cons_self
    · next f hf =>
      split at he
      · cases he
        exact List.mem_cons_of_mem _ (ih hf)
      · cases he
        exact List.mem_cons_self

/-- The scheduler starts only an entry that has not started in this frame (R383). -/
theorem cur_schedPick (hi : (s.scene h).Idle) {i : BitVec 7} (hstart : i ∈ (s.half h).sch.started) (hcur : (s.half h).sch.cur = none) :
    ((schedPick s h).half h).sch.cur ≠ some i := by
  have hidle (x : State) (hq : (x.half h).rkn.queue = []) (hx : (x.half h).sch.cur = none) :
      ((completeIdle x h).half h).sch.cur ≠ some i := by
    simp only [completeIdle, hq]
    split <;> simp [hx]
  simp only [schedPick]
  split
  · simp [hcur]
  · split
    · next j e he =>
      rw [cur_startEntry hi]
      rintro ⟨rfl⟩
      have hready := (List.mem_filter.1 (List.mem_filter.1 (bestEntry_mem he)).1).2
      simp [entryReady, hstart] at hready
    · split
      · exact hidle _ (by simpa using show (s.half h).rkn.queue = [] from hi.2.2.2) (by simpa using hcur)
      · simp [hcur]

theorem started_leaseRelease (s : State) (h : HalfId) (k : BitVec 5) :
    ((leaseRelease s h k).half h).sch.started = (s.half h).sch.started := by
  simp only [leaseRelease, leaseBack, spendAllow, spend]
  (repeat' split) <;> simp

/-- An entry that ends is no longer current (R386). -/
theorem sch_endEntry (hi : (s.scene h).Idle) : ((endEntry s h).half h).sch.cur = none ∧
    ((endEntry s h).half h).sch.started = (s.half h).sch.started := by
  cases hc : (s.half h).sch.cur with
  | none => simp [endEntry, hc]
  | some i =>
    obtain ⟨y, hy⟩ : ∃ y, y = leaseRelease (spend s h (-(runRefund (s.half h).rate (s.half h).sch.left : Int))) h
      ((s.half h).sch.active.entry i).ctx := ⟨_, rfl⟩
    have hstarted : (y.half h).sch.started = (s.half h).sch.started := by
      rw [hy, started_leaseRelease]
      simp [spend]
    have hidle : (y.scene h).Idle := by simpa [hy] using hi
    simp only [endEntry, hc, ← hy]
    split
    · simp [hstarted]
    · split
      · split
        · rw [half_onEx, leaveRunning_idle (by simpa using hidle)]
          simp [hstarted]
        · simp [hstarted]
      · simp [hstarted]

theorem cur_endAndPick (hi : (s.scene h).Idle) {i : BitVec 7} (hstart : i ∈ (s.half h).sch.started) :
    ((endAndPick s h).half h).sch.cur ≠ some i := by
  obtain ⟨hcur, hstarted⟩ := sch_endEntry hi
  have hend := scene_endEntry hi
  have hpick := cur_schedPick (s := endEntry s h) (by rwa [hend]) (by rwa [hstarted]) hcur
  simp only [endAndPick]
  split
  · exact hpick
  · rwa [sch_switchTo]
    rwa [scene_schedPick (by rwa [hend]), hend]

/-- An entry that waits for its context stays current when the half returns to the scheduler (R178). -/
theorem cur_schedReturn (hi : (s.scene h).Idle) {i : BitVec 7} (hcur : (s.half h).sch.cur = some i) :
    ((schedReturn s h).half h).sch.cur = some i := by
  simp only [schedReturn]
  split
  · exact hcur
  · simp only [hcur]
    split
    · rw [sch_switchTo] <;> simp [hi, hcur]
    · exact hcur

/-! ## YIELD (R141) -/

theorem ClosesAs.of_scene {b : Bank} {dst : Pos} (a : ClosesAs s u t h k b dst) (e : v.scene h = t.scene h) : ClosesAs s u v h k b dst := by
  have hbank (j : BitVec 5) : v.bank h j = t.bank h j := bank_of_banks (congrArg Scene.banks e) j
  have hfar (j : BitVec 5) : v.bank h.other j = t.bank h.other j := bank_of_banks (congrArg Scene.far e) j
  have hmems : v.mems = t.mems := congrArg Scene.mems e
  refine ⟨(hbank k).trans a.bank, fun j hj => (hbank j).trans (a.banks j hj), fun j => (hfar j).trans (a.far j),
    (congrArg Scene.num e).trans a.num, (congrArg Scene.slots e).trans a.slots, fun hm => ?_⟩
  obtain ⟨hsb, hram, hnvm⟩ := a.kept hm
  exact ⟨(congrArg Scene.sb e).trans hsb, (congrArg Prod.fst hmems).trans hram, (congrArg Prod.snd hmems).trans hnvm⟩

/-- The half as the close of a YIELD leaves it, before its entry ends. -/
structure Yielded (s y : State) (h : HalfId) (k : BitVec 5) : Prop where
  closes : ClosesAs s s y h k (s.bank h k) (nextWord (s.bank h k).resume)
  idle : (s.half h).rkn.queue = [] → (y.scene h).Idle
  sch : (y.half h).sch = (s.half h).sch
  chain : (y.ex h).chain = (s.ex h).chain
  running : (y.ex h).running = (s.ex h).running
  unlogged : switchLogged (y.half h).win = false

theorem yield_closes (r : Ready s h k) (hslot : (s.bank h k).resume.slot.toNat < 5) (hl : (s.bank h k).ds.length ≤ 16) (used : Nat) :
    ∃ y, exec (.yield h used) s = .next (yieldEntry y h k used) ∧ Yielded s y h k := by
  have q := r.poised
  obtain ⟨v, hv, b⟩ := attempt_boundary r (rep := false) (o := opYield used) (enc := noEnc) (selectorForm_fits hslot 0o75) rfl
    (fun hi => Bool.noConfusion hi) (stackFault_none _ 0 0 (by omega) (by simpa using hl)) rfl (fun _ => q.open_ r) r.arith rfl
    (by simp [doneOf, storesOverflow]) (by simp [doneOf, storesFit]) rfl rfl
  have hkeep : keepLoads s s h k = s := by simp [keepLoads]
  simp only [doneOf, hkeep] at b
  have a := b.closes q r rfl (.inl rfl)
  have c := b.closable q r rfl
  have hfall := c.falls (.inl rfl)
  have hwin : (v.half h).win.replay = none ∧ (v.half h).win.replayLog = [] := by
    have hstores : s.onWin h (Windows.takeAll (writerOf s h k) none []) = s := onWin_self rfl
    have m := b.unmoved
    simp only [hstores] at m
    rw [m.win]
    exact ⟨r.replay, r.replayLog⟩
  obtain ⟨hgroup, hlog, -⟩ := closeRaw_opened c.blank hwin.1
  rw [← hfall] at hgroup hlog
  have hleaves := b.leaves a
  obtain ⟨_, _, _, _, _, _, _, hex⟩ := hleaves.ex
  refine ⟨retireClose v h true, congrArg Host.Outcome.next hv, ?_, fun hq => ?_, hleaves.sch, ?_, ?_, ?_⟩
  · have := b.closesAs a r q rfl
    rwa [show s.onWin h (Windows.takeAll (writerOf s h k) none []) = s from onWin_self rfl] at this
  · obtain ⟨_, _, _, hv'⟩ := a.ex
    have hqueue : (v.half h).rkn.queue = [] := by
      rw [b.unmoved.rest]
      simpa using hq
    refine ⟨a.slots, hgroup, ?_, ?_⟩
    · show ((retireClose v h true).ex h).arith = none
      rw [hv']
      exact c.arith
    · show ((retireClose v h true).half h).rkn.queue = []
      rw [hfall]
      exact queue_closeRaw v h false hqueue
  · rw [hex]
  · rw [hex]
  · simp [switchLogged, hlog, hwin.2]

/-- The end of the entry of a context keeps what the close left. -/
theorem Yielded.ends {y : State} (a : Yielded s y h k) (hq : (s.half h).rkn.queue = []) (used : Nat) :
    ClosesAs s s (yieldEntry y h k used) h k (s.bank h k) (nextWord (s.bank h k).resume) :=
  a.closes.of_scene (scene_yieldEntry (a.idle hq) k used)

theorem Yielded.ownEntry {y : State} (a : Yielded s y h k) : ownEntry y h k = ownEntry s h k := by
  have hchain : (y.half h).ex.chain = (s.half h).ex.chain := by simpa [ex_eq] using a.chain
  have hrun : (y.half h).ex.running = (s.half h).ex.running := by simpa [ex_eq] using a.running
  simp only [Machine.ownEntry, a.sch, hchain, hrun]

theorem ownEntry_chain {i : BitVec 7} (ho : ownEntry s h k = some i) : (s.ex h).chain = [] := by
  simp only [ownEntry] at ho
  split at ho
  · cases ho
  · split at ho
    · next hc => simp_all [ex_eq]
    · cases ho

/-- A YIELD ends the entry that runs (R141). -/
theorem Yielded.ends_entry {y : State} (a : Yielded s y h k) (hq : (s.half h).rkn.queue = []) {i : BitVec 7}
    (ho : Machine.ownEntry s h k = some i) (hi : i ∈ (s.half h).sch.started) (used : Nat) :
    ((yieldEntry y h k used).half h).sch.cur ≠ some i := by
  have hidle : ((useCycles (leaseRelease y h k) h used).scene h).Idle := by simpa using a.idle hq
  have hchain : (y.ex h).chain = [] := a.chain.trans (ownEntry_chain ho)
  have hown : Machine.ownEntry y h k = some i := a.ownEntry.trans ho
  simp only [yieldEntry, hchain, a.unlogged, hown, List.isEmpty_nil, Bool.not_true, Bool.or_false, Bool.false_eq_true, if_false,
    Option.isSome_some, if_true]
  refine cur_endAndPick hidle ?_
  simpa [useCycles, started_leaseRelease, a.sch] using hi

/-- In a context without an entry the half returns to its scheduler, and the entry that waits stays current (R141). -/
theorem Yielded.returns {y : State} (a : Yielded s y h k) (r : Ready s h k) (hq : (s.half h).rkn.queue = []) (hc : (s.ex h).chain = [])
    (ho : Machine.ownEntry s h k = none) {i : BitVec 7} (hcur : (s.half h).sch.cur = some i) (used : Nat) :
    ((yieldEntry y h k used).half h).sch.cur = some i := by
  have hidle := a.idle hq
  have hs := scene_switchTo hidle none false
  simp only [yieldEntry, a.chain, hc, a.unlogged, a.ownEntry, ho, a.running, r.run, List.isEmpty_nil, Bool.not_true, Bool.or_false,
    Bool.false_eq_true, if_false, Option.isSome_none, if_true]
  refine cur_schedReturn (by rwa [hs]) ?_
  rw [sch_switchTo hidle, a.sch, hcur]

/-- In a borrowed context a YIELD only closes the window (R141). -/
theorem Yielded.borrowed {y : State} (a : Yielded s y h k) (hc : (s.ex h).chain ≠ []) (used : Nat) : yieldEntry y h k used = y := by
  have hchain : (y.ex h).chain.isEmpty = false := by simpa [a.chain] using hc
  simp [yieldEntry, hchain]

/-! ## What the reads of handler heads leave of the writes under way (R142, R204) -/

/-- What of a half says whether its writes are under way: the merge buffer's queue, the hierarchy's requests, and the span. -/
def State.traffic (s : State) (g : HalfId) : List AllocWait × List ArbReq × SpanEnd :=
  ((s.half g).mem.allocs, (s.half g).mem.arb, (s.half g).spn)

theorem writesSettled_congr (e : ∀ g, t.traffic g = s.traffic g) : writesSettled t h = writesSettled s h := by
  have hallocs (g : HalfId) : (t.half g).mem.allocs = (s.half g).mem.allocs := congrArg Prod.fst (e g)
  have harb (g : HalfId) : (t.half g).mem.arb = (s.half g).mem.arb := congrArg (fun x => x.2.1) (e g)
  have hspn (g : HalfId) : (t.half g).spn = (s.half g).spn := congrArg (fun x => x.2.2) (e g)
  simp only [writesSettled, hallocs, harb, hspn]

section
variable (s : State) (h g : HalfId)

theorem traffic_onMem {f : MemUnit → MemUnit} (hf : ∀ m, (f m).allocs = m.allocs ∧ (f m).arb = m.arb) :
    (s.onMem h f).traffic g = s.traffic g := by
  obtain ⟨ha, hr⟩ := hf (s.half h).mem
  cases h <;> cases g <;> simp_all [State.traffic, State.onMem, State.onHalf, State.setHalf, State.half]

theorem traffic_onEx (f : Exec → Exec) : (s.onEx h f).traffic g = s.traffic g := by cases h <;> cases g <;> rfl

theorem traffic_perfCount (c : BitVec 6) : (perfCount s h c).traffic g = s.traffic g := by
  obtain ⟨hh, ho, -⟩ := perfCount_only s h c
  obtain rfl | rfl : g = h ∨ g = h.other := by cases g <;> cases h <;> simp [HalfId.other]
  · rw [State.traffic, hh]; rfl
  · rw [State.traffic, ho]; rfl

theorem traffic_perfAccess (a : Addr) (reads : Bool) : (perfAccess s a reads).traffic g = s.traffic g := by
  simp only [perfAccess]
  (repeat' split) <;> simp [traffic_perfCount]

theorem traffic_keyUse (t : BitVec 10) : (keyUse s h t).traffic g = s.traffic g := by
  have hcache := traffic_onMem s h g (f := fun m => { m with keyCache := (t :: (s.half h).mem.keyCache.erase t).take 64 })
    fun _ => ⟨rfl, rfl⟩
  simp only [keyUse]
  split
  · exact hcache
  · exact (traffic_perfCount ..).trans hcache

theorem traffic_sramRead (a : Addr) (r : ReadOutcome) : (sramRead s h a r).1.traffic g = s.traffic g := by
  simp only [sramRead, sramFail]
  (repeat' split)
  · exact traffic_onMem _ _ _ fun _ => ⟨rfl, rfl⟩
  · exact traffic_onMem _ _ _ fun _ => ⟨rfl, rfl⟩
  · rfl

theorem traffic_nvmRead (a : Addr) (t : BitVec 10) (r : ReadOutcome) : (nvmRead s h a t r).1.traffic g = s.traffic g := by
  have hfail (y : State) : (nvmFail y h a).traffic g = y.traffic g := traffic_onMem _ _ _ fun _ => ⟨rfl, rfl⟩
  have hcor (y : State) : (y.onMem h fun m => { m with nvmCor := satInc m.nvmCor }).traffic g = y.traffic g :=
    traffic_onMem _ _ _ fun _ => ⟨rfl, rfl⟩
  simp only [nvmRead]
  (repeat' split) <;> simp only [hfail, hcor, traffic_keyUse]

theorem traffic_homeRead (a : Addr) (t : BitVec 10) (r : ReadOutcome) : (homeRead s a t r).1.traffic g = s.traffic g := by
  simp only [homeRead]
  split
  · exact traffic_sramRead ..
  · rfl
  · exact traffic_nvmRead ..
  · rfl

theorem traffic_codeRead (t : BitVec 10) (a : Addr) : (codeRead s h t a).1.traffic g = s.traffic g := by
  unfold codeRead
  generalize codeData a = d
  have hread := (traffic_homeRead (perfAccess s d true) g d t .clean).trans (traffic_perfAccess s g d true)
  split
  · rfl
  · cases forwarded (s.half h).win d with
    | some c => rfl
    | none =>
      generalize homeRead (perfAccess s d true) d t .clean = q at hread
      obtain ⟨u, r⟩ := q
      cases r <;> exact hread

theorem traffic_headTarget (b : Bank) (c : Nat) : (headTarget s h b c).1.traffic g = s.traffic g := by
  have hread (a : Addr) := traffic_codeRead s h g b.pcc.tenant a
  simp only [headTarget]
  split
  · rfl
  · split
    · rfl
    · next ea _ =>
      have := hread ea
      split <;> simp_all

theorem traffic_headTargets (b : Bank) (n : Nat) : ∀ s, (headTargets h b n s).1.traffic g = s.traffic g := by
  induction n with
  | zero => exact fun _ => rfl
  | succ n ih => exact fun s => (ih _).trans (traffic_headTarget ..)

theorem traffic_readHeads (k : BitVec 5) : (readHeads s h k).traffic g = s.traffic g := by
  have hheads := traffic_headTargets h g (s.bank h k) 16 s
  simp only [readHeads, traffic_onEx]
  split
  · exact hheads
  · split
    · exact (traffic_codeRead ..).trans hheads
    · exact hheads

end

/-! ## FENCE (R142, R281) -/

theorem fenceDone_waits (hw : (s.half h).win.closed ≠ []) : fenceDone s h = s := by
  have : (s.half h).win.closed.isEmpty = false := by simpa using hw
  simp [fenceDone, this]

theorem readHeads_far (s : State) (h : HalfId) (k : BitVec 5) : (readHeads s h k).ex h.other = s.ex h.other := by
  have hh := crew_headTargets h (s.bank h k) 16 h.other s
  have hfar : (readHeads s h k).crew h.other = s.crew h.other := by
    have hx (u : State) (f : Exec → Exec) : (u.onEx h f).crew h.other = u.crew h.other := by cases h <;> rfl
    simp only [readHeads, hx]
    split
    · exact hh
    · split
      · exact (crew_codeRead ..).trans hh
      · exact hh
  exact ex_of_crew hfar

/-- What a FENCE leaves at its end (R142). -/
structure Fenced (s t : State) (h : HalfId) : Prop where
  win : (t.half h).win = (s.half h).win
  banks : (t.ex h).banks = (s.ex h).banks
  far : t.ex h.other = s.ex h.other
  traffic : ∀ g, t.traffic g = s.traffic g

/-- A FENCE with no mint to deliver goes on, or ends once every write before it is out (R142, R204). -/
theorem fenceDone_spec (hm : (s.ex h).mintPend = none) : fenceDone s h = s ∨
    ((s.half h).win.sb = [] ∧ writesSettled s h = true ∧ Fenced s (fenceDone s h) h) := by
  have hoff : Fenced s (s.onEx h fun e => { e with fencing := false }) h :=
    ⟨by cases h <;> rfl, by cases h <;> rfl, by cases h <;> rfl, fun g => traffic_onEx ..⟩
  have hend : (∃ k, fenceDone s h = readHeads (s.onEx h fun e => { e with fencing := false }) h k) ∨
      fenceDone s h = s.onEx h (fun e => { e with fencing := false }) ∨ fenceDone s h = s := by
    have hmint (k : BitVec 5) : mintDeliver (s.onEx h fun e => { e with fencing := false }) h k =
        s.onEx h fun e => { e with fencing := false } := by
      simp [mintDeliver, hm]
    simp only [fenceDone, hmint]
    split
    · split
      · exact .inr (.inl rfl)
      · exact .inl ⟨_, rfl⟩
    · exact .inr (.inr rfl)
  by_cases hdone : ((s.ex h).fencing && (s.half h).win.closed.isEmpty && (s.half h).win.sb.isEmpty && (s.half h).win.redo.isNone &&
      (s.half h).win.slots == 0 && writesSettled s h) = true
  · simp only [Bool.and_eq_true, List.isEmpty_iff] at hdone
    obtain ⟨⟨⟨⟨-, hsb⟩, -⟩, -⟩, hsettled⟩ := hdone
    obtain ⟨k, e⟩ | e | e := hend
    · refine .inr ⟨hsb, hsettled, ?_⟩
      obtain ⟨hd, hc⟩ := readHeads_heads (s.onEx h fun e => { e with fencing := false }) h k
      rw [e]
      refine ⟨?_, ?_, ?_, fun g => (traffic_readHeads ..).trans (hoff.traffic g)⟩
      · exact (congrArg (fun c : Crew => c.own.win) hc).trans hoff.win
      · exact (congrArg (fun c : Crew => c.own.ex.banks) hc).trans hoff.banks
      · exact (readHeads_far ..).trans hoff.far
    · rw [e]
      exact .inr ⟨hsb, hsettled, hoff⟩
    · exact .inl e
  · exact .inl (if_neg hdone)

theorem fence_boundary (r : Ready s h k) (hslot : (s.bank h k).resume.slot.toNat < 5) (hl : (s.bank h k).ds.length ≤ 16) :
    ∃ y, exec (.fence h) s = .next (fenceDone y h) ∧ ClosesAs s s y h k (s.bank h k) (nextWord (s.bank h k).resume) ∧
      (y.ex h).fencing = true ∧ (y.ex h).mintPend = (s.ex h).mintPend ∧ (s.mode h ≠ mReading → (y.half h).win.closed ≠ []) := by
  have q := onEx_poised r (f := fun e => { e with fencing := true }) fun _ => ⟨rfl, rfl, rfl, rfl, rfl⟩
  have hkeep : keepLoads s (s.onEx h fun e => { e with fencing := true }) h k = s.onEx h fun e => { e with fencing := true } := by
    simp [keepLoads]
  obtain ⟨v, hv, b⟩ := attempt_boundary r (rep := false) (o := opFence) (enc := noEnc) (selectorForm_fits hslot 0o75) rfl
    (fun hi => Bool.noConfusion hi) (stackFault_none _ 0 0 (by omega) (by simpa using hl)) rfl (fun _ => q.open_ r) q.arith rfl
    (by simp [doneOf, storesOverflow]) (by simp [doneOf, storesFit]) rfl rfl
  simp only [doneOf, hkeep] at b
  have a := b.closes q r rfl (.inl rfl)
  have c := b.closable q r rfl
  have m := b.unmoved
  have hstores (y : State) : y.onWin h (Windows.takeAll (writerOf s h k) none []) = y := onWin_self rfl
  simp only [hstores] at m
  have hmode : v.runMode h = s.mode h := by rw [m.runMode, q.mode, r.runMode]
  obtain ⟨_, _, _, _, _, _, _, hex⟩ := (b.leaves a).ex
  have hclosed := b.closesAs a r q rfl
  simp only [hstores] at hclosed
  refine ⟨retireClose v h true, congrArg (fun t => Host.Outcome.next (fenceDone t h)) hv, ?_, ?_, ?_, fun hne => ?_⟩
  · refine ⟨hclosed.bank, fun j hj => ?_, fun j => ?_, hclosed.num, hclosed.slots, fun hne => ?_⟩
    · rw [hclosed.banks j hj]
      cases h <;> rfl
    · rw [hclosed.far j]
      cases h <;> rfl
    · obtain ⟨hsb, hram, hnvm⟩ := hclosed.kept hne
      exact ⟨by simpa using hsb, hram.trans (by cases h <;> rfl), hnvm.trans (by cases h <;> rfl)⟩
  · rw [hex]; simp
  · rw [hex]; simp
  · obtain ⟨-, -, hcl⟩ := closeRaw_opened c.blank (by rw [m.win]; simpa using r.replay)
    rw [c.falls (.inl rfl)]
    exact hcl (by rwa [hmode])

/-- Settles O24. -/
theorem yieldAndFenceCloseTheWindow : Obligations.YieldAndFenceCloseTheWindow := by
  intro s h k used hs b hslot hl
  have r := steady_ready hs
  obtain ⟨y, hy, a⟩ := yield_closes r hslot hl used
  obtain ⟨z, hz, hcl, hfence, hmint, hawait⟩ := fence_boundary r hslot hl
  refine ⟨fun i hq ho hi => ?_, fun hq hc ho => ?_, fun hq hc => ?_, fun hm => ?_, fun hm hp => ?_⟩
  · exact (a.ends hq used).retires hy (a.ends_entry hq ho hi used)
  · exact (a.ends hq used).retires hy fun i hcur => a.returns r hq hc ho hcur used
  · refine (a.ends hq used).retires hy ?_
    rw [a.borrowed hc]
    exact ⟨a.sch, a.running.trans r.run⟩
  · rw [fenceDone_waits (hawait hm)] at hz
    exact hcl.retires hz hfence
  · obtain e | ⟨hsb, hsettled, f⟩ := fenceDone_spec (hmint.trans hp)
    · rw [e] at hz
      exact hcl.retires hz (.inl hfence)
    · refine ClosesAs.retires ⟨?_, fun j hj => ?_, fun j => ?_, ?_, ?_, absurd hm⟩ hz (.inr ⟨?_, ?_⟩)
      · rw [bank_of_banks f.banks, hcl.bank]
      · rw [bank_of_banks f.banks, hcl.banks j hj]
      · rw [bank_of_banks (congrArg Exec.banks f.far), hcl.far]
      · rw [f.win, hcl.num]
      · rw [f.win, hcl.slots]
      · rw [f.win, hsb]
      · rw [writesSettled_congr f.traffic, hsettled]

end

end Sys2Proof.Machine

/-! # Logged inputs (R144, R145, R263, R267, R351; O22) -/

namespace Sys2Proof.Machine

section
variable {s t u v : State} {h : HalfId} {k : BitVec 5}

/-- What making a request may change before its answer is logged: nothing of the half's execution state and windows, and nothing that
forces a close. -/
structure Asked (s u : State) (h : HalfId) : Prop where
  ex : u.ex h = s.ex h
  win : (u.half h).win = (s.half h).win
  prt : bit u.prt.close (34 + h.toNat) = bit s.prt.close (34 + h.toNat)
  step : (u.dbgHalf h).stepLeft = (s.dbgHalf h).stepLeft

theorem Asked.refl (s : State) (h : HalfId) : Asked s s h := ⟨rfl, rfl, rfl, rfl⟩

theorem logInput_eq_logged (u : State) (h : HalfId) (k : BitVec 5) (kind : LogKind) (req v0 v1 : Cell) :
    logInput u h kind req k false v0 v1 = logged u h k kind req v0 v1 := rfl

theorem win_logged (u : State) (h : HalfId) (k : BitVec 5) (kind : LogKind) (req v0 v1 : Cell) : ∃ log,
    ((logged u h k kind req v0 v1).half h).win = { (u.half h).win with log := log, logged := (u.half h).win.logged + 1 } :=
  ⟨_, by rw [logged, half_onWin]⟩

theorem Asked.poised (a : Asked s u h) (r : Ready s h k) (kind : LogKind) (req v0 v1 : Cell) (isolated : Bool) :
    Poised s (logInput u h kind req k isolated v0 v1) h := by
  obtain ⟨log, n, hwin⟩ := logInput_win u h kind req k isolated v0 v1
  exact r.poised_of_log ((ex_onWin ..).trans a.ex) ⟨log, n, by rw [hwin, a.win]⟩

/-- Below its limit the log forces no close (R267). -/
theorem Asked.noClose (a : Asked s u h) (r : Ready s h k) (hl : (s.half h).win.logged < 63) (kind : LogKind) (req v0 v1 : Cell) :
    noClose (logged u h k kind req v0 v1) h := by
  obtain ⟨log, hwin⟩ := win_logged u h k kind req v0 v1
  rw [a.win] at hwin
  refine ⟨?_, ?_, ?_, ?_, ?_, ?_⟩
  · rw [hwin]; exact r.replay
  · rw [hwin]; show _ + 1 < 64; omega
  · rw [hwin]; exact r.once
  · rw [show (logged u h k kind req v0 v1).prt = u.prt by cases h <;> rfl, a.prt]
    exact r.prt
  · rw [show (logged u h k kind req v0 v1).dbgHalf h = u.dbgHalf h by cases h <;> rfl, a.step]
    exact r.step
  · rw [hwin]; exact r.due

theorem takeAll_none (u : State) (h : HalfId) (wr : Writer) (snap : Option CapSnap) : u.onWin h (Windows.takeAll wr snap []) = u :=
  onWin_self rfl

/-- An instruction retires with its input logged, and closes the window where the log is then full (R263, R267). -/
theorem attempt_logged (r : Ready s h k) {c : Instr} {f : Form} {rep : Bool} {enc : BitVec 5 → Bank → Option FaultInfo} {o : Op}
    {b : Bank} {dst : Pos} {kind : LogKind} {req v0 v1 : Cell} (a : Asked s u h)
    (hc : exec c s = .next (attempt s h f rep enc o)) (hf : f.fits (s.bank h k).resume = true) (he : enc k (s.bank h k) = none)
    (hi : o.isolated = false) (hst : stackFault (s.bank h k) o.pops o.pushes = none)
    (hrun : o.run s h k (s.bank h k) (f.next (s.bank h k).resume) = .done (doneOf (logged u h k kind req v0 v1) b dst)) :
    RetiresLogged c s (logged u h k kind req v0 v1) h k b dst := by
  have q : Poised s (logged u h k kind req v0 v1) h := a.poised r kind req v0 v1 false
  have hkeep : keepLoads s (logged u h k kind req v0 v1) h k = logged u h k kind req v0 v1 := by simp [keepLoads, q.reads]
  obtain ⟨v, hv, hb⟩ := attempt_boundary r (rep := rep) hf he (fun hiso => absurd (hi.symm.trans hiso) (by decide)) hst hrun
    (fun hclose => Bool.noConfusion hclose) q.arith rfl (by simp [doneOf, storesOverflow]) (by simp [doneOf, storesFit]) rfl rfl
  rw [show (doneOf (logged u h k kind req v0 v1) b dst).s = logged u h k kind req v0 v1 from rfl, hkeep] at hb
  have m := hb.unmoved
  simp only [doneOf, takeAll_none] at m
  refine ⟨fun hl => ⟨v, ?_, hb.bank, hb.arith, m⟩, fun hl => ?_⟩
  · rw [hc, hv]
    exact congrArg Host.Outcome.next (retireClose_none v h (noClose_of_unmoved (a.noClose r hl kind req v0 v1) m))
  · obtain ⟨log, hwin⟩ := win_logged u h k kind req v0 v1
    have hfull : 64 ≤ (v.half h).win.logged := by
      rw [m.win, hwin, a.win]
      exact le_of_eq (congrArg (· + 1) hl.symm)
    have f := hb.closes q r rfl (close := false) (.inr hfull)
    have := hb.closesAs f r q rfl
    simp only [doneOf, takeAll_none] at this
    exact this.retires (hc.trans (congrArg Host.Outcome.next hv)) trivial

/-! ## TIMEL, FLEETCHK and STAT -/

theorem timel_retires (r : Ready s h k) (dt : Nat) (hslot : (s.bank h k).resume.slot.toNat < 5) (hl : (s.bank h k).ds.length < 16) :
    let lo : Cell := fld (advance s dt).evc.timeBase 0 36
    let hi : Cell := fld (advance s dt).evc.timeBase 36 36
    RetiresLogged (.timel h dt) s (logged (advance s dt) h k .timel 0 lo hi) h k
      { s.bank h k with ds := lo :: (s.bank h k).ds, latch := hi } (nextWord (s.bank h k).resume) := by
  have a : Asked s (advance s dt) h := by refine ⟨?_, ?_, rfl, ?_⟩ <;> cases h <;> rfl
  have hreq := request_ready r .timel 0 false
    (fun s => (advance s dt, fld (advance s dt).evc.timeBase 0 36, fld (advance s dt).evc.timeBase 36 36)) a.win
  exact attempt_logged r (rep := false) (o := opTimel dt) (enc := noEnc) a rfl (selectorForm_fits hslot 0o75) rfl rfl
    (stackFault_none _ 0 1 (by omega) (by omega)) (by simp only [opTimel, runTimel, hreq]; rfl)

/-- An instruction that pushes the answer to a request in place of its operand (R263). -/
theorem attempt_asks (r : Ready s h k) {c : Instr} {f : Form} {rep : Bool} {enc : BitVec 5 → Bank → Option FaultInfo} {o : Op}
    {x : Cell} {g : State → Cell} {l : List Cell} {kind : LogKind} (hds : (s.bank h k).ds = x :: l) (hl : l.length < 16)
    (hc : exec c s = .next (attempt s h f rep enc o)) (hf : f.fits (s.bank h k).resume = true) (he : enc k (s.bank h k) = none)
    (hi : o.isolated = false) (hpops : o.pops = 1) (hpushes : o.pushes = 1)
    (hrun : ∀ dst, o.run s h k (s.bank h k) dst =
      pushRequest (request s h k kind ((s.bank h k).at 0) false fun s => (s, g s, 0)) (s.bank h k) dst 1 false)
    {dst : Pos} (hdst : f.next (s.bank h k).resume = dst) :
    RetiresLogged c s (logged s h k kind x (g s) 0) h k { s.bank h k with ds := g s :: l } dst := by
  have hreq := request_ready r kind x false (fun s => (s, g s, 0)) rfl
  have hat : (s.bank h k).at 0 = x := by simp [Bank.at, hds]
  refine attempt_logged r (.refl s h) hc hf he hi (stackFault_none _ _ _ ?_ ?_) ?_
  · simp [hpops, hds]
  · simp only [hpops, hpushes, hds, List.length_cons]
    omega
  · rw [hrun, hat, hreq, hdst, pushRequest, hds]
    rfl

theorem fleetAnswer_eq (s : State) (x : Cell) : fleetAnswer s x =
    if x.toNat < fltSize s ∧ ¬ (sget 0 s.flt.mirror (x.toNat / 32)).getLsbD (x.toNat % 32) then 0o777777777777 else 0 := by
  have hones : (BitVec.allOnes 36 : Cell) = 0o777777777777 := by decide
  simp only [fleetAnswer, flagCell, fltRevoked, fltBit, bit, hones, Bool.and_eq_true, decide_eq_true_eq, Bool.not_eq_true',
    Bool.not_eq_true]

/-- Settles O22. -/
theorem loggedReads : Obligations.LoggedReads := by
  intro s h k dt x l hs hl b dst now lo hi member hslot
  have r := steady_ready hs
  refine ⟨fun hds => ?_, fun hds => ?_, fun hds => ?_⟩
  · have := timel_retires r dt hslot (by rw [show (s.bank h k).ds = l from hds]; exact hl)
    rwa [show (s.bank h k).ds = l from hds] at this
  · have hat : (s.bank h k).at 0 = x := by simp [Bank.at, show (s.bank h k).ds = x :: l from hds]
    have := attempt_asks (c := .fleetchk h) (rep := false) (enc := noEnc) (o := opFleetchk) (kind := .fleetchk)
      (g := fun s => fleetAnswer s x) r hds hl rfl (selectorForm_fits hslot 0o75) rfl rfl rfl rfl
      (fun dst => by simp only [opFleetchk, hat]) rfl
    rwa [fleetAnswer_eq] at this
  · have hat : (s.bank h k).at 0 = x := by simp [Bank.at, show (s.bank h k).ds = x :: l from hds]
    exact attempt_asks (c := .stat h) (rep := false) (enc := noEnc) (o := opStat) (kind := .stat)
      (g := fun s => statOf s h k x) r hds hl rfl (selectorForm_fits hslot 0o73) rfl rfl rfl rfl
      (fun dst => by simp only [opStat, runStat, hat]) rfl

end

end Sys2Proof.Machine

/-! # WAIT and SYNC (R129-R132, R245, R267, R351; O23) -/

namespace Sys2Proof.Machine

section
variable {s t u v : State} {h : HalfId} {k : BitVec 5}

theorem simpleForm_fits (p : Pos) : simpleForm.fits p = true := rfl

/-! ## Ends at once (R129, R132) -/

/-- CROSS of a context is no part of a half. -/
theorem setCross_steady (hs : steady s h k = true) (g : BitVec 6) (c : Option (BitVec 6)) : steady (setCross s g c) h k = true := hs

theorem setCross_asked (s : State) (h : HalfId) (g : BitVec 6) (c : Option (BitVec 6)) : Asked s (setCross s g c) h := by
  refine ⟨?_, ?_, rfl, ?_⟩ <;> cases h <;> rfl

/-- A WAIT that ends at once logs its status and pushes it (R129, R267). -/
theorem wait_ends (hs : steady s h k = true) {time mask : Cell} {l : List Cell} (hds : (s.bank h k).ds = time :: mask :: l)
    (hl : l.length < 15) {c : BitVec 4} {n : Nat} (hc : c ≠ 4)
    (hcause : waitCause (setCross s (gctx h k) none) h k mask false = some (c, n) ∨
      (waitCause (setCross s (gctx h k) none) h k mask false = none ∧ waitUs time = 0 ∧ c = 0 ∧ n = 0)) :
    RetiresLogged (.wait h) s
      (logged (setCross s (gctx h k) none) h k .wait 0 (waitStatus (setCross s (gctx h k) none) (gctx h k) c n) 0) h k
      { s.bank h k with ds := waitStatus (setCross s (gctx h k) none) (gctx h k) c n :: l } (slotsOn (s.bank h k).resume 1) := by
  have r := steady_ready hs
  have hask : replayAsk (s.half h).win .wait 0 k false = .issue := by simp [replayAsk, r.replayLog, r.replay]
  have hlatch (x : State) : latchCross x (gctx h k) c n = x := if_neg hc
  have hreq := request_ready (steady_ready (setCross_steady hs (gctx h k) none)) .wait 0 false
    (fun s => (latchCross s (gctx h k) c n, waitStatus s (gctx h k) c n, 0)) (by rw [hlatch])
  simp only [hlatch] at hreq
  have hat : (s.bank h k).at 0 = time ∧ (s.bank h k).at 1 = mask := by simp [Bank.at, hds]
  refine attempt_logged r (o := opWait) (f := simpleForm) (rep := false) (enc := noEnc) (setCross_asked ..) rfl rfl rfl rfl
    (stackFault_none _ 2 1 (by simp [hds]) (by simp [hds]; omega)) ?_
  obtain hcause | ⟨hcause, hus, rfl, rfl⟩ := hcause
  · simp only [opWait, runWait, hask, waitIssue, hat.2, hcause, hlatch, hreq, pushRequest, hds]
    rfl
  · simp only [opWait, runWait, hask, waitIssue, hat.1, hat.2, hcause, hus, if_true, hlatch, hreq, pushRequest, hds]
    rfl

/-- A SYNC on a status that has ended logs it and pushes it (R351, R267). -/
theorem sync_ends (r : Ready s h k) (hslot : (s.bank h k).resume.slot.toNat < 5) {ticket : Cell} {l : List Cell}
    (hds : (s.bank h k).ds = ticket :: l) (hl : l.length < 16) (hend : statEnds (statOf s h k ticket) = true) :
    RetiresLogged (.sync h) s (logged s h k .sync ticket (statOf s h k ticket) 0) h k
      { s.bank h k with ds := statOf s h k ticket :: l } (nextWord (s.bank h k).resume) := by
  have hat : (s.bank h k).at 0 = ticket := by simp [Bank.at, hds]
  have hask : replayAsk (s.half h).win .sync ticket k false = .issue := by simp [replayAsk, r.replayLog, r.replay]
  have hnone : waitingOf s h true = none := by simp [waitingOf, r.waiting]
  refine attempt_asks (o := opSync) (f := selectorForm 0o73) (rep := false) (enc := noEnc) (g := fun s => statOf s h k ticket) r hds hl
    ?_ (selectorForm_fits hslot 0o73) rfl rfl rfl rfl (fun dst => ?_) rfl
  · simp only [exec, execSync, syncSlot, hnone, runRkSlot]
  · simp only [opSync, runSync, hat, hask, hend, Bool.true_or, if_true]

/-! ## The lanes wait (R129, R245) -/

/-- The half while its running context waits. -/
def waiting (s : State) (h : HalfId) (w : Waiting) : State := s.onEx h fun e => { e with waiting := some w }

/-- A wait that begins in a window with nothing in it changes nothing else of the half (R245). -/
theorem beginWait_fresh (r : Ready s h k) (hi : freshWindow s h) {w : Waiting}
    (hq : ∀ c ∈ (s.half h).rkn.queue, c.state ≠ .finished) :
    beginWait s h w = .whole (s.onEx h fun e => { e with waiting := some w, groupOpen := none }) := by
  obtain ⟨hslots, hgroup⟩ := hi
  have hpre : preClose s h = .go s := by simp [preClose, Windows.blank, hslots, hgroup]
  obtain ⟨x, hx⟩ : ∃ x, x = s.onEx h fun e => { e with waiting := some w, groupOpen := none } := ⟨_, rfl⟩
  have hnone : ((s.half h).rkn.queue.filter fun c => c.state == .finished && c.fin == (s.half h).win.num) = [] := by
    simp only [List.filter_eq_nil_iff, Bool.and_eq_true, beq_iff_eq]
    exact fun c hc hf => hq c hc hf.1
  have hidle : completeIdle x h = x := by
    have hxh : (x.half h).rkn.queue = (s.half h).rkn.queue ∧ (x.half h).win = (s.half h).win := by simp [hx]
    simp only [completeIdle, hxh.1, hxh.2, hnone, List.foldl_nil, ite_self]
  have hsettled : settled x h = x :=
    settled_nothing (by simpa [hx] using r.acts) (by simpa [hx] using r.resets) (by simp [hx, r.ticks])
  have hheld : heldWaiting x h = x := by
    have hxh : (x.half h).win.held = [] := by simpa [hx] using r.held
    simp only [heldWaiting, hxh, List.map_nil, List.foldl_nil]
    exact onWin_self (by rw [← hxh])
  simp only [beginWait, hpre, ← hx, hidle, hsettled, hheld]

/-- What a wait that has begun leaves. -/
structure Begun (s t : State) (h : HalfId) (k : BitVec 5) (w : Waiting) : Prop where
  waiting : (t.ex h).waiting = some w
  banks : ∀ g j, t.bank g j = s.bank g j

theorem begun_onEx (s : State) (h : HalfId) (k : BitVec 5) (w : Waiting) :
    Begun s (s.onEx h fun e => { e with waiting := some w, groupOpen := none }) h k w :=
  ⟨by simp, fun g j => by cases h <;> cases g <;> rfl⟩

/-- An instruction whose effect is the whole state (R129, R245). -/
theorem attempt_whole (r : Ready s h k) {f : Form} {rep : Bool} {enc : BitVec 5 → Bank → Option FaultInfo} {o : Op} {t : State}
    (hf : f.fits (s.bank h k).resume = true) (he : enc k (s.bank h k) = none) (hi : o.isolated = true → freshWindow s h)
    (hst : stackFault (s.bank h k) o.pops o.pushes = none)
    (hrun : o.run s h k (s.bank h k) (f.next (s.bank h k).resume) = .whole t) : attempt s h f rep enc o = t := by
  rw [attempt_ready r, hf, he]
  show issue s h k (readyWriter s h k) (s.bank h k) o (f.next (s.bank h k).resume) (s.bank h k).resume = _
  rw [issue_settles r _ hi, runChecked_ready r hst, hrun]
  rfl

theorem wait_begins (hs : steady s h k = true) {time mask : Cell} {l : List Cell} (hds : (s.bank h k).ds = time :: mask :: l)
    (hl : l.length < 15) (hcause : waitCause (setCross s (gctx h k) none) h k mask false = none) (hus : waitUs time ≠ 0)
    (hi : freshWindow s h) (hq : (s.half h).rkn.queue = []) :
    ∃ t, exec (.wait h) s = .next t ∧ Begun s t h k ⟨false, mask, time, false⟩ := by
  have r := steady_ready hs
  have ru := steady_ready (setCross_steady hs (gctx h k) none)
  have hask : replayAsk (s.half h).win .wait 0 k false = .issue := by simp [replayAsk, r.replayLog, r.replay]
  have hat : (s.bank h k).at 0 = time ∧ (s.bank h k).at 1 = mask := by simp [Bank.at, hds]
  have hbegin := beginWait_fresh ru (w := ⟨false, mask, time, false⟩) (show freshWindow (setCross s (gctx h k) none) h from hi)
    (by rw [show ((setCross s (gctx h k) none).half h).rkn.queue = [] from hq]; simp)
  have hbegun := begun_onEx (setCross s (gctx h k) none) h k ⟨false, mask, time, false⟩
  refine ⟨_, congrArg Host.Outcome.next (attempt_whole r (o := opWait) (f := simpleForm) (rep := false) (enc := noEnc) rfl rfl
    (fun hiso => Bool.noConfusion hiso) (stackFault_none _ 2 1 (by simp [hds]) (by simp [hds]; omega)) ?_),
    hbegun.waiting, hbegun.banks⟩
  simp only [opWait, runWait, hask, waitIssue, hat.1, hat.2, hcause, if_neg hus, hbegin]

theorem sync_begins (r : Ready s h k) (hslot : (s.bank h k).resume.slot.toNat < 5) {ticket : Cell} {l : List Cell}
    (hds : (s.bank h k).ds = ticket :: l) (hl : l.length < 16) (hend : statEnds (statOf s h k ticket) = false)
    (hdue : entryDue s h = false) (hi : freshWindow s h) (hq : ∀ c ∈ (s.half h).rkn.queue, c.state ≠ .finished) :
    ∃ t, exec (.sync h) s = .next t ∧ Begun s t h k ⟨true, ticket, 0, false⟩ := by
  have hat : (s.bank h k).at 0 = ticket := by simp [Bank.at, hds]
  have hask : replayAsk (s.half h).win .sync ticket k false = .issue := by simp [replayAsk, r.replayLog, r.replay]
  have hnone : waitingOf s h true = none := by simp [waitingOf, r.waiting]
  have hbegin := beginWait_fresh r (w := ⟨true, ticket, 0, false⟩) hi hq
  have hexec : exec (.sync h) s = .next (attempt s h (selectorForm 0o73) false noEnc opSync) := by
    simp only [exec, execSync, syncSlot, hnone, runRkSlot]
  refine ⟨_, hexec.trans (congrArg Host.Outcome.next (attempt_whole r (selectorForm_fits hslot 0o73) rfl
    (fun hiso => Bool.noConfusion hiso) (stackFault_none _ 1 1 (by simp [hds]) (by simp [hds]; omega)) ?_)), begun_onEx s h k _⟩
  simp only [opSync, runSync, hat, hask, hend, hdue, Bool.or_self, Bool.false_eq_true, if_false, hbegin]

/-! ## The end of a wait (R131, R245, R351) -/

theorem waiting_ended (r : Ready s h k) (w : Waiting) : ((waiting s h w).onEx h fun e => { e with waiting := none }) = s := by
  have hnone := r.waiting
  have : ((waiting s h w).onEx h fun e => { e with waiting := none }) = s.onEx h fun e => { e with waiting := none } := by
    cases h <;> rfl
  rw [this]
  exact onEx_self (by rw [← hnone])

theorem waiting_of (r : Ready s h k) (w : Waiting) : waitingOf (waiting s h w) h w.isSync = some (k, w) := by
  have hlanes : lanesRun (waiting s h w) h = true := by
    have hs : lanesRun s h = true := by
      have := r.takes
      simp only [takesInstr, Bool.and_eq_true] at this
      exact this.1.1.1
    refine Eq.trans ?_ hs
    cases h <;> rfl
  have hex : ((waiting s h w).ex h).waiting = some w ∧ ((waiting s h w).ex h).running = some k := by
    simp [waiting, r.run]
  simp [waitingOf, hlanes, hex]

theorem runBank_waiting (r : Ready s h k) (w : Waiting) : (waiting s h w).runBank h = some (k, s.bank h k) := by
  simp only [State.runBank, waiting, ex_onEx, r.run]
  cases h <;> rfl

theorem writer_waiting (r : Ready s h k) (w : Waiting) : (waiting s h w).writer h = some (writerOf s h k) := by
  simp only [State.writer, runBank_waiting r w]
  cases h <;> rfl

theorem endWait_wait (r : Ready s h k) {w : Waiting} (hw : w.isSync = false) (v : Cell) : ∃ g,
    endWait (waiting s h w) h w v = retire (logged s h k .wait 0 v 0) h k (writerOf s h k) (s.bank h k).resume
      (doneOf (logged s h k .wait 0 v 0) { s.bank h k with ds := v :: (s.bank h k).ds.drop 2 } (slotsOn (s.bank h k).resume 1)) false g := by
  refine ⟨⟨.s, 0, none⟩, ?_⟩
  simp only [endWait, runBank_waiting r w, writer_waiting r w, waiting_ended r w, hw, Bool.false_eq_true, if_false]
  rfl

theorem endWait_sync (r : Ready s h k) {w : Waiting} (hw : w.isSync = true) (v : Cell) : ∃ g,
    endWait (waiting s h w) h w v = retire (logged s h k .sync ((s.bank h k).at 0) v 0) h k (writerOf s h k) (s.bank h k).resume
      (doneOf (logged s h k .sync ((s.bank h k).at 0) v 0) { s.bank h k with ds := v :: (s.bank h k).ds.drop 1 }
        (nextWord (s.bank h k).resume)) false g := by
  refine ⟨⟨.x, 0, none⟩, ?_⟩
  simp only [endWait, runBank_waiting r w, writer_waiting r w, waiting_ended r w, hw, if_true]
  rfl

/-- The waiting instruction retires with its status, as the first slot of a window (R245, R267). -/
theorem endWait_logged (r : Ready s h k) {c : Instr} {w : Waiting} {v req : Cell} {kind : LogKind} {b : Bank} {dst : Pos} {g : Group}
    (hc : exec c (waiting s h w) = .next (endWait (waiting s h w) h w v))
    (hend : endWait (waiting s h w) h w v = retire (logged s h k kind req v 0) h k (writerOf s h k) (s.bank h k).resume
      (doneOf (logged s h k kind req v 0) b dst) false g) :
    RetiresLogged c (waiting s h w) (logged s h k kind req v 0) h k b dst := by
  have a := Asked.refl s h
  have q : Poised s (logged s h k kind req v 0) h := a.poised r kind req v 0 false
  obtain ⟨y, hy, hb⟩ := retire_boundary (logged s h k kind req v 0) h k (writerOf s h k) (s.bank h k).resume
    (doneOf (logged s h k kind req v 0) b dst) q.arith rfl rfl false g
  have hexec : exec c (waiting s h w) = .next (retireClose y h false) := hc.trans (congrArg Host.Outcome.next (hend.trans hy))
  have m := hb.unmoved
  simp only [doneOf, takeAll_none] at m
  have hbank : (waiting s h w).bank h k = s.bank h k := by cases h <;> rfl
  have hwin : ((waiting s h w).half h).win = (s.half h).win := by simp [waiting]
  have hmode : (waiting s h w).mode h = s.mode h := by cases h <;> rfl
  refine ⟨fun hl => ⟨y, ?_, by rw [hbank]; exact hb.bank, hb.arith, m⟩, fun hl => ?_⟩
  · rw [hwin] at hl
    rw [hexec, retireClose_none y h (noClose_of_unmoved (a.noClose r hl kind req v 0) m)]
  · obtain ⟨log, hlog⟩ := win_logged s h k kind req v 0
    have hfull : 64 ≤ (y.half h).win.logged := by
      rw [hwin] at hl
      rw [m.win, hlog]
      exact le_of_eq (congrArg (· + 1) hl.symm)
    have z := hb.closesAs (hb.closes q r rfl (close := false) (.inr hfull)) r q rfl
    simp only [doneOf, takeAll_none] at z
    exact ⟨_, hexec, by rw [hbank]; exact z.bank, z.banks, z.far, by rw [hwin]; exact z.num, z.slots, by rw [hmode]; exact z.kept, trivial⟩

/-- A WAIT ends with cause 0 once its time is up (R131). -/
theorem wait_times_out (r : Ready s h k) {time mask : Cell} {l : List Cell} (hds : (s.bank h k).ds = time :: mask :: l) {seen : Bool}
    (hcause : waitCause (waiting s h ⟨false, mask, time, seen⟩) h k mask seen = none) (hus : waitUs time ≠ BitVec.allOnes 32) :
    RetiresLogged (.waitEnd h true) (waiting s h ⟨false, mask, time, seen⟩) (logged s h k .wait 0 (waitStatus s (gctx h k) 0 0) 0) h k
      { s.bank h k with ds := waitStatus s (gctx h k) 0 0 :: l } (slotsOn (s.bank h k).resume 1) := by
  have hw : waitingOf (waiting s h ⟨false, mask, time, seen⟩) h false = _ := waiting_of r ⟨false, mask, time, seen⟩
  have hup : (true && waitUs time != BitVec.allOnes 32) = true := by simpa using hus
  have hstatus : waitStatus (waiting s h ⟨false, mask, time, seen⟩) (gctx h k) 0 0 = waitStatus s (gctx h k) 0 0 := by cases h <;> rfl
  have hpoll : exec (.waitEnd h true) (waiting s h ⟨false, mask, time, seen⟩) =
      .next (endWait (waiting s h ⟨false, mask, time, seen⟩) h ⟨false, mask, time, seen⟩ (waitStatus s (gctx h k) 0 0)) := by
    simp only [exec, execWaitEnd, waitEnd, hw, pollWait, hcause, hup, if_true, hstatus]
  obtain ⟨g, hend⟩ := endWait_wait r (w := ⟨false, mask, time, seen⟩) rfl (waitStatus s (gctx h k) 0 0)
  simp only [hds, List.drop_succ_cons, List.drop_zero] at hend
  exact endWait_logged r hpoll hend

/-- A waiting SYNC ends once its status has (R351). -/
theorem sync_wait_ends (r : Ready s h k) {ticket : Cell} {l : List Cell} (hds : (s.bank h k).ds = ticket :: l)
    (hend : statEnds (statOf s h k ticket) = true) :
    RetiresLogged (.sync h) (waiting s h ⟨true, ticket, 0, false⟩) (logged s h k .sync ticket (statOf s h k ticket) 0) h k
      { s.bank h k with ds := statOf s h k ticket :: l } (nextWord (s.bank h k).resume) := by
  have hw : waitingOf (waiting s h ⟨true, ticket, 0, false⟩) h true = _ := waiting_of r ⟨true, ticket, 0, false⟩
  have hstat : statOf (waiting s h ⟨true, ticket, 0, false⟩) h k ticket = statOf s h k ticket := by cases h <;> rfl
  have hpoll : exec (.sync h) (waiting s h ⟨true, ticket, 0, false⟩) =
      .next (endWait (waiting s h ⟨true, ticket, 0, false⟩) h ⟨true, ticket, 0, false⟩ (statOf s h k ticket)) := by
    simp only [exec, execSync, syncSlot, hw, pollSync, hstat, hend, Bool.true_or, if_true]
  obtain ⟨g, hretire⟩ := endWait_sync r (w := ⟨true, ticket, 0, false⟩) rfl (statOf s h k ticket)
  have hat : (s.bank h k).at 0 = ticket := by simp [Bank.at, hds]
  simp only [hat, hds, List.drop_succ_cons, List.drop_zero] at hretire
  exact endWait_logged r hpoll hretire

/-- Settles O23. -/
theorem waitsEndWithAStatus : Obligations.WaitsEndWithAStatus := by
  intro s h k time mask ticket l hs hl b g u waits starts
  have r := steady_ready hs
  have started {c : Instr} {w : Waiting} (e : ∃ t, exec c s = .next t ∧ Begun s t h k w) : starts c w := by
    obtain ⟨t, ht, a⟩ := e
    exact ⟨t, ht, a.banks h k, a.waiting, a.banks h, a.banks h.other⟩
  refine ⟨fun hds => ⟨fun c n hcause hc => ?_, fun hcause hus => ?_, fun hcause hus hi hq => ?_⟩, fun hds seen hcause hus => ?_,
    fun hslot hds => ⟨fun hend => ?_, fun hend hdue hi hq => ?_, fun hend => ?_⟩⟩
  · exact wait_ends hs hds hl hc (.inl hcause)
  · exact wait_ends hs hds hl (by decide) (.inr ⟨hcause, hus, rfl, rfl⟩)
  · exact started (wait_begins hs hds hl hcause hus hi hq)
  · exact wait_times_out r hds hcause hus
  · exact sync_ends r hslot hds (by omega) hend
  · exact started (sync_begins r hslot hds (by omega) hend hdue hi hq)
  · exact sync_wait_ends r hds hend

end

end Sys2Proof.Machine

/-! # Loads (R114, R120, R186, R191, R197, R198, R205; O15) -/

namespace Sys2Proof.Machine

section
variable {s t u v : State} {h : HalfId} {k : BitVec 5}

/-! ## A retirement that leaves what it will -/

/-- An instruction of a ready half that stores nothing and forces no close retires as it says (R101). -/
theorem attempt_done (r : Ready s h k) {c : Instr} {f : Form} {rep : Bool} {enc : BitVec 5 → Bank → Option FaultInfo} {o : Op}
    {b : Bank} {dst : Pos} (hc : exec c s = .next (attempt s h f rep enc o)) (hf : f.fits (s.bank h k).resume = true)
    (he : enc k (s.bank h k) = none) (hi : o.isolated = false) (hst : stackFault (s.bank h k) o.pops o.pushes = none)
    (hrun : o.run s h k (s.bank h k) (f.next (s.bank h k).resume) = doneBank u b dst)
    (harith : (u.ex h).arith = none) (hn : noClose (keepLoads s u h k) h) : RetiresFrom c s (keepLoads s u h k) h k b dst := by
  obtain ⟨v, hv, hb⟩ := attempt_boundary r (rep := rep) (d := doneOf u b dst) hf he (fun hiso => absurd (hi.symm.trans hiso) (by decide))
    hst hrun (fun hclose => Bool.noConfusion hclose) harith rfl (by simp [doneOf, storesOverflow]) (by simp [doneOf, storesFit]) rfl rfl
  have m := hb.unmoved
  simp only [doneOf, takeAll_none] at m
  refine ⟨v, ?_, hb.bank, hb.arith, m⟩
  rw [hc, hv]
  exact congrArg Host.Outcome.next (retireClose_none v h (noClose_of_unmoved hn m))

theorem keepLoads_none (hr : (u.ex h).reads = (s.ex h).reads) : keepLoads s u h k = u := by simp [keepLoads, hr]

/-! ## The store buffer before a load (R197, R198) -/

theorem forwarded_eq (s : State) (h : HalfId) (a : Addr) :
    forwarded (s.half h).win a = (lastStore s h a).map fun e => ⟨e.data, e.tag⟩ := by
  show (match lastStore s h a with
    | none => none
    | some e => some (⟨e.data, e.tag⟩ : TCell)) = _
  cases lastStore s h a <;> rfl

theorem noClose_sealed (hn : noClose s h) : noClose (sealed s h) h := by
  obtain ⟨a, b, c, d, e, f⟩ := hn
  have hwin : ((sealed s h).half h).win = { (s.half h).win with sb := ((sealed s h).half h).win.sb } := by rw [sealed, half_onWin]
  refine ⟨?_, ?_, ?_, ?_, ?_, ?_⟩
  · rw [hwin]; exact a
  · rw [hwin]; exact b
  · rw [hwin]; exact c
  · rw [show (sealed s h).prt = s.prt by cases h <;> rfl]; exact d
  · rw [show (sealed s h).dbgHalf h = s.dbgHalf h by cases h <;> rfl]; exact e
  · rw [hwin]; exact f

/-! ## An outstanding read (R191, R205) -/

/-- The read that a load sends out, once it stands among the half's reads. -/
structure Sent (s t : State) (h : HalfId) : Prop where
  win : (t.half h).win = (s.half h).win
  prt : t.prt = s.prt
  dbg : t.dbg = s.dbg
  arith : (t.ex h).arith = (s.ex h).arith
  reads : (t.ex h).reads.length = (s.ex h).reads.length + 1

theorem startRead_sent (s : State) (h : HalfId) (k : BitVec 5) (o : OutRead) : Sent s (startRead s h k o) h := by
  simp only [startRead]
  split
  · simp only [grantRetained]
    split <;> (refine ⟨?_, ?_, ?_, ?_, ?_⟩ <;> cases h <;> simp [State.onEx, State.onHalf, State.setHalf, State.half, State.ex])
  · split
    · refine ⟨?_, ?_, ?_, ?_, ?_⟩ <;> cases h <;> simp [State.onEx, State.onMem, State.onHalf, State.setHalf, State.half, State.ex]
    · refine ⟨?_, ?_, ?_, ?_, ?_⟩ <;> cases h <;> simp [State.onEx, State.onSpn, State.onHalf, State.setHalf, State.half, State.ex]

/-- The read of a load in flight, with the state before it kept (R205). -/
def started (s : State) (h : HalfId) (k : BitVec 5) (o : OutRead) : State :=
  (startRead (sealed s h) h k o).onEx h fun e => { e with ckpt := e.ckpt ++ [ckptOf s h k] }

theorem keepLoads_started (s : State) (h : HalfId) (k : BitVec 5) (o : OutRead) : keepLoads s (startRead (sealed s h) h k o) h k = started s h k o := by
  have hlen := (startRead_sent (sealed s h) h k o).reads
  have hsealed : ((sealed s h).ex h).reads = (s.ex h).reads := by simp [sealed]
  rw [hsealed] at hlen
  rw [keepLoads, if_pos (by omega)]
  rfl

theorem noClose_started (r : Ready s h k) (o : OutRead) : noClose (started s h k o) h := by
  have a := startRead_sent (sealed s h) h k o
  refine noClose_congr (s := sealed s h) ?_ ?_ ?_ (noClose_sealed r.noClose)
  · rw [started, half_onEx]
    exact a.win
  · exact Eq.trans (by cases h <;> rfl) a.prt
  · have hdbg : (started s h k o).dbg = (sealed s h).dbg := Eq.trans (by cases h <;> rfl) a.dbg
    simp only [State.dbgHalf, hdbg]

/-! ## Loads of one cell (R114, R120, R186) -/

theorem doneStack_one (t : State) {b : Bank} {x : Cell} {l : List Cell} (hds : b.ds = x :: l) (dst : Pos) (v : Cell) :
    doneStack t b dst 1 [v] = doneBank t { b with ds := v :: l } dst := by
  simp [doneStack, hds]

theorem loadTop_forwarded {b : Bank} {a : Addr} {e : SbEntry} (he : lastStore s h a = some e) (dst : Pos) (t : BitVec 10)
    (reg : BitVec 3) (info : BitVec 24) : loadTop s h k b dst a t reg info = doneStack (sealed s h) b dst 1 [e.data] := by
  simp only [loadTop, forwarded_eq, he, Option.map_some]
  rfl

theorem loadTop_sent {b : Bank} {a : Addr} (he : lastStore s h a = none) (dst : Pos) (t : BitVec 10) (reg : BitVec 3)
    (info : BitVec 24) : loadTop s h k b dst a t reg info =
      doneStack (startRead (sealed s h) h k
        ⟨b.ds.length + b.sd.toNat - 1, a, t, false, TCell.zero, false, false, false, none, b.resume, reg, info⟩) b dst 1 [0] := by
  simp only [loadTop, forwarded_eq, he, Option.map_none]
  rfl

/-- A load of one cell in place of its offset: forwarded, or sent out (R191, R197, R198). -/
theorem load_retires (r : Ready s h k) {c : Instr} {o : Op} {off : Cell} {l : List Cell} {a : Addr} {t : BitVec 10} {reg : BitVec 3}
    {info : BitVec 24} (hds : (s.bank h k).ds = off :: l) (hl : l.length < 16) (hc : exec c s = .next (runSlot s h o))
    (hi : o.isolated = false) (hpops : o.pops = 1) (hpushes : o.pushes = 1)
    (hrun : ∀ dst, o.run s h k (s.bank h k) dst = loadTop s h k (s.bank h k) dst a t reg info) :
    (∀ e, lastStore s h a = some e →
      RetiresFrom c s (sealed s h) h k { s.bank h k with ds := e.data :: l } (slotsOn (s.bank h k).resume 1)) ∧
    (lastStore s h a = none → RetiresFrom c s (started s h k
        ⟨l.length + (s.bank h k).sd.toNat, a, t, false, TCell.zero, false, false, false, none, (s.bank h k).resume, reg, info⟩) h k
      { s.bank h k with ds := 0 :: l } (slotsOn (s.bank h k).resume 1)) := by
  have hst : stackFault (s.bank h k) o.pops o.pushes = none :=
    stackFault_none _ _ _ (by simp [hpops, hds]) (by simp only [hpops, hpushes, hds, List.length_cons]; omega)
  have hsealed : keepLoads s (sealed s h) h k = sealed s h := keepLoads_none (by simp [sealed])
  have hplace : (s.bank h k).ds.length + (s.bank h k).sd.toNat - 1 = l.length + (s.bank h k).sd.toNat := by
    rw [hds, List.length_cons]
    omega
  refine ⟨fun e he => ?_, fun he => ?_⟩
  · have := attempt_done r (u := sealed s h) (b := { s.bank h k with ds := e.data :: l }) (dst := slotsOn (s.bank h k).resume 1)
      (rep := false) (enc := noEnc) hc rfl rfl hi hst
      (by rw [hrun, loadTop_forwarded he, doneStack_one _ hds]; rfl) (by simpa [sealed] using r.arith) (by rw [hsealed]; exact noClose_sealed r.noClose)
    rwa [hsealed] at this
  · have := attempt_done r (u := startRead (sealed s h) h k _) (b := { s.bank h k with ds := 0 :: l })
      (dst := slotsOn (s.bank h k).resume 1) (rep := false) (enc := noEnc) hc rfl rfl hi hst
      (by rw [hrun, loadTop_sent he, hplace, doneStack_one _ hds]; rfl)
      (by rw [(startRead_sent ..).arith]; simpa [sealed] using r.arith) (by rw [keepLoads_started s h k]; exact noClose_started r _)
    rwa [keepLoads_started s h k] at this

theorem checkCode_ok {c : Cap} {off : Nat} {a : Addr} (hg : grants s h c spInstr pLD off 1 = true) (ha : a.toNat = c.base.toNat + off)
    (hm : codeMapped s h a.toNat = 0) : checkCode s h c codeLoad off = .ok a := by
  simp only [grants, Bool.and_eq_true, beq_iff_eq, decide_eq_true_eq] at hg
  obtain ⟨⟨⟨⟨htag, hspace⟩, hgen⟩, hperm⟩, hlen⟩ := hg
  have hst : capStatus c (s.genOk h c) codeLoad off false = 0 := by
    simp [capStatus, codeLoad, htag, hspace, hgen, hperm, Nat.not_lt.2 hlen]
  have haddr : BitVec.ofNat 24 a.toNat = a := by simp
  rw [ha] at hm haddr
  simp [checkCode, hst, effAddr, hm, haddr]

/-- Settles O15. -/
theorem loadsReadDataSpace : Obligations.LoadsReadDataSpace := by
  intro s h k n off l hs hl b dst back out started hds
  have r := steady_ready hs
  have hat : (s.bank h k).at 0 = off := by simp [Bank.at, show (s.bank h k).ds = off :: l from hds]
  refine ⟨fun a ha hg hm => ?_, fun a ha hg hm => ⟨fun hrom => ?_, fun hram => ?_⟩⟩
  · have hcheck := checkData_ok (reg := n.setWidth 3) (code := false) hg ha hm (fun hne => absurd rfl hne)
    exact load_retires r (o := opLdn n) hds hl rfl rfl rfl rfl fun dst => by
      simp only [opLdn, runLdn, hat]
      rw [hcheck]
  · have hcheck := checkCode_ok hg ha hm
    have hsealed : keepLoads s (sealed s h) h k = sealed s h := keepLoads_none (by simp [sealed])
    have := attempt_done r (u := sealed s h) (b := back (Config.bootRom a.toNat)) (dst := dst) (c := .ifetch h) (f := simpleForm) (rep := false)
      (enc := noEnc) (o := opIfetch) rfl rfl rfl rfl
      (stackFault_none _ 1 1 (by simp [show (s.bank h k).ds = off :: l from hds]) (by
        simp only [show (s.bank h k).ds = off :: l from hds, List.length_cons]; omega)) (by
        simp only [opIfetch, runIfetch, hat]
        rw [hcheck]
        simp only [if_pos hrom, show (s.bank h k).ds = off :: l from hds, doneStack]
        rfl) (by simpa [sealed] using r.arith) (by rw [hsealed]; exact noClose_sealed r.noClose)
    rwa [hsealed] at this
  · have hcheck := checkCode_ok hg ha hm
    exact load_retires r (o := opIfetch) hds hl rfl rfl rfl rfl fun dst => by
      simp only [opIfetch, runIfetch, hat]
      rw [hcheck]
      exact if_neg (Nat.not_le.2 hram)

end

end Sys2Proof.Machine

/-! # Spills (R136, R137, R194, R198; O18) -/

namespace Sys2Proof.Machine

section
variable {s t u v : State} {h : HalfId} {k : BitVec 5}

/-! ## Runs of cells that are stored (R194, R198) -/

/-- The store of cell number i of a run from address `a`. -/
def runStore (a : Nat) (t : BitVec 10) (f : Nat → Cell × Bool × LinkKind) (i : Nat) : StoreCell :=
  ⟨.data (BitVec.ofNat 24 (a + i)) t, (f i).1, (f i).2.1, (f i).2.2⟩

theorem hits_runStore (a : Nat) (t : BitVec 10) (f : Nat → Cell × Bool × LinkKind) (i : Nat) (num : Cell) (e : SbEntry) :
    (runStore a t f i).hits num e = ((f i).2.2 == .single && e.mergeable num (BitVec.ofNat 24 (a + i))) := rfl

/-- The cells of a run shorter than the address space lie at addresses of their own. -/
theorem runStores_apart (a : Nat) (t : BitVec 10) (f : Nat → Cell × Bool × LinkKind) {n : Nat} (hn : n ≤ 8) (num : Cell) (wr : Writer)
    (snap : Option CapSnap) :
    ((List.range n).map (runStore a t f)).Pairwise fun c c' => c'.hits num (c.entry num wr snap) = false := by
  refine List.pairwise_map.2 (List.Pairwise.imp_of_mem ?_ List.pairwise_lt_range)
  intro i j hi hj hij
  have hi' := List.mem_range.1 hi
  have hj' := List.mem_range.1 hj
  have hne : (BitVec.ofNat 24 (a + i) == BitVec.ofNat 24 (a + j)) = false := by
    simp only [beq_eq_false_iff_ne, ne_eq, ← BitVec.toNat_inj, BitVec.toNat_ofNat]
    omega
  rw [hits_runStore]
  simp [SbEntry.mergeable, StoreCell.entry, runStore, hne]

theorem runStores_fresh (a : Nat) (t : BitVec 10) (f : Nat → Cell × Bool × LinkKind) {n : Nat} {w : Windows}
    (hfresh : ∀ i < n, wouldMerge w (BitVec.ofNat 24 (a + i)) = false) :
    ∀ c ∈ (List.range n).map (runStore a t f), ∀ e ∈ w.sb, c.hits w.num e = false := by
  intro c hc e he
  obtain ⟨i, hi, rfl⟩ := List.mem_map.1 hc
  have hm : e.mergeable w.num (BitVec.ofNat 24 (a + i)) = false :=
    Bool.eq_false_iff.2 (List.any_eq_false.1 (hfresh i (List.mem_range.1 hi)) e he)
  rw [hits_runStore, hm, Bool.and_false]

/-- A run of cells enters the buffer in order, each with an entry of its own. -/
theorem runStores_buffered (s : State) (h : HalfId) (k : BitVec 5) (snap : Option CapSnap) (a : Nat) (t : BitVec 10)
    (f : Nat → Cell × Bool × LinkKind) {n : Nat} (hn : n ≤ 8)
    (hfresh : ∀ i < n, wouldMerge (s.half h).win (BitVec.ofNat 24 (a + i)) = false) :
    s.onWin h (Windows.takeAll (writerOf s h k) snap ((List.range n).map (runStore a t f))) =
      buffered s h k snap ((List.range n).map fun i => (.data (BitVec.ofNat 24 (a + i)) t, f i)) := by
  rw [buffered_eq s h k snap _ (runStores_fresh a t f hfresh) (runStores_apart a t f hn _ _ _), List.map_map]
  rfl

theorem plainStores_eq (t : BitVec 10) (l : List Cell) (a : Nat) : plainStores (BitVec.ofNat 24 a) t l =
    (List.range l.length).map (runStore a t fun i => (l.getD i 0, false, .single)) := by
  induction l generalizing a with
  | nil => rfl
  | cons c l ih =>
    have hnext : (BitVec.ofNat 24 a + 1 : Addr) = BitVec.ofNat 24 (a + 1) := (BitVec.ofNat_add a 1).symm
    rw [plainStores, hnext, ih (a + 1), List.length_cons, List.range_succ_eq_map, List.map_cons, List.map_map]
    refine congrArg₂ List.cons rfl (List.map_congr_left fun i _ => ?_)
    simp only [runStore, Function.comp_apply, List.getD_cons_succ, Nat.succ_eq_add_one, Nat.add_assoc, Nat.add_comm 1]

/-! ## The checks of a run (R54, R55, R136, R137) -/

theorem firstFault_none {chk : Nat → Except FaultInfo Addr} {off n : Nat} (hc : ∀ i < n, ∃ a, chk (off + i) = .ok a) :
    firstFault chk off n = none := by
  induction n with
  | zero => rfl
  | succ n ih =>
    obtain ⟨a, ha⟩ := hc n (Nat.lt_succ_self n)
    simp [firstFault, ih fun i hi => hc i (Nat.lt_succ_of_lt hi), ha]

theorem checkBoth_ok {c : Cap} {reg : BitVec 3} {p q off : Nat} (hg : grants s h c spData p off 1 = true) (hq : c.has q = true)
    (hm : dataMapped s h (c.base.toNat + off) = 0) : checkBoth s h c reg p q off = .ok (BitVec.ofNat 24 (c.base.toNat + off)) := by
  simp only [grants, Bool.and_eq_true, beq_iff_eq, decide_eq_true_eq] at hg
  obtain ⟨⟨⟨⟨htag, hspace⟩, hgen⟩, hperm⟩, hlen⟩ := hg
  have hst : capStatus c (s.genOk h c) ⟨reg, spData, p, false, 1⟩ off false = 0 := by
    simp [capStatus, htag, hspace, hgen, hperm, Nat.not_lt.2 hlen]
  simp [checkBoth, checkTwo, checkData, hst, effAddr, hm, hq]

theorem checkSpill_ok {c : Cap} {reg : BitVec 3} {p q off : Nat} (hg : grants s h c spData p off 1 = true) (hq : c.has q = true)
    (hm : dataMapped s h (c.base.toNat + off) = 0)
    (hl : ((regionOf (BitVec.ofNat 24 (c.base.toNat + off))).isNvm && s.lockedMode h) = false) :
    checkSpill s h c reg p q off = .ok (BitVec.ofNat 24 (c.base.toNat + off)) := by
  simp [checkSpill, checkBoth_ok hg hq hm, storeLocked, hl]

theorem grants_within {c : Cap} {p off n : Nat} (hg : grants s h c spData p off n = true) {i : Nat} (hi : i < n) :
    grants s h c spData p (off + i) 1 = true := by
  simp only [grants, Bool.and_eq_true, decide_eq_true_eq] at hg ⊢
  exact ⟨hg.1, by omega⟩

theorem ofNat_base (b : Addr) (x : Cell) : b + fld x 0 24 = BitVec.ofNat 24 (b.toNat + x.toNat) := by
  apply BitVec.eq_of_toNat_eq
  simp [fld, BitVec.toNat_add, BitVec.extractLsb'_toNat]

/-! ## SPILLD (R136) -/

theorem spilld_retires (r : Ready s h k) (hslot : (s.bank h k).resume.slot.toNat < 5) {v l : List Cell} {a : Nat}
    (hds : (s.bank h k).ds = l ++ v.reverse) (hlen : (s.bank h k).ds.length ≤ 16) (hv : v.length = min 8 (s.bank h k).ds.length)
    (hroom : roomFor8 s h v.length = true) (ha : a = (s.bank h k).spd.base.toNat + (s.bank h k).sd.toNat)
    (hg : grants s h (s.bank h k).spd spData pST (s.bank h k).sd.toNat v.length = true)
    (hplain : ∀ i < v.length, dataMapped s h (a + i) = 0 ∧ ((regionOf (BitVec.ofNat 24 (a + i))).isNvm && s.lockedMode h) = false)
    (hfresh : ∀ i < v.length, wouldMerge (s.half h).win (BitVec.ofNat 24 (a + i)) = false) :
    RetiresFrom (.spilld h) s (buffered s h k none ((List.range v.length).map fun i =>
        (.data (BitVec.ofNat 24 (a + i)) (s.bank h k).spd.tenant, v.getD i 0, false, .single))) h k
      { s.bank h k with ds := l, sd := (s.bank h k).sd + BitVec.ofNat 36 v.length } (nextWord (s.bank h k).resume) := by
  have hcheck : firstFault (checkSpill s h (s.bank h k).spd 5 pST pST) (s.bank h k).sd.toNat v.length = none := by
    refine firstFault_none fun i hi => ⟨_, checkSpill_ok (grants_within hg hi) ?_ ?_ ?_⟩
    · simp only [grants, Bool.and_eq_true] at hg
      exact hg.1.2
    · rw [← Nat.add_assoc, ← ha]
      exact (hplain i hi).1
    · rw [← Nat.add_assoc, ← ha]
      exact (hplain i hi).2
  have hread (touch : List Nat) : consumedRead (s.ex h) (s.bank h k) touch = none := by simp [consumedRead, r.reads]
  have htake : (s.bank h k).ds.take ((s.bank h k).ds.length - v.length) = l := by simp [hds]
  have hold : (s.bank h k).ds.reverse.take v.length = v := by simp [hds]
  have hrun : opSpilld.run s h k (s.bank h k) (nextWord (s.bank h k).resume) = .done (doneStores s
      { s.bank h k with ds := l, sd := (s.bank h k).sd + cellOf v.length } (nextWord (s.bank h k).resume) none
      ((List.range v.length).map (runStore a (s.bank h k).spd.tenant fun i => (v.getD i 0, false, .single)))) := by
    rw [← plainStores_eq, ha, ← ofNat_base]
    simp only [opSpilld, runSpilld, ← hv, hread, hcheck, htake, hold]
    rfl
  rw [← runStores_buffered s h k none a _ (fun i => (v.getD i 0, false, .single)) (by omega) hfresh]
  exact attempt_stores r (.spilld h) (selectorForm 0o75) false noEnc opSpilld _ _ none _ rfl (selectorForm_fits hslot 0o75) rfl rfl
    (stackFault_none _ 0 0 (by omega) (by simpa using hlen)) hrun hroom (by simp)

/-! ## SPILLT (R137) -/

/-- Whether entry i of a run is of a tagged pair. -/
def ofPair (v : List TCell) (i : Nat) : Bool := (v.getD (i / 2 * 2) TCell.zero).tag && (v.getD (i / 2 * 2 + 1) TCell.zero).tag

/-- The data, tag and link of entry i of a run: a tagged pair is linked (R137). -/
def entryCell (v : List TCell) (i : Nat) : Cell × Bool × LinkKind :=
  ((v.getD i TCell.zero).val, ofPair v i, if ofPair v i then (if i % 2 = 0 then .first else .second) else .single)

theorem entryStores_pair (a : Addr) (t : BitVec 10) (x y : TCell) (l : List TCell) :
    entryStores a t (x :: y :: l) =
      [⟨.data a t, x.val, x.tag && y.tag, if x.tag && y.tag then .first else .single⟩,
       ⟨.data (a + 1) t, y.val, x.tag && y.tag, if x.tag && y.tag then .second else .single⟩] ++ entryStores (a + 2) t l := by
  rw [entryStores]
  cases x.tag && y.tag <;> rfl

theorem entryCell_beyond (x y : TCell) (l : List TCell) (i : Nat) : entryCell (x :: y :: l) (i + 2) = entryCell l i := by
  have hhalf : (i + 2) / 2 * 2 = i / 2 * 2 + 1 + 1 := by omega
  have hpair : ofPair (x :: y :: l) (i + 2) = ofPair l i := by
    simp only [ofPair, hhalf, List.getD_cons_succ]
  simp only [entryCell, hpair, List.getD_cons_succ, Nat.add_mod_right]

/-- The entries of whole pairs, in order. -/
theorem entryStores_eq (t : BitVec 10) (n : Nat) (v : List TCell) (hv : v.length = 2 * n) (a : Nat) :
    entryStores (BitVec.ofNat 24 a) t v = (List.range v.length).map (runStore a t (entryCell v)) := by
  induction n generalizing v a with
  | zero =>
    obtain rfl := List.length_eq_zero_iff.1 hv
    rfl
  | succ n ih =>
    obtain _ | ⟨x, _ | ⟨y, l⟩⟩ := v
    · simp at hv
    · simp at hv; omega
    · have hnext (m : Nat) : (BitVec.ofNat 24 a + BitVec.ofNat 24 m : Addr) = BitVec.ofNat 24 (a + m) := (BitVec.ofNat_add a m).symm
      have hl : l.length = 2 * n := by simp only [List.length_cons] at hv; omega
      have htail : (List.range l.length).map (runStore (a + 2) t (entryCell l)) =
          (List.range l.length).map fun i => runStore a t (entryCell (x :: y :: l)) (i + 2) :=
        List.map_congr_left fun i _ => by
          simp only [runStore, entryCell_beyond, Nat.add_assoc, Nat.add_comm 2]
      rw [entryStores_pair, show (2 : Addr) = BitVec.ofNat 24 2 from rfl, show (1 : Addr) = BitVec.ofNat 24 1 from rfl, hnext, hnext,
        ih l hl (a + 2), htail]
      simp only [List.length_cons, List.range_succ_eq_map, List.map_cons, List.map_map]
      rfl

theorem localPair_none (t : BitVec 10) (v : List TCell) (i : Nat) (hv : ∀ j, 2 * j + 1 < v.length →
    (v.getD (2 * j) TCell.zero).tag = true → (v.getD (2 * j + 1) TCell.zero).tag = true →
    globalOk (capOf true (v.getD (2 * j) TCell.zero).val (v.getD (2 * j + 1) TCell.zero).val) t = true) :
    localPair t i v = none := by
  induction v using List.twoStepInduction generalizing i with
  | nil => rfl
  | singleton x => rfl
  | cons_cons x y l ih _ =>
    have hfirst : (x.tag && y.tag && !globalOk (capOf true x.val y.val) t) = false := by
      have := hv 0 (by simp)
      simp only [Nat.mul_zero, List.getD_cons_zero, Nat.zero_add, List.getD_cons_succ] at this
      cases hx : x.tag <;> cases hy : y.tag <;> simp_all
    rw [localPair, hfirst]
    refine ih _ fun j hj => ?_
    have := hv (j + 1) (by simp only [List.length_cons]; omega)
    simpa only [show 2 * (j + 1) = 2 * j + 1 + 1 by omega, List.getD_cons_succ] using this

theorem spillt_retires (r : Ready s h k) (hslot : (s.bank h k).resume.slot.toNat < 5) (hlen : (s.bank h k).ds.length ≤ 16)
    {v l : List TCell} {a : Nat} (hrs : (s.bank h k).rs = l ++ v.reverse) (hv : v.length = 8) (hroom : roomFor8 s h 8 = true)
    (ha : a = (s.bank h k).spt.base.toNat + (s.bank h k).st.toNat)
    (hg : grants s h (s.bank h k).spt spData pST (s.bank h k).st.toNat 8 = true) (hq : (s.bank h k).spt.has pCS = true)
    (hplain : ∀ i < 8, dataMapped s h (a + i) = 0 ∧ ((regionOf (BitVec.ofNat 24 (a + i))).isNvm && s.lockedMode h) = false)
    (hfresh : ∀ i < 8, wouldMerge (s.half h).win (BitVec.ofNat 24 (a + i)) = false)
    (hlocal : localPair (s.bank h k).spt.tenant 0 v = none) :
    RetiresFrom (.spillt h) s (buffered s h k none ((List.range 8).map fun i =>
        (.data (BitVec.ofNat 24 (a + i)) (s.bank h k).spt.tenant, entryCell v i))) h k
      { s.bank h k with rs := l, st := (s.bank h k).st + 8 } (nextWord (s.bank h k).resume) := by
  have hcheck : firstFault (checkSpill s h (s.bank h k).spt 6 pST pCS) (s.bank h k).st.toNat 8 = none := by
    refine firstFault_none fun i hi => ⟨_, checkSpill_ok (grants_within hg hi) hq ?_ ?_⟩
    · rw [← Nat.add_assoc, ← ha]
      exact (hplain i hi).1
    · rw [← Nat.add_assoc, ← ha]
      exact (hplain i hi).2
  have htake : (s.bank h k).rs.take ((s.bank h k).rs.length - 8) = l := by simp [hrs, hv]
  have hold : (s.bank h k).rs.reverse.take 8 = v := by simp [hrs, ← hv]
  have hfull : ¬ (s.bank h k).rs.length < 8 := by simp [hrs, hv]
  have hrun : opSpillt.run s h k (s.bank h k) (nextWord (s.bank h k).resume) = .done (doneStores s
      { s.bank h k with rs := l, st := (s.bank h k).st + 8 } (nextWord (s.bank h k).resume) none
      ((List.range 8).map (runStore a (s.bank h k).spt.tenant (entryCell v)))) := by
    rw [← hv, ← entryStores_eq _ 4 v hv, ha, ← ofNat_base]
    simp only [opSpillt, runSpillt, hfull, if_false, hcheck, htake, hold, hlocal]
    rfl
  rw [← runStores_buffered s h k none a _ (entryCell v) (by omega) hfresh]
  exact attempt_stores r (.spillt h) (selectorForm 0o75) false noEnc opSpillt _ _ none _ rfl (selectorForm_fits hslot 0o75) rfl rfl
    (stackFault_none _ 0 0 (by omega) (by simpa using hlen)) hrun hroom (by simp)

/-- SPILLT with fewer than 8 entries does nothing (R137). -/
theorem spillt_short (r : Ready s h k) (hslot : (s.bank h k).resume.slot.toNat < 5) (hlen : (s.bank h k).ds.length ≤ 16)
    (hrs : (s.bank h k).rs.length < 8) : Retires (.spillt h) s h k (s.bank h k) (nextWord (s.bank h k).resume) :=
  attempt_plain r (.spillt h) (selectorForm 0o75) false noEnc opSpillt _ _ none rfl (selectorForm_fits hslot 0o75) rfl rfl
    (stackFault_none _ 0 0 (by omega) (by simpa using hlen)) (by simp only [opSpillt, runSpillt, hrs, if_true]; rfl)

/-- Settles O18. -/
theorem spillsStoreTheOldest : Obligations.SpillsStoreTheOldest := by
  intro s h k hs b fresh plain hslot hlen
  have r := steady_ready hs
  refine ⟨fun v l a hds hv hroom ha hg hplain hfresh => ?_, fun v l a hrs hv hroom ha hg hq hplain hfresh hglobal => ?_,
    fun hrs => spillt_short r hslot hlen hrs⟩
  · exact spilld_retires r hslot hds hlen hv hroom ha hg hplain hfresh
  · exact spillt_retires r hslot hlen hrs hv hroom ha hg hq hplain hfresh
      (localPair_none _ v 0 fun j hj => hglobal j (by omega))

end

end Sys2Proof.Machine

/-! # Context images (R149, R176, R258; O30)

The first clause on CTXLD fails at the wrap of the window counter: the change of the other context's bank is labelled with the number
after the window's own (R258). In the last window that the counter can number that label is 0, which no window in progress is below, so
the change acts at the close itself and none is left to wait for the verdict. -/

namespace Sys2Proof.Machine

/-- Half 0 in TALLIED under an installed charter, its context 0 the warden in the first word of its code, with C0 over all of data space
and these cells on its stack. -/
def wardenAlone (ds : List Cell) : State :=
  let code : Cap := ⟨true, spInstr, 0, 0, 0, 0o377, 0o10000⟩
  let data : Cap := ⟨true, spData, 0, 0, 0, 0o377, 0o77777777⟩
  let s := (State.reset.onEx .h0 fun e => { e with
    mode := mTallied, running := some 0
    banks := [(0, { Bank.reset with pcc := code, c0 := data, valid := true, status := 0o400000000000, ds := ds })] }).onTal .h0
      fun t => t.serve lanes
  { s with cht := { s.cht with installed := true, imgs := [(0, 1)] }, host := { s.host with isoAck := false }
           keep := { s.keep with vcoreOk := true } }

/-- The last window of the counter, with the operands of a CTXLD of context 8 from data address 0, where an image of zeros lies. -/
def lastWindow : State := (wardenAlone [8, 0]).onWin .h0 fun w => { w with num := 0o777777777777 }

/-- The 60 cells of an image that holds nothing. -/
def blankImage : List TCell := List.replicate 60 TCell.zero

theorem lastWindow_meets : steady lastWindow .h0 0 = true ∧ lastWindow.mode .h0 ≠ mReading ∧
    grants lastWindow .h0 (lastWindow.bank .h0 0).c0 spData pLD 0 60 = true ∧ (lastWindow.bank .h0 0).c0.has pCL = true ∧
    dataMapped lastWindow .h0 0 = 0 ∧ dataMapped lastWindow .h0 59 = 0 ∧
    tenantLoads lastWindow .h0 (loadBank blankImage 8).tenant = true := by decide +kernel

theorem blankImage_loads : blankImage.length = 60 ∧ imageLoads blankImage 8 = true ∧ mixedOffset blankImage = none := by decide +kernel

/-- The cells of the image lie in SRAM, where nothing has been written. -/
theorem lastWindow_finds (i : Nat) (hi : i < 60) :
    finds lastWindow .h0 (BitVec.ofNat 24 (0 + i)) 0 (outcomeAt [] i) (blankImage.getD i TCell.zero) := by
  have hstore : lastStore lastWindow .h0 (BitVec.ofNat 24 (0 + i)) = none := rfl
  have hregion : ∀ i < 60, regionOf (BitVec.ofNat 24 (0 + i)) = .sram .h0 := by decide +kernel
  have hcell : ∀ i < 60, blankImage.getD i TCell.zero = TCell.zero := by decide +kernel
  simp only [finds, hstore, hregion i hi, hcell i hi]
  exact ⟨rfl, ReadOutcome.noConfusion, rfl⟩

/-- CTXLD leaves no change of a bank that waits for the verdict on its window. -/
theorem ctxld_lastWindow : ∃ t, exec (.ctxld ⟨.h0, []⟩) lastWindow = .next t ∧ (t.half .h0).win.acts = [] :=
  ⟨runWarden lastWindow .h0 (opCtxld []), rfl, by decide +kernel⟩

/-- Refutes O30: in the last window of the counter the label of the change wraps to 0, so the other context's bank is replaced at the
close, and no change waits for the window's agreement. -/
theorem not_contextImages : ¬ Obligations.ContextImages := by
  unfold Obligations.ContextImages
  intro h
  obtain ⟨hsteady, hmode, hgrants, hcl, hfirst, hlast, htenant⟩ := lastWindow_meets
  obtain ⟨hlen, hloads, hmixed⟩ := blankImage_loads
  obtain ⟨hload, -⟩ := h lastWindow ⟨.h0, []⟩ 0 8 0 [] 0 hsteady (by decide) (by decide +kernel) (by decide +kernel) rfl (by decide)
    (by decide) rfl hfirst hlast
  obtain ⟨_, -, hcloses, -⟩ := hload blankImage hlen hgrants hcl lastWindow_finds hloads htenant hmixed
  obtain ⟨t, ht, -, -, -, -, -, -, hacts⟩ := hcloses hmode
  obtain ⟨u, hu, hnone⟩ := ctxld_lastWindow
  obtain rfl : u = t := Host.Outcome.next.inj (hu.symm.trans ht)
  exact absurd (hnone.symm.trans hacts) (by simp)

end Sys2Proof.Machine

/-! # Capability loads and fills (R62, R117, R197; O17)

The statement fails for a retained cell while the half's commons port is lost (R62): `finds` lets the store buffer answer for it (R197), as it
answers for any other cell, but the instruction waits for the port before it looks there. -/

namespace Sys2Proof.Machine

/-- The operands of a CLD of C1 from the first two retained cells, whose tagged pair a store of the window in progress wrote, in a half that has
lost its commons port. -/
def portless : State :=
  let s := wardenAlone [1, 0o2000000]
  let stored (a : Addr) (d : Cell) (l : LinkKind) : SbEntry := (⟨.data a 0, d, true, l⟩ : StoreCell).entry 0 (writerOf s .h0 0) none
  (s.onWin .h0 fun w => { w with sb := [stored 0o2000000 5 .first, stored 0o2000001 6 .second], stores := 2 }).onTal .h0
    fun t => { t with portLost := true }

theorem portless_meets : steady portless .h0 0 = true ∧
    grants portless .h0 (portless.bank .h0 0).c0 spData pCL 0o2000000 2 = true ∧ dataMapped portless .h0 0o2000000 = 0 ∧
    dataMapped portless .h0 0o2000001 = 0 := by decide +kernel

/-- Both cells stand in the store buffer. -/
theorem portless_finds : finds portless .h0 0o2000000 0 .clean ⟨5, true⟩ ∧ finds portless .h0 0o2000001 0 .clean ⟨6, true⟩ := ⟨rfl, rfl⟩

/-- CLD stalls: its operands stay on the stack. -/
theorem cld_portless : ∃ t, exec (.cld ⟨.h0, []⟩) portless = .next t ∧ (t.bank .h0 0).ds = [1, 0o2000000] :=
  ⟨runSlot portless .h0 (opCld []), rfl, by decide +kernel⟩

/-- Refutes O17: CLD of two retained cells that the store buffer holds does not retire while the half's commons port is lost; it waits. -/
theorem not_capabilityLoadsAndFills : ¬ Obligations.CapabilityLoadsAndFills := by
  unfold Obligations.CapabilityLoadsAndFills
  intro h
  obtain ⟨hsteady, hgrants, hfirst, hsecond⟩ := portless_meets
  obtain ⟨hload, -⟩ := h portless ⟨.h0, []⟩ 0 hsteady
  obtain ⟨_, -, t, ht, hbank, -⟩ := hload 1 0o2000000 [] 0o2000000 ⟨5, true⟩ ⟨6, true⟩ rfl (by decide) rfl rfl hgrants hfirst hsecond
    portless_finds.1 portless_finds.2 rfl rfl
  obtain ⟨u, hu, hstack⟩ := cld_portless
  obtain rfl : u = t := Host.Outcome.next.inj (hu.symm.trans ht)
  rw [hbank] at hstack
  exact absurd hstack (by decide +kernel)

end Sys2Proof.Machine

/-! # Inputs and outputs (R121-R123, R243, R263, R264, R267-R269; O20) -/

namespace Sys2Proof.Machine

/-! ## What the read of a register leaves as it was (R24, R264) -/

/-- What no read of a register changes, in the view of half h: its execution state and windows, the PRT and the DBG. -/
def State.aside (s : State) (h : HalfId) : Exec × Windows × Prt × Dbg := (s.ex h, (s.half h).win, s.prt, s.dbg)

section
variable {s t u v : State} {h g : HalfId} {k : BitVec 5}

@[simp] theorem aside_advance (s : State) (n : Nat) : (advance s n).aside h = s.aside h := by cases h <;> rfl
@[simp] theorem aside_draw (s : State) : s.draw.aside h = s.aside h := by cases h <;> rfl
@[simp] theorem aside_onRng (s : State) (f : Rng → Rng) : (s.onRng f).aside h = s.aside h := by cases h <;> rfl
@[simp] theorem aside_onChan (s : State) (c : BitVec 6) (f : Channel → Channel) : (s.onChan c f).aside h = s.aside h := by
  cases h <;> rfl
@[simp] theorem aside_onDrbg (s : State) (g : HalfId) (f : Drbg → Drbg) : (s.onDrbg g f).aside h = s.aside h := by
  cases g <;> cases h <;> rfl

@[simp] theorem aside_popEntry (s : State) (c : BitVec 6) (inbound : Bool) : (popEntry s c inbound).aside h = s.aside h := by
  simp only [popEntry]
  split <;> simp

@[simp] theorem aside_mbxRead (s : State) (c : BitVec 6) (o : Nat) : OptAll (fun t => t.1.aside h = s.aside h) (mbxRead s c o) := by
  simp [mbxRead]

@[simp] theorem aside_perfRead (s : State) (g : HalfId) (n : Nat) : (perfRead s g n).1.aside h = s.aside h := by
  simp only [perfRead]
  split <;> simp

@[simp] theorem aside_memRead (s : State) (g : HalfId) (k : BitVec 5) (o : Nat) :
    OptAll (fun t => t.1.aside h = s.aside h) (memRead s g k o) := by simp [memRead]

theorem aside_drbgCall (s : State) (g : HalfId) : OptAll (fun t => t.aside h = s.aside h) (drbgCall s g) := by simp [drbgCall]

@[simp] theorem aside_rngOutRead (s : State) (g : HalfId) : (rngOutRead s g).1.aside h = s.aside h := by
  have hcall := aside_drbgCall (h := h) s g
  simp only [rngOutRead]
  split
  · rfl
  · split
    · simp
    · split
      · rfl
      · next hsome => simpa using hcall.of_eq hsome

@[simp] theorem aside_rngRawRead (s : State) : (rngRawRead s).1.aside h = s.aside h := by
  simp only [rngRawRead]
  split <;> simp

@[simp] theorem aside_rngRead (s : State) (g : HalfId) (o : Nat) : OptAll (fun t => t.1.aside h = s.aside h) (rngRead s g o) := by
  simp [rngRead]

@[simp] theorem aside_orZero (s : State) (o : Option (Cell × Cell)) : (orZero s o).1.aside h = s.aside h := rfl

@[simp] theorem aside_orSame {o : Option (State × Cell × Cell)} (ho : OptAll (fun t => t.1.aside h = s.aside h) o) :
    (orSame s o).1.aside h = s.aside h := by
  cases o with
  | none => rfl
  | some t => exact ho

@[simp] theorem aside_keepUnits (s : State) (r : Reader) (a : Nat) : (keepUnits s r a).1.aside h = s.aside h := by
  simp only [keepUnits]
  split_ifs <;> simp

@[simp] theorem aside_halfRead (s : State) (g : HalfId) (r : Reader) (a : Nat) : (halfRead s g r a).1.aside h = s.aside h := by
  simp only [halfRead]
  split_ifs <;> simp

@[simp] theorem aside_ioRead (s : State) (r : Reader) (a : Nat) : (ioRead s r a).1.aside h = s.aside h := by
  simp only [ioRead]
  split_ifs <;> simp

theorem asked_of_aside (e : u.aside h = s.aside h) : Asked s u h := by
  simp only [State.aside, Prod.mk.injEq] at e
  obtain ⟨hex, hwin, hprt, hdbg⟩ := e
  exact ⟨hex, hwin, by rw [hprt], by simp only [State.dbgHalf, hdbg]⟩

/-! ## The register addressed (R55, R100, R210) -/

/-- An offset through C3 of a bank is that of a register which the context may reach. -/
structure Addresses (s : State) (h : HalfId) (b : Bank) (off : Cell) (a : Nat) (r : IoRun) : Prop where
  sum : a = b.c3.base.toNat + off.toNat
  run : ioRun a = some r
  inside : a < 2 ^ 16
  even : r.two = true → a % 2 = 0
  span : 0o140000 ≤ a → spanOpen s h = true
  warden : (r.warden || a == 0o060006 && !s.dbk.tenantPut) = true → stW b.status = true

section
variable {b : Bank} {off : Cell} {a : Nat} {r : IoRun}

theorem Addresses.ioAt (d : Addresses s h b off a r) : Machine.ioAt b off = some r := by
  rw [Machine.ioAt, effAddr, ← d.sum, d.run]

theorem Addresses.width (d : Addresses s h b off a r) : ioWidth b off = if r.two then 2 else 1 := by rw [ioWidth, d.ioAt]

theorem Addresses.mapped (d : Addresses s h b off a r) : ioMapped s h a = 0 := by
  have hspan : (ioFar a && !spanOpen s h) = false := by
    simp only [ioFar, Bool.and_eq_false_iff, decide_eq_false_iff_not, Bool.not_eq_false']
    by_cases hfar : 0o140000 ≤ a
    · exact .inr (d.span hfar)
    · exact .inl hfar
  have hin : ¬2 ^ 16 ≤ a := Nat.not_le.2 d.inside
  rw [ioMapped, d.run, if_neg (by simp only [hin, Option.isNone_some, Bool.false_eq_true, or_self, not_false_eq_true]), hspan]
  rfl

theorem Addresses.open_ (d : Addresses s h b off a r) : ioWardenOnly s b a = false := by
  have hw := d.warden
  simp only [ioWardenOnly, d.run, Option.map_some, Option.getD_some]
  cases hst : stW b.status
  · rw [hst] at hw
    simpa using hw
  · rfl

theorem Addresses.check (d : Addresses s h b off a r) {perm : Nat}
    (hg : grants s h b.c3 spIo perm off.toNat (if r.two then 2 else 1) = true) : checkIo s h b perm off = .ok a := by
  simp only [grants, Bool.and_eq_true, beq_iff_eq, decide_eq_true_eq] at hg
  obtain ⟨⟨⟨⟨htag, hspace⟩, hgen⟩, hperm⟩, hlen⟩ := hg
  have hodd : ioOdd r a = false := by
    have := d.even
    simp only [ioOdd, Bool.and_eq_false_iff, decide_eq_false_iff_not]
    cases htwo : r.two
    · exact .inl rfl
    · exact .inr (by have := this htwo; omega)
  have hst : capStatus b.c3 (s.genOk h b.c3) ⟨3, spIo, perm, false, if r.two then 2 else 1⟩ off.toNat false = 0 := by
    simp only [capStatus, htag, hspace, hgen, hperm, Nat.not_lt.2 hlen]
    rfl
  have hsum : effAddr b.c3 off.toNat = a := d.sum.symm
  simp only [checkIo, d.ioAt, d.width, hsum, hodd, hst, d.mapped, d.open_]
  rfl

end

/-! ## IN (R121, R123, R268, R269) -/

/-- What an IN of a register leaves of the stack in place of its offset. -/
def inStack (two : Bool) (v0 v1 : Cell) (l : List Cell) : List Cell := if two then v1 :: v0 :: l else v0 :: l

/-- An IN that neither waits for an OUT nor for the commons port makes its read. -/
theorem runIn_ready (r : Ready s h k) {d1 d2 : Nat} {off : Cell} {l : List Cell} {a : Nat} {x : IoRun}
    (hds : (s.bank h k).ds = off :: l) (d : Addresses s h (s.bank h k) off a x)
    (hg : grants s h (s.bank h k).c3 spIo pLD off.toNat (if x.two then 2 else 1) = true) (hout : outPending s h k = false)
    (hport : a < 0o100000 → (s.half h).tal.portLost = false) {u : State} {v0 v1 : Cell}
    (hread : inRead (s.bank h k) x.effect d1 d2 s ⟨h, k, (s.bank h k).tenant, stW (s.bank h k).status⟩ a = (u, v0, v1))
    (hwin : (u.half h).win = (s.half h).win) (dst : Pos) :
    runIn d1 d2 s h k (s.bank h k) dst = .done { doneOf (logInput u h .io (cellOf a) k x.effect v0 v1)
      { s.bank h k with ds := inStack x.two v0 v1 l } dst with close := x.effect } := by
  have hat : (s.bank h k).at 0 = off := by simp [Bank.at, hds]
  have hblock : portBlocks s h a = false := by
    simp only [portBlocks, Bool.and_eq_false_iff, decide_eq_false_iff_not]
    by_cases hlow : a < 0o100000
    · exact .inr (hport hlow)
    · exact .inl hlow
  have heff : ioEffect a = x.effect := by simp [ioEffect, d.run]
  have hreq := request_ready r .io (cellOf a) x.effect
    (fun s' => inRead (s.bank h k) x.effect d1 d2 s' ⟨h, k, (s.bank h k).tenant, stW (s.bank h k).status⟩ a) (by rw [hread]; exact hwin)
  have hpush : inPush (s.bank h k) (ioWidth (s.bank h k) off == 2) v0 v1 = { s.bank h k with ds := inStack x.two v0 v1 l } := by
    cases htwo : x.two <;> simp [inPush, inStack, d.width, htwo, hds]
  simp only [runIn, hat, d.check hg, hout, hblock, heff, Bool.or_self, Bool.false_eq_true, if_false, hreq, hread, hpush]

theorem opIn_ready {d1 d2 : Nat} {off : Cell} {l : List Cell} {a : Nat} {x : IoRun} (hds : (s.bank h k).ds = off :: l)
    (hl : l.length ≤ 13) (d : Addresses s h (s.bank h k) off a x) :
    stackFault (s.bank h k) (opIn (s.bank h k) d1 d2).pops (opIn (s.bank h k) d1 d2).pushes = none ∧
      (opIn (s.bank h k) d1 d2).isolated = x.effect := by
  have hat : (s.bank h k).at 0 = off := by simp [Bank.at, hds]
  refine ⟨stackFault_none _ _ _ (by simp [opIn, hds]) ?_, by simp [opIn, hat, d.ioAt]⟩
  simp only [opIn, hat, d.width, hds, List.length_cons]
  split <;> omega

/-- A read without an effect is logged (R263). -/
theorem in_logged (r : Ready s h k) {d1 d2 : Nat} {off : Cell} {l : List Cell} {a : Nat} {x : IoRun}
    (hds : (s.bank h k).ds = off :: l) (hl : l.length ≤ 13) (d : Addresses s h (s.bank h k) off a x)
    (hg : grants s h (s.bank h k).c3 spIo pLD off.toNat (if x.two then 2 else 1) = true) (hout : outPending s h k = false)
    (hport : a < 0o100000 → (s.half h).tal.portLost = false) (heff : x.effect = false) {u : State} {v0 v1 : Cell}
    (hread : inRead (s.bank h k) x.effect d1 d2 s ⟨h, k, (s.bank h k).tenant, stW (s.bank h k).status⟩ a = (u, v0, v1))
    (haside : u.aside h = s.aside h) :
    RetiresLogged (.inp ⟨h, d1, d2⟩) s (logged u h k .io (BitVec.ofNat 36 a) v0 v1) h k
      { s.bank h k with ds := inStack x.two v0 v1 l } (slotsOn (s.bank h k).resume 1) := by
  have hasked := asked_of_aside haside
  have hrun := runIn_ready r hds d hg hout hport hread hasked.win
  obtain ⟨hst, hiso⟩ := opIn_ready (d1 := d1) (d2 := d2) hds hl d
  rw [heff] at hrun hiso
  exact attempt_logged r (rep := false) (enc := noEnc) (f := simpleForm) (o := opIn (s.bank h k) d1 d2) hasked
    (by rw [← curBank_eq r.run]; rfl) rfl rfl hiso hst (hrun _)

/-- A read with an effect is logged and its window closed (R264, R269). -/
theorem in_isolated (r : Ready s h k) {d1 d2 : Nat} {off : Cell} {l : List Cell} {a : Nat} {x : IoRun}
    (hds : (s.bank h k).ds = off :: l) (hl : l.length ≤ 13) (d : Addresses s h (s.bank h k) off a x)
    (hg : grants s h (s.bank h k).c3 spIo pLD off.toNat (if x.two then 2 else 1) = true) (hout : outPending s h k = false)
    (hport : a < 0o100000 → (s.half h).tal.portLost = false) (heff : x.effect = true) (hfresh : freshWindow s h) {u : State} {v0 v1 : Cell}
    (hread : ioRead s ⟨h, k, (s.bank h k).tenant, stW (s.bank h k).status⟩ a = (u, v0, v1)) (haside : u.aside h = s.aside h) :
    RetiresClosing (.inp ⟨h, d1, d2⟩) s u h k { s.bank h k with ds := inStack x.two v0 v1 l } (slotsOn (s.bank h k).resume 1) := by
  have hasked := asked_of_aside haside
  have hrun := runIn_ready r (d1 := d1) (d2 := d2) hds d hg hout hport (by
    rw [inRead, heff, Bool.not_true, Bool.and_false, if_neg Bool.false_ne_true]
    exact hread) hasked.win
  obtain ⟨hst, hiso⟩ := opIn_ready (d1 := d1) (d2 := d2) hds hl d
  rw [heff] at hrun
  have hclosing := attempt_closing r (rep := false) (enc := noEnc) (f := simpleForm) (o := opIn (s.bank h k) d1 d2) (snap := none) (l := [])
    (u := logInput u h .io (cellOf a) k true v0 v1) (c := .inp ⟨h, d1, d2⟩) (by rw [← curBank_eq r.run]; rfl) rfl rfl (fun _ => hfresh) hst (hrun _)
    (hasked.poised r .io (cellOf a) v0 v1 true) (by simp [storesOverflow]) (by simp [storesFit])
  rw [takeAll_none] at hclosing
  exact (hclosing.of_onWin fun _ => rfl).mono fun _ _ => trivial

/-! ## Exchange mode (R268) -/

theorem majority3_eq {x y z v : Cell}
    (hv : ∀ j, v.getLsbD j = ((x.getLsbD j && y.getLsbD j) || (x.getLsbD j && z.getLsbD j) || (y.getLsbD j && z.getLsbD j))) :
    majority3 x y z = v :=
  BitVec.eq_of_getLsbD_eq fun j _ => by simp only [majority3, BitVec.getLsbD_or, BitVec.getLsbD_and, hv]

/-- The three samples of an exchange leave what a read leaves. -/
theorem exchangeRead_eq {s u u₁ u₂ : State} {r : Reader} {a d1 d2 : Nat} {v0 v1 x0 x1 y0 y1 z0 z1 : Cell}
    (hu : ioRead s r a = (u, v0, v1)) (hu₁ : ioRead (advance u d1) r a = (u₁, x0, x1)) (hu₂ : ioRead (advance u₁ d2) r a = (u₂, y0, y1))
    (h0 : majority3 v0 x0 y0 = z0) (h1 : majority3 v1 x1 y1 = z1) : exchangeRead s r a d1 d2 = (u₂, z0, z1) := by
  simp only [exchangeRead, hu, hu₁, hu₂, h0, h1]

theorem aside_of_ioRead {r : Reader} {a : Nat} {v0 v1 : Cell} (hu : ioRead s r a = (u, v0, v1)) : u.aside h = s.aside h := by
  have := aside_ioRead (h := h) s r a
  rwa [hu] at this

/-! ## OUT (R122, R123, R194, R243) -/

/-- The window closes behind an OUT, whose cells stand in the store buffer. -/
theorem out_retires (r : Ready s h k) {off v0 : Cell} {l : List Cell} {a n : Nat} {x : IoRun} (hn : n = if x.two then 2 else 1)
    (hoff : (s.bank h k).at 0 = off) (hfirst : (if x.two then (s.bank h k).at 2 else (s.bank h k).at 1) = v0)
    (hlen : (s.bank h k).ds.length = n + 1 + l.length) (hl : l.length ≤ 13) (hdrop : (s.bank h k).ds.drop (n + 1) = l)
    (d : Addresses s h (s.bank h k) off a x) (hg : grants s h (s.bank h k).c3 spIo pST off.toNat n = true)
    (hlocked : outLocked s h a n v0 = false) (hroom : roomFor8 s h 2 = true) :
    RetiresClosing (.outp h) s (buffered s h k (outSnap s h (s.bank h k) a v0)
        ((outStores a x.two v0 ((s.bank h k).at 1)).map fun c => (c.target, c.data, c.tag, c.link))) h k
      { s.bank h k with ds := l } (slotsOn (s.bank h k).resume 1) := by
  subst hn
  have hcheck := d.check hg
  have htwo : ((if x.two then 2 else 1 : Nat) == 2) = x.two := by cases x.two <;> rfl
  have hrun : runOut s h k (s.bank h k) (slotsOn (s.bank h k).resume 1) =
      .done { doneStores s { s.bank h k with ds := l } (slotsOn (s.bank h k).resume 1) (outSnap s h (s.bank h k) a v0)
        (outStores a x.two v0 ((s.bank h k).at 1)) with close := true } := by
    simp only [runOut, hoff, hcheck, d.width, htwo, hfirst, hlocked, hdrop, Bool.false_eq_true, if_false]
    rfl
  have hst : stackFault (s.bank h k) (opOut (s.bank h k)).pops (opOut (s.bank h k)).pushes = none := by
    refine stackFault_none _ _ _ ?_ ?_ <;> simp only [opOut, hoff, d.width, hlen] <;> omega
  have hmany : (outStores a x.two v0 ((s.bank h k).at 1)).length ≤ 2 := by
    cases htwo : x.two <;> simp [outStores]
  have hhits (num : Cell) (e : SbEntry) : ∀ c ∈ outStores a x.two v0 ((s.bank h k).at 1), c.hits num e = false := by
    cases htwo : x.two <;> simp [outStores, StoreCell.hits]
  have hclosing := attempt_closing r (c := .outp h) (rep := false) (enc := noEnc) (f := simpleForm) (o := opOut (s.bank h k))
    (by rw [← curBank_eq r.run]; rfl) rfl rfl (fun hiso => Bool.noConfusion hiso) hst hrun r.poised
    (storesOverflow_of_room hroom hmany) (storesFit_of_room hroom hmany)
  rw [buffered_eq s h k _ _ (fun c hc e _ => hhits _ e c hc)
    (List.pairwise_iff_forall_sublist.2 fun hsub => hhits _ _ _ (hsub.subset (by simp)))] at hclosing
  exact hclosing.mono fun _ _ => trivial

theorem out_one_retires (r : Ready s h k) {off v0 : Cell} {l : List Cell} {a : Nat} {x : IoRun} (htwo : x.two = false)
    (hds : (s.bank h k).ds = off :: v0 :: l) (hl : l.length ≤ 13) (d : Addresses s h (s.bank h k) off a x)
    (hg : grants s h (s.bank h k).c3 spIo pST off.toNat (if x.two then 2 else 1) = true)
    (hlocked : outLocked s h a (if x.two then 2 else 1) v0 = false) (hroom : roomFor8 s h 2 = true) :
    RetiresClosing (.outp h) s (buffered s h k (outSnap s h (s.bank h k) a v0) [(.io (BitVec.ofNat 16 a), v0, false, .single)]) h k
      { s.bank h k with ds := l } (slotsOn (s.bank h k).resume 1) := by
  have := out_retires r rfl (by simp [Bank.at, hds]) (by simp [Bank.at, hds, htwo]) (by simp [hds, htwo]; omega) hl (by simp [hds, htwo])
    d hg hlocked hroom
  rwa [htwo] at this

theorem out_two_retires (r : Ready s h k) {off v0 v1 : Cell} {l : List Cell} {a : Nat} {x : IoRun} (htwo : x.two = true)
    (hds : (s.bank h k).ds = off :: v1 :: v0 :: l) (hl : l.length ≤ 13) (d : Addresses s h (s.bank h k) off a x)
    (hg : grants s h (s.bank h k).c3 spIo pST off.toNat (if x.two then 2 else 1) = true)
    (hlocked : outLocked s h a (if x.two then 2 else 1) v0 = false) (hroom : roomFor8 s h 2 = true) :
    RetiresClosing (.outp h) s (buffered s h k (outSnap s h (s.bank h k) a v0)
        [(.io (BitVec.ofNat 16 a), v0, false, .first), (.io (BitVec.ofNat 16 (a + 1)), v1, false, .second)]) h k
      { s.bank h k with ds := l } (slotsOn (s.bank h k).resume 1) := by
  have := out_retires r rfl (by simp [Bank.at, hds]) (by simp [Bank.at, hds, htwo]) (by simp [hds, htwo]; omega) hl (by simp [hds, htwo])
    d hg hlocked hroom
  rwa [htwo, show (s.bank h k).at 1 = v1 by simp [Bank.at, hds]] at this

/-- Settles O20: the reads of registers by `in_logged` and `in_isolated`, the writes by `out_one_retires` and `out_two_retires`. -/
theorem inputsAndOutputs : Obligations.InputsAndOutputs := by
  intro s i k off v0 v1 l a x hs hl h b dst w me pushed voted ha hrun hin heven hspan hwarden
  have r := steady_ready hs
  have d : Addresses s h b off a x := ⟨ha, hrun, hin, heven, hspan, hwarden⟩
  refine ⟨fun hds hg hout hport u hu => ⟨fun heff hplain => ?_, fun heff hexch u₁ u₂ x0 x1 y0 y1 z0 z1 hu₁ hu₂ h0 h1 => ?_,
    fun heff hfresh => in_isolated r hds hl d hg hout hport heff hfresh hu (aside_of_ioRead hu)⟩,
    fun hg hlocked hroom => ⟨fun htwo hds => out_one_retires r htwo hds hl d hg hlocked hroom,
      fun htwo hds => out_two_retires r htwo hds hl d hg hlocked hroom⟩⟩
  · refine in_logged r hds hl d hg hout hport heff ?_ (aside_of_ioRead hu)
    rw [inRead, hplain, Bool.false_and, if_neg Bool.false_ne_true]
    exact hu
  · refine in_logged r hds hl d hg hout hport heff (u := u₂) ?_ ?_
    · rw [inRead, hexch, heff, Bool.not_false, Bool.and_true, if_pos rfl]
      exact exchangeRead_eq hu hu₁ hu₂ (majority3_eq h0) (majority3_eq h1)
    · rw [aside_of_ioRead hu₂, aside_advance, aside_of_ioRead hu₁, aside_advance, aside_of_ioRead hu]

end

end Sys2Proof.Machine
